-- ==== Sys2Proof/Word.lean ====
section
/-! DEFINITION. The word types of the Dytrum DV480 (R9, R12), the packing of lanes into 512-bit values, and the
sparse maps that hold numbered state. A map lists only the entries that differ from what was loaded or reset;
an unlisted key reads as the default the reader passes. -/

namespace Sys2Proof

/-- A 32-bit word: a scalar register, a lane, an instruction word. -/
abbrev Word := BitVec 32
/-- A 512-bit value of 16 lanes: a vector register or the data of a token (R12). -/
abbrev Vec := BitVec 512
/-- One bit per lane: a predicate, an effective mask, the valid bits of a token. -/
abbrev Mask := BitVec 16
/-- The exception flags in FLG order: SAT, NV, DZ, OF, UF, NX from bit 5 to bit 0 (R24). -/
abbrev Flags := BitVec 6

/-- Bits [32l+31:32l] of a value (R12). -/
def lane (v : Vec) (l : Nat) : Word := v.extractLsb' (32 * l) 32

/-- Element `i` of width `w` in the little-endian order of R37. -/
def elemOf (w : Nat) (v : Vec) (i : Nat) : BitVec w := v.extractLsb' (w * i) w

/-- The value whose first `n` elements of width `w` are `f 0`, `f 1`, … and whose other bits are zero. -/
def pack (w : Nat) (f : Nat → BitVec w) : Nat → Vec
  | 0 => 0#512
  | n + 1 => pack w f n ||| ((f n).setWidth 512 <<< (w * n))

/-- The value whose lane `l` is `f l`. -/
def ofLanes (f : Nat → Word) : Vec := pack 32 f 16

/-- A scalar read as a vector: the same 32 bits in every lane (R20). -/
def splat (w : Word) : Vec := ofLanes (fun _ => w)

/-- The mask whose bit `l` is `f l`, for the first `n` lanes. -/
def packMask (f : Nat → Bool) : Nat → Mask
  | 0 => 0#16
  | n + 1 => packMask f n ||| (if f n then 1#16 <<< n else 0#16)

/-- The mask whose bit `l` is `f l`. -/
def ofMask (f : Nat → Bool) : Mask := packMask f 16

/-- `a` in the lanes that the mask has on, `b` in the others. -/
def blend (m : Mask) (a b : Vec) : Vec := ofLanes (fun l => if m.getLsbD l then lane a l else lane b l)

/-- At least one lane is on. -/
def anyOn (m : Mask) : Bool := m != 0#16

/-- A mask of all lanes on or all lanes off. -/
def fullMask (b : Bool) : Mask := if b then 0xFFFF#16 else 0#16

/-- Sparse numbered state: key and value pairs with strictly rising keys. -/
abbrev Map (α : Type) := List (Nat × α)

/-- The value at a key, or the default where the key is not listed. -/
def mget {α : Type} (d : α) : Map α → Nat → α
  | [], _ => d
  | (k', v) :: r, k => if k' = k then v else mget d r k

/-- The value at a key where one is listed. -/
def mfind {α : Type} : Map α → Nat → Option α
  | [], _ => none
  | (k', v) :: r, k => if k' = k then some v else mfind r k

/-- Lists a value at a key, in key order. -/
def mset {α : Type} : Map α → Nat → α → Map α
  | [], k, v => [(k, v)]
  | (k', v') :: r, k, v =>
    if k < k' then (k, v) :: (k', v') :: r
    else if k' = k then (k, v) :: r
    else (k', v') :: mset r k v

/-- Removes a key. -/
def mdel {α : Type} (m : Map α) (k : Nat) : Map α := m.filter (fun p => p.1 != k)

/-- Changes the value at a key. -/
def mmod {α : Type} (d : α) (m : Map α) (k : Nat) (f : α → α) : Map α := mset m k (f (mget d m k))

/-- The low `n` bits of a natural number. -/
def lowBits (n x : Nat) : Nat := x % 2 ^ n

/-- Bits [hi:lo] of a natural number. -/
def bitsOf (x hi lo : Nat) : Nat := x / 2 ^ lo % 2 ^ (hi + 1 - lo)

/-- Bits [n-1:0] of a natural number read as two's complement: `sext` of R36. -/
def sextNat (x n : Nat) : Int :=
  let y := lowBits n x
  if y < 2 ^ (n - 1) then (y : Int) else (y : Int) - 2 ^ n

/-- The low `n` bits of an integer. -/
def wrapInt (x : Int) (n : Nat) : Nat := (x % (2 ^ n : Int)).toNat

end Sys2Proof
end

