-- ==== Sys2Proof/Syntax.lean ====
section
/-! DEFINITION. The syntax of the machine: the triplet of a vector-element instruction (R60 to R65, R69 to R71), the
token that ports carry (R77), and the one inductive of steps, one constructor per row of the opcode table. -/

namespace Sys2Proof

/-- How the route word, the register-address word and a literal come to an instruction (R60, R69, R71). -/
inductive Form where
  /-- The 32-bit form: both words come from the held words HRW and HAW. -/
  | short
  /-- The 64-bit form, which writes the held words. -/
  | mid (rtw raw : BitVec 16)
  /-- The 96-bit form with its literal. -/
  | long (rtw raw : BitVec 16) (lit : Word)
  /-- A ring-mode triplet, read from the three rings. -/
  | ring (rtw raw : BitVec 16)
deriving DecidableEq, Repr

/-- The fields of the operation word but for MAJ (R61), the turn gap, and the form (R71). -/
structure Op where
  var : BitVec 3
  pred : BitVec 3
  pinv : Bool
  acls : BitVec 3
  bcls : BitVec 3
  dcls : BitVec 3
  gap : BitVec 6
  form : Form
deriving DecidableEq, Repr

/-- A token: 512 data bits, 16 valid bits (R77) and the poison mark that travels with it (R326). -/
structure Token where
  data : Vec
  valid : Mask
  poison : Bool
deriving DecidableEq, Repr

/-- The operands of an event, held in the state while it runs; each event's constructor says which it uses. The
compiled form of an inductive type admits fewer constructors with fields than the table has rows, so an event's
constructor carries none. -/
structure Arg where
  a : Nat
  b : Nat
  c : Nat
  d : Nat
  e : Nat
  tok : Token
  v : Vec
  i : List Int
  bytes : List (BitVec 8)
deriving DecidableEq, Repr

/-- No operand. -/
def Arg.none : Arg :=
  { a := 0, b := 0, c := 0, d := 0, e := 0, tok := { data := 0, valid := 0, poison := false }, v := 0, i := [], bytes := [] }

/-- Operands that are numbers. -/
def Arg.of (a b c d e : Nat) : Arg := { Arg.none with a := a, b := b, c := c, d := d, e := e }

/-- The steps of the DV480, one constructor per row of the opcode table: the vector-element instructions (R85 to R94),
the Teller commands (R202) and the events. -/
inductive Instr where
  /-- NOP (R106). -/
  | nop (op : Op)
  /-- BR (R102). -/
  | br (op : Op)
  /-- BRS (R103). -/
  | brs (op : Op)
  /-- CALL (R104). -/
  | callI (op : Op)
  /-- RET (R104). -/
  | retI (op : Op)
  /-- LOOP (R105). -/
  | loopI (op : Op)
  /-- DONE (R107). -/
  | doneI (op : Op)
  /-- DONE_ABANDON (R108). -/
  | doneAbandon (op : Op)
  /-- YIELD (R109). -/
  | yieldI (op : Op)
  /-- SAFE (R109). -/
  | safeI (op : Op)
  /-- PSET (R110). -/
  | pset (op : Op)
  /-- PLOG (R111). -/
  | plog (op : Op)
  /-- PCNT (R112). -/
  | pcnt (op : Op)
  /-- MFSR (R227). -/
  | mfsr (op : Op)
  /-- MTSR (R228). -/
  | mtsr (op : Op)
  /-- TRAP (R229). -/
  | trapI (op : Op)
  /-- RTE (R230). -/
  | rte (op : Op)
  /-- WAITT_TICK (R232). -/
  | waittTick (op : Op)
  /-- WAITT_MCNT (R232). -/
  | waittMcnt (op : Op)
  /-- COURSE (R233). -/
  | course (op : Op)
  /-- LAUNCH (R234). -/
  | launch (op : Op)
  /-- HOPS (R235). -/
  | hops (op : Op)
  /-- VDQ (R235). -/
  | vdq (op : Op)
  /-- SIGN (R236). -/
  | sign (op : Op)
  /-- ASSAY_ARM (R237). -/
  | assayArm (op : Op)
  /-- ASSAY_CLR (R237). -/
  | assayClr (op : Op)
  /-- AUDIT (R238). -/
  | audit (op : Op)
  /-- ESCROW_GRANT (R239). -/
  | escrowGrant (op : Op)
  /-- ESCROW_REVOKE (R239). -/
  | escrowRevoke (op : Op)
  /-- ESCROW_DRAIN (R239). -/
  | escrowDrain (op : Op)
  /-- GENUP (R240). -/
  | genup (op : Op)
  /-- REMAP (R241). -/
  | remap (op : Op)
  /-- CFG_OPEN (R397). -/
  | cfgOpen (op : Op)
  /-- CFG_WR (R397). -/
  | cfgWr (op : Op)
  /-- CFG_SEAL (R397). -/
  | cfgSeal (op : Op)
  /-- CFG_CLEAR (R397). -/
  | cfgClear (op : Op)
  /-- VRFY (R398). -/
  | vrfy (op : Op)
  /-- HBT (R402). -/
  | hbt (op : Op)
  /-- IADD (R113). -/
  | iadd (op : Op)
  /-- ISUB (R113). -/
  | isub (op : Op)
  /-- IMUL (R113). -/
  | imul (op : Op)
  /-- DIV (R114). -/
  | divI (op : Op)
  /-- REM (R114). -/
  | remI (op : Op)
  /-- IABS (R113). -/
  | iabs (op : Op)
  /-- INEG (R113). -/
  | ineg (op : Op)
  /-- IMIN (R113). -/
  | imin (op : Op)
  /-- IMAX (R113). -/
  | imax (op : Op)
  /-- AND (R115). -/
  | andI (op : Op)
  /-- OR (R115). -/
  | orI (op : Op)
  /-- XOR (R115). -/
  | xorI (op : Op)
  /-- ANDN (R115). -/
  | andn (op : Op)
  /-- ORN (R115). -/
  | orn (op : Op)
  /-- SHL (R115). -/
  | shl (op : Op)
  /-- SHR (R115). -/
  | shr (op : Op)
  /-- ASR (R115). -/
  | asr (op : Op)
  /-- ROL (R115). -/
  | rol (op : Op)
  /-- CLZ (R115). -/
  | clz (op : Op)
  /-- CTZ (R115). -/
  | ctz (op : Op)
  /-- POPC (R115). -/
  | popc (op : Op)
  /-- BREV (R115). -/
  | brev (op : Op)
  /-- BFX (R116). -/
  | bfx (op : Op)
  /-- BFI (R116). -/
  | bfi (op : Op)
  /-- SEL (R117). -/
  | sel (op : Op)
  /-- MOV (R118). -/
  | movI (op : Op)
  /-- ICMP (R119). -/
  | icmp (op : Op)
  /-- ICMPU (R119). -/
  | icmpu (op : Op)
  /-- FADD (R122). -/
  | fadd (op : Op)
  /-- FSUB (R122). -/
  | fsub (op : Op)
  /-- FMUL (R122). -/
  | fmul (op : Op)
  /-- FMIN (R122). -/
  | fmin (op : Op)
  /-- FMAX (R122). -/
  | fmax (op : Op)
  /-- FSGN (R124). -/
  | fsgn (op : Op)
  /-- FFMA (R123). -/
  | ffma (op : Op)
  /-- FDIV (R122). -/
  | fdiv (op : Op)
  /-- FSQRT (R122). -/
  | fsqrt (op : Op)
  /-- FRCP (R128). -/
  | frcp (op : Op)
  /-- FRSQ (R129). -/
  | frsq (op : Op)
  /-- FEXP2 (R131). -/
  | fexp2 (op : Op)
  /-- FLOG2 (R130). -/
  | flog2 (op : Op)
  /-- FCMP (R125). -/
  | fcmp (op : Op)
  /-- FCLASS (R126). -/
  | fclass (op : Op)
  /-- HADD (R132). -/
  | hadd (op : Op)
  /-- HSUB (R132). -/
  | hsub (op : Op)
  /-- HMUL (R132). -/
  | hmul (op : Op)
  /-- HFMA (R132). -/
  | hfma (op : Op)
  /-- HMIN (R132). -/
  | hmin (op : Op)
  /-- HMAX (R132). -/
  | hmax (op : Op)
  /-- HCMP (R134). -/
  | hcmp (op : Op)
  /-- HDOT (R133). -/
  | hdot (op : Op)
  /-- CVTF (R135). -/
  | cvtf (op : Op)
  /-- CVTI (R135). -/
  | cvti (op : Op)
  /-- CVTH (R135). -/
  | cvth (op : Op)
  /-- CVTBI (R135). -/
  | cvtbi (op : Op)
  /-- CVTHI (R135). -/
  | cvthi (op : Op)
  /-- CVTIB (R135). -/
  | cvtib (op : Op)
  /-- CVTIH (R135). -/
  | cvtih (op : Op)
  /-- NARW (R135). -/
  | narw (op : Op)
  /-- QBLK (R137). -/
  | qblk (op : Op)
  /-- QBLK_TOKEN_RELEASE (R138). Operands of the event: a: element; b: block number; c: token 0 to 32. -/
  | qblkTokenRelease
  /-- DQBLK (R136). -/
  | dqblk (op : Op)
  /-- SHUF (R140). -/
  | shuf (op : Op)
  /-- BCAST (R140). -/
  | bcast (op : Op)
  /-- ROTL (R140). -/
  | rotl (op : Op)
  /-- LSH (R140). -/
  | lsh (op : Op)
  /-- INTLV (R140). -/
  | intlv (op : Op)
  /-- COMPR (R141). -/
  | compr (op : Op)
  /-- REDADD (R142). -/
  | redadd (op : Op)
  /-- REDMIN (R142). -/
  | redmin (op : Op)
  /-- REDMAX (R142). -/
  | redmax (op : Op)
  /-- REDLOG (R142). -/
  | redlog (op : Op)
  /-- LD (R148). -/
  | ld (op : Op)
  /-- ST (R148). -/
  | st (op : Op)
  /-- LDA (R152). -/
  | lda (op : Op)
  /-- STRL (R151). -/
  | strl (op : Op)
  /-- FENCE (R150). -/
  | fence (op : Op)
  /-- PREF (R154). -/
  | pref (op : Op)
  /-- TMSEL (R164). -/
  | tmsel (op : Op)
  /-- SPORT_ARM (R164). -/
  | sportArm (op : Op)
  /-- SPORT_STOP (R164). -/
  | sportStop (op : Op)
  /-- SPORT_REWIND (R164). -/
  | sportRewind (op : Op)
  /-- SPSTAT (R164). -/
  | spstat (op : Op)
  /-- SPWIN (R165). -/
  | spwin (op : Op)
  /-- CBND (R156). -/
  | cbnd (op : Op)
  /-- CRGT (R156). -/
  | crgt (op : Op)
  /-- CMOV (R156). -/
  | cmov (op : Op)
  /-- CGET (R157). -/
  | cget (op : Op)
  /-- CCHK (R158). -/
  | cchk (op : Op)
  /-- AADD (R159). -/
  | aadd (op : Op)
  /-- ASUB (R159). -/
  | asub (op : Op)
  /-- AAND (R159). -/
  | aand (op : Op)
  /-- AOR (R159). -/
  | aor (op : Op)
  /-- AXOR (R159). -/
  | axor (op : Op)
  /-- AMIN (R159). -/
  | amin (op : Op)
  /-- AMAX (R159). -/
  | amax (op : Op)
  /-- AXCH (R159). -/
  | axch (op : Op)
  /-- ACAS (R159). -/
  | acas (op : Op)
  /-- AFADD (R159). -/
  | afadd (op : Op)
  /-- BAR_ARV (R167). -/
  | barArv (op : Op)
  /-- BAR_ARVW (R167). -/
  | barArvw (op : Op)
  /-- BAR_WAIT (R167). -/
  | barWait (op : Op)
  /-- BAR_PH (R167). -/
  | barPh (op : Op)
  /-- CTR_ADD (R168). -/
  | ctrAdd (op : Op)
  /-- CTR_ARVX (R168). -/
  | ctrArvx (op : Op)
  /-- CTR_WAIT (R169). -/
  | ctrWait (op : Op)
  /-- CTR_RD (R169). -/
  | ctrRd (op : Op)
  /-- EVWAIT_WAIT (R172). -/
  | evwaitWait (op : Op)
  /-- EVWAIT_PEEK (R172). -/
  | evwaitPeek (op : Op)
  /-- EVPOST (R172). -/
  | evpost (op : Op)
  /-- EVENT_RECORD_DEFERRED_ENQUEUE (R172). Operands of the event: a: tile. -/
  | eventRecordDeferredEnqueue
  /-- MINT (R174). -/
  | mint (op : Op)
  /-- MSEED (R174). -/
  | mseed (op : Op)
  /-- MXARM (R186). -/
  | mxarm (op : Op)
  /-- MXWLD (R186). -/
  | mxwld (op : Op)
  /-- MXACT (R186). -/
  | mxact (op : Op)
  /-- MXDRN (R186). -/
  | mxdrn (op : Op)
  /-- MXNORM (R186). -/
  | mxnorm (op : Op)
  /-- MXQUAD (R186). -/
  | mxquad (op : Op)
  /-- MXSTAT (R186). -/
  | mxstat (op : Op)
  /-- MXRPR (R186). -/
  | mxrpr (op : Op)
  /-- MXTAB (R186). -/
  | mxtab (op : Op)
  /-- MXSTOP (R186). -/
  | mxstop (op : Op)
  /-- LWGT (R195). -/
  | lwgt (op : Op)
  /-- LBIAS (R195). -/
  | lbias (op : Op)
  /-- LBETA (R195). -/
  | lbeta (op : Op)
  /-- LSEED (R195). -/
  | lseed (op : Op)
  /-- LCLAMP (R195). -/
  | lclamp (op : Op)
  /-- LFREE (R195). -/
  | lfree (op : Op)
  /-- LSWEEP (R195). -/
  | lsweep (op : Op)
  /-- LMAG (R195). -/
  | lmag (op : Op)
  /-- LREAD (R195). -/
  | lread (op : Op)
  /-- LREAD_ME (R195). -/
  | lreadMe (op : Op)
  /-- LSTAT (R195). -/
  | lstat (op : Op)
  /-- CPY (R215). -/
  | cpy (op : Op)
  /-- CPYAT (R215). -/
  | cpyat (op : Op)
  /-- CPYQ (R215). -/
  | cpyq (op : Op)
  /-- CPYX (R215). -/
  | cpyx (op : Op)
  /-- TMPLW (R215). -/
  | tmplw (op : Op)
  /-- CPYB (R215). -/
  | cpyb (op : Op)
  /-- RESULT_COMPLETION (R86). Operands of the event: a: slot; b: sequence number; c: the cause of a TRAP whose stop takes effect, else 0. -/
  | resultCompletion
  /-- TOKEN_CIRCUIT_ARRIVAL (R265). Operands of the event: a: input queue; tok: the token. -/
  | tokenCircuitArrival
  /-- ME_STREAM_INPUT_TOKEN (R295). Operands of the event: a: memory element; b: pushing slot; tok: the token. -/
  | meStreamInputToken
  /-- W_KIND_HOLD_RELEASE (R153). Operands of the event: a: slot. -/
  | wKindHoldRelease
  /-- HOLD_OVERRUN (R153). Operands of the event: a: slot. -/
  | holdOverrun
  /-- ILLEGAL_WORD_ISSUE (R96). Operands of the event: a: slot. -/
  | illegalWordIssue
  /-- BANK_ACCESS_PERFORM (R147). Operands of the event: a: the access; b: 0 its bank read, 1 its performance. -/
  | bankAccessPerform
  /-- STRL_HELD_PERFORM (R151). Operands of the event: a: the access. -/
  | strlHeldPerform
  /-- READ_WALK_TOKEN_PRESENT (R295). Operands of the event: a: the port; b: its walk; c: 0 a token is requested, 1 a token from the port's own ME has been read, 2 tokens that have come are presented. -/
  | readWalkTokenPresent
  /-- WRITE_WALK_TOKEN_PERFORM (R295). Operands of the event: a: the port; b: the token's number. -/
  | writeWalkTokenPerform
  /-- WRITE_PORT_UN_FLUSH (R295). Operands of the event: a: the port; b: 0, or 1 more than the number of a token that takes the banks. -/
  | writePortUnFlush
  /-- TRANSLATION_WALK_COMPLETE (R293). Operands of the event: a: tile. -/
  | translationWalkComplete
  /-- OBJECT_CACHE_FILL (R288). Operands of the event: a: tile; b: context; c: object. -/
  | objectCacheFill
  /-- VAULT_BANK_EVENT (R285). Operands of the event: a: request. -/
  | vaultBankEvent
  /-- VAULT_READ_REPLY (R285). Operands of the event: a: request; b: 0 the token of a read, 1 the end of a write; tok: the token. -/
  | vaultReadReply
  /-- MATRIX_TABLE_FIRE (R179). Operands of the event: a: tile. -/
  | matrixTableFire
  /-- MATRIX_WLD (R181). Operands of the event: a: tile; b: 0 it begins, else block b − 1 is written; d: bank. -/
  | matrixWld
  /-- MATRIX_WEIGHT_TOKEN_WRITE (R181). Operands of the event: a: tile; b: token; c: 0 popped, 1 written; d: bank. -/
  | matrixWeightTokenWrite
  /-- MATRIX_ACT (R181). Operands of the event: a: tile; b: 0 it begins, else group b − 1. -/
  | matrixAct
  /-- MATRIX_QUAD (R184). Operands of the event: a: tile; b: 0 it begins, else group b − 1. -/
  | matrixQuad
  /-- MATRIX_ACTIVATION_POP (R181). Operands of the event: a: tile; b: 0 a token from each port, 1 a group's space is free. -/
  | matrixActivationPop
  /-- MATRIX_GROUP_APPLY (R181). Operands of the event: a: tile; b: group. -/
  | matrixGroupApply
  /-- MATRIX_DRN_MX (R181). Operands of the event: a: tile. -/
  | matrixDrnMx
  /-- MATRIX_DRN_ROW_PUSH (R181). Operands of the event: a: tile; b: row. -/
  | matrixDrnRowPush
  /-- MATRIX_DRN_RAW (R181). Operands of the event: a: tile; b: 0 it begins, else 64 bytes b − 1. -/
  | matrixDrnRaw
  /-- MATRIX_NORM (R183). Operands of the event: a: tile. -/
  | matrixNorm
  /-- MATRIX_COMMAND_COMPLETE (R181). Operands of the event: a: tile; b: kind; c: bank of a WLD. -/
  | matrixCommandComplete
  /-- MATRIX_OPERAND_LATE (R182). Operands of the event: a: tile; c: group or weight token. -/
  | matrixOperandLate
  /-- MATRIX_OPERAND_ARRIVED (R182). Operands of the event: a: tile. -/
  | matrixOperandArrived
  /-- MATRIX_ROW_PROGRESS_STOP (R185). Operands of the event: a: tile. -/
  | matrixRowProgressStop
  /-- LODESTONE_COMMAND_BEGIN (R196). Operands of the event: a: tile. -/
  | lodestoneCommandBegin
  /-- LODESTONE_COLOUR_UPDATE (R192). Operands of the event: a: tile; b: colour. -/
  | lodestoneColourUpdate
  /-- LODESTONE_COMMAND_COMPLETE (R195). Operands of the event: a: tile. -/
  | lodestoneCommandComplete
  /-- TELLER_RUN_POST (R219). Operands of the event: a: Teller; b: copy or program; c: repeat or slot; d: 0 a copy's repeat, 1 an upkeep program. -/
  | tellerRunPost
  /-- TELLER_RUN_START (R219). Operands of the event: a: Teller; b: run. -/
  | tellerRunStart
  /-- TELLER_CEND (R202). -/
  | tellerCend (off : BitVec 9)
  /-- TELLER_ACT (R202). -/
  | tellerAct (off : BitVec 9) (bank : BitVec 4) (row : BitVec 14)
  /-- TELLER_RD (R202). -/
  | tellerRd (off : BitVec 9) (bank : BitVec 4) (col : BitVec 6)
  /-- TELLER_RDA (R202). -/
  | tellerRda (off : BitVec 9) (bank : BitVec 4) (col : BitVec 6)
  /-- TELLER_WR (R202). -/
  | tellerWr (off : BitVec 9) (bank : BitVec 4) (col : BitVec 6)
  /-- TELLER_WRA (R202). -/
  | tellerWra (off : BitVec 9) (bank : BitVec 4) (col : BitVec 6)
  /-- TELLER_PRE (R202). -/
  | tellerPre (off : BitVec 9) (bank : BitVec 4)
  /-- TELLER_PREA (R202). -/
  | tellerPrea (off : BitVec 9)
  /-- TELLER_REFAB (R209). -/
  | tellerRefab (off : BitVec 9)
  /-- TELLER_REFPB (R209). -/
  | tellerRefpb (off : BitVec 9) (bank : BitVec 4)
  /-- TELLER_MRW (R202). -/
  | tellerMrw (off : BitVec 9) (ma : BitVec 8) (mop : BitVec 8)
  /-- TELLER_MRR (R210). -/
  | tellerMrr (off : BitVec 9) (ma : BitVec 8)
  /-- TELLER_ZQS (R202). -/
  | tellerZqs (off : BitVec 9)
  /-- TELLER_ZQL (R202). -/
  | tellerZql (off : BitVec 9)
  /-- TELLER_READ_DATA_RETURN (R219). Operands of the event: a: Teller; b: copy; c: burst; d: 1 poisoned; v: its bytes. -/
  | tellerReadDataReturn
  /-- TELLER_RUN_END_CHECK (R208). Operands of the event: a: Teller; b: run. -/
  | tellerRunEndCheck
  /-- TELLER_RECOVERY_PRECHARGE (R208). Operands of the event: a: Teller; b: bank. -/
  | tellerRecoveryPrecharge
  /-- TELLER_TIMING_WRITE (R205). Operands of the event: a: Teller; b: register; c: value. -/
  | tellerTimingWrite
  /-- REFRESH_WATCHDOG_TICK (R209). Operands of the event: a: Teller. -/
  | refreshWatchdogTick
  /-- RLAPSE_CLEAR (R209). Operands of the event: a: Teller. -/
  | rlapseClear
  /-- HOST_SLOT_SERVICE (R212). Operands of the event: a: Teller; b: access; c: CK of the slot; d: 0 served, 1 its data is there. -/
  | hostSlotService
  /-- TELLER_STREAM_ACCESS (R281). Operands of the event: a: Teller; b: request or context; c: 0 a request arrives, 1 a context is served, 2 the data of a request is there. -/
  | tellerStreamAccess
  /-- BTE_DEFERRED_ACCEPT (R216). Operands of the event: a: tile; e: 1 an aperture start (b: channel, c: template, d: slot, i: the store's number), 0 one that waits. -/
  | bteDeferredAccept
  /-- COPY_BEGIN (R214). Operands of the event: a: copy. -/
  | copyBegin
  /-- COPY_TOKEN_READ (R218). Operands of the event: a: copy; b: 0 it begins, 1 at another tile's ME, 2 read, 3 come back; c: token. -/
  | copyTokenRead
  /-- COPY_TOKEN_WRITE (R218). Operands of the event: a: copy; b: 0 it begins, 1 at its ME, 2 performed there, 3 a burst performed in DRAM, 4 held at its Teller; c: token or address; v: a burst's data. -/
  | copyTokenWrite
  /-- COPY_COMPLETE (R220). Operands of the event: a: copy. -/
  | copyComplete
  /-- DOORBELL_WRITE (R303). Operands of the event: a: context; b: NTAIL. -/
  | doorbellWrite
  /-- SCHEDULER_SCAN (R309). Operands of the event: a: context; b: 0 takes the latch, 1 reads, 2 dispatches. -/
  | schedulerScan
  /-- LOAD_GRAPH_PACKET (R305). Operands of the event: a: ctx; v: pkt. -/
  | loadGraphPacket
  /-- ARM_ALMANAC_PACKET (R305). Operands of the event: a: context; b: 0 read, 1 at A; v: packet. -/
  | armAlmanacPacket
  /-- COURSE_CHANGE_PACKET (R305). Operands of the event: a: ctx; v: pkt. -/
  | courseChangePacket
  /-- LAUNCH_PACKET (R306). Operands of the event: a: ctx; v: pkt. -/
  | launchPacket
  /-- DETERMINISM_LEVEL_PACKET (R267). Operands of the event: a: ctx; v: pkt. -/
  | determinismLevelPacket
  /-- FENCE_PACKET (R305). Operands of the event: a: ctx; v: pkt. -/
  | fencePacket
  /-- POWER_STATE_PACKET (R365). Operands of the event: a: ctx; v: pkt. -/
  | powerStatePacket
  /-- AUDIT_REQUEST_PACKET (R305). Operands of the event: a: ctx; v: pkt. -/
  | auditRequestPacket
  /-- IMAGE_UPDATE_PACKET (R375). Operands of the event: a: ctx; v: pkt. -/
  | imageUpdatePacket
  /-- ESCROW_DECLARATION_PACKET (R305). Operands of the event: a: context; b: 0 read, 1 acts, 2 waits; v: packet. -/
  | escrowDeclarationPacket
  /-- DEVICE_LAUNCH_ARRIVAL (R234). Operands of the event: a: launch; b: 0 leaves, 1 arrives; c: slot; d: its accesses are those before this number; e: parent tile. -/
  | deviceLaunchArrival
  /-- ARM_REQUEST_ARRIVAL (R311). Operands of the event: a: slot; b: launch; c: 0 it reaches the slot, 1 the launch as a whole. -/
  | armRequestArrival
  /-- SLOT_START (R311). Operands of the event: a: slot; b: launch or entry; c: 0 a launch, 1 an Almanac entry; d: start cycle. -/
  | slotStart
  /-- SLOT_DRAIN_COMPLETE (R107). Operands of the event: a: slot. -/
  | slotDrainComplete
  /-- LAUNCH_RETIRE (R312). Operands of the event: a: ctx; b: launch. -/
  | launchRetire
  /-- TASK_END (R313). Operands of the event: a: context; b: launch; c: 512 · STATUS + cause; d: coordinates of a failed element. -/
  | taskEnd
  /-- PREEMPT_REQUEST (R318). Operands of the event: a: ctx; b: launch. -/
  | preemptRequest
  /-- LAUNCH_SAVED (R319). Operands of the event: a: ctx; b: launch. -/
  | launchSaved
  /-- WALKER_ARM (R272). Operands of the event: a: tile; b: entry key; c: frame tick. -/
  | walkerArm
  /-- ENTRY_START (R272). Operands of the event: a: tile; b: e. -/
  | entryStart
  /-- PRIMARY_SAMPLE (R271). Operands of the event: a: tile; b: e. -/
  | primarySample
  /-- ENTRY_DEADLINE (R272). Operands of the event: a: tile; b: e. -/
  | entryDeadline
  /-- DRB_SAMPLE (R272). Operands of the event: a: tile; b: e. -/
  | drbSample
  /-- ENTRY_PUBLICATION (R272). Operands of the event: a: tile; b: e. -/
  | entryPublication
  /-- ASSAY_EARLY_COMPARE (R237). Operands of the event: a: tile; b: group; c: 0 SIGN, 1 CLR, 2 ARM, 3 comparison; v: data; d: entry key. -/
  | assayEarlyCompare
  /-- WAYPOINT_DECISION (R275). Operands of the event: a: context; b: waypoint tick. -/
  | waypointDecision
  /-- COURSE_CHANGE_APPLY (R275). Operands of the event: a: context; b: waypoint tick. -/
  | courseChangeApply
  /-- QUANTUM_BOUNDARY (R278). Operands of the event: a: tile; b: 0 or 1 the end, 2 the start. -/
  | quantumBoundary
  /-- RECONFIGURATION_TOKEN_PASS (R263). Operands of the event: a: tile; b: context; c: logical tile; d: load. -/
  | reconfigurationTokenPass
  /-- AUDIT_RUN (R336). Operands of the event: a: audit; b: target; c: context, 9 DIAG, 10 boot and power; d: 0 a request arrives, 1 the run starts, 2 it ends, 3 the manager tries, 4 intervals begin. -/
  | auditRun
  /-- AUDIT_OVERDUE (R339). Operands of the event: a: audit; b: target. -/
  | auditOverdue
  /-- RTE_ACTION (R230). Operands of the event: a: request. -/
  | rteAction
  /-- GENUP_ARRIVAL (R298). Operands of the event: a: request; b: 0 arrives, 1 credits. -/
  | genupArrival
  /-- HELM_REQUEST_CREDIT (R239). Operands of the event: a: request; b: 0 acts, 1 credits. -/
  | helmRequestCredit
  /-- REMAP_APPLY (R241). Operands of the event: a: request; b: 0 checked, 1 takes effect. -/
  | remapApply
  /-- CFG_PORT_REQUEST (R397). Operands of the event: a: tile; b: 0 served, 1 its record arrives; c: issuing tile; v: record. -/
  | cfgPortRequest
  /-- VERIFY_ENGINE_COMPLETE (R398). Operands of the event: a: tile; b: 0 done, 1 its record arrives; c: A; d: B; e: reason. -/
  | verifyEngineComplete
  /-- FAULT_RECORD_DELIVERY (R323). Operands of the event: a: die; b: 0 leaves, 1 arrives, 2 the handler acts; c: tile of the copy; v: record. -/
  | faultRecordDelivery
  /-- LINK_BEAT_RECEIVE (R347). Operands of the event: a: the packet; b: 0 it is ready at the sending edge, 1 its beat is received, 2 a beat with a token on an unowned pair (a: link; c: slot; d: direction); bytes: the error bits of the beat; i: lanes whose parity failed. -/
  | linkBeatReceive
  /-- LINK_RETRY_SEND (R347). Operands of the event: a: the packet; b: link; c: direction. -/
  | linkRetrySend
  /-- LINK_LANE_REPAIR (R348). Operands of the event: a: link; b: lane to move. -/
  | linkLaneRepair
  /-- MERIDIAN_EXCHANGE (R353). Operands of the event: a: die; b: 0 the exchange, 1 a lost message of the die again. -/
  | meridianExchange
  /-- MERIDIAN_EXCHANGE_RECEIVE (R353). Operands of the event: a: die; b: 0 from the port die, else from die b − 1; c: count; d: losses before; e: 1 this message is lost. -/
  | meridianExchangeReceive
  /-- DIE_REJOIN (R334). Operands of the event: a: die; b: 0 takes a count, 1 is confirmed. -/
  | dieRejoin
  /-- SXOFS_WRITE (R350). Operands of the event: a: OFS. -/
  | sxofsWrite
  /-- PPS_INPUT_EDGE (R349). -/
  | ppsInputEdge
  /-- PTM_SAMPLE (R349). Operands of the event: i: the root's time in ns. -/
  | ptmSample
  /-- SEXTANT_TRIM_TICK (R350). -/
  | sextantTrimTick
  /-- SEXTANT_HOLDOVER_ENTRY (R351). -/
  | sextantHoldoverEntry
  /-- PPS_OUT_RISE (R352). -/
  | ppsOutRise
  /-- PPS_OUT_FALL (R352). -/
  | ppsOutFall
  /-- PTP_FRAME_TIMESTAMP (R352). Operands of the event: a: MAC. -/
  | ptpFrameTimestamp
  /-- TODBASE_WRITE (R352). Operands of the event: a: seconds; b: nanoseconds. -/
  | todbaseWrite
  /-- THERMAL_SENSOR_READ (R335). Operands of the event: e: 0 every sensor, 1 die a with readings b and c. -/
  | thermalSensorRead
  /-- POWER_MEASURE_TICK (R365). -/
  | powerMeasureTick
  /-- CTX_CREATE (R356). Operands of the event: a: context; b: 0 the command, 1 its outcome. -/
  | ctxCreate
  /-- CTX_END (R356). Operands of the event: a: context; b: 0 the command, 1 its outcome. -/
  | ctxEnd
  /-- FUNCTION_LEVEL_RESET (R357). Operands of the event: a: function. -/
  | functionLevelReset
  /-- HOST_VAULT_ACCESS (R360). Operands of the event: a: function; b: window offset; c: 1 a write; d: bytes, 0 for 64; e: tag; v: data. -/
  | hostVaultAccess
  /-- HOST_DRAM_ACCESS (R360). Operands of the event: a: function; b: aperture offset; c: 1 a write; d: bytes, 0 for 64; e: tag; v: data. -/
  | hostDramAccess
  /-- PWRCMD_STANDBY (R367). Operands of the event: b: 0 the command, 1 its effect, 2 its refusal. -/
  | pwrcmdStandby
  /-- PWRCMD_RUN (R367). Operands of the event: a: state 1 to 5; b: 0 the command, 1 its effect, 2 its refusal. -/
  | pwrcmdRun
  /-- PWRCMD_DIAG (R368). Operands of the event: b: 0 the command, 1 its effect, 2 its refusal. -/
  | pwrcmdDiag
  /-- PWRCMD_INVALID (R367). Operands of the event: b: 0 the command, 2 its refusal. -/
  | pwrcmdInvalid
  /-- FUSECMT_WRITE (R373). Operands of the event: a: value. -/
  | fusecmtWrite
  /-- FLASH_WINDOW_WRITE (R369). Operands of the event: a: window offset; b: word; c: width in bytes, 0 for 4. -/
  | flashWindowWrite
  /-- SPDM_GET_VERSION (R363). Operands of the event: bytes: the request. -/
  | spdmGetVersion
  /-- SPDM_GET_CAPABILITIES (R363). Operands of the event: bytes: the request. -/
  | spdmGetCapabilities
  /-- SPDM_NEGOTIATE_ALGORITHMS (R363). Operands of the event: bytes: the request. -/
  | spdmNegotiateAlgorithms
  /-- SPDM_GET_DIGESTS (R363). Operands of the event: bytes: the request. -/
  | spdmGetDigests
  /-- SPDM_GET_CERTIFICATE (R363). Operands of the event: bytes: the request. -/
  | spdmGetCertificate
  /-- SPDM_CHALLENGE (R363). Operands of the event: bytes: the request. -/
  | spdmChallenge
  /-- SPDM_GET_MEASUREMENTS (R364). Operands of the event: bytes: the request. -/
  | spdmGetMeasurements
  /-- SPDM_UNSUPPORTED (R363). Operands of the event: bytes: the request. -/
  | spdmUnsupported
  /-- DOE_DISCOVERY (R363). Operands of the event: bytes: the request. -/
  | doeDiscovery
  /-- BOOT_SEQUENCE (R372). Operands of the event: b: stage; c: 0, or 1 + the slot to boot without a TRY check; d: bit k, the read of slot k does not complete. -/
  | bootSequence
  /-- HEARTBEAT_ARRIVAL (R403). Operands of the event: a: graph; b: die; c: A [15:0]. -/
  | heartbeatArrival
  /-- HEARTBEAT_PERIOD (R373). -/
  | heartbeatPeriod
  /-- BOOT_TRY_TIMEOUT (R373). -/
  | bootTryTimeout
  /-- UPDATE_QUIESCE (R375). -/
  | updateQuiesce
  /-- UPDATE_RELOAD_COMPLETE (R403). -/
  | updateReloadComplete
  /-- UPDATE_HEARTBEAT_DEADLINE (R375). -/
  | updateHeartbeatDeadline
  /-- VAULT_PARTITION_WRITE (R284). Operands of the event: a: die; b: context, 8 the Helm region; c: word. -/
  | vaultPartitionWrite
  /-- REGISTER_WRITE (R9). Operands of the event: a: register; b: word; c: width in bytes, 0 for 4. -/
  | registerWrite
  /-- UPDATE_ROLLBACK_COMPLETE (R375). -/
  | updateRollbackComplete
  /-- SUPPLY_REMOVAL (R365). -/
  | supplyRemoval
deriving DecidableEq, Repr

end Sys2Proof
end

