-- ==== Sys2Proof/WellFormed.lean ====
section
/-! DEFINITION. Well-formedness: the legal variants, class combinations, forms and indices of R20, R63, R85, R98,
R121, R144, R186, R195, R215, R226, R395 and R402. A word that fails a check is an illegal encoding (R95, R96). -/

namespace Sys2Proof

/-- Why a word is not an instruction. -/
inductive IllFormed where
  /-- A reserved length field LEN = 0b11 (R71). -/
  | reservedLength
  /-- Fewer words than the length field asks for. -/
  | truncated
  /-- A ring entry with [31:30] ≠ 0b00 (R69, R95). -/
  | ringReserved
  /-- MAJ appears in no table (R85). -/
  | unassignedMajor
  /-- VAR appears in no row of MAJ (R85). -/
  | unassignedVariant
  /-- A class combination that no row lists (R85). -/
  | classCombination
  /-- A PRED or PINV value that the row forbids (R98, R121). -/
  | predicateField
  /-- A form that the opcode does not have (R98, R121). -/
  | formNotAllowed
  /-- A register index outside its file (R20). -/
  | indexRange
  /-- A special register that is unassigned or not writable (R32). -/
  | specialRegister
  /-- A fused multiply-add without a register addend (R121). -/
  | addend
  /-- HCMP with BIDX[4:3] ≠ 0 or a relation above 5 (R121). -/
  | relation
  /-- An event of the machine, which has no word. -/
  | notAnInstruction
  /-- A Teller operation code that is not assigned (R202). -/
  | tellerOpcode
  /-- A reserved Teller field that is not zero (R202). -/
  | tellerReserved
  /-- A bit length that no instruction has. -/
  | wordLength
deriving DecidableEq, Repr

/-- One row of a table of legal forms: variants, source A, source B and destination classes. -/
structure ClassRow where
  vars : List Nat
  a : List Nat
  b : List Nat
  d : List Nat
deriving DecidableEq, Repr

/-- Legal forms of the major opcodes 0x00 to 0x0F. -/
def forms0 : Nat → List ClassRow
  | 0x0 => [⟨[0], [0], [0], [0]⟩]
  | 0x1 => [⟨[0, 1], [5], [7], [7]⟩]
  | 0x2 => [⟨[0, 1, 2, 3], [1], [5], [7]⟩]
  | 0x3 => [⟨[0], [5], [7], [7]⟩]
  | 0x4 => [⟨[0], [7], [7], [7]⟩]
  | 0x5 => [⟨[0], [1], [5], [7]⟩]
  | 0x6 => [⟨[0], [7], [7], [7]⟩, ⟨[1], [7], [7], [7]⟩]
  | 0x7 => [⟨[0], [7], [7], [7]⟩]
  | 0x8 => [⟨[0], [7], [7], [7]⟩]
  | 0x9 => [⟨[0], [0, 1, 2, 3, 4, 5, 7], [7], [0, 3, 4]⟩]
  | 0xA => [⟨[0, 1, 2, 3], [0], [0], [0, 3, 4]⟩, ⟨[4, 5], [0], [7], [0, 3, 4]⟩]
  | 0xB => [⟨[0], [0], [7], [1, 5]⟩]
  | 0xC => [⟨[0], [7], [7], [0, 1, 2, 3, 4, 5]⟩]
  | 0xD => [⟨[0], [0, 1, 2, 3, 4, 5, 7], [7], [6]⟩]
  | 0xE => [⟨[0], [1, 5], [7], [7]⟩]
  | 0xF => [⟨[0], [1, 5], [1, 5], [7]⟩]
  | _ => []

/-- Legal forms of the major opcodes 0x10 to 0x1F. -/
def forms1 : Nat → List ClassRow
  | 0x0 => [⟨[0], [1, 5], [7], [7]⟩, ⟨[1], [1, 5], [1, 5, 7], [7]⟩]
  | 0x1 => [⟨[0], [1, 5], [7], [7]⟩]
  | 0x2 => [⟨[0], [1, 5], [1, 5, 7], [7]⟩]
  | 0x3 => [⟨[0], [1, 5], [1, 5], [1, 5]⟩]
  | 0x4 => [⟨[0], [1, 5], [7], [1, 5]⟩]
  | 0x5 => [⟨[0], [0, 1, 2, 3, 4, 5], [7], [7]⟩]
  | 0x6 => [⟨[0], [1, 5], [7], [7]⟩, ⟨[1], [1, 5], [7], [7]⟩]
  | 0x7 => [⟨[0], [1, 5], [7], [7]⟩]
  | 0x8 => [⟨[0], [1, 5], [0, 2, 4], [7]⟩, ⟨[1], [1, 5], [0, 2, 4], [7]⟩, ⟨[2], [1, 5], [0, 2, 4], [7]⟩]
  | 0x9 => [⟨[0], [1, 5], [1, 5], [7]⟩]
  | 0xA => [⟨[0], [1, 5], [0, 2, 4], [7]⟩]
  | 0xB => [⟨[0], [1, 5], [1, 5], [7]⟩, ⟨[1], [1, 5], [0, 2, 4], [7]⟩, ⟨[2], [1, 5], [1, 5], [7]⟩, ⟨[3], [1, 5], [7], [7]⟩]
  | 0xC => [⟨[0], [1, 5], [1, 5], [7]⟩]
  | 0xD => [⟨[0], [1, 5], [7], [7]⟩]
  | _ => []

/-- Legal forms of the major opcodes 0x20 to 0x2F. -/
def forms2 : Nat → List ClassRow
  | 0x0 => [⟨[0, 1, 2], [0, 1, 2, 3, 4, 5, 7], [0, 1, 2, 3, 4, 5, 7], [0, 1, 2, 3, 4, 5]⟩]
  | 0x1 => [⟨[0, 1, 2], [0, 1, 2, 3, 4, 5, 7], [0, 1, 2, 3, 4, 5, 7], [0, 1, 2, 3, 4, 5]⟩]
  | 0x2 => [⟨[0, 1, 2, 3], [0, 1, 2, 3, 4, 5, 7], [0, 1, 2, 3, 4, 5, 7], [0, 1, 2, 3, 4, 5]⟩]
  | 0x3 => [⟨[0, 1], [0, 1, 2, 3, 4, 5, 7], [0, 1, 2, 3, 4, 5, 7], [0, 1, 2, 3, 4, 5]⟩]
  | 0x4 => [⟨[0, 1], [0, 1, 2, 3, 4, 5, 7], [0, 1, 2, 3, 4, 5, 7], [0, 1, 2, 3, 4, 5]⟩]
  | 0x5 => [⟨[0, 1], [0, 1, 2, 3, 4, 5, 7], [7], [0, 1, 2, 3, 4, 5]⟩]
  | 0x6 => [⟨[0, 1], [0, 1, 2, 3, 4, 5, 7], [7], [0, 1, 2, 3, 4, 5]⟩]
  | 0x7 => [⟨[0, 1], [0, 1, 2, 3, 4, 5, 7], [0, 1, 2, 3, 4, 5, 7], [0, 1, 2, 3, 4, 5]⟩]
  | 0x8 => [⟨[0, 1], [0, 1, 2, 3, 4, 5, 7], [0, 1, 2, 3, 4, 5, 7], [0, 1, 2, 3, 4, 5]⟩]
  | 0x9 => [⟨[0], [0, 1, 2, 3, 4, 5, 7], [0, 1, 2, 3, 4, 5, 7], [0, 1, 2, 3, 4, 5]⟩]
  | 0xA => [⟨[0], [0, 1, 2, 3, 4, 5, 7], [0, 1, 2, 3, 4, 5, 7], [0, 1, 2, 3, 4, 5]⟩]
  | 0xB => [⟨[0], [0, 1, 2, 3, 4, 5, 7], [0, 1, 2, 3, 4, 5, 7], [0, 1, 2, 3, 4, 5]⟩]
  | 0xC => [⟨[0], [0, 1, 2, 3, 4, 5, 7], [0, 1, 2, 3, 4, 5, 7], [0, 1, 2, 3, 4, 5]⟩]
  | 0xD => [⟨[0], [0, 1, 2, 3, 4, 5, 7], [0, 1, 2, 3, 4, 5, 7], [0, 1, 2, 3, 4, 5]⟩]
  | 0xE => [⟨[0], [0, 1, 2, 3, 4, 5, 7], [0, 1, 2, 3, 4, 5, 7], [0, 1, 2, 3, 4, 5]⟩]
  | 0xF => [⟨[0], [0, 1, 2, 3, 4, 5, 7], [0, 1, 2, 3, 4, 5, 7], [0, 1, 2, 3, 4, 5]⟩]
  | _ => []

/-- Legal forms of the major opcodes 0x30 to 0x3F. -/
def forms3 : Nat → List ClassRow
  | 0x0 => [⟨[0], [0, 1, 2, 3, 4, 5, 7], [0, 1, 2, 3, 4, 5, 7], [0, 1, 2, 3, 4, 5]⟩]
  | 0x1 => [⟨[0], [0, 1, 2, 3, 4, 5, 7], [0, 1, 2, 3, 4, 5, 7], [0, 1, 2, 3, 4, 5]⟩]
  | 0x2 => [⟨[0], [0, 1, 2, 3, 4, 5, 7], [7], [0, 1, 2, 3, 4, 5]⟩]
  | 0x3 => [⟨[0], [0, 1, 2, 3, 4, 5, 7], [7], [0, 1, 2, 3, 4, 5]⟩]
  | 0x4 => [⟨[0], [0, 1, 2, 3, 4, 5, 7], [7], [0, 1, 2, 3, 4, 5]⟩]
  | 0x5 => [⟨[0], [0, 1, 2, 3, 4, 5, 7], [7], [0, 1, 2, 3, 4, 5]⟩]
  | 0x6 => [⟨[0, 1], [0, 1, 2, 3, 4, 5, 7], [0, 1, 2, 3, 4, 5, 7], [0, 1, 2, 3, 4, 5]⟩]
  | 0x7 => [⟨[0], [0, 1, 2, 3, 4, 5, 7], [0, 1, 2, 3, 4, 5, 7], [0, 1, 2, 4, 5]⟩]
  | 0x8 => [⟨[0], [0, 1, 2, 3, 4, 5, 7], [0, 1, 2, 3, 4, 5, 7], [0, 1, 2, 3, 4, 5]⟩]
  | 0x9 => [⟨[0], [0, 1, 2, 3, 4, 5, 7], [7], [0, 1, 2, 3, 4, 5, 6]⟩]
  | 0xA => [⟨[0, 1, 2, 3, 4, 5], [0, 1, 2, 3, 4, 5, 7], [0, 1, 2, 3, 4, 5, 7], [0, 3, 4]⟩]
  | 0xB => [⟨[0, 1, 2, 3, 4, 5], [0, 1, 2, 3, 4, 5, 7], [0, 1, 2, 3, 4, 5, 7], [0, 3, 4]⟩]
  | _ => []

/-- Legal forms of the major opcodes 0x50 to 0x5F. -/
def forms5 : Nat → List ClassRow
  | 0x0 => [⟨[0], [0, 1, 2, 3, 4, 5, 7], [0, 1, 2, 3, 4, 5, 7], [0, 1, 2, 3, 4, 5]⟩]
  | 0x1 => [⟨[0], [0, 1, 2, 3, 4, 5, 7], [0, 1, 2, 3, 4, 5, 7], [0, 1, 2, 3, 4, 5]⟩]
  | 0x2 => [⟨[0], [0, 1, 2, 3, 4, 5, 7], [0, 1, 2, 3, 4, 5, 7], [0, 1, 2, 3, 4, 5]⟩]
  | 0x3 => [⟨[0], [0, 1, 2, 3, 4, 5, 7], [0, 1, 2, 3, 4, 5, 7], [0, 1, 2, 3, 4, 5]⟩]
  | 0x4 => [⟨[0], [0, 1, 2, 3, 4, 5, 7], [0, 1, 2, 3, 4, 5, 7], [0, 1, 2, 3, 4, 5]⟩]
  | 0x5 => [⟨[0, 1], [0, 1, 2, 3, 4, 5, 7], [7], [0, 1, 2, 3, 4, 5]⟩, ⟨[2], [0, 1, 2, 3, 4, 5, 7], [0, 1, 2, 3, 4, 5, 7], [0, 1, 2, 3, 4, 5]⟩]
  | 0x6 => [⟨[0, 1, 2], [0, 1, 2, 3, 4, 5, 7], [0, 1, 2, 3, 4, 5, 7], [0, 1, 2, 3, 4, 5]⟩]
  | 0x7 => [⟨[0], [0, 1, 2, 3, 4, 5, 7], [0, 1, 2, 3, 4, 5, 7], [0, 1, 2, 3, 4, 5]⟩]
  | 0x8 => [⟨[0], [0, 1, 2, 3, 4, 5, 7], [7], [0, 1, 2, 3, 4, 5]⟩]
  | 0x9 => [⟨[0], [0, 1, 2, 3, 4, 5, 7], [7], [0, 1, 2, 3, 4, 5]⟩]
  | 0xA => [⟨[0], [0, 1, 2, 3, 4, 5, 7], [7], [0, 1, 2, 3, 4, 5]⟩]
  | 0xB => [⟨[0], [0, 1, 2, 3, 4, 5, 7], [7], [0, 1, 2, 3, 4, 5]⟩]
  | 0xC => [⟨[0], [0, 1, 2, 3, 4, 5, 7], [7], [0, 1, 2, 3, 4, 5]⟩]
  | 0xD => [⟨[0, 1, 2, 3, 4, 5, 6], [0, 1, 2, 3, 4, 5, 7], [0, 1, 2, 3, 4, 5, 7], [0, 3, 4]⟩]
  | 0xE => [⟨[0], [0, 1, 2, 3, 4, 5, 7], [7], [0, 1, 2, 3, 4, 5]⟩]
  | _ => []

/-- Legal forms of the major opcodes 0x60 to 0x6F. -/
def forms6 : Nat → List ClassRow
  | 0x0 => [⟨[0, 1], [0, 1, 2, 3, 4, 5, 7], [0, 1, 2, 3, 4, 5, 7], [0, 1, 2, 3, 4, 5]⟩]
  | 0x1 => [⟨[0, 1], [0, 1, 2, 3, 4, 5, 7], [0, 1, 2, 3, 4, 5, 7], [0, 1, 2, 3, 4, 5]⟩]
  | 0x2 => [⟨[0, 1], [0, 1, 2, 3, 4, 5, 7], [0, 1, 2, 3, 4, 5, 7], [0, 1, 2, 3, 4, 5]⟩]
  | 0x3 => [⟨[0, 1], [0, 1, 2, 3, 4, 5, 7], [0, 1, 2, 3, 4, 5, 7], [0, 1, 2, 3, 4, 5]⟩]
  | 0x4 => [⟨[0, 1], [0, 1, 2, 3, 4, 5, 7], [0, 1, 2, 3, 4, 5, 7], [0, 1, 2, 3, 4, 5]⟩]
  | 0x5 => [⟨[0, 1], [0, 1, 2, 3, 4, 5, 7], [0, 1, 2, 3, 4, 5, 7], [0, 1, 2, 3, 4, 5]⟩]
  | 0x6 => [⟨[0, 1], [0, 1, 2, 3, 4, 5, 7], [4, 5, 7], [0, 1, 2, 3, 4, 5]⟩]
  | 0x7 => [⟨[0, 1], [0, 1, 2, 3, 4, 5, 7], [0, 1, 2, 3, 4, 5, 7], [0, 1, 2, 4, 5]⟩]
  | _ => []

/-- Legal forms of the major opcodes 0x80 to 0x8F. -/
def forms8 : Nat → List ClassRow
  | 0x0 => [⟨[0, 1, 2, 3, 4, 5], [0, 1, 2, 3, 4, 5, 7], [7], [0, 1, 2, 3, 4, 5]⟩]
  | 0x1 => [⟨[0, 1, 2, 3, 4, 5], [0, 1, 2, 3, 4, 5, 7], [7], [0, 1, 2, 3, 4, 5]⟩]
  | 0x2 => [⟨[0, 1, 2, 3, 4, 5], [0, 1, 2, 3, 4, 5, 7], [7], [0, 1, 2, 3, 4, 5]⟩]
  | 0x3 => [⟨[0, 1, 2, 3, 4, 5], [0, 1, 2, 3, 4, 5, 7], [7], [0, 1, 2, 3, 4, 5]⟩]
  | 0x4 => [⟨[0, 1, 2, 3, 4, 5], [0, 1, 2, 3, 4, 5, 7], [7], [0, 1, 2, 3, 4, 5]⟩]
  | 0x5 => [⟨[0, 1, 2, 3, 4, 5], [0, 1, 2, 3, 4, 5, 7], [7], [0, 1, 2, 3, 4, 5]⟩]
  | 0x6 => [⟨[0, 1, 2, 3, 4, 5], [0, 1, 2, 3, 4, 5, 7], [7], [0, 1, 2, 3, 4, 5]⟩]
  | 0x7 => [⟨[0, 1, 2, 3, 4, 5], [0, 1, 2, 3, 4, 5, 7], [7], [0, 1, 2, 3, 4, 5]⟩]
  | 0x8 => [⟨[0, 1, 2, 3, 4, 5, 6], [0, 1, 2, 3, 4, 5, 7], [7], [3]⟩]
  | 0x9 => [⟨[0, 1, 2, 3, 4, 5, 6], [0, 1, 2, 3, 4, 5, 7], [0, 1, 2, 3, 4, 5, 7], [0, 1, 2, 3, 4, 5]⟩]
  | _ => []

/-- Legal forms of the major opcodes 0x90 to 0x9F. -/
def forms9 : Nat → List ClassRow
  | 0x0 => [⟨[0], [0, 1, 2, 3, 4, 5, 7], [0, 1, 2, 3, 4, 5, 7], [0, 2, 3, 4]⟩]
  | 0x1 => [⟨[0], [0, 1, 2, 3, 4, 5, 7], [0, 1, 2, 3, 4, 5, 7], [0, 2, 3, 4]⟩]
  | 0x2 => [⟨[0], [0, 1, 2, 3, 4, 5, 7], [0, 1, 2, 3, 4, 5, 7], [0, 2, 3, 4]⟩]
  | 0x3 => [⟨[0, 1], [0, 1, 2, 3, 4, 5, 7], [0, 1, 2, 3, 4, 5, 7], [0, 2, 3, 4]⟩]
  | 0x4 => [⟨[0, 1, 2], [0, 1, 2, 3, 4, 5, 7], [7], [0, 1, 2, 3, 4, 5]⟩]
  | 0x5 => [⟨[0, 1, 2], [0, 1, 2, 3, 4, 5, 7], [7], [0, 1, 2, 3, 4, 5]⟩]
  | 0x6 => [⟨[0, 1, 2], [0, 1, 2, 3, 4, 5, 7], [7], [0, 1, 2, 3, 4, 5]⟩]
  | 0x7 => [⟨[0, 1, 2], [0, 1, 2, 3, 4, 5, 7], [7], [0, 1, 2, 3, 4, 5]⟩]
  | 0x8 => [⟨[0], [0, 1, 2, 3, 4, 5, 7], [7], [0, 2, 3, 4]⟩]
  | 0x9 => [⟨[0, 1], [0, 1, 2, 3, 4, 5, 7], [0, 1, 2, 3, 4, 5, 7], [0, 2, 3, 4]⟩]
  | _ => []

/-- Legal forms of the major opcodes 0xA0 to 0xAF. -/
def formsA : Nat → List ClassRow
  | 0x0 => [⟨[0, 1, 2, 3], [6], [5, 7], [0, 1, 2, 3, 4, 5]⟩]
  | 0x1 => [⟨[0, 1, 2, 3], [6], [0, 1, 2, 3, 4, 5], [7]⟩]
  | 0x2 => [⟨[0, 1, 2, 3, 4], [6], [5, 7], [0, 1, 2, 3, 4, 5]⟩]
  | 0x3 => [⟨[0, 1, 2, 3, 4], [6], [0, 1, 2, 3, 4, 5], [7]⟩]
  | 0x4 => [⟨[0, 1, 2, 3, 4], [7], [7], [7]⟩]
  | 0x5 => [⟨[0], [1, 5], [7], [7]⟩, ⟨[1], [1, 5], [7], [7]⟩, ⟨[2], [1, 5], [7], [7]⟩]
  | 0x6 => [⟨[0], [1, 5], [1, 5], [7]⟩]
  | 0x7 => [⟨[0], [1, 5], [7], [1, 5]⟩]
  | 0x8 => [⟨[0, 1, 2], [6], [0, 1, 2, 3, 4, 5], [0]⟩]
  | 0x9 => [⟨[0], [6], [1, 5], [0]⟩]
  | 0xA => [⟨[0, 1, 2, 3, 4], [6], [7], [1, 5]⟩]
  | 0xB => [⟨[0], [6], [7], [0]⟩]
  | 0xC => [⟨[0, 1], [6], [0, 1, 2, 3, 4, 5], [0, 3, 4]⟩]
  | 0xD => [⟨[0], [6], [5, 7], [7]⟩]
  | 0xE => [⟨[0], [1, 5], [0, 2], [7]⟩]
  | _ => []

/-- Legal forms of the major opcodes 0xB0 to 0xBF. -/
def formsB : Nat → List ClassRow
  | 0x0 => [⟨[0], [6], [0, 1, 2, 3, 4, 5, 7], [7]⟩, ⟨[1], [6], [0, 1, 2, 3, 4, 5, 7], [1, 5]⟩]
  | 0x1 => [⟨[0], [6], [0, 1, 2, 3, 4, 5, 7], [7]⟩, ⟨[1], [6], [0, 1, 2, 3, 4, 5, 7], [1, 5]⟩]
  | 0x2 => [⟨[0], [6], [0, 1, 2, 3, 4, 5, 7], [7]⟩, ⟨[1], [6], [0, 1, 2, 3, 4, 5, 7], [1, 5]⟩]
  | 0x3 => [⟨[0], [6], [0, 1, 2, 3, 4, 5, 7], [7]⟩, ⟨[1], [6], [0, 1, 2, 3, 4, 5, 7], [1, 5]⟩]
  | 0x4 => [⟨[0], [6], [0, 1, 2, 3, 4, 5, 7], [7]⟩, ⟨[1], [6], [0, 1, 2, 3, 4, 5, 7], [1, 5]⟩]
  | 0x5 => [⟨[0, 1], [6], [0, 1, 2, 3, 4, 5, 7], [7]⟩, ⟨[2, 3], [6], [0, 1, 2, 3, 4, 5, 7], [1, 5]⟩]
  | 0x6 => [⟨[0, 1], [6], [0, 1, 2, 3, 4, 5, 7], [7]⟩, ⟨[2, 3], [6], [0, 1, 2, 3, 4, 5, 7], [1, 5]⟩]
  | 0x7 => [⟨[0], [6], [0, 1, 2, 3, 4, 5, 7], [7]⟩, ⟨[1], [6], [0, 1, 2, 3, 4, 5, 7], [1, 5]⟩]
  | 0x8 => [⟨[0], [6], [0, 1, 2, 3, 4, 5, 7], [1, 5]⟩]
  | 0x9 => [⟨[0], [6], [0, 1, 2, 3, 4, 5, 7], [7]⟩, ⟨[1], [6], [0, 1, 2, 3, 4, 5, 7], [1, 5]⟩]
  | _ => []

/-- Legal forms of the major opcodes 0xC0 to 0xCF. -/
def formsC : Nat → List ClassRow
  | 0x0 => [⟨[0], [1, 5], [7], [7]⟩, ⟨[1], [1, 5], [1, 5, 7], [7]⟩, ⟨[2], [1, 5], [7], [7]⟩, ⟨[3], [1, 5], [7], [1, 5]⟩]
  | 0x1 => [⟨[0], [1, 5], [1, 5], [7]⟩, ⟨[1], [1, 5], [1, 5], [7]⟩, ⟨[2], [1, 5], [1, 5, 7], [7]⟩, ⟨[3], [1, 5], [7], [1, 5]⟩]
  | 0x2 => [⟨[0], [7], [7], [7]⟩, ⟨[1], [7], [7], [1, 5]⟩]
  | 0x3 => [⟨[0], [0, 2, 3, 4], [7], [7]⟩]
  | 0x4 => [⟨[0, 1, 2, 3], [0, 1, 2, 3, 4, 5, 7], [0, 1, 2, 3, 4, 5, 7], [0, 1, 2, 3, 4, 5]⟩]
  | 0x5 => [⟨[0, 1], [1, 5, 7], [1, 5, 7], [7]⟩]
  | _ => []

/-- Legal forms of the major opcodes 0xD0 to 0xDF. -/
def formsD : Nat → List ClassRow
  | 0x0 => [⟨[0], [1, 5], [1, 5], [7]⟩]
  | 0x1 => [⟨[0], [1, 5], [1, 5], [7]⟩]
  | 0x2 => [⟨[0], [1, 5], [1, 5], [7]⟩]
  | 0x3 => [⟨[0], [1, 5], [1, 5], [7]⟩]
  | 0x4 => [⟨[0], [1, 5], [1, 5], [7]⟩]
  | 0x5 => [⟨[0], [1, 5], [1, 5], [7]⟩]
  | 0x6 => [⟨[0], [7], [7], [1, 5]⟩]
  | 0x7 => [⟨[0], [7], [7], [1, 5]⟩]
  | 0x8 => [⟨[0], [1, 5], [0, 2], [7]⟩]
  | 0x9 => [⟨[0], [7], [7], [7]⟩]
  | _ => []

/-- Legal forms of the major opcodes 0xE0 to 0xEF. -/
def formsE : Nat → List ClassRow
  | 0x0 => [⟨[0], [6], [1, 5], [7]⟩]
  | 0x1 => [⟨[0], [6], [1, 5], [7]⟩]
  | 0x2 => [⟨[0], [1, 5], [7], [7]⟩, ⟨[1], [1, 5], [1, 5, 7], [7]⟩]
  | 0x3 => [⟨[0], [0, 2, 3, 4], [1, 5], [7]⟩, ⟨[1], [0, 2, 3, 4], [1, 5], [7]⟩]
  | 0x4 => [⟨[0], [1, 5], [1, 5, 7], [7]⟩]
  | 0x5 => [⟨[0], [1, 5], [1, 5, 7], [7]⟩]
  | 0x6 => [⟨[0], [1, 5], [7], [0, 2, 3, 4]⟩, ⟨[1], [6], [1, 5, 7], [7]⟩]
  | 0x7 => [⟨[0], [7], [7], [1, 5]⟩]
  | 0x8 => [⟨[0], [1, 5], [1, 5], [7]⟩]
  | 0x9 => [⟨[0], [1, 5], [1, 5], [7]⟩]
  | 0xA => [⟨[0], [1, 5], [7], [1, 5]⟩]
  | 0xB => [⟨[0], [1, 5], [0, 2, 4], [7]⟩]
  | 0xC => [⟨[0], [1, 5], [0, 2, 4], [7]⟩]
  | 0xD => [⟨[0], [1, 5], [7], [7]⟩]
  | _ => []

/-- The legal forms of a major opcode; none for an unassigned one (R85, "Unassigned encodings"). -/
def formsOf (maj : Nat) : List ClassRow :=
  match maj / 16 with
  | 0x0 => forms0 (maj % 16)
  | 0x1 => forms1 (maj % 16)
  | 0x2 => forms2 (maj % 16)
  | 0x3 => forms3 (maj % 16)
  | 0x5 => forms5 (maj % 16)
  | 0x6 => forms6 (maj % 16)
  | 0x8 => forms8 (maj % 16)
  | 0x9 => forms9 (maj % 16)
  | 0xA => formsA (maj % 16)
  | 0xB => formsB (maj % 16)
  | 0xC => formsC (maj % 16)
  | 0xD => formsD (maj % 16)
  | 0xE => formsE (maj % 16)
  | _ => []

/-- The major opcode and the triplet fields of a vector-element instruction. -/
def veView : Instr → Option (Nat × Op)
  | .nop op => some (0x00, op)
  | .br op => some (0x01, op)
  | .brs op => some (0x02, op)
  | .callI op => some (0x03, op)
  | .retI op => some (0x04, op)
  | .loopI op => some (0x05, op)
  | .doneI op => some (0x06, op)
  | .doneAbandon op => some (0x06, op)
  | .yieldI op => some (0x07, op)
  | .safeI op => some (0x08, op)
  | .pset op => some (0x09, op)
  | .plog op => some (0x0A, op)
  | .pcnt op => some (0x0B, op)
  | .mfsr op => some (0x0C, op)
  | .mtsr op => some (0x0D, op)
  | .trapI op => some (0x0E, op)
  | .rte op => some (0x0F, op)
  | .waittTick op => some (0x10, op)
  | .waittMcnt op => some (0x10, op)
  | .course op => some (0x11, op)
  | .launch op => some (0x12, op)
  | .hops op => some (0x13, op)
  | .vdq op => some (0x14, op)
  | .sign op => some (0x15, op)
  | .assayArm op => some (0x16, op)
  | .assayClr op => some (0x16, op)
  | .audit op => some (0x17, op)
  | .escrowGrant op => some (0x18, op)
  | .escrowRevoke op => some (0x18, op)
  | .escrowDrain op => some (0x18, op)
  | .genup op => some (0x19, op)
  | .remap op => some (0x1A, op)
  | .cfgOpen op => some (0x1B, op)
  | .cfgWr op => some (0x1B, op)
  | .cfgSeal op => some (0x1B, op)
  | .cfgClear op => some (0x1B, op)
  | .vrfy op => some (0x1C, op)
  | .hbt op => some (0x1D, op)
  | .iadd op => some (0x20, op)
  | .isub op => some (0x21, op)
  | .imul op => some (0x22, op)
  | .divI op => some (0x23, op)
  | .remI op => some (0x24, op)
  | .iabs op => some (0x25, op)
  | .ineg op => some (0x26, op)
  | .imin op => some (0x27, op)
  | .imax op => some (0x28, op)
  | .andI op => some (0x29, op)
  | .orI op => some (0x2A, op)
  | .xorI op => some (0x2B, op)
  | .andn op => some (0x2C, op)
  | .orn op => some (0x2D, op)
  | .shl op => some (0x2E, op)
  | .shr op => some (0x2F, op)
  | .asr op => some (0x30, op)
  | .rol op => some (0x31, op)
  | .clz op => some (0x32, op)
  | .ctz op => some (0x33, op)
  | .popc op => some (0x34, op)
  | .brev op => some (0x35, op)
  | .bfx op => some (0x36, op)
  | .bfi op => some (0x37, op)
  | .sel op => some (0x38, op)
  | .movI op => some (0x39, op)
  | .icmp op => some (0x3A, op)
  | .icmpu op => some (0x3B, op)
  | .fadd op => some (0x50, op)
  | .fsub op => some (0x51, op)
  | .fmul op => some (0x52, op)
  | .fmin op => some (0x53, op)
  | .fmax op => some (0x54, op)
  | .fsgn op => some (0x55, op)
  | .ffma op => some (0x56, op)
  | .fdiv op => some (0x57, op)
  | .fsqrt op => some (0x58, op)
  | .frcp op => some (0x59, op)
  | .frsq op => some (0x5A, op)
  | .fexp2 op => some (0x5B, op)
  | .flog2 op => some (0x5C, op)
  | .fcmp op => some (0x5D, op)
  | .fclass op => some (0x5E, op)
  | .hadd op => some (0x60, op)
  | .hsub op => some (0x61, op)
  | .hmul op => some (0x62, op)
  | .hfma op => some (0x63, op)
  | .hmin op => some (0x64, op)
  | .hmax op => some (0x65, op)
  | .hcmp op => some (0x66, op)
  | .hdot op => some (0x67, op)
  | .cvtf op => some (0x80, op)
  | .cvti op => some (0x81, op)
  | .cvth op => some (0x82, op)
  | .cvtbi op => some (0x83, op)
  | .cvthi op => some (0x84, op)
  | .cvtib op => some (0x85, op)
  | .cvtih op => some (0x86, op)
  | .narw op => some (0x87, op)
  | .qblk op => some (0x88, op)
  | .dqblk op => some (0x89, op)
  | .shuf op => some (0x90, op)
  | .bcast op => some (0x91, op)
  | .rotl op => some (0x92, op)
  | .lsh op => some (0x93, op)
  | .intlv op => some (0x99, op)
  | .compr op => some (0x98, op)
  | .redadd op => some (0x94, op)
  | .redmin op => some (0x95, op)
  | .redmax op => some (0x96, op)
  | .redlog op => some (0x97, op)
  | .ld op => some (0xA0, op)
  | .st op => some (0xA1, op)
  | .lda op => some (0xA2, op)
  | .strl op => some (0xA3, op)
  | .fence op => some (0xA4, op)
  | .sportArm op => some (0xA5, op)
  | .sportStop op => some (0xA5, op)
  | .sportRewind op => some (0xA5, op)
  | .tmsel op => some (0xA6, op)
  | .spstat op => some (0xA7, op)
  | .pref op => some (0xAD, op)
  | .spwin op => some (0xAE, op)
  | .cbnd op => some (0xA8, op)
  | .crgt op => some (0xA9, op)
  | .cmov op => some (0xAB, op)
  | .cget op => some (0xAA, op)
  | .cchk op => some (0xAC, op)
  | .aadd op => some (0xB0, op)
  | .asub op => some (0xB1, op)
  | .aand op => some (0xB2, op)
  | .aor op => some (0xB3, op)
  | .axor op => some (0xB4, op)
  | .amin op => some (0xB5, op)
  | .amax op => some (0xB6, op)
  | .axch op => some (0xB7, op)
  | .acas op => some (0xB8, op)
  | .afadd op => some (0xB9, op)
  | .barArv op => some (0xC0, op)
  | .barWait op => some (0xC0, op)
  | .barArvw op => some (0xC0, op)
  | .barPh op => some (0xC0, op)
  | .ctrAdd op => some (0xC1, op)
  | .ctrArvx op => some (0xC1, op)
  | .ctrWait op => some (0xC1, op)
  | .ctrRd op => some (0xC1, op)
  | .evwaitWait op => some (0xC2, op)
  | .evwaitPeek op => some (0xC2, op)
  | .evpost op => some (0xC3, op)
  | .mint op => some (0xC4, op)
  | .mseed op => some (0xC5, op)
  | .mxarm op => some (0xD0, op)
  | .mxwld op => some (0xD1, op)
  | .mxact op => some (0xD2, op)
  | .mxdrn op => some (0xD3, op)
  | .mxnorm op => some (0xD4, op)
  | .mxquad op => some (0xD5, op)
  | .mxstat op => some (0xD6, op)
  | .mxrpr op => some (0xD7, op)
  | .mxtab op => some (0xD8, op)
  | .mxstop op => some (0xD9, op)
  | .lwgt op => some (0xE0, op)
  | .lbias op => some (0xE1, op)
  | .lbeta op => some (0xE2, op)
  | .lseed op => some (0xE2, op)
  | .lclamp op => some (0xE3, op)
  | .lfree op => some (0xE3, op)
  | .lsweep op => some (0xE4, op)
  | .lmag op => some (0xE5, op)
  | .lread op => some (0xE6, op)
  | .lreadMe op => some (0xE6, op)
  | .lstat op => some (0xE7, op)
  | .cpy op => some (0xE8, op)
  | .cpyat op => some (0xE9, op)
  | .cpyq op => some (0xEA, op)
  | .cpyx op => some (0xEB, op)
  | .tmplw op => some (0xEC, op)
  | .cpyb op => some (0xED, op)
  | _ => none

/-- The literal form (R75). -/
def Op.isLong (op : Op) : Bool :=
  match op.form with
  | .long _ _ _ => true
  | _ => false

/-- A ring-mode triplet (R69). -/
def Op.isRing (op : Op) : Bool :=
  match op.form with
  | .ring _ _ => true
  | _ => false

/-- The route and register-address words that the form carries; none in the 32-bit form. -/
def Op.words (op : Op) : Option (BitVec 16 × BitVec 16) :=
  match op.form with
  | .short => none
  | .mid r a => some (r, a)
  | .long r a _ => some (r, a)
  | .ring r a => some (r, a)

/-- DIDX, AIDX, BIDX and ACC of a register-address word (R64). -/
def rawD (raw : BitVec 16) : Nat := (raw.extractLsb' 11 5).toNat
def rawA (raw : BitVec 16) : Nat := (raw.extractLsb' 6 5).toNat
def rawB (raw : BitVec 16) : Nat := (raw.extractLsb' 1 5).toNat
def rawAcc (raw : BitVec 16) : Bool := raw.getLsbD 0

/-- Compare-class opcodes (R63, R89 to R93): PSET, PLOG, ICMP, ICMPU, FCMP, CCHK. -/
def isCompare (maj : Nat) : Bool := [0x09, 0x0A, 0x3A, 0x3B, 0x5D, 0xAC].contains maj
/-- K-kind opcodes, which write a capability register (R85): CBND, CRGT, CMOV. -/
def isCapWrite (maj : Nat) : Bool := [0xA8, 0xA9, 0xAB].contains maj
/-- I-kind opcodes (R87): DIV, REM, FDIV, FSQRT. -/
def isIterative (maj : Nat) : Bool := [0x23, 0x24, 0x57, 0x58].contains maj
/-- H-kind opcodes, accepted only on a Helm-region tile (R85). -/
def isHelmKind (maj : Nat) : Bool := [0x0F, 0x18, 0x19, 0x1A, 0x1B, 0x1C, 0x1D, 0xAE, 0xD8].contains maj
/-- The control transfers with a literal target: BR, BRS, CALL, LOOP (R98). -/
def needsLiteral (maj : Nat) : Bool := [0x01, 0x02, 0x03, 0x05].contains maj
/-- Opcodes refused in ring mode: the transfers and SAFE (R98). -/
def sequencedOnly (maj : Nat) : Bool := [0x01, 0x02, 0x03, 0x04, 0x05, 0x08].contains maj
/-- The fused multiply-adds that read ACC (R64): FFMA, HFMA. -/
def readsAcc (maj : Nat) : Bool := [0x56, 0x63].contains maj
/-- Operands of class 0 name predicates: PLOG and PCNT (R98). -/
def namesPredicates (maj : Nat) : Bool := [0x0A, 0x0B].contains maj

/-- The number of valid indices of a source class (R20); a literal's index is ignored but for HCMP. -/
def srcLimit (maj : Nat) (isLong : Bool) (cls : Nat) : Nat :=
  match cls with
  | 0 => if namesPredicates maj then 8 else 32
  | 2 => 8
  | 3 => 4
  | 5 => if isLong then 32 else 16
  | 6 => 16
  | _ => 32

/-- The number of valid indices of a destination class (R20, R63, R85). -/
def dstLimit (maj cls : Nat) : Nat :=
  match cls with
  | 0 => if isCompare maj then 7 else if isCapWrite maj then 16 else 32
  | 2 => 8
  | 4 => if isCompare maj then 7 else 32
  | _ => 32

/-- The checks on a register-address word (R20, R32, R121), made at decode where the form carries it and at issue
where it comes from HAW. -/
def checkRaw (maj : Nat) (op : Op) (raw : BitVec 16) : Option IllFormed :=
  if maj = 0 then none else
  let a := op.acls.toNat
  let b := op.bcls.toNat
  let d := op.dcls.toNat
  if srcLimit maj op.isLong a ≤ rawA raw then some .indexRange
  else if maj != 0x66 && decide (srcLimit maj op.isLong b ≤ rawB raw) then some .indexRange
  else if dstLimit maj d ≤ rawD raw then some .indexRange
  else if d = 6 ∧ rawD raw ≠ 9 then some .specialRegister
  else if maj = 0x0C ∧ (25 ≤ rawA raw ∨ rawA raw = 13 ∧ (d = 1 ∨ d = 5)) then some .specialRegister
  else if readsAcc maj = true ∧ d = 3 ∧ rawAcc raw = false then some .addend
  else if maj = 0x66 ∧ 5 < rawB raw then some .relation
  else none

/-- A row lists this combination. -/
def ClassRow.admits (r : ClassRow) (op : Op) : Bool :=
  r.vars.contains op.var.toNat && r.a.contains op.acls.toNat && r.b.contains op.bcls.toNat
    && r.d.contains op.dcls.toNat

/-- The checks on an operation word and its form. -/
def checkOp (maj : Nat) (op : Op) : Option IllFormed :=
  let rows := formsOf maj
  if rows.isEmpty then some .unassignedMajor
  else if !rows.any (fun r => r.vars.contains op.var.toNat) then some .unassignedVariant
  else if !rows.any (fun r => r.admits op) then some .classCombination
  else if maj = 0x00 ∧ (op.pred ≠ 0 ∨ op.pinv = true) then some .predicateField
  else if maj = 0x88 ∧ (op.pred ≠ 7 ∨ op.pinv = true) then some .predicateField
  else if needsLiteral maj && !op.isLong then some .formNotAllowed
  else if sequencedOnly maj && op.isRing then some .formNotAllowed
  else if maj = 0x66 ∧ op.bcls = 5 ∧ op.isLong = false then some .formNotAllowed
  else none

/-- The checks on a whole triplet. -/
def checkVE (maj : Nat) (op : Op) : Option IllFormed :=
  match checkOp maj op with
  | some e => some e
  | none =>
    match op.words with
    | some (_, raw) => checkRaw maj op raw
    | none => none

/-- The constructor is the one that MAJ and VAR name. -/
def ownVariant : Instr → Bool
  | .doneI op => op.var == 0
  | .doneAbandon op => op.var == 1
  | .waittTick op => op.var == 0
  | .waittMcnt op => op.var == 1
  | .assayArm op => op.var == 0
  | .assayClr op => op.var == 1
  | .escrowGrant op => op.var == 0
  | .escrowRevoke op => op.var == 1
  | .escrowDrain op => op.var == 2
  | .cfgOpen op => op.var == 0
  | .cfgWr op => op.var == 1
  | .cfgSeal op => op.var == 2
  | .cfgClear op => op.var == 3
  | .sportArm op => op.var == 0
  | .sportStop op => op.var == 1
  | .sportRewind op => op.var == 2
  | .barArv op => op.var == 0
  | .barWait op => op.var == 1
  | .barArvw op => op.var == 2
  | .barPh op => op.var == 3
  | .ctrAdd op => op.var == 0
  | .ctrArvx op => op.var == 1
  | .ctrWait op => op.var == 2
  | .ctrRd op => op.var == 3
  | .evwaitWait op => op.var == 0
  | .evwaitPeek op => op.var == 1
  | .lbeta op => op.var == 0
  | .lseed op => op.var == 1
  | .lclamp op => op.var == 0
  | .lfree op => op.var == 1
  | .lread op => op.var == 0
  | .lreadMe op => op.var == 1
  | _ => true

/-- The Teller commands, whose fields are all free (R202). -/
def isTeller : Instr → Bool
  | .tellerCend _ => true
  | .tellerAct _ _ _ => true
  | .tellerRd _ _ _ => true
  | .tellerRda _ _ _ => true
  | .tellerWr _ _ _ => true
  | .tellerWra _ _ _ => true
  | .tellerPre _ _ => true
  | .tellerPrea _ => true
  | .tellerRefab _ => true
  | .tellerRefpb _ _ => true
  | .tellerMrw _ _ _ => true
  | .tellerMrr _ _ => true
  | .tellerZqs _ => true
  | .tellerZql _ => true
  | _ => false

/-- The first check that an instruction fails. -/
def Instr.illFormed (i : Instr) : Option IllFormed :=
  match veView i with
  | some (maj, op) => if ownVariant i then checkVE maj op else some .unassignedVariant
  | none => if isTeller i then none else some .notAnInstruction

/-- An instruction that has a word. -/
def Instr.wf (i : Instr) : Bool := i.illFormed.isNone

end Sys2Proof
end

