-- ==== Sys2Proof/Decode.lean ====
section
/-! DEFINITION. Decoding and encoding. A vector-element instruction is read from the one to three words at IA (R71,
R72) or from the three ring entries (R69); a Teller command from its 32-bit word (R202). Decoding is total and names
what it refuses. -/

namespace Sys2Proof

/-- The instruction of a major opcode 0x00 to 0x0F (R89 to R94). -/
def make0 (lo var : Nat) (op : Op) : Option Instr :=
  match lo with
  | 0x0 => some (.nop op)
  | 0x1 => some (.br op)
  | 0x2 => some (.brs op)
  | 0x3 => some (.callI op)
  | 0x4 => some (.retI op)
  | 0x5 => some (.loopI op)
  | 0x6 => if var = 0 then some (.doneI op) else if var = 1 then some (.doneAbandon op) else none
  | 0x7 => some (.yieldI op)
  | 0x8 => some (.safeI op)
  | 0x9 => some (.pset op)
  | 0xA => some (.plog op)
  | 0xB => some (.pcnt op)
  | 0xC => some (.mfsr op)
  | 0xD => some (.mtsr op)
  | 0xE => some (.trapI op)
  | 0xF => some (.rte op)
  | _ => none

/-- The instruction of a major opcode 0x10 to 0x1F (R89 to R94). -/
def make1 (lo var : Nat) (op : Op) : Option Instr :=
  match lo with
  | 0x0 => if var = 0 then some (.waittTick op) else if var = 1 then some (.waittMcnt op) else none
  | 0x1 => some (.course op)
  | 0x2 => some (.launch op)
  | 0x3 => some (.hops op)
  | 0x4 => some (.vdq op)
  | 0x5 => some (.sign op)
  | 0x6 => if var = 0 then some (.assayArm op) else if var = 1 then some (.assayClr op) else none
  | 0x7 => some (.audit op)
  | 0x8 => if var = 0 then some (.escrowGrant op) else if var = 1 then some (.escrowRevoke op) else if var = 2 then some (.escrowDrain op) else none
  | 0x9 => some (.genup op)
  | 0xA => some (.remap op)
  | 0xB => if var = 0 then some (.cfgOpen op) else if var = 1 then some (.cfgWr op) else if var = 2 then some (.cfgSeal op) else if var = 3 then some (.cfgClear op) else none
  | 0xC => some (.vrfy op)
  | 0xD => some (.hbt op)
  | _ => none

/-- The instruction of a major opcode 0x20 to 0x2F (R89 to R94). -/
def make2 (lo var : Nat) (op : Op) : Option Instr :=
  match lo with
  | 0x0 => some (.iadd op)
  | 0x1 => some (.isub op)
  | 0x2 => some (.imul op)
  | 0x3 => some (.divI op)
  | 0x4 => some (.remI op)
  | 0x5 => some (.iabs op)
  | 0x6 => some (.ineg op)
  | 0x7 => some (.imin op)
  | 0x8 => some (.imax op)
  | 0x9 => some (.andI op)
  | 0xA => some (.orI op)
  | 0xB => some (.xorI op)
  | 0xC => some (.andn op)
  | 0xD => some (.orn op)
  | 0xE => some (.shl op)
  | 0xF => some (.shr op)
  | _ => none

/-- The instruction of a major opcode 0x30 to 0x3F (R89 to R94). -/
def make3 (lo var : Nat) (op : Op) : Option Instr :=
  match lo with
  | 0x0 => some (.asr op)
  | 0x1 => some (.rol op)
  | 0x2 => some (.clz op)
  | 0x3 => some (.ctz op)
  | 0x4 => some (.popc op)
  | 0x5 => some (.brev op)
  | 0x6 => some (.bfx op)
  | 0x7 => some (.bfi op)
  | 0x8 => some (.sel op)
  | 0x9 => some (.movI op)
  | 0xA => some (.icmp op)
  | 0xB => some (.icmpu op)
  | _ => none

/-- The instruction of a major opcode 0x50 to 0x5F (R89 to R94). -/
def make5 (lo var : Nat) (op : Op) : Option Instr :=
  match lo with
  | 0x0 => some (.fadd op)
  | 0x1 => some (.fsub op)
  | 0x2 => some (.fmul op)
  | 0x3 => some (.fmin op)
  | 0x4 => some (.fmax op)
  | 0x5 => some (.fsgn op)
  | 0x6 => some (.ffma op)
  | 0x7 => some (.fdiv op)
  | 0x8 => some (.fsqrt op)
  | 0x9 => some (.frcp op)
  | 0xA => some (.frsq op)
  | 0xB => some (.fexp2 op)
  | 0xC => some (.flog2 op)
  | 0xD => some (.fcmp op)
  | 0xE => some (.fclass op)
  | _ => none

/-- The instruction of a major opcode 0x60 to 0x6F (R89 to R94). -/
def make6 (lo var : Nat) (op : Op) : Option Instr :=
  match lo with
  | 0x0 => some (.hadd op)
  | 0x1 => some (.hsub op)
  | 0x2 => some (.hmul op)
  | 0x3 => some (.hfma op)
  | 0x4 => some (.hmin op)
  | 0x5 => some (.hmax op)
  | 0x6 => some (.hcmp op)
  | 0x7 => some (.hdot op)
  | _ => none

/-- The instruction of a major opcode 0x80 to 0x8F (R89 to R94). -/
def make8 (lo var : Nat) (op : Op) : Option Instr :=
  match lo with
  | 0x0 => some (.cvtf op)
  | 0x1 => some (.cvti op)
  | 0x2 => some (.cvth op)
  | 0x3 => some (.cvtbi op)
  | 0x4 => some (.cvthi op)
  | 0x5 => some (.cvtib op)
  | 0x6 => some (.cvtih op)
  | 0x7 => some (.narw op)
  | 0x8 => some (.qblk op)
  | 0x9 => some (.dqblk op)
  | _ => none

/-- The instruction of a major opcode 0x90 to 0x9F (R89 to R94). -/
def make9 (lo var : Nat) (op : Op) : Option Instr :=
  match lo with
  | 0x0 => some (.shuf op)
  | 0x1 => some (.bcast op)
  | 0x2 => some (.rotl op)
  | 0x3 => some (.lsh op)
  | 0x4 => some (.redadd op)
  | 0x5 => some (.redmin op)
  | 0x6 => some (.redmax op)
  | 0x7 => some (.redlog op)
  | 0x8 => some (.compr op)
  | 0x9 => some (.intlv op)
  | _ => none

/-- The instruction of a major opcode 0xA0 to 0xAF (R89 to R94). -/
def makeA (lo var : Nat) (op : Op) : Option Instr :=
  match lo with
  | 0x0 => some (.ld op)
  | 0x1 => some (.st op)
  | 0x2 => some (.lda op)
  | 0x3 => some (.strl op)
  | 0x4 => some (.fence op)
  | 0x5 => if var = 0 then some (.sportArm op) else if var = 1 then some (.sportStop op) else if var = 2 then some (.sportRewind op) else none
  | 0x6 => some (.tmsel op)
  | 0x7 => some (.spstat op)
  | 0x8 => some (.cbnd op)
  | 0x9 => some (.crgt op)
  | 0xA => some (.cget op)
  | 0xB => some (.cmov op)
  | 0xC => some (.cchk op)
  | 0xD => some (.pref op)
  | 0xE => some (.spwin op)
  | _ => none

/-- The instruction of a major opcode 0xB0 to 0xBF (R89 to R94). -/
def makeB (lo var : Nat) (op : Op) : Option Instr :=
  match lo with
  | 0x0 => some (.aadd op)
  | 0x1 => some (.asub op)
  | 0x2 => some (.aand op)
  | 0x3 => some (.aor op)
  | 0x4 => some (.axor op)
  | 0x5 => some (.amin op)
  | 0x6 => some (.amax op)
  | 0x7 => some (.axch op)
  | 0x8 => some (.acas op)
  | 0x9 => some (.afadd op)
  | _ => none

/-- The instruction of a major opcode 0xC0 to 0xCF (R89 to R94). -/
def makeC (lo var : Nat) (op : Op) : Option Instr :=
  match lo with
  | 0x0 => if var = 0 then some (.barArv op) else if var = 1 then some (.barWait op) else if var = 2 then some (.barArvw op) else if var = 3 then some (.barPh op) else none
  | 0x1 => if var = 0 then some (.ctrAdd op) else if var = 1 then some (.ctrArvx op) else if var = 2 then some (.ctrWait op) else if var = 3 then some (.ctrRd op) else none
  | 0x2 => if var = 0 then some (.evwaitWait op) else if var = 1 then some (.evwaitPeek op) else none
  | 0x3 => some (.evpost op)
  | 0x4 => some (.mint op)
  | 0x5 => some (.mseed op)
  | _ => none

/-- The instruction of a major opcode 0xD0 to 0xDF (R89 to R94). -/
def makeD (lo var : Nat) (op : Op) : Option Instr :=
  match lo with
  | 0x0 => some (.mxarm op)
  | 0x1 => some (.mxwld op)
  | 0x2 => some (.mxact op)
  | 0x3 => some (.mxdrn op)
  | 0x4 => some (.mxnorm op)
  | 0x5 => some (.mxquad op)
  | 0x6 => some (.mxstat op)
  | 0x7 => some (.mxrpr op)
  | 0x8 => some (.mxtab op)
  | 0x9 => some (.mxstop op)
  | _ => none

/-- The instruction of a major opcode 0xE0 to 0xEF (R89 to R94). -/
def makeE (lo var : Nat) (op : Op) : Option Instr :=
  match lo with
  | 0x0 => some (.lwgt op)
  | 0x1 => some (.lbias op)
  | 0x2 => if var = 0 then some (.lbeta op) else if var = 1 then some (.lseed op) else none
  | 0x3 => if var = 0 then some (.lclamp op) else if var = 1 then some (.lfree op) else none
  | 0x4 => some (.lsweep op)
  | 0x5 => some (.lmag op)
  | 0x6 => if var = 0 then some (.lread op) else if var = 1 then some (.lreadMe op) else none
  | 0x7 => some (.lstat op)
  | 0x8 => some (.cpy op)
  | 0x9 => some (.cpyat op)
  | 0xA => some (.cpyq op)
  | 0xB => some (.cpyx op)
  | 0xC => some (.tmplw op)
  | 0xD => some (.cpyb op)
  | _ => none

/-- The instruction that MAJ and VAR select (R85). -/
def makeVE (maj var : Nat) (op : Op) : Option Instr :=
  match maj / 16 with
  | 0x0 => make0 (maj % 16) var op
  | 0x1 => make1 (maj % 16) var op
  | 0x2 => make2 (maj % 16) var op
  | 0x3 => make3 (maj % 16) var op
  | 0x5 => make5 (maj % 16) var op
  | 0x6 => make6 (maj % 16) var op
  | 0x8 => make8 (maj % 16) var op
  | 0x9 => make9 (maj % 16) var op
  | 0xA => makeA (maj % 16) var op
  | 0xB => makeB (maj % 16) var op
  | 0xC => makeC (maj % 16) var op
  | 0xD => makeD (maj % 16) var op
  | 0xE => makeE (maj % 16) var op
  | _ => none

/-- The operation word's fields (R61) with a turn gap and a form. -/
def opOf (opw : BitVec 24) (gap : BitVec 6) (form : Form) : Op :=
  { var := opw.extractLsb' 13 3, pred := opw.extractLsb' 10 3, pinv := opw.getLsbD 9
    acls := opw.extractLsb' 6 3, bcls := opw.extractLsb' 3 3, dcls := opw.extractLsb' 0 3, gap := gap, form := form }

/-- An operation word and its form as an instruction, or the check it fails. -/
def decodeTriplet (opw : BitVec 24) (gap : BitVec 6) (form : Form) : Except IllFormed Instr :=
  let maj := (opw.extractLsb' 16 8).toNat
  let op := opOf opw gap form
  match checkVE maj op with
  | some e => .error e
  | none =>
    match makeVE maj op.var.toNat op with
    | some i => .ok i
    | none => .error .unassignedMajor

/-- The instruction at the head of a list of instruction-memory words (R71, R72). -/
def decodeSeq (ws : List Word) : Except IllFormed Instr :=
  match ws with
  | [] => .error .truncated
  | w0 :: r =>
    let opw := w0.extractLsb' 0 24
    let gap := w0.extractLsb' 24 6
    match (w0.extractLsb' 30 2).toNat with
    | 0 => decodeTriplet opw gap .short
    | 1 =>
      match r with
      | w1 :: _ => decodeTriplet opw gap (.mid (w1.extractLsb' 16 16) (w1.extractLsb' 0 16))
      | [] => .error .truncated
    | 2 =>
      match r with
      | w1 :: w2 :: _ => decodeTriplet opw gap (.long (w1.extractLsb' 16 16) (w1.extractLsb' 0 16) w2)
      | _ => .error .truncated
    | _ => .error .reservedLength

/-- The instruction that a ring entry, a route entry and a register-address entry form (R69). -/
def decodeRing (entry : Word) (rtw raw : BitVec 16) : Except IllFormed Instr :=
  if entry.extractLsb' 30 2 ≠ 0 then .error .ringReserved
  else decodeTriplet (entry.extractLsb' 0 24) (entry.extractLsb' 24 6) (.ring rtw raw)

/-- The number of words of a sequenced instruction by the LEN field of its first word (R71). -/
def lengthOf (w0 : Word) : Nat := (w0.extractLsb' 30 2).toNat + 1

/-- The command that a Teller word holds (R202). -/
def decodeTeller (w : Word) : Except IllFormed Instr :=
  let off : BitVec 9 := w.extractLsb' 18 9
  let bank : BitVec 4 := w.extractLsb' 14 4
  let low14 := w.extractLsb' 0 14
  let col : BitVec 6 := w.extractLsb' 8 6
  let low8 := w.extractLsb' 0 8
  let low18 := w.extractLsb' 0 18
  let zero (c : Bool) (i : Instr) : Except IllFormed Instr := if c then .ok i else .error .tellerReserved
  match (w.extractLsb' 27 5).toNat with
  | 0 => zero (low18 == 0) (.tellerCend off)
  | 1 => .ok (.tellerAct off bank low14)
  | 2 => zero (low8 == 0) (.tellerRd off bank col)
  | 3 => zero (low8 == 0) (.tellerRda off bank col)
  | 4 => zero (low8 == 0) (.tellerWr off bank col)
  | 5 => zero (low8 == 0) (.tellerWra off bank col)
  | 6 => zero (low14 == 0) (.tellerPre off bank)
  | 7 => zero (low18 == 0) (.tellerPrea off)
  | 8 => zero (low18 == 0) (.tellerRefab off)
  | 9 => zero (low14 == 0) (.tellerRefpb off bank)
  | 10 => zero (w.extractLsb' 0 2 == 0) (.tellerMrw off (w.extractLsb' 10 8) (w.extractLsb' 2 8))
  | 11 => zero (w.extractLsb' 0 10 == 0) (.tellerMrr off (w.extractLsb' 10 8))
  | 12 => zero (low18 == 0) (.tellerZqs off)
  | 13 => zero (low18 == 0) (.tellerZql off)
  | _ => .error .tellerOpcode

/-- The first word, at IA, holds bits 31 to 0, the next bits 63 to 32, and so on. -/
def wordsOfNat : Nat → Nat → List Word
  | 0, _ => []
  | n + 1, w => BitVec.ofNat 32 w :: wordsOfNat n (w / 2 ^ 32)

/-- The instruction that the decoder reads from an instruction of the opcode table whose bits are `w`: a word of at
most 32 bits is a Teller command, the only rows that the table gives bits; a longer one is a sequenced instruction. -/
def decodeTableWord (nbits w : Nat) : Option Instr :=
  let r := if nbits ≤ 32 then decodeTeller (BitVec.ofNat 32 w) else decodeSeq (wordsOfNat 3 w)
  match r with
  | .ok i => some i
  | .error _ => none

/-! ## Encoding, from the same tables -/

/-- The operation word of a triplet (R61). -/
def encodeOpw (maj : Nat) (op : Op) : BitVec 24 :=
  BitVec.ofNat 8 maj ++ op.var ++ op.pred ++ BitVec.ofBool op.pinv ++ op.acls ++ op.bcls ++ op.dcls

/-- The words of a vector-element triplet: the sequenced words from IA on (R71, R72), or in ring mode the operation
entry and one word that holds the route entry above the register-address entry (R69). -/
def encodeTriplet (maj : Nat) (op : Op) : List Word :=
  let w (len : BitVec 2) : Word := len ++ op.gap ++ encodeOpw maj op
  match op.form with
  | .short => [w 0]
  | .mid r a => [w 1, r ++ a]
  | .long r a l => [w 2, r ++ a, l]
  | .ring r a => [w 0, r ++ a]

/-- The 32-bit word of a Teller command (R202): OP, OFF, BANK and the low field. -/
def tellerWord (opc : BitVec 5) (off : BitVec 9) (low : BitVec 18) : Word := opc ++ off ++ low

/-- The word of a Teller command. -/
def encodeTeller : Instr → Option Word
  | .tellerCend o => some (tellerWord 0 o 0)
  | .tellerAct o b r => some (tellerWord 1 o (b ++ r))
  | .tellerRd o b c => some (tellerWord 2 o (b ++ c ++ 0#8))
  | .tellerRda o b c => some (tellerWord 3 o (b ++ c ++ 0#8))
  | .tellerWr o b c => some (tellerWord 4 o (b ++ c ++ 0#8))
  | .tellerWra o b c => some (tellerWord 5 o (b ++ c ++ 0#8))
  | .tellerPre o b => some (tellerWord 6 o (b ++ 0#14))
  | .tellerPrea o => some (tellerWord 7 o 0)
  | .tellerRefab o => some (tellerWord 8 o 0)
  | .tellerRefpb o b => some (tellerWord 9 o (b ++ 0#14))
  | .tellerMrw o a v => some (tellerWord 10 o (a ++ v ++ 0#2))
  | .tellerMrr o a => some (tellerWord 11 o (a ++ 0#10))
  | .tellerZqs o => some (tellerWord 12 o 0)
  | .tellerZql o => some (tellerWord 13 o 0)
  | _ => none

/-- The words of an instruction; an event has none. -/
def encode (i : Instr) : List Word :=
  match veView i with
  | some (maj, op) => encodeTriplet maj op
  | none => (encodeTeller i).toList

/-- Decodes the words of an instruction whose form is known: Teller, ring or sequenced. -/
def decodeAs (like : Instr) (ws : List Word) : Except IllFormed Instr :=
  match veView like with
  | none =>
    match ws with
    | [w] => decodeTeller w
    | _ => .error .wordLength
  | some (_, op) =>
    if op.isRing then
      match ws with
      | [e, ra] => decodeRing e (ra.extractLsb' 16 16) (ra.extractLsb' 0 16)
      | _ => .error .wordLength
    else decodeSeq ws

end Sys2Proof
end

