-- ==== Sys2Proof/Config.lean ====
section
/-! DEFINITION. What the spec leaves to the implementation or to an outside standard. Each constant is opaque: nothing
can be proved about its value, so a statement holds whatever it is. Each has a row in the assumption log. -/

namespace Sys2Proof.Config

/-- Bits that no rule of the spec fixes, drawn one after another by a counter of the state. -/
opaque freeWord : Nat → Word

/-- Bits of a 512-bit value that no rule of the spec fixes. -/
opaque freeVec : Nat → Vec

/-- SHA-384 of a byte string, as a number of 384 bits (R370, R371, R373); the standard is not in the spec. -/
opaque sha384 : List (BitVec 8) → BitVec 384

/-- ECDSA P-384 verification of a signature over a digest under a public key (R370, R371). -/
opaque ecdsaVerify : List (BitVec 8) → List (BitVec 8) → BitVec 384 → Bool

/-- ECDSA P-384 signature over a message by the fused device key (R363, R364). -/
opaque deviceSign : List (BitVec 8) → List (BitVec 8)

/-! ## Graph images (R262)

The loader reads a graph image from its container, whose byte format the spec does not give. What it reads is the
structure below, with every tile's words at their configuration addresses (R396). -/

/-- The checks of the loader, each under the words of its report; a check that the spec gives no words is named for what it tests (R7,
R95). -/
inductive Check where
  /-- "illegal encoding" (R20, R32, R63, R85, R95, R98, R121, R144, R186, R195, R226, R227). -/
  | illegalEncoding
  /-- A push with no target (R63). -/
  | pushWithNoTarget
  /-- A port that the VE does not have (R66). -/
  | portAbsent
  /-- A window base above 32 (R16). -/
  | windowBase
  /-- "write collision" (R17, R19). -/
  | writeCollision
  /-- "window overlap" (R17). -/
  | windowOverlap
  /-- Rings and code beyond the instruction memory, an instruction past its last word, or a ring of 0 or more than 256 entries
  (R25, R26, R69). -/
  | instructionMemory
  /-- "window in sequenced mode" (R27). -/
  | windowInSequencedMode
  /-- "slot beyond wheel" (R28). -/
  | slotBeyondWheel
  /-- "stage field" (R29). -/
  | stageField
  /-- A reduction of more than 65,536 K-blocks (R55). -/
  | reductionLength
  /-- "switch entry" (R68). -/
  | switchEntry
  /-- "ring period" (R70). -/
  | ringPeriod
  /-- "instruction boundary" (R72, R100). -/
  | instructionBoundary
  /-- "held words" (R74). -/
  | heldWords
  /-- "latency" (R73, R86, R101). -/
  | latency
  /-- The interval of the iterative unit (R87). -/
  | iterativeInterval
  /-- "iterative unit shared" (R87). -/
  | iterativeUnitShared
  /-- "transfer in ring mode" (R98). -/
  | transferInRingMode
  /-- "target not literal" (R98). -/
  | targetNotLiteral
  /-- "target range" (R100). -/
  | targetRange
  /-- "falls off block" (R100). -/
  | fallsOffBlock
  /-- "call depth" (R104). -/
  | callDepth
  /-- "return without call" (R104). -/
  | returnWithoutCall
  /-- "link register written" (R104). -/
  | linkRegisterWritten
  /-- "QBLK block incomplete" (R139). -/
  | qblkBlockIncomplete
  /-- "QBLK release pops" (R139). -/
  | qblkReleasePops
  /-- "quantiser shared" (R139). -/
  | quantiserShared
  /-- "safe point in QBLK block" (R139). -/
  | safePointInQblkBlock
  /-- "dither order" (R139). -/
  | ditherOrder
  /-- A tensor map with a field that R161 refuses. -/
  | tensorMap
  /-- "BFP map shape" (R163). -/
  | bfpMapShape
  /-- "stream port object" (R164). -/
  | streamPortObject
  /-- "barrier count" (R167). -/
  | barrierCount
  /-- A total of a completion counter beyond 2^47 (R168). -/
  | counterTotal
  /-- "matrix operand kind" (R176). -/
  | matrixOperandKind
  /-- "matrix descriptor" (R176). -/
  | matrixDescriptor
  /-- A matrix command with a field that R178 refuses. -/
  | matrixCommand
  /-- "matrix schedule" (R179). -/
  | matrixSchedule
  /-- "matrix resource" (R180). -/
  | matrixResource
  /-- "activation rate" (R181). -/
  | activationRate
  /-- "quad mismatch" (R184). -/
  | quadMismatch
  /-- "matrix table left armed" (R188). -/
  | matrixTableLeftArmed
  /-- "matrix table owned" (R188). -/
  | matrixTableOwned
  /-- "Lodestone topology" (R191). -/
  | lodestoneTopology
  /-- "port 5 clash" (R195). -/
  | port5Clash
  /-- A block of p-bits beyond the last one (R195). -/
  | lodestoneExtent
  /-- "Lodestone queue" (R196). -/
  | lodestoneQueue
  /-- "Lodestone busy" (R196). -/
  | lodestoneBusy
  /-- "Teller slot taken" (R200). -/
  | tellerSlotTaken
  /-- A Teller command that no row of R202 lists (R201). -/
  | tellerCommand
  /-- "Teller command owner" (R202). -/
  | tellerCommandOwner
  /-- "Teller order" (R203). -/
  | tellerOrder
  /-- "Teller store" (R203). -/
  | tellerStore
  /-- "bank spill" (R208). -/
  | bankSpill
  /-- "copy template" (R214). -/
  | copyTemplate
  /-- "BTE full", and a wait for a channel that is known at load (R216, R217). -/
  | bteFull
  /-- "level" (R226), and the opcodes that a level does not admit (R93, R94, R108). -/
  | level
  /-- "placement read at level D" (R227). -/
  | placementReadAtLevelD
  /-- "placement read in twin" (R227). -/
  | placementReadInTwin
  /-- "wait beyond deadline" (R232). -/
  | waitBeyondDeadline
  /-- "no such Almanac" (R233). -/
  | noSuchAlmanac
  /-- "no assay group" (R236). -/
  | noAssayGroup
  /-- "ordering kind" (R246). -/
  | orderingKind
  /-- "release order" (R247). -/
  | releaseOrder
  /-- "copy order" (R255). -/
  | copyOrder
  /-- "engine race" (R257). -/
  | engineRace
  /-- "circuit clash" (R265). -/
  | circuitClash
  /-- "sliced engine at level T" (R266). -/
  | slicedEngineAtLevelT
  /-- "entry bounds" (R270). -/
  | entryBounds
  /-- "slot overlap" (R270). -/
  | slotOverlap
  /-- "fallback placement" (R270). -/
  | fallbackPlacement
  /-- "entry spans waypoint" (R270). -/
  | entrySpansWaypoint
  /-- "commit set shared" (R270). -/
  | commitSetShared
  /-- "commit race" (R270). -/
  | commitRace
  /-- "deadline" (R270). -/
  | deadline
  /-- "Almanac capacity" (R270). -/
  | almanacCapacity
  /-- "entry kind" (R270). -/
  | entryKind
  /-- "remap" (R277). -/
  | remap
  /-- "DRAM stream at level T" (R281). -/
  | dramStreamAtLevelT
  /-- "scratchpad capacity" (R282). -/
  | scratchpadCapacity
  /-- "Vault bank clash" (R283). -/
  | vaultBankClash
  /-- "capability" (R287). -/
  | capability
  /-- "object cache" (R288). -/
  | objectCache
  /-- "object" (R290). -/
  | object
  /-- "window count" (R291). -/
  | windowCount
  /-- A window that lies outside every valid escrow (R291). -/
  | windowRange
  /-- "push to unarmed port" (R295). -/
  | pushToUnarmedPort
  /-- "virtual die" (R300). -/
  | virtualDie
  /-- "migration level" (R301). -/
  | migrationLevel
  /-- "context policy" (R302). -/
  | contextPolicy
  /-- "no such load" (R305). -/
  | noSuchLoad
  /-- "queue depth" (R316). -/
  | queueDepth
  /-- "queue order" (R317). -/
  | queueOrder
  /-- "pre-emption latency" (R320). -/
  | preemptionLatency
  /-- "twin placement" (R331). -/
  | twinPlacement
  /-- "audit slot" (R336). -/
  | auditSlot
  /-- "audit overlap" (R336). -/
  | auditOverlap
  /-- "audit state" (R336). -/
  | auditState
  /-- "audit interval" (R339). -/
  | auditInterval
  /-- "link slot taken" (R344). -/
  | linkSlotTaken
  /-- "no link slot" (R344). -/
  | noLinkSlot
  /-- "control rate" (R346). -/
  | controlRate
  /-- "energy" (R366). -/
  | energy
  /-- "unbounded path" (R390). -/
  | unboundedPath
deriving DecidableEq, Repr

/-- What the place of a report counts: the entries of one of a slot's rings, the words of an instruction memory, or the entries of the
table that the check is about (R95). -/
inductive Spot where
  | opRing | rtRing | raRing | address | number
deriving DecidableEq, Repr

/-- A report of the loader: the check, the graph (the context that it is for, 8 + g for Helm graph g), the load, logical tile, VE and
slot, the ring with its entry, the IA or the number of what fails it, the word that does, and the second instruction or number where
the check names two (R7, R95). -/
structure Report where
  check : Check
  graph : Nat
  spot : Spot
  load : Nat
  lt : Nat
  ve : Nat
  slot : Nat
  at_ : Nat
  word : Word
  other : Nat
deriving DecidableEq, Repr

/-- Where the rings of a ring-mode slot stand in its element's instruction memory (R25, R69): the word address of the operation
ring, the half-word addresses of the route and of the register-address ring, and the lengths LO, LR and LA. -/
structure Rings where
  op : Nat
  lo : Nat
  rt : Nat
  lr : Nat
  ra : Nat
  la : Nat
deriving DecidableEq, Repr

def Rings.none : Rings := { op := 0, lo := 0, rt := 0, lr := 0, ra := 0, la := 0 }

/-- A block of a slot (R78, R100): the word address at which the loader writes it, which is its entry, its length in words, the assay
group that `.assay` binds it to (R236), and whether it is marked `.twin` (R331). -/
structure BlockImg where
  base : Nat
  len : Nat
  assay : Option Nat
  twin : Bool
deriving DecidableEq, Repr

/-- One slot of a load: its number in the tile, the blocks it holds by block index (R280), the index of the block that its kernel's launches start, its rings (R69), the live registers
at its safe points by word address (vector, scalar and operand masks, R15), the ends of its holds at level T by
position, one for each time that the block holds there (R153), and how often its transfers are taken at most, by word address, where `.trips`
says so (R390). -/
structure SlotImg where
  slot : Nat
  blocks : Map BlockImg
  block : Nat
  rings : Rings
  live : Map (Nat × Nat × Nat)
  holds : Map (List Nat)
  trips : Map Nat
deriving DecidableEq, Repr

/-- One logical tile of a load, the first copy's tile where it is the second copy of a twin (R331), and the elements that a partial
reconfiguration names, none where the whole tile is configured (R263; DESIGN CHOICE, log 176: the image says which). -/
structure TileImg where
  lt : BitVec 10
  twin : Option (BitVec 10)
  named : Option (List Nat)
  words : Map Word
  slots : List SlotImg
deriving DecidableEq, Repr

/-- A circuit between two switch ports, each given by logical tile, VE, port (0 X, 1 Y) and circuit number (R68). -/
structure CircImg where
  src : BitVec 10
  sve : Nat
  sport : Nat
  scirc : Nat
  dst : BitVec 10
  dve : Nat
  dcirc : Nat
deriving DecidableEq, Repr

/-- A Teller program (R201 to R203): its run length in slots and its command words. -/
structure ProgImg where
  ns : Nat
  cmds : List Word
deriving DecidableEq, Repr

/-- A fabric load: tiles, circuits, by Teller the slots that it claims and its programs by table entry (R199 to R203), KIND and CIRC
of link owner words by link (R344), its energy figure (R366), the largest distance between safe points, none if unbounded
(R320), the checks on the schedule of a level, 0 to 2, that it fails (the loader derives that schedule from the static timing of
every slot and engine together), and whether it keeps the matrix accumulator (R262). -/
structure LoadImg where
  tiles : List TileImg
  circuits : List CircImg
  owners : Map (List Nat)
  progs : Map (Map ProgImg)
  links : Map (Map Word)
  energy : Nat
  safe : Option Nat
  derived : List (Nat × Report)
  keepMx : Bool
deriving DecidableEq, Repr

/-- An Almanac entry: its four words (R269), the logical tiles on which it has slots or that it reconfigures, the slots of its primary
and of its dead-reckoning block by logical tile and number in the tile, the load whose blocks it names (R280), and the commit sets
that it reads (R270). -/
structure EntryImg where
  words : List Word
  tiles : List (BitVec 10)
  load : Nat
  slots : List (BitVec 10 × Nat)
  drb : List (BitVec 10 × Nat)
  reads : List Nat
deriving DecidableEq, Repr

/-- An Almanac: its frame, waypoints, role (1 degraded, 2 low DRAM traffic, R328) and entries. -/
structure AlmImg where
  frame : Nat
  waypoints : List Nat
  role : Nat
  entries : Map EntryImg
deriving DecidableEq, Repr

/-- A graph image: the graph seed, loads, Almanacs, commit sets, the trap table (0 resume, 1 discard, 2 task end) and the
restartable kernels (R328). -/
structure Image where
  seed : BitVec 64
  loads : Map LoadImg
  alms : Map AlmImg
  csets : Map (List Nat)
  traps : Map Nat
  restart : List Nat
deriving DecidableEq, Repr

/-- The image that the loader reads from bytes in the Calpor container format, none where they are not one. -/
opaque readImage : List (BitVec 8) → Option Image

/-- The physical tile (12·y + x on its die) that the loader gives a logical tile of a load: context, load number and
logical tile. A placement that breaks R277 is refused. -/
opaque placeTile : Nat → Nat → Nat → Nat

/-- The bits NQM1, QIDX and QL16 of the remap entry that the loader writes for a logical tile of a load: how it slices the tile that it
gives (R277). -/
opaque placeSlice : Nat → Nat → Nat → BitVec 32

/-- The physical tiles that are fused off on this module (R3, R282). -/
opaque fusedOff : Nat → Bool

/-- The code in DETAIL [3:0] of cause 0x0C5 of a structure, of those that R326 lists in their order (R322 gives no codes). -/
opaque structureNo : Nat → Nat

/-- The MEs of a tile whose upper half is absent or fused off on this module (R3, R33): the spec gives `MEMCAP` no value after reset. -/
opaque upperAbsent : Nat → BitVec 8

/-- The key hash in fuses (R371), and the other fuse words but the device key and the rollback count (R364). -/
opaque fuseKeyHash : BitVec 384
opaque fuseWords : List (BitVec 8)

/-- The boot sequencer's ROM revision (R364). -/
opaque romRevision : Word

/-- The module runs its LPDDR at the higher of the two data rates; the layout of the configuration block is not in the spec
(R198, R369). -/
opaque fastModule : List (BitVec 8) → Bool

/-- The timing words that the upkeep graph writes in training, by Teller and word (R205, R372): JESD209-6 gives them. -/
opaque trainedTiming : Nat → Nat → Word

/-- The readings of a die's sensors in °C, by die, sensor and tick (R335). -/
opaque dieTemp : Nat → Nat → Nat → Nat

/-- The measured package power of a tick, in W (R365). -/
opaque packagePower : Nat → Nat

/-- Fields of the SPDM responses that the spec leaves to the responder, byte by byte: timing exponent, transfer sizes, value
types (R363). -/
opaque spdmByte : Nat → BitVec 8

/-- The compute die in whose FIFO records of a Teller are raised (R322, R323). -/
opaque tellerDie : Nat → BitVec 2

/-- The outcome of the measurement or self-test of an audit that the spec does not compute (R336, R337), by audit
number and the run's counter: true when it passes. -/
opaque auditPasses : Nat → Nat → Bool

/-- Redundant lanes of one link module in one direction (R348). -/
opaque spareLanes : Nat

end Sys2Proof.Config
end

