-- ==== Sys2Proof/Machine/Flags.lean ====
section
/-! DEFINITION. The exception flags of FLG (R24) and the clamps of R36 that raise SAT. -/

namespace Sys2Proof.Machine

/-- No flag raised. -/
def noFlags : Flags := 0#6
/-- IEEE inexact, FLG[0]. -/
def fNX : Flags := 0x01#6
/-- IEEE underflow, FLG[1]. -/
def fUF : Flags := 0x02#6
/-- IEEE overflow, FLG[2]. -/
def fOF : Flags := 0x04#6
/-- IEEE division by zero, FLG[3]. -/
def fDZ : Flags := 0x08#6
/-- IEEE invalid operation, FLG[4]. -/
def fNV : Flags := 0x10#6
/-- Saturation, FLG[5]. -/
def fSAT : Flags := 0x20#6

/-- The flag when the condition holds. -/
def flagIf (c : Bool) (f : Flags) : Flags := if c then f else noFlags

/-- Clamps to lo..hi and raises SAT where the value was outside. -/
def clampInt (x lo hi : Int) : Int × Flags :=
  if x < lo then (lo, fSAT) else if hi < x then (hi, fSAT) else (x, noFlags)

/-- `sats(x, n)` of R36. -/
def sats (x : Int) (n : Nat) : Int × Flags := clampInt x (-(2 ^ (n - 1))) (2 ^ (n - 1) - 1)

/-- `satu(x, n)` of R36. -/
def satu (x : Int) (n : Nat) : Int × Flags := clampInt x 0 (2 ^ n - 1)

/-- The value of FLG after a completion: a write in the same cycle, then OR with the flags raised (R24). -/
def flgMerge (old : Flags) (written : Option Flags) (raised : Flags) : Flags :=
  (written.getD old) ||| raised

end Sys2Proof.Machine
end

