-- ==== Sys2Proof/Machine/Numbers.lean ====
section
/-! DEFINITION. Number formats and exact arithmetic (R38 to R50, R122 to R131): finite values are exact dyadic
rationals, every operation is exact and is narrowed once by `roundTo`. A value that no dyadic holds (a quotient, a
root) is replaced by one with a sticky low bit far below the rounding position, which rounds the same way. -/

namespace Sys2Proof.Machine

/-! ## Formats (R39, R40) -/

/-- A floating-point format: fraction bits and exponent width. -/
structure Fmt where
  frac : Nat
  ew : Nat
deriving DecidableEq, Repr

def fp32 : Fmt := ⟨23, 8⟩
def fp16 : Fmt := ⟨10, 5⟩
def bf16 : Fmt := ⟨7, 8⟩

/-- b of R40. -/
def Fmt.bias (f : Fmt) : Nat := 2 ^ (f.ew - 1) - 1
/-- The all-ones exponent field. -/
def Fmt.emask (f : Fmt) : Nat := 2 ^ f.ew - 1
/-- emin − f of R40: the weight of the last place of the subnormals. -/
def Fmt.qmin (f : Fmt) : Int := 1 - (f.bias : Int) - f.frac
/-- The encoding of +∞. -/
def Fmt.infBits (f : Fmt) : Nat := f.emask * 2 ^ f.frac
/-- The canonical NaN (R40, R41). -/
def Fmt.nanBits (f : Fmt) : Nat := f.infBits + 2 ^ (f.frac - 1)
/-- The sign bit. -/
def Fmt.signBit (f : Fmt) : Nat := 2 ^ (f.frac + f.ew)
/-- The encoding of a magnitude with a sign. -/
def Fmt.signed (f : Fmt) (neg : Bool) (mag : Nat) : Nat := if neg then f.signBit + mag else mag

/-- What an encoding stands for (R40): a finite value is (−1)^neg × m × 2^e. -/
inductive FVal where
  | nan (signalling : Bool)
  | inf (neg : Bool)
  | fin (neg : Bool) (m : Nat) (e : Int)
deriving DecidableEq, Repr

/-- The value of an encoding (R40). The exponent of a finite value is the weight of its last fraction bit. -/
def decodeF (f : Fmt) (x : Nat) : FVal :=
  let neg := x / f.signBit % 2 = 1
  let ex := x / 2 ^ f.frac % 2 ^ f.ew
  let fr := x % 2 ^ f.frac
  if ex = f.emask then
    if fr = 0 then .inf neg else .nan (fr < 2 ^ (f.frac - 1))
  else if ex = 0 then .fin neg fr f.qmin
  else .fin neg (2 ^ f.frac + fr) ((ex : Int) - f.bias - f.frac)

def FVal.isNaN : FVal → Bool
  | .nan _ => true
  | _ => false

def FVal.isSignalling : FVal → Bool
  | .nan s => s
  | _ => false

/-- The sign of a value that is not a NaN. -/
def FVal.neg : FVal → Bool
  | .nan _ => false
  | .inf n => n
  | .fin n _ _ => n

/-! ## Rounding (R44 to R47) -/

/-- The rounding modes 0 to 5 of S5.RND (R44). -/
inductive RMode where
  | rne | rtz | rup | rdn | rna | stoch
deriving DecidableEq, Repr

def rmodeOf : Nat → RMode
  | 0 => .rne
  | 1 => .rtz
  | 2 => .rup
  | 3 => .rdn
  | 4 => .rna
  | _ => .stoch

/-- The decision `up` of R44 and R46. The discarded part is rem × 2^-sh of a unit, 0 ≤ rem < 2^sh; `dth` is the
lane's dither register, whose top d′ = min(sh, 32) bits decide the stochastic case. -/
def roundUp (mode : RMode) (neg : Bool) (k rem sh : Nat) (dth : Word) : Bool :=
  if sh = 0 then false else
  let half := 2 ^ (sh - 1)
  match mode with
  | .rne => decide (half < rem) || (rem == half && k % 2 == 1)
  | .rtz => false
  | .rup => rem != 0 && !neg
  | .rdn => rem != 0 && neg
  | .rna => decide (half ≤ rem)
  | .stoch =>
    let d := min sh 32
    decide (2 ^ d ≤ rem / 2 ^ (sh - d) + dth.toNat / 2 ^ (32 - d))

/-- m × 2^e in units of 2^q: the floor, the discarded bits and their count. -/
def splitAt (m : Nat) (e q : Int) : Nat × Nat × Nat :=
  let sh := (q - e).toNat
  if q ≤ e then (m * 2 ^ (e - q).toNat, 0, 0) else (m / 2 ^ sh, m % 2 ^ sh, sh)

/-- The overflow row of R45: the encoding delivered and whether SAT is set. -/
def overflowTo (f : Fmt) (mode : RMode) (sat neg : Bool) : Nat × Flags :=
  if sat then (f.signed neg (f.infBits - 1), fOF ||| fNX ||| fSAT) else
  let toInf := match mode with
    | .rne => true
    | .rna => true
    | .stoch => true
    | .rtz => false
    | .rup => !neg
    | .rdn => neg
  (f.signed neg (if toInf then f.infBits else f.infBits - 1), fOF ||| fNX)

/-- `round_to` of R44 for a finite value (−1)^neg × m × 2^e: the encoding and the flags of R43. -/
def roundTo (f : Fmt) (mode : RMode) (sat : Bool) (dth : Word) (neg : Bool) (m : Nat) (e : Int) : Nat × Flags :=
  if m = 0 then (f.signed neg 0, noFlags) else
  let emin : Int := 1 - f.bias
  let ex : Int := max ((Nat.log2 m : Int) + e) emin
  let (k, rem, sh) := splitAt m e (ex - f.frac)
  let up := roundUp mode neg k rem sh dth
  let k' := if up then k + 1 else k
  let mag := (ex - emin).toNat * 2 ^ f.frac + k'
  if f.infBits ≤ mag then overflowTo f mode sat neg else
  let inexact := rem != 0
  (f.signed neg mag, flagIf inexact fNX ||| flagIf (inexact && decide (mag < 2 ^ f.frac)) fUF)

/-- Rounding of VE arithmetic: RNE and the SAT = 0 row (R42, R45). -/
def roundRNE (f : Fmt) (neg : Bool) (m : Nat) (e : Int) : Nat × Flags := roundTo f .rne false 0#32 neg m e

/-- NV when any of the operands is a signalling NaN (R41). -/
def nvSig (xs : List FVal) : Flags := flagIf (xs.any FVal.isSignalling) fNV

/-! ## Arithmetic (R42, R43, R122, R132, R133) -/

/-- m × 2^e with its sign, as an integer multiple of 2^q for q ≤ e. -/
def scaled (neg : Bool) (m : Nat) (e q : Int) : Int :=
  let v : Int := m * 2 ^ (e - q).toNat
  if neg then -v else v

/-- An exact sum of finite terms (neg, m, e), as a value and an exponent. A zero sum is −0 only when every term is
negative (R42 and the IEEE 754 sign rules of R122). -/
def sumTerms (ts : List (Bool × Nat × Int)) : Bool × Nat × Int :=
  let q := ts.foldl (fun acc t => min acc t.2.2) (match ts with | [] => 0 | t :: _ => t.2.2)
  let v := ts.foldl (fun acc t => acc + scaled t.1 t.2.1 t.2.2 q) (0 : Int)
  if v = 0 then (ts.all (fun t => t.1), 0, q) else (decide (v < 0), v.natAbs, q)

/-- The product of two values as a term of a sum: none for an invalid product 0 × ∞. -/
def mulVal : FVal → FVal → Option FVal
  | .nan s, y => some (.nan (s || y.isSignalling))
  | x, .nan s => some (.nan (s || x.isSignalling))
  | .inf n, .inf n' => some (.inf (n != n'))
  | .inf n, .fin n' m _ => if m = 0 then none else some (.inf (n != n'))
  | .fin n m _, .inf n' => if m = 0 then none else some (.inf (n != n'))
  | .fin n m e, .fin n' m' e' => some (.fin (n != n') (m * m') (e + e'))

/-- The signs of the infinities among some values. -/
def infSigns (xs : List FVal) : List Bool :=
  xs.filterMap (fun x => match x with | .inf n => some n | _ => none)

/-- The finite values among some values, as terms of a sum. -/
def finTerms (xs : List FVal) : List (Bool × Nat × Int) :=
  xs.filterMap (fun x => match x with | .fin n m e => some (n, m, e) | _ => none)

/-- The sum of values rounded once with RNE: NaN, ∞ − ∞, infinity or the exact finite sum. -/
def sumVals (f : Fmt) (xs : List FVal) : Nat × Flags :=
  let infs := infSigns xs
  let clash := infs.contains true && infs.contains false
  if xs.any FVal.isNaN then (f.nanBits, nvSig xs ||| flagIf clash fNV)
  else if clash then (f.nanBits, fNV)
  else match infs with
    | n :: _ => (f.signed n f.infBits, noFlags)
    | [] => let t := sumTerms (finTerms xs); roundRNE f t.1 t.2.1 t.2.2

def negVal : FVal → FVal
  | .nan s => .nan s
  | .inf n => .inf (!n)
  | .fin n m e => .fin (!n) m e

/-- a + b (R122). -/
def fAdd (f : Fmt) (a b : Nat) : Nat × Flags := sumVals f [decodeF f a, decodeF f b]

/-- a − b (R122). -/
def fSub (f : Fmt) (a b : Nat) : Nat × Flags := sumVals f [decodeF f a, negVal (decodeF f b)]

/-- a × b (R122). -/
def fMul (f : Fmt) (a b : Nat) : Nat × Flags :=
  match mulVal (decodeF f a) (decodeF f b) with
  | none => (f.nanBits, fNV)
  | some p => sumVals f [p]

/-- ±(a × b) ± c with one rounding (R122): NV for 0 × ∞ whatever c holds (R43). -/
def fFma (f : Fmt) (negP negC : Bool) (a b c : Nat) : Nat × Flags :=
  let x := decodeF f a
  let y := decodeF f b
  let z := decodeF f c
  match mulVal x y with
  | none => (f.nanBits, fNV)
  | some p => sumVals f [if negP then negVal p else p, if negC then negVal z else z]

/-- a.e(0) × b.e(0) + a.e(1) × b.e(1) + d rounded once to FP32 (R133). -/
def fDot (f : Fmt) (a0 b0 a1 b1 d : Nat) : Nat × Flags :=
  match mulVal (decodeF f a0) (decodeF f b0), mulVal (decodeF f a1) (decodeF f b1) with
  | some p, some q => sumVals fp32 [p, q, decodeF fp32 d]
  | _, _ => (fp32.nanBits, fNV)

/-- a ÷ b (R122, R43): the finite quotient carries a sticky bit 61 places below its leading bits. -/
def fDiv (f : Fmt) (a b : Nat) : Nat × Flags :=
  let x := decodeF f a
  let y := decodeF f b
  match x, y with
  | .nan _, _ => (f.nanBits, nvSig [x, y])
  | _, .nan _ => (f.nanBits, nvSig [x, y])
  | .inf _, .inf _ => (f.nanBits, fNV)
  | .inf n, .fin n' _ _ => (f.signed (n != n') f.infBits, noFlags)
  | .fin n _ _, .inf n' => (f.signed (n != n') 0, noFlags)
  | .fin n m e, .fin n' m' e' =>
    if m' = 0 then (if m = 0 then (f.nanBits, fNV) else (f.signed (n != n') f.infBits, fDZ)) else
    let q := m * 2 ^ 60 / m'
    let r := m * 2 ^ 60 % m'
    roundRNE f (n != n') (2 * q + (if r = 0 then 0 else 1)) (e - e' - 61)

/-- The integer square root by bits, `n` bits of result. -/
def isqrtBits (x : Nat) : Nat → Nat → Nat
  | 0, r => r
  | n + 1, r => isqrtBits x n (if (r + 2 ^ n) * (r + 2 ^ n) ≤ x then r + 2 ^ n else r)

/-- ⌊√x⌋ for x < 2^(2n). -/
def isqrt (n x : Nat) : Nat := isqrtBits x n 0

/-- √a (R122, R43). -/
def fSqrt (f : Fmt) (a : Nat) : Nat × Flags :=
  match decodeF f a with
  | .nan s => (f.nanBits, flagIf s fNV)
  | .inf n => if n then (f.nanBits, fNV) else (f.infBits, noFlags)
  | .fin n m e =>
    if m = 0 then (f.signed n 0, noFlags)
    else if n then (f.nanBits, fNV) else
    let m' := if e % 2 = 0 then m else 2 * m
    let e' := if e % 2 = 0 then e else e - 1
    let w := m' * 2 ^ 60
    let r := isqrt 44 w
    roundRNE f false (2 * r + (if r * r = w then 0 else 1)) (e' / 2 - 31)

/-- a < b for values that are not NaNs. -/
def ltVal : FVal → FVal → Bool
  | .nan _, _ => false
  | _, .nan _ => false
  | .inf n, .inf n' => n && !n'
  | .inf n, .fin _ _ _ => n
  | .fin _ _ _, .inf n' => !n'
  | .fin n m e, .fin n' m' e' =>
    let q := min e e'
    decide (scaled n m e q < scaled n' m' e' q)

/-- a = b for values that are not NaNs; −0 and +0 are equal (R125). -/
def eqVal (x y : FVal) : Bool := !x.isNaN && !y.isNaN && !ltVal x y && !ltVal y x

/-- minimumNumber or maximumNumber (R42): −0 is less than +0. -/
def fMinMax (f : Fmt) (wantMax : Bool) (a b : Nat) : Nat × Flags :=
  let x := decodeF f a
  let y := decodeF f b
  let fl := nvSig [x, y]
  if x.isNaN && y.isNaN then (f.nanBits, fl)
  else if x.isNaN then (b, fl)
  else if y.isNaN then (a, fl)
  else
    let aLess := ltVal x y || (eqVal x y && x.neg)
    (if aLess != wantMax then a else b, fl)

/-- The relations of FCMP, numbered by VAR (R125): truth and NV. -/
def fRel (f : Fmt) (rel : Nat) (a b : Nat) : Bool × Flags :=
  let x := decodeF f a
  let y := decodeF f b
  let un := x.isNaN || y.isNaN
  let t := match rel with
    | 0 => eqVal x y
    | 1 => un || !eqVal x y
    | 2 => !un && ltVal x y
    | 3 => !un && !ltVal y x
    | 4 => !un && ltVal y x
    | 5 => !un && !ltVal x y
    | _ => un
  (t, nvSig [x, y] ||| flagIf (un && decide (2 ≤ rel ∧ rel ≤ 5)) fNV)

/-- The one-hot class word of FCLASS (R126). -/
def fClass (a : Nat) : Nat :=
  match decodeF fp32 a with
  | .nan s => if s then 2 ^ 8 else 2 ^ 9
  | .inf n => if n then 2 ^ 0 else 2 ^ 7
  | .fin n m _ =>
    if m = 0 then (if n then 2 ^ 3 else 2 ^ 4)
    else if m < 2 ^ 23 then (if n then 2 ^ 2 else 2 ^ 5)
    else (if n then 2 ^ 1 else 2 ^ 6)

/-- FSGN by VAR (R124): .NEG, .ABS, .CPYS. A NaN gives the canonical NaN and no flag. -/
def fSgn (var : Nat) (a b : Nat) : Nat × Flags :=
  if (decodeF fp32 a).isNaN then (fp32.nanBits, noFlags) else
  let mag := a % 2 ^ 31
  let s := match var with
    | 0 => decide (a < 2 ^ 31)
    | 1 => false
    | _ => decide (2 ^ 31 ≤ b)
  (fp32.signed s mag, noFlags)

/-! ## Conversions (R48, R49, R50, R136) -/

/-- A value narrowed to a floating-point format under a mode: NaN canonical, infinity unflagged (R44, R45). -/
def cvtVal (f : Fmt) (mode : RMode) (sat : Bool) (dth : Word) : FVal → Nat × Flags
  | .nan s => (f.nanBits, flagIf s fNV)
  | .inf n => (f.signed n f.infBits, noFlags)
  | .fin n m e => roundTo f mode sat dth n m e

/-- An integer as a value. -/
def intVal (x : Int) : FVal := .fin (decide (x < 0)) x.natAbs 0

/-- A finite value rounded to an integer with q = 1 (R49): the integer and whether it differs from the value. -/
def roundInt (mode : RMode) (dth : Word) (neg : Bool) (m : Nat) (e : Int) : Int × Bool :=
  let (k, rem, sh) := splitAt m e 0
  let k' : Nat := if roundUp mode neg k rem sh dth then k + 1 else k
  (if neg then -(k' : Int) else k', rem != 0)

/-- The range of an integer format. -/
def intLo (signed : Bool) (n : Nat) : Int := if signed then -(2 ^ (n - 1)) else 0
def intHi (signed : Bool) (n : Nat) : Int := if signed then 2 ^ (n - 1) - 1 else 2 ^ n - 1

/-- Conversion to an integer format of n bits (R49). -/
def cvtToInt (signed : Bool) (n : Nat) (mode : RMode) (sat : Bool) (dth : Word) : FVal → Int × Flags
  | .nan _ => (0, fNV)
  | .inf neg => if sat then (if neg then intLo signed n else intHi signed n, fSAT) else (0, fNV)
  | .fin neg m e =>
    let (k, inex) := roundInt mode dth neg m e
    let nx := flagIf inex fNX
    if intLo signed n ≤ k ∧ k ≤ intHi signed n then (k, nx)
    else if sat then ((clampInt k (intLo signed n) (intHi signed n)).1, fSAT ||| nx)
    else (if signed then sextNat (wrapInt k n) n else wrapInt k n, fNV ||| nx)

/-- Narrowing of an integer (R48): `sats` or `satu`, or the low bits and no flag. -/
def narrowInt (signed : Bool) (n : Nat) (sat : Bool) (x : Int) : Int × Flags :=
  if sat then (if signed then sats x n else satu x n)
  else (if signed then sextNat (wrapInt x n) n else wrapInt x n, noFlags)

/-- One BFPm member M × 2^(E − 127 − (m − 2)) expanded to FP32 (R136). -/
def dqMember (m : Nat) (mant : Int) (e : Nat) : Nat × Flags :=
  if e = 0 then (0, noFlags)
  else if e = 0xFF then (fp32.nanBits, fNV)
  else roundRNE fp32 (decide (mant < 0)) mant.natAbs ((e : Int) - 127 - ((m : Int) - 2))

/-- e_k of R52: ⌊log2|x|⌋ + 127 of a finite non-zero value, none for zero. -/
def blockExp : FVal → Option Int
  | .fin _ m e => if m = 0 then none else some ((Nat.log2 m : Int) + e + 127)
  | _ => none

/-- The shared exponent E of a block of FP32 values (R52). -/
def blockScale (xs : List FVal) : Nat :=
  if xs.any (fun x => x.isNaN || (match x with | .inf _ => true | _ => false)) then 0xFF
  else match xs.filterMap blockExp with
    | [] => 0
    | es => (es.foldl max 1).toNat

/-- The mantissa of one member under E with its flags SAT and NX (R52). -/
def blockMant (m : Nat) (mode : RMode) (dth : Word) (e : Nat) (x : FVal) : Int × Flags :=
  if e = 0 ∨ e = 0xFF then (0, noFlags) else
  match x with
  | .fin n mm ee =>
    let step : Int := (e : Int) - 127 - ((m : Int) - 2)
    let (k, inex) := roundInt mode dth n mm (ee - step)
    let (c, sf) := sats k m
    (c, sf ||| flagIf (inex || c != k) fNX)
  | _ => (0, noFlags)

/-! ## Bit-defined functions (R127 to R131) -/

/-- rnd(a / b) of R127. -/
def rndDiv (a b : Nat) : Nat := (2 * a + b) / (2 * b)

/-- x = ±M × 2^(e − 23) with 2^23 ≤ M < 2^24 (R127), from m × 2^e0. -/
def normM (m : Nat) (e0 : Int) : Nat × Int :=
  let s := 23 - Nat.log2 m
  (m * 2 ^ s, e0 + 23 - s)

/-- The delivered encoding and OF, UF of `round_to`(v, FP32, RNE), with NX as the caller finds it (R127). -/
def bitDefined (neg : Bool) (z : Nat) (e : Int) (nx : Nat → Bool) : Nat × Flags :=
  let (b, fl) := roundRNE fp32 neg z e
  (b, (fl &&& (fOF ||| fUF)) ||| flagIf (nx b) fNX)

/-- The delivered value times 2^e × m is exactly one. -/
def isRecipOf (m : Nat) (e : Int) (b : Nat) : Bool :=
  match decodeF fp32 b with
  | .fin _ mb eb => decide ((mb * m : Nat) = 2 ^ (-(e + eb)).toNat ∧ e + eb ≤ 0)
  | _ => false

/-- FRCP (R128). -/
def fRcp (a : Nat) : Nat × Flags :=
  match decodeF fp32 a with
  | .nan s => (fp32.nanBits, flagIf s fNV)
  | .inf n => (fp32.signed n 0, noFlags)
  | .fin n m e0 =>
    if m = 0 then (fp32.signed n fp32.infBits, fDZ) else
    let (mm, e) := normM m e0
    let tr := rndDiv (2 ^ 24) (257 + 2 * ((mm - 2 ^ 23) / 2 ^ 16))
    let y1 := tr * (2 ^ 40 - mm * tr) / 2 ^ 25
    let z := y1 * (2 ^ 54 - mm * y1) / 2 ^ 52
    bitDefined n z (-31 - e) (fun b => !isRecipOf mm (e - 23) b)

/-- The delivered value squared times m × 2^e is exactly one. -/
def isRsqrtOf (m : Nat) (e : Int) (b : Nat) : Bool :=
  match decodeF fp32 b with
  | .fin _ mb eb => decide ((mb * mb * m : Nat) = 2 ^ (-(e + 2 * eb)).toNat ∧ e + 2 * eb ≤ 0)
  | _ => false

/-- Ts[i] of R129: 2^16 ÷ √c rounded half up, c = (129 + 2j) × 2^odd ÷ 128. -/
def rsqTable (odd j : Nat) : Nat := (isqrt 20 (2 ^ 41 / ((129 + 2 * j) * 2 ^ odd)) + 1) / 2

/-- FRSQ (R129). -/
def fRsq (a : Nat) : Nat × Flags :=
  match decodeF fp32 a with
  | .nan s => (fp32.nanBits, flagIf s fNV)
  | .inf n => if n then (fp32.nanBits, fNV) else (0, noFlags)
  | .fin n m e0 =>
    if m = 0 then (fp32.signed n fp32.infBits, fDZ)
    else if n then (fp32.nanBits, fNV) else
    let (mm, e) := normM m e0
    let odd := (e % 2).toNat
    let m' := mm * 2 ^ odd
    let e' := e - odd
    let ts := rsqTable odd ((mm - 2 ^ 23) / 2 ^ 17)
    let y1 := ts * (3 * 2 ^ 55 - m' * ts * ts) / 2 ^ 42
    let z := y1 * (3 * 2 ^ 83 - m' * y1 * y1) / 2 ^ 83
    bitDefined false z (-31 - e' / 2) (fun b => !isRsqrtOf mm (e - 23) b)

def log2Table0 : List Nat := [0, 12343741498, 24587619423, 36753328061, 48813363216, 60789731758, 72654487604, 84455482025, 96164898178, 107780040347, 119324280320, 130769150429, 142138347395, 153429636200, 164640757070, 175769426152]
def log2Table1 : List Nat := [186840566049, 197824995057, 208720360839, 219552087062, 230290359896, 240989115252, 251590323629, 262120084570, 272605234990, 282986554588, 293348896862, 303603507088, 313806840175, 323927782511, 334024079952, 344004643453]
def log2Table2 : List Nat := [353957632546, 363851682745, 373654658570, 383426122190, 393134099388, 402777046852, 412353408166, 421893193218, 431363619237, 440763092190, 450122152539, 459439749926, 468682297919, 477880870114, 487034382776, 496108649397]
def log2Table3 : List Nat := [505135279178, 514146627109, 523074817263, 531951996177, 540811057215, 549582961203, 558334809903, 567031394574, 575671535224, 584254043532, 592812894807, 601312090397, 609785967733, 618198134173, 626547361641, 634904649366]
def log2Table4 : List Nat := [643160969199, 651423990897, 659620222315, 667748399573, 675881377701, 683944510137, 691973954212, 699968987149, 707928880049, 715852897969, 723702102195, 731551952119, 739325111008, 747097783025, 754830818136, 762484304038]
def log2Table5 : List Nat := [770135563562, 777744863320, 785311418751, 792874339776, 800353221954, 807827254297, 815255733298, 822637850412, 830013637405, 837341810017, 844621546277, 851893432195, 859115603272, 866287225080, 873449438194, 880601967298]
def log2Table6 : List Nat := [887702175658, 894749212765, 901784960258, 908809127571, 915778306346, 922734934785, 929635218861, 936521968218, 943351003927, 950165506884, 956965162004, 963749651369, 970474026788, 977182212593, 983873881354, 990503508347]
def log2Table7 : List Nat := [997115576278, 1003709748589, 1010285686037, 1016843046712, 1023335346342, 1029854327118, 1036307170744, 1042739663948, 1049151451227, 1055542174577, 1061911473509, 1068211521398, 1074536690593, 1080791497597, 1087071065698, 1093279150818]
/-- L[i] of R130: −log₂(Rc[i] ÷ 2^16) × 2^40 rounded half up. -/
def log2Table : List Nat := log2Table0 ++ log2Table1 ++ log2Table2 ++ log2Table3 ++ log2Table4 ++ log2Table5 ++ log2Table6 ++ log2Table7

def exp2Table0 : List Nat := [1073741824, 1085434106, 1097253708, 1109202018, 1121280436, 1133490379, 1145833280, 1158310587, 1170923762, 1183674286, 1196563654, 1209593378, 1222764986, 1236080024, 1249540052, 1263146652]
def exp2Table1 : List Nat := [1276901417, 1290805962, 1304861917, 1319070932, 1333434672, 1347954824, 1362633090, 1377471191, 1392470869, 1407633882, 1422962010, 1438457051, 1454120821, 1469955159, 1485961921, 1502142985]
def exp2Table2 : List Nat := [1518500250, 1535035634, 1551751076, 1568648537, 1585730000, 1602997467, 1620452965, 1638098541, 1655936265, 1673968228, 1692196547, 1710623359, 1729250827, 1748081133, 1767116489, 1786359126]
def exp2Table3 : List Nat := [1805811301, 1825475297, 1845353420, 1865448001, 1885761398, 1906295993, 1927054196, 1948038440, 1969251188, 1990694927, 2012372174, 2034285470, 2056437387, 2078830522, 2101467502, 2124350982]
/-- E[i] of R131: 2^(30 + i/64) rounded half up. -/
def exp2Table : List Nat := exp2Table0 ++ exp2Table1 ++ exp2Table2 ++ exp2Table3

/-- Kc of R130: 2^30 ÷ ln 2 rounded half up. -/
def kLog2 : Int := 1549082005
/-- Ln of R131: 2^30 × ln 2 rounded half up. -/
def kLn : Nat := 744261118

/-- FLOG2 (R130). The logarithm is a dyadic only for a power of two, so NX is set for every other operand. -/
def fLog2 (a : Nat) : Nat × Flags :=
  match decodeF fp32 a with
  | .nan s => (fp32.nanBits, flagIf s fNV)
  | .inf n => if n then (fp32.nanBits, fNV) else (fp32.infBits, noFlags)
  | .fin n m e0 =>
    if m = 0 then (fp32.signed true fp32.infBits, fDZ)
    else if n then (fp32.nanBits, fNV) else
    let (mm, e) := normM m e0
    let i := (mm - 2 ^ 23) / 2 ^ 16
    let u : Int := (mm * rndDiv (2 ^ 23) (128 + i) : Nat) - (2 ^ 39 : Int)
    let p := u - Int.fdiv (u ^ 2) (2 ^ 40) + Int.fdiv (u ^ 3) (3 * 2 ^ 78) - Int.fdiv (u ^ 4) (2 ^ 119)
    let q := Int.fdiv (p * kLog2) (2 ^ 30)
    let v := e * 2 ^ 40 + (log2Table.getD i 0 : Nat) + 2 * q
    bitDefined (decide (v < 0)) v.natAbs (-40) (fun _ => mm != 2 ^ 23)

/-- FEXP2 (R131). 2^x is a dyadic only for an integer x. -/
def fExp2 (a : Nat) : Nat × Flags :=
  match decodeF fp32 a with
  | .nan s => (fp32.nanBits, flagIf s fNV)
  | .inf n => (if n then 0 else fp32.infBits, noFlags)
  | .fin n m e =>
    let v := if n then negVal (.fin false m e) else .fin false m e
    if !ltVal v (.fin false 128 0) then (fp32.infBits, fOF ||| fNX)
    else if ltVal v (.fin true 150 0) then (0, fUF ||| fNX) else
    let x24 : Int := if 0 ≤ e + 24 then scaled n m (e + 24) 0
      else Int.fdiv (if n then -(m : Int) else m) (2 ^ (-(e + 24)).toNat)
    let nn := Int.fdiv x24 (2 ^ 24)
    let fr := (x24 % 2 ^ 24).toNat
    let i := fr / 2 ^ 18
    let g := fr % 2 ^ 18
    let h := g * kLn / 2 ^ 24
    let p := 2 ^ 30 + h + h ^ 2 / 2 ^ 31 + h ^ 3 / (3 * 2 ^ 61)
    let z := exp2Table.getD i 0 * p / 2 ^ 30
    let whole := eqVal v (.fin (decide (nn < 0)) nn.natAbs 0)
    let r := roundRNE fp32 false z (nn - 30)
    bitDefined false z (nn - 30) (fun _ => !whole || (r.2 &&& fNX) != 0)

end Sys2Proof.Machine
end

