-- ==== Sys2Proof/Machine/State.lean ====
section
/-! DEFINITION. The state of the DV480 as plain data: every piece of state the spec names, and the agenda that holds
what is already decided to happen at a later cycle. Numbered parts of the fabric are sparse maps keyed by number:
tile 144·die + 12·y + x, VE and ME 8·tile + index, slot 8·VE + slot. -/

namespace Sys2Proof.Machine

/-! ## The outcomes that are not a next state -/

/-- Why the machine stops. -/
inductive Fault where
  /-- Raised by a step that would act on a tile, VE, Teller, link or context number that the device does not have
  (R3): safe, no such unit exists. -/
  | noSuchUnit
deriving DecidableEq, Repr

/-- Why the model refuses. -/
inductive Refusal where
  /-- Raised by the dispatch of a step that has no meaning yet: safe, the machine stops where the device goes on. -/
  | notModelled (mnemonic : String)
deriving DecidableEq, Repr

/-! ## Slots (R15, R25 to R27, R30, R32) -/

/-- The states of a slot (R30). -/
inductive SlotState where
  | unbound | bound | armed | running | draining | frozen | saved
deriving DecidableEq, Repr

/-- A determinism level (R35, R266). -/
inductive Level where
  | t | d | f
deriving DecidableEq, Repr

/-- The state of one slot. -/
structure Slot where
  st : SlotState
  o : Map Vec
  q0 : Vec
  q1 : Vec
  q2 : Vec
  q3 : Vec
  p : Map Mask
  k : Map Word
  c : Map (BitVec 128)
  ic : Word
  dth : Vec
  flg : Flags
  /-- The cycle of the last completion that raised flags, and the flags raised in it (R24). -/
  flgAt : Nat
  flgNow : Flags
  opp : Nat
  rtp : Nat
  rap : Nat
  ia : BitVec 11
  hrw : BitVec 16
  haw : BitVec 16
  cause : Word
  epc : Word
  /-- The shadow of MCNT.HI; none since arm before the first MCNT.LO read (R32). -/
  shadow : Option Word
  mk0 : Word
  mk1 : Word
  mtid : Word
  mcz : Word
  /-- Position of the open QBLK block, 0 to 32 (R137). -/
  qpos : Nat
  /-- Where the slot's rings stand in the instruction memory (R25, R69). -/
  rings : Config.Rings
  pwsel : Word
  iwlo : Map Word
  iwhi : Map Word
  /-- Values that arm gives: the loaded capabilities, the DTH seed and the graph seed (R15, R174). -/
  loadedC : Map (BitVec 128)
  dthSeed : Vec
  gseed : BitVec 64
  /-- The block start cycle from which start offsets count (R107, R311). -/
  start : Nat
  /-- The launch that the slot runs for, at levels D and F (R306). -/
  launch : Option Nat
  /-- The Almanac entry that the slot runs for, at level T: 4096·(256·context + Almanac) + entry (R268). -/
  entry : Option Nat
  /-- The number of the slot's next result in issue order (R22, R31). -/
  seq : Nat
  /-- The phase a BAR.ARVW waits to leave, once it has arrived (R167). -/
  arvw : Option Bool
  /-- The cycle at which a W-kind hold of the slot began (R153). -/
  heldSince : Option Nat
  /-- The cycles from the block start at which holds end, by position, as the loader derived them at level T: one for each time
  that the block holds there (R153). -/
  holdEnd : Map (List Nat)
  /-- The Meridian count from which a standing pre-emption request takes safe points (R318). -/
  preempt : Option Nat
  /-- A DONE of the slot has taken its action since arm, so it issues no more (R107). -/
  ended : Bool
  /-- Commands of the slot's block that DONE.ABANDON discarded (R108). -/
  abandoned : Nat
  /-- The blocks that the slot holds, as block index to entry address and assay group (R78, R236, R280), and the index of
  the one that launches of its kernel start. -/
  blocks : Map (Nat × Nat)
  kernBlock : Nat
  /-- The index of the block that the slot runs, the one of its last arm (R269, R280). -/
  block : Nat
  /-- The registers that a save at each of its safe points keeps: vector, scalar and operand masks by word address (R15,
  R109). -/
  live : Map (Nat × Nat × Nat)
  /-- The registers that the save in progress keeps; operand file in bits 0 to 7, last-result file in bits 8 to 11. -/
  keep : Nat × Nat × Nat
deriving DecidableEq, Repr

/-- A slot after reset: UNBOUND (R30), predicates all ones as at arm, everything else zero. -/
def Slot.reset : Slot :=
  { st := .unbound, o := [], q0 := 0, q1 := 0, q2 := 0, q3 := 0, p := [], k := [], c := [], ic := 0, dth := 0
    flg := 0, flgAt := 0, flgNow := 0, opp := 0, rtp := 0, rap := 0, ia := 0, hrw := 0, haw := 0, cause := 0, epc := 0, shadow := none
    mk0 := 0, mk1 := 0, mtid := 0, mcz := 0, qpos := 0, rings := Config.Rings.none, pwsel := 0
    iwlo := [], iwhi := [], loadedC := [], dthSeed := 0, gseed := 0, start := 0, launch := none
    entry := none, seq := 0, arvw := none, heldSince := none, holdEnd := [], preempt := none, ended := false, abandoned := 0, blocks := [], kernBlock := 0, block := 0, live := [], keep := (0, 0, 0) }

/-! ## Elements (R28, R29, R31, R68, R87, R137) -/

/-- Where a result goes, fixed at issue (R62, R63, R85). -/
inductive DestKind where
  /-- A register of class 0, 1, 2, 4 or 5, or class 3: the port alone. -/
  | value
  /-- A predicate (compare-class opcodes). -/
  | predicate
  /-- FLG, the one writable special register (R228). -/
  | flags
  /-- A capability register (K kind). -/
  | capability
  /-- Output token `pos` of a block of the quantiser (R138). -/
  | quant (block pos : Nat)
  /-- A scalar register written without a last-result shift: the link and loop counts (R104, R105). -/
  | link
deriving DecidableEq, Repr

/-- A result in flight, with the fields that R31 records. -/
structure Result where
  slot : Nat
  seq : Nat
  /-- The cycle at whose end the result completes. -/
  due : Nat
  kind : DestKind
  dcls : Nat
  didx : Nat
  fan : BitVec 6
  phase : Nat
  /-- Lanes written; the valid bits of a pushed token. -/
  lanes : Mask
  valid : Mask
  value : Vec
  flags : Flags
  /-- The result of an I-kind instruction (R87). -/
  iter : Bool
deriving DecidableEq, Repr

/-- A result held in the flight record with its remaining count NREM (R31). -/
structure Held where
  res : Result
  nrem : Nat
deriving DecidableEq, Repr

/-- A token in an output queue; `seq` is the place of its instruction in the slot's issue order, `leave` the cycle in which it leaves, once
that is fixed (R242, R316). -/
structure OutTok where
  tok : Token
  phase : Nat
  slot : Nat
  seq : Nat
  leave : Option Nat
deriving DecidableEq, Repr

/-- One block of the quantiser (R137, R138): the issue cycle, place in issue order, fan-out and phase of each position so far,
the inputs, and once token 0 has completed the 33 output tokens. -/
structure QBlock where
  id : Nat
  slot : Nat
  m : Nat
  s5 : Word
  times : List Nat
  seqs : List Nat
  fans : List (BitVec 6 × Nat)
  inputs : List Vec
  outs : List Vec
deriving DecidableEq, Repr

/-- The state of one VE. -/
structure Elem where
  pv : Map Vec
  ps : Map Word
  /-- Registers whose protection word is poisoned (R326). -/
  pvPoison : List Nat
  psPoison : List Nat
  bind : Map Word
  s1 : Word
  s2 : Word
  s3 : Word
  s4 : Word
  s5 : Word
  s6 : Word
  blocked : Bool
  imem : Map Word
  imemPoison : List Nat
  xtab : Map Word
  ytab : Map Word
  flight : List Result
  record : List Held
  /-- Busy until this cycle (R87). -/
  iterUntil : Nat
  quant : List QBlock
  qnext : Nat
  /-- Entries reserved for results not yet complete, and tokens waiting, per target (R316). -/
  resv : Map Nat
  outq : Map (List OutTok)
  /-- The MX input queue of VEs 4 to 7 (R181). -/
  mx : List Token
  /-- The group of ring-mode slots that are timed together, by slot (R18). -/
  coupled : Map Nat
deriving DecidableEq, Repr

/-- An element after reset, with the stage words of R29. -/
def Elem.reset : Elem :=
  { pv := [], ps := [], pvPoison := [], psPoison := [], bind := [], s1 := 0, s2 := 2, s3 := 0, s4 := 0, s5 := 0
    s6 := 3, blocked := false, imem := [], imemPoison := [], xtab := [], ytab := [], flight := [], record := []
    iterUntil := 0, quant := [], qnext := 0, resv := [], outq := [], mx := [], coupled := [] }

/-- A crossing of a link: its number, whether it is crossed from its second end to its first, and the tile boundaries on
the die it leads to up to the next link or the end of the path (R265, R342). -/
structure Hop where
  link : Nat
  back : Bool
  after : Nat
deriving DecidableEq, Repr

/-- A circuit from an output circuit number to the input queue at its far end (R265): its context, the cycles to the far
end or to its first link, its link crossings, and its number on the receiving die (R343). -/
structure Circuit where
  dst : Nat
  ctx : Nat
  lead : Nat
  hops : List Hop
  num : Nat
deriving DecidableEq, Repr

/-- An input queue of a VE, and the tokens under way to it (R68). -/
structure InQueue where
  toks : List Token
  pend : Nat
deriving DecidableEq, Repr

def InQueue.reset : InQueue := { toks := [], pend := 0 }

/-! ## Memory elements and stream ports (R147, R151, R161 to R165, R295) -/

/-- What an accepted scratchpad access does (R148, R151, R159). -/
inductive AccKind where
  | load | store | release | atomic
  /-- A store to the BTE aperture (R216). -/
  | aperture
deriving DecidableEq, Repr

/-- An accepted access on its way to its bank (R147). -/
structure Access where
  slot : Nat
  seq : Nat
  kind : AccKind
  me : Nat
  /-- The flat address of its first byte. -/
  addr : Nat
  size : Nat
  /-- Lanes of a 64-byte store that are written. -/
  lanes : Mask
  data : Vec
  /-- The atomic's major opcode and variant, and the comparand of ACAS (R159). -/
  maj : Nat
  var : Nat
  cmp : Word
  scope : Nat
  issue : Nat
  /-- EPC of the access, for a poison record (R149). -/
  epc : Word
  /-- A STRL held in its ME (R151). -/
  held : Bool
deriving DecidableEq, Repr

/-- The state of one ME's bank acceptance: the cycle and the banks taken in it (R147). -/
structure MeState where
  cyc : Nat
  banks : Mask
deriving DecidableEq, Repr

def MeState.reset : MeState := { cyc := 0, banks := 0 }

/-- A run of bytes that a token event reads or writes: flat address, count, byte offset in the token, value written. -/
structure Part where
  pa : Nat
  n : Nat
  off : Nat
  val : Nat
deriving DecidableEq, Repr

/-- A token on its way through a write-direction port: owner slot and the place of the push in its issue order, walk position, token, the
number under which it is performed, which the 33 tokens of a BFP group share, and what it has still to write, fixed at its acceptance;
the first token of a group holds the group's writes (R164, R242, R295). -/
structure WToken where
  slot : Nat
  seq : Nat
  pos : Nat
  tok : Token
  id : Nat
  parts : List Part
deriving DecidableEq, Repr

/-- Who makes a Vault or DRAM request: a stream port with its walk and the token or read it asks for, a load pipe, a
copy, or a host function (R281). -/
inductive Who where
  | port (m walk ix : Nat)
  | pipe (tile ix : Nat)
  | drain (tile ix : Nat)
  | copy (id ix : Nat)
  | host (fn tag : Nat)
  /-- An entry of the radix table for walk `id` of a tile (R293). -/
  | table (tile id : Nat)
deriving DecidableEq, Repr

/-- A request to the Vault or, at levels D and F, to DRAM (R281, R283, R285). -/
structure Req where
  who : Who
  ctx : Nat
  die : Nat
  tile : Option Nat
  /-- The logical tile that a stream port's request is for (R278). -/
  lt : BitVec 10
  /-- The order in which requests of one cycle are taken at a bank (R283). -/
  key : Nat
  write : Bool
  parts : List Part
  valid : Mask
  poison : Bool
  /-- The write-direction tokens performed with it. -/
  tag : Nat
deriving DecidableEq, Repr

/-- A group of 16 blocks that a BFP read walk holds in a buffer (R295): its number, the reads still to return for each
plane, the cycles of the last returns, the bytes read by address, and the poison met. -/
structure BGroup where
  ix : Nat
  scaleLeft : Nat
  mantLeft : Nat
  scaleAt : Nat
  mantAt : Nat
  data : Map Vec
  poison : Bool
deriving DecidableEq, Repr

/-- A read that a BFP walk is still to issue: its group, whether it reads the scale plane, its address. -/
structure BRead where
  grp : Nat
  scale : Bool
  addr : Nat
deriving DecidableEq, Repr

/-- One stream port. -/
structure SPort where
  /-- The map TMSEL binds for the next ARM (R164). -/
  sel : Nat
  /-- The walk's map words as ARM found them, and its map number. -/
  mapw : List Word
  map : Nat
  /-- 0 idle, 1 running, 2 walk complete, 3 stopped by a fault (R164). -/
  state : Nat
  /-- Write direction, and the ordering kind of the object named (R246). -/
  dir : Bool
  ord : Nat
  /-- TOKS, and the walk position in tokens (R164). -/
  toks : Nat
  pos : Nat
  owner : Nat
  /-- The place of the ARM in its slot's issue order (R256). -/
  armed : Nat
  /-- The walk's number, so that events of an ended walk act on nothing, and its first cycle. -/
  walk : Nat
  begin_ : Nat
  /-- Tokens presented and not yet popped. -/
  present : List Token
  /-- A plain read walk: cycles from a request to its bank acceptance or its departure, the next request's earliest
  cycle, the tokens still to be requested, the next to be requested, those requested and not presented, and those that
  have returned ahead of their turn (R295). -/
  lat : Nat
  nextReq : Nat
  left : Nat
  reqIx : Nat
  asked : Nat
  got : Map Token
  /-- Reads whose bytes lie in several 64-byte tokens: how many of their events are to come, and what has come, by the read's number
  (R242, R250). -/
  parts : Map (Nat × Token)
  /-- A BFP read walk: the group buffers, the reads still to issue, the next group, the next token of the oldest group,
  and the cycles of its scale token and of the last token presented. -/
  bfp : Bool
  groups : List BGroup
  reads : List BRead
  nextGrp : Nat
  gpos : Nat
  scaleShown : Nat
  lastShown : Nat
  /-- Tokens pushed and not yet accepted, accepted and not yet performed, and UN tokens held to be merged (R295). -/
  input : List WToken
  accepted : List WToken
  merge : List WToken
  /-- A walk of the radix table holds the port (R294). -/
  walking : Bool
  win : Map (List Word)
deriving DecidableEq, Repr

def SPort.reset : SPort :=
  { sel := 0, mapw := [], map := 0, state := 0, dir := false, ord := 0, toks := 0, pos := 0, owner := 0, armed := 0, walk := 0
    begin_ := 0, present := [], lat := 0, nextReq := 0, left := 0, reqIx := 0, asked := 0, got := [], parts := [], bfp := false
    groups := [], reads := [], nextGrp := 0, gpos := 0, scaleShown := 0, lastShown := 0, input := [], accepted := []
    merge := [], walking := false, win := [] }

/-- A walk of the radix table that a tile performs or has queued (R293, R294). -/
structure WalkReq where
  /-- The stream port 0 to 7, 8 for a load pipe, 9 for PREF. -/
  who : Nat
  ctx : Nat
  va : Nat
  /-- The table that it has come to, at a level from 0 on. -/
  table : Nat
  level : Nat
  write : Bool
  id : Nat
  /-- The cycle of its request. -/
  at_ : Nat
  /-- It has begun. -/
  busy : Bool
deriving DecidableEq, Repr

/-! ## Tile state (R34) -/

/-- A command that a slot has handed to an engine, until it completes or is discarded (R88, R107): the slot, the engine
(0 matrix node, 1 Lodestone node, 2 BTE), the BTE channel, whether it has begun, and whether it carries a start-cycle
offset from the block start. -/
structure Command where
  slot : Nat
  offset : Bool
  engine : Nat
  channel : Nat
  begun : Bool
deriving DecidableEq, Repr

/-- A named barrier (R167). The phase changes at the end of a cycle: `at_` is the cycle of the last change and `was` the
phase that reads of that cycle still see. `owe` holds arrivals of slots with accesses that were under way, each by slot and place in its
issue order: the phase that they complete releases those accesses (R252). -/
structure Barrier where
  n : Nat
  a : Nat
  phase : Bool
  at_ : Nat
  was : Bool
  owe : List (Nat × Nat)
deriving DecidableEq, Repr

/-- What reads of a completion counter return (R169): the count, the armed bit and the phase. -/
structure CtrView where
  c : BitVec 48
  armed : Bool
  phase : Bool
deriving DecidableEq, Repr

/-- A completion counter (R168, R170): C and E of 48 bits, scope 1 to 4 for .T, .D, .P, .S. An update holds from the end
of its cycle: `at_` is the cycle of the last update and `was` what reads of that cycle still see. -/
structure Counter where
  now : CtrView
  e : BitVec 48
  scope : Nat
  at_ : Nat
  was : CtrView
deriving DecidableEq, Repr

/-- A signature register and its armed mark (R236, R237). -/
structure Assay where
  sig : BitVec 64
  armed : Bool
deriving DecidableEq, Repr

/-- An object-cache entry (R288): context, object, generation at fill, the eight words of R289. -/
structure ObjEntry where
  ctx : Nat
  obj : Nat
  gen : Word
  words : List Word
deriving DecidableEq, Repr

/-- A translation-cache entry (R294): context, generation, page base and size, the physical base, ORD and RO. -/
structure PageEntry where
  ctx : Nat
  gen : Word
  base : Nat
  size : Nat
  pa : Nat
  ord : Nat
  ro : Bool
deriving DecidableEq, Repr

/-- The master that a cause is charged to (R6, R322). -/
inductive Master where
  | slot (n : Nat)
  | channel (tile ch : Nat)
  | tellerOwner (tl owner : Nat)
  | region (tile member : Nat)
  | lodestone (tile : Nat)
  | host (fn : Nat)
  | element (ve : Nat)
  /-- A record that freezes nothing, on account of a context: 8 is the Helm region, 15 none (R322; DEDUCED, log 41). -/
  | nobody (ctx tile : Nat)
deriving DecidableEq, Repr

/-- The structures of configuration whose uncorrectable words fail a tile's load (R326). -/
inductive CfgPart where
  | switch | map | template | descriptor | table | record | remap | object
deriving DecidableEq, Repr

/-- A tile's own state; its engines, elements and ports stand in maps of their own. -/
structure Tile where
  /-- The context that owns the tile; 8 for the Helm region, none for a tile no context owns (R2). -/
  ctx : Option Nat
  /-- The logical tile in the layout of R33. -/
  ltid : BitVec 10
  /-- The logical tile of the first copy, which seeds use for a second copy of a twin (R174). -/
  twinOf : Option (BitVec 10)
  /-- The upper halves that no run-time mark has fused off, of those that the part has, and the marks that fuse upper halves off at the
  next load boundary (R33, R282). -/
  upper : BitVec 8
  upperMark : BitVec 8
  bars : Map Barrier
  ctrs : Map Counter
  /-- The event queue, each record with the cycle at whose end it entered (R171). -/
  evq : List (Nat × BitVec 128)
  /-- Records held at their sources while the queue is full, in the order in which they will enter, each with the cycle in which it was
  posted (R172). -/
  evWait : List (Nat × BitVec 128)
  tmaps : Map (List Word)
  tmpls : Map (List Word)
  assay : Map Assay
  ocache : List ObjEntry
  ofetch : List (Nat × Nat)
  tcache : List PageEntry
  /-- Walks of the radix table, the first in progress (R294). -/
  walks : List WalkReq
  /-- MCNT less the logical cycle count of the running logical tile (R264). -/
  qoff : Nat
  /-- The fabric load on the tile, and whether the tile is retired from service (R262, R330). -/
  load : Option Nat
  failed : Bool
  /-- The configuration words that are uncorrectable, by structure and the word's index in it: a particle does this, no act of the device;
  whether the tile's load has failed since it was configured, and how often it has failed (R326, R327, R330). -/
  badCfg : List (CfgPart × Nat)
  loadBad : Bool
  loadFails : Nat
  /-- The number of the graph of which the tile has held a load since it was cleared (R190). -/
  graph : Option Nat
deriving DecidableEq, Repr

/-- A tile after reset. No upper half is fused off since reset (`upper`): the halves that the part lacks stand in `Config.upperAbsent`, and
MEMCAP joins the two (R33; DESIGN CHOICE, log 172: the spec states no reset value). -/
def Tile.reset : Tile :=
  { ctx := none, ltid := 0, twinOf := none, upper := 0xFF, upperMark := 0, bars := [], ctrs := [], evq := [], evWait := []
    tmaps := [], tmpls := [], assay := [], ocache := [], ofetch := [], tcache := [], walks := [], qoff := 0, load := none
    failed := false, badCfg := [], loadBad := false, loadFails := 0, graph := none }

def Barrier.reset : Barrier := { n := 0, a := 0, phase := false, at_ := 0, was := false, owe := [] }
def CtrView.reset : CtrView := { c := 0, armed := false, phase := false }
def Counter.reset : Counter := { now := CtrView.reset, e := 0, scope := 1, at_ := 0, was := CtrView.reset }
def Assay.reset : Assay := { sig := 0, armed := false }

/-! ## The matrix node (R175 to R188) -/

/-- A carry-save token (R53). -/
structure CsTok where
  s : BitVec 64
  c : BitVec 64
  x : Nat
  pois : Bool
deriving DecidableEq, Repr

def CsTok.empty : CsTok := { s := 0, c := 0, x := 0, pois := false }

/-- A block as the node holds it: the exponent E and the mantissa string (R51). -/
structure Blk where
  e : Nat
  str : Nat
deriving DecidableEq, Repr

def Blk.zero : Blk := { e := 0, str := 0 }

/-- A matrix command accepted by the node: its 64 bits, the table entry that fired it (0xFFFF when VE-issued), the slot
and ledger number it counts for, its begin cycle and order of acceptance (R178, R179). -/
structure MCmd where
  word : BitVec 64
  entry : Nat
  slot : Nat
  id : Nat
  begin_ : Nat
  order : Nat
deriving DecidableEq, Repr

/-- A running command: the blocks, rows or tokens done or the groups applied, the next group to take, the weight tokens
it has popped, whether it met poisoned data, whether it waits for a walk, and the tokens that its load pipe has from DRAM, by address
(R181, R182, R185, R187, R281). -/
structure MRun where
  cmd : MCmd
  next : Nat
  take : Nat
  buf : List Token
  pois : Bool
  wait : Bool
  toks : Map Token
deriving DecidableEq, Repr

/-- Activation groups that the node fetches from stream ports for one command (R181): the ledger number of the command,
none while its table entry has not fired; the cycle in which that entry is to fire; the command word; the groups still to
be started; and the tokens popped of each group in the buffer. -/
structure Feed where
  id : Option Nat
  at_ : Nat
  word : BitVec 64
  todo : List Nat
  groups : Map (List Token)
deriving DecidableEq, Repr

/-- The state of a tile's matrix node. -/
structure MNode where
  opd : Map (List Word)
  table : Map (BitVec 64)
  period : Nat
  /-- The cycle at which the slot counter is 0; none while it is stopped. -/
  counter : Option Nat
  /-- The slot that armed the table (R188). -/
  owner : Nat
  /-- Last table entry fired (R186). -/
  last : Nat
  /-- Weight block b of bank k at 128·k + b, and the format of each bank. -/
  wts : Map Blk
  /-- The weight blocks, by their place in `wts`, that were loaded from poisoned data (R182). -/
  badw : List Nat
  mw0 : Nat
  mw1 : Nat
  /-- Accumulator token of row r and column n at 64·r + n. -/
  acc : Map CsTok
  nmode : Nat
  nflags : Flags
  queue : List MCmd
  /-- First cycle at which the node can accept another command (R88, R179). -/
  free : Nat
  wld : List MRun
  act : Option MRun
  drn : Option MRun
  norm : List MRun
  /-- Activation groups whose partials are not applied yet (R181). -/
  pipe : Map (List Blk)
  feed : List Feed
  /-- The cycle of the last table firing for which the buffer has been filled. -/
  fed : Nat
  /-- First cycle in which the buffer can pop again, at most one token a cycle from each port (R181). -/
  popAt : Nat
  /-- The region's clock is gated for missing operands (R182). -/
  gated : Bool
  /-- The node stops at its next row-progress point (R185). -/
  stopping : Bool
  frozen : Bool
  /-- The slots whose commands it held when it froze (R271, R324). -/
  blame : List Nat
deriving DecidableEq, Repr

def MNode.reset : MNode :=
  { opd := [], table := [], period := 1, counter := none, owner := 0, last := 0, wts := [], badw := [], mw0 := 2, mw1 := 2, acc := []
    nmode := 0, nflags := 0, queue := [], free := 0, wld := [], act := none, drn := none, norm := [], pipe := []
    feed := [], fed := 0, popAt := 0, gated := false, stopping := false, frozen := false, blame := [] }

/-! ## The Lodestone node (R190 to R196) -/

/-- A queued Lodestone command: major opcode and variant, the A value and the B word, the flat address that its
capability operand names, its slot and its number among the commands (R195, R196). -/
structure LCmd where
  maj : Nat
  var : Nat
  a : Vec
  b : Word
  addr : Nat
  slot : Nat
  id : Nat
  acc : Nat
deriving DecidableEq, Repr

/-- The state of a tile's Lodestone node. -/
structure LNode where
  /-- P-bit states and clamp mask, p-bit i at bit i (R59). -/
  m : BitVec 4096
  clamp : BitVec 4096
  /-- J[i][n] at 16·i + n, h[i], count[i]. -/
  j : Map (BitVec 8)
  h : Map (BitVec 16)
  count : Map Nat
  /-- Couplings (16·i + n) and biases (65536 + i) that were loaded from poisoned memory (R196). -/
  bad : List Nat
  beta : BitVec 16
  seed : BitVec 64
  swn : Word
  lkey : Word
  /-- Valid neighbour slots at 16·i + n, colours, and NCOL (R191). -/
  nb : Map Nat
  colour : Map Nat
  ncol : Nat
  queue : List LCmd
  run : Option LCmd
  /-- Sweeps of the running command that have completed, and the next colour. -/
  sweeps : Nat
  next : Nat
  /-- The running command met poisoned data (R187). -/
  met : Bool
  free : Nat
  /-- A stop is due at the end of the colour in progress; it has been reached (R196). -/
  stopping : Bool
  stopped : Bool
  frozen : Bool
  /-- The slots whose commands it held when it froze (R271, R324). -/
  blame : List Nat
deriving DecidableEq, Repr

def LNode.reset : LNode :=
  { m := 0, clamp := 0, j := [], h := [], count := [], bad := [], beta := 0x0100, seed := 0, swn := 0, lkey := 0, nb := []
    colour := [], ncol := 1, queue := [], run := none, sweeps := 0, next := 0, met := false, free := 0, stopping := false
    stopped := false, frozen := false, blame := [] }

/-! ## The block-transfer engine (R213 to R223) -/

/-- A copy: the tile, its logical tile at the start, channel, template and slot that started it, the result number of the start instruction (R255), its
captured template, its begin cycle and order of acceptance, and its progress: read requests made, tokens held in the
BTE, token writes begun, token writes accepted at their ME (for a DRAM destination, bursts issued that write), token writes performed
(bursts), and the number of tokens that are to be written, less than all where it ends early. -/
structure Copy where
  tile : Nat
  lt : BitVec 10
  chan : Nat
  tmpl : Nat
  slot : Nat
  bound : Nat
  ws : List Word
  begin_ : Nat
  order : Nat
  seq : Nat
  running : Bool
  read : Nat
  held : Map Token
  wr : Nat
  acc : Nat
  done : Nat
  lim : Nat
  /-- A DRAM-side copy (R219): repeats posted; the places that it has reserved in the Teller's buffer; the tokens held at the Teller; the
  first half of a token that has been read, by its index. -/
  posted : Nat
  resv : Nat
  at_ : Map Token
  half : Map Token
  /-- The copy ends early, with this status and cause (R222, R223). -/
  stop : Option (Nat × Nat)
  /-- What its objects were when it began: whether its source, and its destination, lie in DRAM; the sub-channel; the logical tile that
  holds a destination in scratchpad (R220, R223, R281). -/
  sdram : Bool
  ddram : Bool
  tl : Nat
  holder : Option (BitVec 10)
deriving DecidableEq, Repr

/-- A BTE channel: frozen with a cause, the next copy number, the copy that it performs (R217, R218). -/
structure Chan where
  frozen : Bool
  cause : Nat
  seq : Nat
  run : Option Nat
  /-- The slots whose copies it carried when it froze: its offending master (R271, R324). -/
  blame : List Nat
deriving DecidableEq, Repr

def Chan.reset : Chan := { frozen := false, cause := 0, seq := 0, run := none, blame := [] }

/-- A tile's BTE: the first cycle in which it can accept a start, the cycles before which its last token read and write
began, and the aperture starts that wait: channel, template, slot, result number (R216 to R218). -/
structure Bte where
  free : Nat
  rdAt : Nat
  wrAt : Nat
  waiting : List (Nat × Nat × Nat × Nat)
deriving DecidableEq, Repr

def Bte.reset : Bte := { free := 0, rdAt := 0, wrAt := 0, waiting := [] }

/-! ## Tellers (R198 to R212) -/

/-- A program run at a Teller: its number, owner kind (1 graph, 3 upkeep) and context, the copy it carries, its channel and the
repeat, the program, the run's first CK and its slots, the next command, the bursts so far, and what R204, R207 and R208
need: bases, the object range [lo, hi) on the sub-channel, whether its data commands are suppressed, whether it was
displaced, and the banks it has opened. -/
structure TRun where
  id : Nat
  kind : Nat
  ctx : Nat
  copy : Nat
  tile : Nat
  chan : Nat
  rep : Nat
  prog : Nat
  start : Nat
  ns : Nat
  ix : Nat
  burst : Nat
  bank0 : Nat
  row0 : Nat
  col0 : Nat
  lo : Nat
  hi : Nat
  bad : Bool
  displaced : Bool
  opened : List Nat
deriving DecidableEq, Repr

/-- A Teller. Past commands stand in `hist` by code: bank b's ACT at b, RD at 16 + b, end of write data at 32 + b,
precharge at 48 + b, REFPB at 64 + b, recovery precharge at 80 + b; of the sub-channel the last read burst 96, write
burst 97, end of write data 98, PREA 99, REFAB 100, MRW 101, MRR 102, ZQS 103, ZQL 104. -/
structure Tel where
  owner : Map Word
  store : Map Word
  storePoison : List Nat
  progs : Map Word
  tt : Map Word
  trdy : Bool
  trefi : Nat
  maxpost : Nat
  debt : BitVec 8
  rlapse : Bool
  tmpma : BitVec 8
  tmplim : BitVec 8
  /-- The status that MRR writes. -/
  mrr : BitVec 8
  /-- Mode registers of the DRAM that MRW has written. -/
  mrs : Map (BitVec 8)
  /-- REFPB commands since reset. -/
  refpb : Nat
  hist : Map Nat
  /-- The last four ACT commands. -/
  acts : List Nat
  /-- Banks that are open, with the row and the run that opened each; the CK of the implied precharge after which a bank is open no
  more; the banks that the Teller is to precharge itself, or has found late (R206, R208); and the first CK at which the command bus is
  free; the bus as it is without recovery precharges. -/
  openRow : Map Nat
  openRun : Map Nat
  closing : Map Nat
  recov : List Nat
  bus : Nat
  busOwn : Nat
  /-- Runs posted and not ended, in order of their start. -/
  runs : List TRun
  /-- Host accesses that wait, each with the CK of the slot that it is to be served in, 0 while there is none; stream accesses that wait,
  each with the CK of its arrival (R212, R281). -/
  hostq : List (Nat × Nat)
  streamq : List (Nat × Nat)
  /-- Timing writes that wait until no program is pending (R205). -/
  ttq : List (Nat × Word)
  /-- Contexts whose graph programs, and whether the upkeep programs, are no longer issued (R324). -/
  frozen : List Nat
  /-- Tokens reserved in the read and in the write buffer (R219). -/
  rbuf : Nat
  wbuf : Nat
  /-- Entries of the program table that the Helm upkeep graph's programs hold, whose CTX field names no context (R203, R210). -/
  upkeep : List Nat
deriving DecidableEq, Repr

/-- A Teller after reset (R205, R209). -/
def Tel.reset : Tel :=
  { owner := [], store := [], storePoison := [], progs := [], tt := [], trdy := false, trefi := 0, maxpost := 8, debt := 0
    rlapse := false, tmpma := 0, tmplim := 0, mrr := 0, mrs := [], refpb := 0, hist := [], acts := [], openRow := [], openRun := []
    closing := [], recov := [], bus := 0, busOwn := 0, runs := [], hostq := [], streamq := [], ttq := [], frozen := [], rbuf := 0, wbuf := 0
    upkeep := [] }

/-! ## Replies to the host (R212, R359) -/

/-- A completion that the device returns to a host function: the request's tag, 0 for success or the PCIe status, and
the data of a read. -/
structure HostReply where
  fn : Nat
  tag : Nat
  status : Nat
  data : Vec
  poison : Bool
deriving DecidableEq, Repr

/-! ## Dies (R323, R325) -/

/-- A fault record, by the fields of R322, the launches that it is charged to (R327), and the mark of a lost block, for which
R322 has no field (R139). -/
structure FaultRec where
  cause : Nat
  mkind : Nat
  ctx : Nat
  mid : Nat
  ltid : Nat
  ptid : Nat
  seq : Nat
  mcnt : Nat
  detail : Nat
  launches : List Nat
  /-- The freeze discards an open QBLK block of the slot (R139). -/
  lost : Bool
deriving DecidableEq, Repr

/-- Per-die state. -/
structure Die where
  /-- The fault FIFO, the records lost since it overflowed, and the next SEQ (R323). -/
  fifo : List FaultRec
  lost : Nat
  seq : Nat
  /-- Corrected errors and thresholds per memory class (R325). -/
  ecc : Map Nat
  eccLimit : Map Nat
  /-- The die's Meridian count less the port die's (R353). -/
  skew : Int
  down : Bool
  /-- Generation numbers of the contexts as the die holds them (R298). -/
  gens : Map Word
  /-- The Vault partition registers: contexts 0 to 7, and 8 for the Helm region (R284). -/
  parts : Map Word
deriving DecidableEq, Repr

def Die.reset : Die :=
  { fifo := [], lost := 0, seq := 0, ecc := [], eccLimit := [], skew := 0, down := false, gens := [], parts := [] }

/-! ## Almanacs (R268, R269, R275) -/

/-- An Almanac entry: the four words of R269, the logical tiles on which it has slots or that it reconfigures, and the load whose
blocks BLK and DRB number (R280). -/
structure AlmEntry where
  words : List Word
  tiles : List (BitVec 10)
  load : Nat
deriving DecidableEq, Repr

/-- An Almanac: its frame length L, its waypoint positions, its role (1 degraded, 2 low DRAM traffic, 0 neither, R328)
and its entries. -/
structure Almanac where
  frame : Nat
  waypoints : List Nat
  role : Nat
  entries : Map AlmEntry
deriving DecidableEq, Repr

def Almanac.reset : Almanac := { frame := 1, waypoints := [], role := 0, entries := [] }

/-! ## Requests of the Helm region (R231, R395 to R398) -/

/-- A Helm request that its target has collected: its kind (0 RTE, 1 to 3 ESCROW.GRANT, .REVOKE and .DRAIN, 4 GENUP, 5
REMAP), A and B, the issuing tile, its action cycle, the A, B and tile of the other copy of a twin, whether it has been acted on, and the
accesses that an acknowledgement waits for (R298). -/
structure HelmReq where
  kind : Nat
  a : Word
  b : Vec
  tile : Nat
  due : Nat
  twin : Option (Word × Vec × Nat)
  acted : Bool
  wait : List Nat
deriving DecidableEq, Repr

/-- A request to a configuration port: 0 OPEN, 1 WR, 2 SEAL, 3 CLEAR; A, B with its valid lanes, and the issuing tile
(R397). -/
structure CfgReq where
  op : Nat
  a : Word
  b : Vec
  valid : Mask
  src : Nat
deriving DecidableEq, Repr

/-- The states of a configuration port; a Helm or fused-off tile is FIXED (R397). -/
inductive CfgSt where
  | empty | loading | sealed | placed
deriving DecidableEq, Repr

/-- A tile's configuration port: CBASE, CRC, ERR and poisoned readback, the words written since OPEN, the requests that
it has not served yet and the cycle in which it is free; and the words of R396 that only the seal, the walkers or the
object cache use: tensor ids, preload entries, the graph seed, walker records. -/
structure CfgPort where
  st : CfgSt
  cbase : Nat
  crc : Word
  err : Bool
  pois : Bool
  written : List Nat
  queue : List CfgReq
  free : Nat
  tids : Map Word
  preload : Map Word
  seedLo : Word
  seedHi : Word
  recs : Map Word
deriving DecidableEq, Repr

def CfgPort.reset : CfgPort :=
  { st := .empty, cbase := 0, crc := 0, err := false, pois := false, written := [], queue := [], free := 0, tids := [], preload := []
    seedLo := 0, seedHi := 0, recs := [] }

/-! ## Launches (R306 to R319) -/

/-- Where a launch stands: a device LAUNCH on its way, pending, its arm request sent, running, asked to save. -/
inductive LaunchSt where
  | sent | pending | armed | running | saving
deriving DecidableEq, Repr

/-- A saved slot: its number, its own state, the window registers that it keeps, its flight record and the quantiser blocks
whose tokens stand there (R15, R31, R109, R319). -/
structure SavedSlot where
  slot : Nat
  own : Slot
  v : Map Vec
  s : Map Word
  record : List Held
  quant : List QBlock
deriving DecidableEq, Repr

/-- A launch: its context, word 0 of its packet (for a device launch, EVR in bit 23) and whether the host sent it, the
parent's home, kernel, priority, `s0` value, a device launch's capabilities, dependences (home, counter, PH), the counter to
credit (home and counter; a home is 1024·tile + LTID), escrow entries, its place in read order, how often it has been passed over, its slots, those retired, the commands
that DONE.ABANDON discarded, its start cycle, the status and cause that a trap table's discard has given it, whether it
is a restart, its saved slots, the matrix, Lodestone and copy commands saved with their remaining offsets, the cycle of the
save, and the nodes of its tiles as they stood then (R185, R190). -/
structure Launch where
  ctx : Nat
  w0 : Word
  host : Bool
  parent : Nat
  kern : Nat
  prio : Nat
  arg : Word
  caps : List (BitVec 128)
  deps : List (Nat × Nat × Bool)
  credit : Option (Nat × Nat)
  esc : List Nat
  order : Nat
  passed : Nat
  st : LaunchSt
  slots : List Nat
  done : List Nat
  abnd : Nat
  start : Nat
  mark : Option (Nat × Nat)
  again : Bool
  saves : List SavedSlot
  ledger : Map Command
  mcmds : List MCmd
  lcmds : List LCmd
  copies : List Copy
  savedAt : Nat
  nodes : List (Nat × MNode)
  lodes : List (Nat × LNode)
deriving DecidableEq, Repr

/-! ## Walkers (R271, R272) -/

/-- The states of an Almanac entry (R272). -/
inductive WalkSt where
  | armed | run | onTime | late | failed | reserve | rOnTime | rLate
deriving DecidableEq, Repr

/-- An entry that is not IDLE: its state, its cycles S, D and P, whether every slot of its dead-reckoning block was armed,
and the assay groups compared and found to differ (R237). -/
structure Walker where
  st : WalkSt
  s : Nat
  d : Nat
  p : Nat
  drbOk : Bool
  seen : BitVec 8
  bad : BitVec 8
deriving DecidableEq, Repr

/-- A COURSE request: its issue cycle, its order among requests of one cycle (LTID, VE, slot), the Almanac (R233). -/
structure Course where
  at_ : Nat
  key : Nat
  alm : Nat
deriving DecidableEq, Repr

/-! ## Contexts (R35) -/

/-- Per-context state. -/
structure Ctx where
  live : Bool
  level : Level
  gen : Word
  /-- The virtual-die table (R300), and the logical tiles of each virtual die. -/
  vdt : Map Word
  otlen : Nat
  otoff : Nat
  /-- Escrow entries and their VALID bits (R296). -/
  escrow : Map (List Word)
  escrowOk : List Nat
  /-- Commit sets: the objects of each (R274). -/
  csets : Map (List Nat)
  /-- Almanacs by number (R262). -/
  alms : Map Almanac
  /-- The policy word, the queue pointers, the latched doorbell, CHEAD and the completion write index (R302, R303,
  R359). -/
  policy : Word
  head : Nat
  tail : Nat
  latch : Nat
  pend : Bool
  ovf : Bool
  chead : Nat
  cidx : Nat
  /-- Packets read and not yet completed; the barrier packet that has been read; its work has begun (R305, R307). -/
  outst : Nat
  barrier : Option Vec
  begun : Bool
  /-- The resident image and load (R262), the logical tiles still to be configured, the load's energy figure (R366). -/
  image : Option Config.Image
  /-- The number that the loader gave the image's graph (R190), and its first report on the last load or level change that it refused
  (R7). -/
  graph : Nat
  report : Option Config.Report
  resident : Option Nat
  toLoad : List (BitVec 10)
  energy : Nat
  /-- The active Almanac and the tick A at which its frame 0 began (R268), arm packets that wait for their A (Almanac, A), COURSE
  requests and the host's course-change packets (Almanac, word 0, cycle), and the choice made for a waypoint (R275). -/
  active : Option Nat
  base : Nat
  armReq : List (Nat × Nat)
  courses : List Course
  hostCourse : List (Nat × Word × Nat)
  decided : Option Nat
  /-- A level change that waits for a waypoint (R267). -/
  newLevel : Option Level
  /-- The audit requested and not yet run on every target, word 0 of the packet that asked for it, and whether a run of it has
  failed (R238, R305). -/
  audit : Option (Nat × Option Word × Bool)
  /-- Escrow entries that admit no new launch (R239). -/
  drained : List Nat
deriving DecidableEq, Repr

def Ctx.reset : Ctx := { live := false, level := .d, gen := 0, vdt := [], otlen := 0, otoff := 0, escrow := [], escrowOk := [], csets := [], alms := []
                         policy := 0, head := 0, tail := 0, latch := 0, pend := false, ovf := false, chead := 0, cidx := 0, outst := 0
                         barrier := none, begun := false, image := none, graph := 0, report := none, resident := none, toLoad := [], energy := 0, active := none, base := 0
                         armReq := [], courses := [], hostCourse := [], decided := none, newLevel := none, audit := none, drained := [] }

/-! ## The agenda -/

/-- What the machine does at an agenda item. -/
inductive Act where
  /-- A slot's turn: fetch, decode and issue. -/
  | issue (slot : Nat)
  /-- A Teller's command: fetch, decode and issue. -/
  | teller (tl : Nat)
  /-- An event. -/
  | ev (i : Instr) (arg : Arg)
deriving DecidableEq, Repr

/-- An item of the agenda. Its time is 16·cycle + rank, the rank ordering what happens within one cycle (R19). -/
structure Item where
  time : Nat
  act : Act
deriving DecidableEq, Repr

/-! ## Logical quanta (R278, R279) -/

/-- The save area of a logical tile that does not run: the cycle at which its time stands, and what is due on it, in logical time. Its
slots, elements, ports, engines and own state stand with those of the tiles, under the numbers of `parkedTile`. -/
structure TileSave where
  base : Nat
  due : List Item
deriving DecidableEq, Repr

/-- The rotation of a physical tile: the place that runs, the cycle in which its quantum began, the cycles by which each
place's next quantum is shortened. -/
structure Rotation where
  ix : Nat
  since : Nat
  owed : Map Nat
deriving DecidableEq, Repr

/-! ## Links (R341 to R348) -/

/-- What crosses links: its kind (1 circuit, 2 transfer, 3 Helm and host), context and circuit, the links still to
cross, the token, and what happens at the end of its path, `extra` cycles after it has arrived there. -/
structure Packet where
  kind : Nat
  ctx : Nat
  circ : Nat
  hops : List Hop
  tok : Token
  act : Act
  rank : Nat
  extra : Nat
  /-- The beat is a retry (R347). -/
  retried : Bool
deriving DecidableEq, Repr

/-- A beat that has been sent: direction, cycle, module, and its packet (R347). -/
structure Beat where
  back : Bool
  cycle : Nat
  module_ : Nat
  pkt : Nat
deriving DecidableEq, Repr

/-- A link. Owner words are numbered 256·direction + 64·module + slot. -/
structure Link where
  owner : Map Word
  /-- Beats sent or taken, the latest of each module last. -/
  sent : List Beat
  /-- Packets that wait at the receiver for a retried beat of their owner. -/
  waiting : List Nat
  /-- Packets whose beat is to be sent again. -/
  retry : List Nat
  retries : Nat
  /-- Failures of LPAR by 4096·direction + 64·module + lane, and the lanes to repair and repaired per direction and
  module (R348). -/
  lanes : Map Nat
  toFix : List Nat
  fixed : Map Nat
  faulty : Bool
  down : Bool
deriving DecidableEq, Repr

def Link.reset : Link :=
  { owner := [], sent := [], waiting := [], retry := [], retries := 0, lanes := [], toFix := [], fixed := []
    faulty := false, down := false }

/-! ## Audits (R336 to R340) -/

/-- An audit that is due: its number, the tile, link or sub-channel that it runs on, the context that asked for it (8 for
the audit manager), and whether AUDIT or an audit-request packet did (R238). -/
structure AuditJob where
  no : Nat
  target : Nat
  ctx : Nat
  asked : Bool
deriving DecidableEq, Repr

/-! ## The port die (R349 to R352, R355 to R377, R402, R403) -/

/-- The Sextant: SXCTL, SXGAIN and SXHLIM, STATE and HEXC, TRIM, IACC and TARGET, the last sample and the tick in which
it came, consecutive samples within bounds, the tick in which holdover began and whether it has been reported, TODBASE in
nanoseconds, 1PPS out and in, and the timestamps taken by each MAC. -/
structure Sextant where
  ctl : Word
  gain : Word
  hlim : Word
  state : Nat
  hexc : Bool
  trim : Int
  iacc : Int
  target : Int
  last : Int
  lastTick : Nat
  good : Nat
  since : Nat
  told : Bool
  tod : Int
  pps : Bool
  stamps : List (Nat × Nat)
deriving DecidableEq, Repr

/-- The Sextant after reset (R349). -/
def Sextant.reset : Sextant :=
  { ctl := 0x0000_1020, gain := 0, hlim := 0xFFFF_FFFF, state := 0, hexc := false, trim := 0, iacc := 0, target := 0, last := 0
    lastTick := 0, good := 0, since := 0, told := false, tod := 0, pps := false, stamps := [] }

/-- What the port die knows of a Helm image that runs or is to run: RBIX, HOVR, IDIG and the five GDIGs (R370), and the
graphs' images. -/
structure HelmImage where
  rbix : Nat
  hovr : Word
  idig : BitVec 384
  gdig : List (BitVec 384)
  graphs : List (List (BitVec 8))
deriving DecidableEq, Repr

/-- A live update: the context of its packet, words 0 and 1, Q, its stage (1 waits for Q, 2 quiesced, 3 awaits heartbeats,
4 rolls back), the new image, and EXP of the old one (R375). -/
structure Update where
  ctx : Nat
  w0 : Word
  w1 : Word
  q : Nat
  stage : Nat
  new : HelmImage
  old : Word
deriving DecidableEq, Repr

/-- Control registers and state of the port die. -/
structure PortDie where
  /-- CTXFN, CTXDESC, CTXSTAT (R355, R356). -/
  ctxfn : Map Word
  desc : Map Word
  stat : Word
  /-- The power state (7: OFF), BUSY, REFUSED, OVER and MEAS; commands that wait, each with the context and word 0 of
  its packet (R365). -/
  power : Nat
  busy : Bool
  refused : Bool
  overCap : Bool
  meas : Nat
  cmds : List (Nat × Option (Nat × Word))
  /-- A thermal trip or the safe state has stopped the fabric (R332, R335). -/
  stopped : Bool
  /-- BOOTSTAT, the cycle of stage 3, the running image, the fused rollback count (R372, R373). -/
  boot : Word
  stage3 : Nat
  image : Option HelmImage
  rollback : Nat
  /-- The rollback count as it was at boot, for measurement 6 (R364). -/
  bootCount : Nat
  /-- HBSTAT, whether its period clears are stopped, periods without a complete heartbeat (R373, R403). -/
  hb : Word
  hbHold : Bool
  missed : Nat
  /-- The base of the flash window (R369). -/
  flash : Nat
  /-- The always-on registers: what was recorded, as cause + 512 · DETAIL, and whether each audit passed on every target in
  DIAG (R335, R368, R373). -/
  kept : List Nat
  diag : Map Bool
  /-- Host extents: word w of extent e of function f at 64·f + 4·e + w (R360). -/
  extents : Map Word
  /-- MSI-X messages sent: function and vector (R362). -/
  msix : List (Nat × Nat)
  /-- Writes and reads that completed with Completer Abort (R352, R361, R369). -/
  aborts : Nat
  /-- The DOE mailbox's response, and what the SPDM responder has exchanged since GET_VERSION (R363). -/
  doe : List (BitVec 8)
  spdm : List (BitVec 8)
  /-- First cycle in which the verification engine is free (R398). -/
  verify : Nat
  update : Option Update
  /-- The report of each Helm graph that was refused when it was to be loaded (R84, R95). -/
  refusals : Map Config.Report
  /-- Device launches and retirements held during an update (R377). -/
  heldLaunches : List Nat
  heldRetires : List (Nat × Nat)
deriving DecidableEq, Repr

/-- The port die after reset. -/
def PortDie.reset : PortDie :=
  { ctxfn := [], desc := [], stat := 0, power := 0, busy := false, refused := false, overCap := false, meas := 0, cmds := []
    stopped := false, boot := 0, stage3 := 0, image := none, rollback := 0, bootCount := 0, hb := 0, hbHold := false, missed := 0, flash := 0, kept := []
    diag := [], extents := [], msix := [], aborts := 0, doe := [], spdm := [], verify := 0, update := none, refusals := [], heldLaunches := [], heldRetires := [] }

/-- The state of the device. -/
structure State where
  /-- The Meridian count (R32). -/
  mcnt : Nat
  /-- The slot whose turn runs, or the Teller whose command runs. -/
  cur : Nat
  /-- The operands of the event that runs. -/
  arg : Arg
  agenda : List Item
  /-- The next number for a request, copy, walk or launch. -/
  nextId : Nat
  /-- How many free values have been drawn. -/
  freeCtr : Nat
  /-- Bytes of scratchpad, Vault and DRAM (R282, R283, R286) and the words that are poisoned (R326). -/
  mem : List Host.Cell
  poison : List Nat
  slots : Map Slot
  elems : Map Elem
  mes : Map MeState
  sports : Map SPort
  circuits : Map Circuit
  inqs : Map InQueue
  accs : Map Access
  /-- Vault and DRAM requests on their way, and the last cycle of each Vault bank (R283). -/
  reqs : Map Req
  banks : Map Nat
  cmds : Map Command
  tiles : Map Tile
  mnodes : Map MNode
  lnodes : Map LNode
  /-- Copies that have been accepted and are not complete, BTE channels (16·tile + channel) and BTEs. -/
  copies : Map Copy
  chans : Map Chan
  btes : Map Bte
  tels : Map Tel
  /-- Completions returned to host functions, the latest last, and the host functions that are frozen (R324). -/
  hostOut : List HostReply
  fnFrozen : List Nat
  /-- CK per tick (R198). -/
  nck : Nat
  dies : Map Die
  ctxs : Map Ctx
  links : Map Link
  packets : Map Packet
  /-- Helm requests collected, the Helm tiles whose copy of a twinned graph has been lost (R332), configuration ports. -/
  helm : Map HelmReq
  lost : List Nat
  ports : Map CfgPort
  /-- The remap tables (R277) by 1024·context + LTID. -/
  remap : Map Word
  /-- Launches by number, entries that are not IDLE by key, class 2 faults in consecutive frames by tile and cause with the last frame, assay mismatches by entry. -/
  launches : Map Launch
  walkers : Map Walker
  overruns : Map (Nat × Nat)
  mismatches : Map (List Nat)
  /-- Quanta: the rotation of each sliced tile, the saved logical tiles by 1024·tile + LTID (R278). -/
  rots : Map Rotation
  saved : Map TileSave
  /-- Audits that are due, and the cycle of the last run of each audit on each target, by 4096·audit + target (R337,
  R339). -/
  audits : Map AuditJob
  auditRuns : Map Nat
  sextant : Sextant
  port : PortDie
deriving DecidableEq, Repr

/-- The machine right after reset: nothing runs, and the boot sequencer starts at cycle 0 (R372). Until that has read the configuration
block there are 1600 CK in a tick (R198; DESIGN CHOICE, log 169: the spec gives no value for that time). -/
def State.reset : State :=
  { mcnt := 0, cur := 0, arg := Arg.none, agenda := [{ time := 0, act := .ev .bootSequence Arg.none }], nextId := 0, freeCtr := 0, mem := []
    poison := [], slots := [], elems := [], mes := [], sports := [], circuits := [], inqs := [], accs := [], reqs := [], banks := [], cmds := []
    tiles := [], mnodes := [], lnodes := [], copies := [], chans := [], btes := [], tels := [], hostOut := [], fnFrozen := [], nck := 1600, dies := [], ctxs := [], links := [], packets := []
    helm := [], lost := [], ports := [], remap := [], launches := [], walkers := [], overruns := [], mismatches := []
    rots := [], saved := [], audits := [], auditRuns := [], sextant := Sextant.reset, port := PortDie.reset }

end Sys2Proof.Machine
end

