-- ==== Sys2Proof/Machine/Ops.lean ====
section
/-! DEFINITION. The named operations over the state: the fabric's numbering, the parts of the state by number, the
agenda, the event queue, fault records, and taking a fault: `trapSlot`, `freezeSlot` and the way back,
`resumeSlot` and `discardSlot` (R31, R36, R229, R230, R322 to R324). -/

namespace Sys2Proof.Machine

/-! ## Numbering (R3, R12, R33) -/

def veOfSlot (n : Nat) : Nat := n / 8
def tileOfSlot (n : Nat) : Nat := n / 64
def tileOfVe (v : Nat) : Nat := v / 8
/-- The state of a logical tile that does not run on its physical tile t stands under the number t + 2¹⁴ · (logical tile + 1), with its
elements, slots and ports numbered from there (R278). -/
def parkedTile (t : Nat) (l : BitVec 10) : Nat := t + 2 ^ 14 * (l.toNat + 1)
/-- The physical tile of such a number, or of a tile's own. -/
def physTile (t : Nat) : Nat := t % 2 ^ 14
def dieOfTile (t : Nat) : Nat := physTile t / 144
def yOfTile (t : Nat) : Nat := physTile t % 144 / 12
def xOfTile (t : Nat) : Nat := physTile t % 12
/-- The tile (x, y) of a die. -/
def tileAt (die x y : Nat) : Nat := 144 * die + 12 * y + x
/-- The layout of PTID (R33). -/
def ptidOf (t : Nat) : BitVec 10 := BitVec.ofNat 10 (256 * dieOfTile t + 16 * yOfTile t + xOfTile t)
/-- The Helm region: tiles (0, 0) and (1, 0) of each die (R407). -/
def isHelmTile (t : Nat) : Bool := yOfTile t == 0 && decide (xOfTile t ≤ 1)

/-- The element site of VE k (R33). -/
def veSite (k : Nat) : Nat × Nat := (k / 2, 2 * (k % 2) + k / 2 % 2)
/-- The element site of ME k (R33). -/
def meSite (k : Nat) : Nat × Nat := (k / 2, 2 * (k % 2) + (1 - k / 2 % 2))

/-- The ME beside VE k at port 4 (N), 5 (E), 6 (S) or 7 (W); none off the tile (R66). -/
def meBeside (k port : Nat) : Option Nat :=
  let (i, j) := veSite k
  match port with
  | 4 => if i = 0 then none else some (2 * (i - 1) + j / 2)
  | 5 => if j = 3 then none else some (2 * i + (j + 1) / 2)
  | 6 => if i = 3 then none else some (2 * (i + 1) + j / 2)
  | 7 => if j = 0 then none else some (2 * i + (j - 1) / 2)
  | _ => none

/-- The ME port index 0 to 3 on which VE k reaches ME m: the side of the ME on which the VE lies (R147). -/
def mePortOf (k m : Nat) : Option Nat :=
  if meBeside k 6 = some m then some 0
  else if meBeside k 7 = some m then some 1
  else if meBeside k 4 = some m then some 2
  else if meBeside k 5 = some m then some 3
  else none

/-! ## Parts of the state by number -/

def State.slot (s : State) (n : Nat) : Slot := mget Slot.reset s.slots n
def State.setSlot (s : State) (n : Nat) (x : Slot) : State := { s with slots := mset s.slots n x }
def State.modSlot (s : State) (n : Nat) (f : Slot → Slot) : State := s.setSlot n (f (s.slot n))

def State.elem (s : State) (v : Nat) : Elem := mget Elem.reset s.elems v
def State.setElem (s : State) (v : Nat) (x : Elem) : State := { s with elems := mset s.elems v x }
def State.modElem (s : State) (v : Nat) (f : Elem → Elem) : State := s.setElem v (f (s.elem v))

def State.tile (s : State) (t : Nat) : Tile := mget Tile.reset s.tiles t
def State.setTile (s : State) (t : Nat) (x : Tile) : State := { s with tiles := mset s.tiles t x }
def State.modTile (s : State) (t : Nat) (f : Tile → Tile) : State := s.setTile t (f (s.tile t))

def State.sport (s : State) (m : Nat) : SPort := mget SPort.reset s.sports m
def State.setSport (s : State) (m : Nat) (x : SPort) : State := { s with sports := mset s.sports m x }
def State.modSport (s : State) (m : Nat) (f : SPort → SPort) : State := s.setSport m (f (s.sport m))

def State.mnode (s : State) (t : Nat) : MNode := mget MNode.reset s.mnodes t
def State.setNode (s : State) (t : Nat) (x : MNode) : State := { s with mnodes := mset s.mnodes t x }
def State.modNode (s : State) (t : Nat) (f : MNode → MNode) : State := s.setNode t (f (s.mnode t))

def State.lnode (s : State) (t : Nat) : LNode := mget LNode.reset s.lnodes t
def State.setLode (s : State) (t : Nat) (x : LNode) : State := { s with lnodes := mset s.lnodes t x }
def State.modLode (s : State) (t : Nat) (f : LNode → LNode) : State := s.setLode t (f (s.lnode t))

def State.chan (s : State) (t c : Nat) : Chan := mget Chan.reset s.chans (16 * t + c)
def State.modChan (s : State) (t c : Nat) (f : Chan → Chan) : State := { s with chans := mset s.chans (16 * t + c) (f (s.chan t c)) }
def State.bte (s : State) (t : Nat) : Bte := mget Bte.reset s.btes t
def State.modBte (s : State) (t : Nat) (f : Bte → Bte) : State := { s with btes := mset s.btes t (f (s.bte t)) }
def State.tel (s : State) (tl : Nat) : Tel := mget Tel.reset s.tels tl
def State.setTel (s : State) (tl : Nat) (x : Tel) : State := { s with tels := mset s.tels tl x }
def State.modTel (s : State) (tl : Nat) (f : Tel → Tel) : State := s.setTel tl (f (s.tel tl))

def State.die (s : State) (d : Nat) : Die := mget Die.reset s.dies d
def State.setDie (s : State) (d : Nat) (x : Die) : State := { s with dies := mset s.dies d x }
def State.modDie (s : State) (d : Nat) (f : Die → Die) : State := s.setDie d (f (s.die d))

def State.ctx (s : State) (c : Nat) : Ctx := mget Ctx.reset s.ctxs c
def State.setCtx (s : State) (c : Nat) (x : Ctx) : State := { s with ctxs := mset s.ctxs c x }
def State.modCtx (s : State) (c : Nat) (f : Ctx → Ctx) : State := s.setCtx c (f (s.ctx c))

def State.inq (s : State) (q : Nat) : InQueue := mget InQueue.reset s.inqs q
def State.setInq (s : State) (q : Nat) (x : InQueue) : State := { s with inqs := mset s.inqs q x }

/-- The next free value: bits that no rule fixes. -/
def State.drawWord (s : State) : Word × State := (Config.freeWord s.freeCtr, { s with freeCtr := s.freeCtr + 1 })

/-- A fresh number for a request, copy, walk or launch. -/
def State.fresh (s : State) : Nat × State := (s.nextId, { s with nextId := s.nextId + 1 })

/-! ## The agenda -/

/-- Ranks of what happens within a cycle, in order: what holds at its start, the issues of VEs 0 to 7, the engines,
the stream ports (port 4), the BTE (port 5), then the end of the cycle: performed accesses, completed results,
arrivals. A read of an issue therefore precedes every write that completes in its cycle (R19). -/
def rkStart : Nat := 0
def rkHold : Nat := 1
def rkIssue (ve : Nat) : Nat := 2 + ve % 8
def rkEngine : Nat := 10
def rkPort : Nat := 11
def rkBte : Nat := 12
def rkPerform : Nat := 13
def rkComplete : Nat := 14
def rkArrive : Nat := 15

/-- Inserts an item after every item of the same or an earlier time. -/
def insertItem (it : Item) : List Item → List Item
  | [] => [it]
  | x :: r => if x.time ≤ it.time then x :: insertItem it r else it :: x :: r

/-- Puts an action on the agenda. -/
def State.plan (s : State) (cycle rank : Nat) (a : Act) : State :=
  { s with agenda := insertItem { time := 16 * cycle + rank, act := a } s.agenda }

/-- Puts an event on the agenda. -/
def State.planEv (s : State) (cycle rank : Nat) (i : Instr) (a : Arg) : State := s.plan cycle rank (.ev i a)

/-- Inserts an item before the first of its own time that meets a test, or else after every item of the same or an earlier
time. -/
def insertBefore (p : Act → Bool) (it : Item) : List Item → List Item
  | [] => [it]
  | x :: r => if x.time < it.time ∨ (x.time = it.time ∧ !p x.act) then x :: insertBefore p it r else it :: x :: r

/-- The completion of a result of this slot that was issued after number `seq`. -/
def laterResult (n seq : Nat) : Act → Bool
  | .ev .resultCompletion a => a.a == n && decide (seq < a.b)
  | .ev .qblkTokenRelease a => a.d == n && decide (seq < a.e)
  | _ => false

/-- Puts the completion of a result on the agenda; those of one slot in one cycle stand there in issue order (R22). -/
def State.planResult (s : State) (n seq due : Nat) (i : Instr) (a : Arg) : State :=
  { s with agenda := insertBefore (laterResult n seq) { time := 16 * due + rkComplete, act := .ev i a } s.agenda }

/-- Puts an event with up to two numbers for operands on the agenda. -/
def State.planN (s : State) (cycle rank : Nat) (i : Instr) (a b : Nat) : State :=
  s.planEv cycle rank i (Arg.of a b 0 0 0)

/-- Removes the items whose action meets a test. -/
def State.unplan (s : State) (p : Act → Bool) : State :=
  { s with agenda := s.agenda.filter (fun it => !p it.act) }

/-- The wheel width W of an element (R29). -/
def Elem.wheel (e : Elem) : Nat := (e.s1.extractLsb' 0 3).toNat + 1

/-- The first cycle at or after `c` that is a turn of slot j of a wheel of W, counted in the logical cycles of the
tile: MCNT less `off` (R264). -/
def turnFrom (w j off c : Nat) : Nat :=
  let r := (c + w * (off + 1) - off) % w
  c + (j % w + w - r) % w

/-- The first turn of a slot at or after a cycle. -/
def State.turnOf (s : State) (n c : Nat) : Nat :=
  turnFrom (s.elem (veOfSlot n)).wheel (n % 8) (s.tile (tileOfSlot n)).qoff c

/-- Puts a slot's next issue on the agenda, at its first turn at or after a cycle. -/
def State.planIssue (s : State) (n c : Nat) : State :=
  s.plan (s.turnOf n c) (rkIssue (veOfSlot n)) (.issue n)

/-- The item is an issue, a hold or an arm of this slot. -/
def isTurnOf (n : Nat) : Act → Bool
  | .issue m => m == n
  | .ev .wKindHoldRelease a => a.a == n
  | .ev .holdOverrun a => a.a == n
  | .ev .slotStart a => a.a == n
  | _ => false

/-! ## Contexts and levels (R35, R266) -/

/-- The number of the context that owns a tile; 15 for none (R322). -/
def State.ctxOfTile (s : State) (t : Nat) : Nat :=
  if isHelmTile t then 8 else (s.tile t).ctx.getD 15

/-- The determinism level of a tile's context. The Helm graphs keep the port, bank and hold rules of level D (R395). -/
def State.levelOf (s : State) (t : Nat) : Level :=
  let c := s.ctxOfTile t
  if c < 8 then (s.ctx c).level else .d

/-! ## The event queue (R171, R172) -/

/-- The number of a logical tile on a physical tile. -/
def homeOf (t : Nat) (l : BitVec 10) : Nat := 1024 * physTile t + l.toNat

/-- The number under which a logical tile's state stands: that of its physical tile while it runs there (R278). -/
def State.standing (s : State) (h : Nat) : Nat :=
  if (mfind s.saved h).isSome then parkedTile (h / 1024) (BitVec.ofNat 10 (h % 1024)) else h / 1024

/-- Logical tile l is the one that runs on tile t. -/
def State.runsOn (s : State) (t : Nat) (l : BitVec 10) : Bool := (s.tile t).ltid == l && (mfind s.saved (homeOf t l)).isNone

/-- The tile state of a logical tile, wherever it stands (R278, R279), and its change. -/
def State.logical (s : State) (h : Nat) : Tile := s.tile (s.standing h)
def State.modLogical (s : State) (h : Nat) (f : Tile → Tile) : State := s.modTile (s.standing h) f

/-- The place of an engine's record among those of its cycle: copies by channel, then the matrix node, then the Lodestone node (R171). -/
def recPlace (r : BitVec 128) : Nat :=
  match (r.extractLsb' 120 8).toNat with
  | 1 => (r.extractLsb' 44 4).toNat
  | 4 => 16 + (r.extractLsb' 88 8).toNat
  | _ => 0

/-- The source of a record: 0 matrix node, 1 Lodestone node, 2 BTE, 3 any other. -/
def recSource (r : BitVec 128) : Nat :=
  match (r.extractLsb' 120 8).toNat with
  | 1 => 2
  | 4 => if r.extractLsb' 88 8 = 1 then 0 else if r.extractLsb' 88 8 = 2 then 1 else 3
  | _ => 3

/-- Inserts an engine's record among those of its cycle (R171). -/
def insertRecord (now : Nat) (r : BitVec 128) : List (Nat × BitVec 128) → List (Nat × BitVec 128)
  | [] => [(now, r)]
  | x :: l => if x.1 = now ∧ recPlace r < recPlace x.2 then (now, r) :: x :: l else x :: insertRecord now r l

/-- A record comes to a tile: it enters the queue of 64, or is held at its source while the queue is full (R171, R172). -/
def Tile.post (x : Tile) (now src : Nat) (r : BitVec 128) : Tile :=
  let room := if x.evWait.isEmpty then 64 else x.evq.length
  let all := if src ≤ 2 then insertRecord now r (x.evq ++ x.evWait) else x.evq ++ x.evWait ++ [(now, r)]
  { x with evq := all.take room, evWait := all.drop room }

/-- Posts a record to the logical tile that runs on a tile, by the number of its source. -/
def State.postRecord (s : State) (t src : Nat) (r : BitVec 128) : State := s.modTile t (fun x => x.post s.mcnt src r)

/-- Posts a record to a logical tile: to its saved event queue while another logical tile runs on its physical tile
(R223, R279). -/
def State.postLogical (s : State) (h src : Nat) (r : BitVec 128) : State := s.modLogical h (fun x => x.post s.mcnt src r)

/-- A source holds a record that the queue has not taken: it starts nothing more (R172). The BTE serves every logical tile of its
tile. -/
def State.recordHeld (s : State) (t src : Nat) : Bool :=
  (s.tile t).evWait.any (fun p => recSource p.2 == src)
    || (src == 2 && s.saved.any (fun p => p.1 / 1024 == t && (s.logical p.1).evWait.any (fun q => recSource q.2 == 2)))

/-- The records that a read or pop in this cycle sees. -/
def State.records (s : State) (t : Nat) : List (BitVec 128) :=
  ((s.tile t).evq.filter (fun p => decide (p.1 < s.mcnt))).map (fun p => p.2)

/-- A record of four words, word 0 in the low bits. -/
def recordOf (w0 w1 w2 w3 : Word) : BitVec 128 := w3 ++ w2 ++ w1 ++ w0

/-! ## Fault records (R322, R323) -/

/-- MKIND and MID of a master, and its tile where it has one (R322). -/
def masterId (s : State) : Master → Nat × Nat × Option Nat
  | .slot n =>
    let mode := ((mget 0 (s.elem (veOfSlot n)).bind (n % 8)).getLsbD 30).toNat
    (0, 64 * mode + n % 64, some (tileOfSlot n))
  | .channel t ch => (1, ch, some t)
  | .tellerOwner tl o => (2, (if o % 4 = 1 then o / 4 * 256 else 0) + o % 4 * 64 + tl % 64, none)
  | .region t m => (3, m, some t)
  | .lodestone t => (4, 0, some t)
  | .host f => (5, f, none)
  | .element v => let (i, j) := veSite (v % 8); (6, 4 * i + j, some (tileOfVe v))
  | .nobody _ t => (7, 0, some t)

/-- The context a master belongs to: 8 for the Helm region, 15 for none (R322). -/
def masterCtx (s : State) (m : Master) : Nat :=
  match m with
  | .host f => f
  | .tellerOwner _ o => o / 4 % 16
  | .nobody c _ => if c ≤ 8 then c else 15
  | _ =>
    match (masterId s m).2.2 with
    | some t => s.ctxOfTile t
    | none => 15

/-- The order of records of one cycle: tile (y, then x), MKIND, MID (R323). -/
def recKey (r : FaultRec) : Nat := (r.ptid % 256) * 2 ^ 32 + r.mkind * 2 ^ 20 + r.mid

/-- Inserts a record among those of its cycle and keeps the record numbers rising. -/
def insertRec (r : FaultRec) : List FaultRec → List FaultRec
  | [] => [r]
  | x :: l =>
    if x.mcnt = r.mcnt ∧ recKey r < recKey x then
      { r with seq := x.seq } :: insertRec { x with seq := r.seq } l
    else x :: insertRec r l

/-- The launches of some slots. -/
def launchesOn (s : State) (ns : List Nat) : List Nat := (ns.filterMap (fun n => (s.slot n).launch)).eraseDups

/-- The slots whose commands an engine of a tile has begun. -/
def begunSlots (s : State) (t engine : Nat) : List Nat :=
  (s.cmds.filter (fun c => c.2.engine == engine && c.2.begun && tileOfSlot c.2.slot == t)).map (fun c => c.2.slot)

/-- The launches that a cause against a master is charged to: the slot's, those of the commands in progress, the running
copy's (R327). -/
def chargedTo (s : State) (m : Master) : List Nat :=
  match m with
  | .slot n => launchesOn s [n]
  | .channel t ch => launchesOn s (((s.chan t ch).run.bind (fun id => mfind s.copies id)).toList.map (fun c => c.slot))
  | .region t _ => launchesOn s (begunSlots s t 0)
  | .lodestone t => launchesOn s (begunSlots s t 1)
  | _ => []

/-- Raises a fault record on a die, charged to some launches: it enters the FIFO of 512, or is counted as lost (R323). -/
def State.raiseFor (s : State) (die cause : Nat) (m : Master) (t detail : Nat) (ls : List Nat) : State :=
  let d := s.die die
  let (kind, mid, tl) := masterId s m
  let plain := kind = 5 ∨ kind = 7
  let ptid := match tl with
    | some x => (ptidOf x).toNat
    | none => 256 * die
  let ltid := match tl with
    | some x => if plain then 0 else (s.tile x).ltid.toNat
    | none => 0
  let r : FaultRec :=
    { cause := cause, mkind := kind, ctx := masterCtx s m, mid := mid, ltid := ltid, ptid := ptid, seq := d.seq
      mcnt := t % 2 ^ 32, detail := detail % 2 ^ 24, launches := ls
      lost := match m with
        | .slot n => (s.elem (veOfSlot n)).quant.any (fun q => q.slot == n && decide (q.times.length < 33))
        | _ => false }
  let d' := { d with seq := (d.seq + 1) % 4096 }
  if d.fifo.length < 512 then
    let s' := s.setDie die { d' with fifo := insertRec r d.fifo }
    if d.fifo.isEmpty then s'.planN (s.mcnt + 1) rkStart .faultRecordDelivery die 0 else s'
  else s.setDie die { d' with lost := d.lost + 1 }

/-- Raises a fault record that is charged to what its master is doing. -/
def State.raise (s : State) (die cause : Nat) (m : Master) (t detail : Nat) : State := s.raiseFor die cause m t detail (chargedTo s m)

/-- The number of a structure, in the order of R326 (DESIGN CHOICE, log 174: the code of a structure is opaque). -/
def CfgPart.no : CfgPart → Nat
  | .switch => 0
  | .map => 1
  | .template => 2
  | .descriptor => 3
  | .table => 4
  | .record => 5
  | .remap => 6
  | .object => 7

/-- An uncorrectable word of configuration has been met: the tile's load has failed until the loader configures it again; its first
meeting makes the record (R326, R327). -/
def State.failLoad (s : State) (t : Nat) (p : CfgPart) (ix : Nat) : State :=
  if (s.tile t).loadBad then s
  else (s.modTile t (fun x => { x with loadBad := true, loadFails := x.loadFails + 1 })).raise (dieOfTile t) 0x0C5
    (.nobody (s.ctxOfTile t) t) s.mcnt (Config.structureNo p.no % 16 + 16 * (ix % 4096))

/-- The first uncorrectable word of a structure whose index a test admits. -/
def State.badWord (s : State) (t : Nat) (p : CfgPart) (q : Nat → Bool) : Option (CfgPart × Nat) :=
  (s.tile t).badCfg.find? (fun m => m.1 == p && q m.2)

/-- A word of configuration written whole is correct (R326). -/
def State.mendWord (s : State) (t : Nat) (p : CfgPart) (ix : Nat) : State :=
  if (s.tile t).badCfg.isEmpty then s else s.modTile t (fun x => { x with badCfg := x.badCfg.filter (fun m => m != (p, ix)) })

/-- The event-queue record of a fault (R322). -/
def packRec (r : FaultRec) : BitVec 128 :=
  recordOf (BitVec.ofNat 32 (r.cause * 2 ^ 23 + r.mkind * 2 ^ 20 + r.ctx * 2 ^ 16 + r.mid))
    (BitVec.ofNat 32 (r.ltid * 2 ^ 22 + r.ptid * 2 ^ 12 + r.seq)) (BitVec.ofNat 32 r.mcnt)
    (BitVec.ofNat 32 (0x02 * 2 ^ 24 + r.detail))

/-! ## Taking a fault and leaving it (R31, R36, R229, R230, R324) -/

/-- The slot is in sequenced mode (R28). -/
def State.isSeq (s : State) (n : Nat) : Bool := (mget 0 (s.elem (veOfSlot n)).bind (n % 8)).getLsbD 30

/-- EPC of the slot's present position (R33). -/
def State.position (s : State) (n : Nat) : Word :=
  let x := s.slot n
  if s.isSeq n then BitVec.ofNat 32 (2 ^ 31 + x.ia.toNat)
  else BitVec.ofNat 32 (x.opp * 2 ^ 16 + x.rtp * 2 ^ 8 + x.rap)

/-- The result holds reserved output-queue entries: any but a token of the quantiser (R138, R316). -/
def Result.reserved (r : Result) : Bool :=
  match r.kind with
  | .quant _ _ => false
  | _ => true

/-- Frees the output-queue entries that a result had reserved (R316). -/
def releaseFan (e : Elem) (fan : BitVec 6) : Elem :=
  { e with resv := (List.range 6).foldl (fun m g => if fan.getLsbD g then mmod 0 m g (fun k => k - 1) else m) e.resv }

/-- The cycle at whose end token p of a quantiser block completes (R138). -/
def qDue (q : QBlock) (p : Nat) : Nat := max (q.times.getD p 0 + 33) (q.times.getD 31 0 + 2 + p)

/-- The event is the release of a token of this slot's blocks. -/
def isRelease (n : Nat) : Act → Bool
  | .ev .qblkTokenRelease a => a.d == n
  | _ => false

/-- A token of a block as a result (R31, R138). -/
def quantResult (n seq due p : Nat) (q : QBlock) : Result :=
  { slot := n, seq := seq, due := due, kind := .quant q.id p, dcls := 3, didx := 0, fan := (q.fans.getD p (0, 0)).1
    phase := (q.fans.getD p (0, 0)).2, lanes := 0xFFFF#16, valid := 0xFFFF#16, value := q.outs.getD p 0, flags := 0, iter := false }

/-- The tokens of a slot's complete blocks that complete at t or later, as results (R31, R138). -/
def quantLate (e : Elem) (n t : Nat) (agenda : List Item) : List Result :=
  agenda.filterMap (fun it => match it.act with
    | .ev .qblkTokenRelease a =>
      if a.d = n ∧ 16 * t ≤ it.time then
        (e.quant.find? (fun q => q.id == a.b && q.times.length == 33)).map (quantResult n a.e (it.time / 16) a.c)
      else none
    | _ => none)

/-- The slot has a block open: position 0 has issued and position 32 has not (R139). -/
def QBlock.openOf (n : Nat) (q : QBlock) : Bool := q.slot == n && decide (q.times.length < 33)

/-- The slots of an element timed together with a slot, itself among them (R18). -/
def coupledWith (s : State) (n : Nat) : List Nat :=
  let v := veOfSlot n
  let g := mget 0 (s.elem v).coupled (n % 8)
  if g = 0 then [n] else ((List.range 8).filter (fun j => mget 0 (s.elem v).coupled j == g)).map (fun j => 8 * v + j)

/-- The slot is timed together with others at run time: its group has others, and the context is not at level T, where no slot
bubbles (R18). -/
def State.inGroup (s : State) (n : Nat) : Bool := decide (1 < (coupledWith s n).length) && s.levelOf (tileOfSlot n) != .t

/-- A frozen slot of a coupled group holds the group at its first turn from t on (R18). -/
def State.holdGroup (s : State) (n t : Nat) : State :=
  if s.inGroup n then s.planN (s.turnOf n t) rkHold .wKindHoldRelease n 0 else s

/-- `freeze` of R36 for a slot at cycle t: nothing issues from t on, results completing at t or later enter the flight
record in issue order, an open QBLK block is discarded, and the slot's coupled group is held (R18, R31, R139, R324). A slot that
is not issuing is left as it is. -/
def State.freezeSlot (s : State) (n t : Nat) : State :=
  let x := s.slot n
  if x.st = .running ∨ x.st = .draining then
    let v := veOfSlot n
    let e := s.elem v
    let broken := e.quant.filter (QBlock.openOf n)
    let late := e.flight.filter (fun r => r.slot == n && decide (t ≤ r.due)) ++ quantLate e n t s.agenda
    let e1 := { e with
      flight := e.flight.filter (fun r => !(r.slot == n && decide (t ≤ r.due)))
      record := e.record ++ late.map (fun r => ⟨r, r.due - t⟩)
      quant := e.quant.filter (fun q => !QBlock.openOf n q) }
    let s1 := (s.setElem v e1).unplan (fun a => isTurnOf n a || isRelease n a)
    (s1.modSlot n (fun y => { y with st := .frozen, heldSince := none, qpos := if broken.isEmpty then y.qpos else 0 })).holdGroup n t
  else s

/-- `trap(cause)` of R36 at the slot's present position and cycle t: CAUSE and EPC are written, a record is raised and
the slot freezes at t. A second cause against a slot already frozen only writes its record (R324). -/
def State.trapAt (s : State) (n cause detail t : Nat) : State :=
  let x := s.slot n
  let s1 := if x.st = .frozen then s
    else s.modSlot n (fun y => { y with cause := BitVec.ofNat 32 cause, epc := s.position n })
  (s1.raise (dieOfTile (tileOfSlot n)) cause (.slot n) t detail).freezeSlot n t

/-- A trap of the instruction that the slot is about to issue: it takes effect at the issue cycle. -/
def State.trapSlot (s : State) (n cause detail : Nat) : State := s.trapAt n cause detail s.mcnt

/-- DETAIL for the causes that report EPC [23:0] (R321). -/
def State.epcDetail (s : State) (n : Nat) : Nat := (s.position n).toNat % 2 ^ 24

/-- Resumption of a frozen slot at cycle t′: the flight record replays at its remaining counts and the slot issues the
instruction at EPC; a slot whose DONE has issued issues nothing and drains on (R31, R107, R230). The iterative unit is busy until an
iterative result that replays has completed (R87). -/
def State.resumeSlot (s : State) (n t : Nat) : State :=
  let v := veOfSlot n
  let e := s.elem v
  let mine := e.record.filter (fun h => h.res.slot == n)
  let back := mine.map (fun h => { h.res with due := t + h.nrem })
  let s1 := (s.setElem v
    { e with record := e.record.filter (fun h => h.res.slot != n)
             flight := e.flight ++ back.filter (fun r => match r.kind with
               | .quant _ _ => false
               | _ => true)
             iterUntil := back.foldl (fun u r => if r.iter then max u (r.due + 1) else u) e.iterUntil }).unplan (isTurnOf n)
  let s2 := back.foldl (fun a r => match r.kind with
    | .quant b p => a.planResult n r.seq r.due .qblkTokenRelease (Arg.of v b p n r.seq)
    | _ => a.planResult n r.seq r.due .resultCompletion (Arg.of n r.seq 0 0 0)) s1
  if (s.slot n).ended then (s2.modSlot n (fun y => { y with st := .draining })).planN t rkArrive .slotDrainComplete n 0
  else (s2.modSlot n (fun y => { y with st := .running })).planIssue n t

/-- Discard of a frozen slot: its flight record is emptied and it enters BOUND (R230). -/
def State.discardSlot (s : State) (n : Nat) : State :=
  let v := veOfSlot n
  let e := s.elem v
  let mine := (e.record.filter (fun h => h.res.slot == n && h.res.reserved)).map (fun h => h.res.fan)
  let live := e.flight.filter (fun r => r.slot == n) |>.map (fun r => r.fan)
  let e1 := (mine ++ live).foldl releaseFan
    { e with record := e.record.filter (fun h => h.res.slot != n), flight := e.flight.filter (fun r => r.slot != n)
             quant := e.quant.filter (fun q => q.slot != n) }
  let s1 := (s.setElem v e1).unplan (fun a => isTurnOf n a || isRelease n a)
  s1.modSlot n (fun y => { y with st := .bound, heldSince := none, arvw := none, qpos := 0, preempt := none, ended := false })

/-- The blocked state of an element (R30, R96): nothing issues, the results in flight and the flight record are
discarded, and a record names the element. -/
def State.blockElem (s : State) (v cause detail : Nat) : State :=
  let e := s.elem v
  let s1 := s.setElem v { e with blocked := true, flight := [], record := [], quant := [], resv := [] }
  let s2 := s1.unplan (fun a => (List.range 8).any (fun j => isTurnOf (8 * v + j) a || isRelease (8 * v + j) a))
  s2.raise (dieOfTile (tileOfVe v)) cause (.element v) s.mcnt detail

/-! ## Barriers and counters (R167, R168) -/

/-- The phase that a read in this cycle sees (R167). -/
def Barrier.seen (r : Barrier) (now : Nat) : Bool := if r.at_ = now then r.was else r.phase

/-- One arrival; the phase inverts at the end of the cycle when the count reaches N (R167). -/
def Barrier.arrive (r : Barrier) (now : Nat) : Barrier :=
  let a := (r.a + 1) % 64
  if a = r.n then
    { r with a := 0, phase := !r.phase, at_ := now, was := if r.at_ = now then r.was else r.phase }
  else { r with a := a }

def State.bar (s : State) (t b : Nat) : Barrier := mget Barrier.reset (s.tile t).bars b

/-- One arrival at a barrier of a tile's state. -/
def Tile.arrive (x : Tile) (now b : Nat) : Tile := { x with bars := mset x.bars b ((mget Barrier.reset x.bars b).arrive now) }

/-- One arrival at a barrier. -/
def State.arrive (s : State) (t b : Nat) : State := s.modTile t (fun x => x.arrive s.mcnt b)

/-- What a read of a counter in this cycle sees. -/
def Counter.seen (k : Counter) (now : Nat) : CtrView := if k.at_ = now then k.was else k.now

/-- The test after an update of a counter: an armed counter at zero completes its phase; an armed counter above zero is
over-credited (R168). -/
def settle (k : Counter) (v : CtrView) (e : BitVec 48) (now : Nat) : Counter × Bool :=
  let done := v.armed && v.c == 0
  let v' := if done then { v with armed := false, phase := !v.phase } else v
  ({ k with now := v', e := if done then 0 else e, at_ := now, was := k.seen now },
    v.armed && decide (0 < v.c.toInt))

def State.ctr (s : State) (t k : Nat) : Counter := mget Counter.reset (s.tile t).ctrs k

/-- Adds a signed amount to a counter; true where it is over-credited. -/
def Counter.credit (r : Counter) (amount : Int) (now : Nat) : Counter × Bool :=
  settle r { r.now with c := r.now.c + BitVec.ofInt 48 amount } r.e now

/-- Adds a signed amount to a counter of the logical tile that runs on a tile. -/
def State.credit (s : State) (t k : Nat) (amount : Int) : State × Bool :=
  let (r, tooMany) := (s.ctr t k).credit amount s.mcnt
  (s.modTile t (fun x => { x with ctrs := mset x.ctrs k r }), tooMany)

/-- A counter of a logical tile. -/
def State.ctrOf (s : State) (h k : Nat) : Counter := mget Counter.reset (s.logical h).ctrs k

/-- Adds a signed amount to a counter of a logical tile, wherever it stands (R220, R223). -/
def State.creditLogical (s : State) (h k : Nat) (amount : Int) : State × Bool :=
  let (r, tooMany) := (s.ctrOf h k).credit amount s.mcnt
  (s.modLogical h (fun x => { x with ctrs := mset x.ctrs k r }), tooMany)

/-- CTR.ARVX: announces an expected total and arms the counter; true where it is over-credited (R168). -/
def State.announce (s : State) (t k : Nat) (b : Word) : State × Bool :=
  let r := s.ctr t k
  let (r', tooMany) := settle r { r.now with c := r.now.c - b.setWidth 48, armed := true } (r.e + b.setWidth 48) s.mcnt
  (s.modTile t (fun x => { x with ctrs := mset x.ctrs k r' }), tooMany)

/-- The entry address and the assay group of a block that a slot holds (R78, R236). -/
def Slot.blockAt (x : Slot) (b : Nat) : Nat × Nat := mget (0, 0) x.blocks b

/-- The assay group of the block that a slot runs (R236). -/
def Slot.assayGroup (x : Slot) : Nat := (x.blockAt x.block).2

end Sys2Proof.Machine
end

