-- ==== Sys2Proof/Machine/Memory.lean ====
section
/-! DEFINITION. Memory: one flat byte space in canonical form. Addresses below 2^40 are physical addresses (R286):
DRAM and the Vaults. Scratchpads follow from 2^40 on, each ME 192 KiB (R282), and flash from 2^41 on (R369). An unlisted byte reads as zero (a
choice of the model for memory that nothing has written). -/

namespace Sys2Proof.Machine

/-- What an unlisted byte reads as. -/
def unlisted : BitVec 8 := 0

/-- The canonical form: strictly rising addresses and no entry equal to what an unlisted address reads as. -/
def Memory.wf : List Host.Cell → Bool
  | [] => true
  | [c] => c.2 != unlisted
  | c :: d :: r => c.2 != unlisted && decide (c.1 < d.1) && Memory.wf (d :: r)

/-- The byte at an address. -/
def readByte : List Host.Cell → Nat → BitVec 8
  | [], _ => unlisted
  | c :: r, a => if c.1 = a then c.2 else readByte r a

/-- Writes a byte and keeps the canonical form. -/
def writeByte : List Host.Cell → Nat → BitVec 8 → List Host.Cell
  | [], a, b => if b = unlisted then [] else [(a, b)]
  | c :: r, a, b =>
    if a < c.1 then (if b = unlisted then c :: r else (a, b) :: c :: r)
    else if c.1 = a then (if b = unlisted then r else (a, b) :: r)
    else c :: writeByte r a b

/-- The little-endian number in `n` bytes from an address (R148). -/
def readNat (m : List Host.Cell) (a : Nat) : Nat → Nat
  | 0 => 0
  | n + 1 => (readByte m a).toNat + 256 * readNat m (a + 1) n

/-- Writes the low `n` bytes of a number, little-endian (R148). -/
def writeNat (m : List Host.Cell) (a v : Nat) : Nat → List Host.Cell
  | 0 => m
  | n + 1 => writeNat (writeByte m a (BitVec.ofNat 8 v)) (a + 1) (v / 256) n

/-- Writes a list of bytes. -/
def writeBytes (m : List Host.Cell) (a : Nat) : List (BitVec 8) → List Host.Cell
  | [] => m
  | b :: r => writeBytes (writeByte m a b) (a + 1) r

/-- A run of bytes. -/
def readBytes (m : List Host.Cell) (a : Nat) : Nat → List (BitVec 8)
  | 0 => []
  | n + 1 => readByte m a :: readBytes m (a + 1) n

/-- The flat address of a local offset of an ME (R282). -/
def padAddr (me off : Nat) : Nat := 2 ^ 40 + 0x3_0000 * me + off

/-- The flat address of an offset in a die's Vault: its PA (R286). -/
def vaultAddr (die off : Nat) : Nat := 2 ^ 39 + 2 ^ 25 * die + off

/-- The PA names a location (R286). -/
def paValid (pa : Nat) : Bool :=
  decide (pa < 2 ^ 38) || (decide (2 ^ 39 ≤ pa) && decide (pa < 2 ^ 39 + 2 ^ 27))

/-- The PA lies in DRAM. -/
def isDram (pa : Nat) : Bool := decide (pa < 2 ^ 38)

/-- The bytes of the protection word that an address lies in: 8 in DRAM and the Vaults, 4 in scratchpads (R211, R325). -/
def protBytes (a : Nat) : Nat := if a < 2 ^ 40 then 8 else 4

/-- A byte of a run lies in a poisoned protection word. A poisoned word is kept by a quarter of its address (R325, R326). -/
def isPoisoned (p : List Nat) (a n : Nat) : Bool :=
  p.any (fun w => decide (w * 4 < a + n) && decide (a < w * 4 + protBytes (w * 4)))

/-- A write of whole protection words replaces their poison; a partial write leaves it (R326). -/
def clearPoison (p : List Nat) (a n : Nat) : List Nat :=
  p.filter (fun w => !(decide (a ≤ w * 4) && decide (w * 4 + protBytes (w * 4) ≤ a + n)))

/-- Marks the protection words that a run touches as poisoned. -/
def addPoison (p : List Nat) (a n : Nat) : List Nat :=
  let k := protBytes a
  p ++ (List.range ((a + n + k - 1) / k - a / k)).filterMap (fun i =>
    let w := (a / k + i) * (k / 4)
    if p.contains w then none else some w)

def State.read (s : State) (a n : Nat) : Nat := readNat s.mem a n
def State.read32 (s : State) (a : Nat) : Word := BitVec.ofNat 32 (readNat s.mem a 4)
def State.read64 (s : State) (a : Nat) : BitVec 64 := BitVec.ofNat 64 (readNat s.mem a 8)
def State.readTok (s : State) (a : Nat) : Vec := BitVec.ofNat 512 (readNat s.mem a 64)

/-- Writes `n` bytes of a number; whole words lose their poison. -/
def State.write (s : State) (a v n : Nat) : State :=
  { s with mem := writeNat s.mem a v n, poison := clearPoison s.poison a n }

def State.write32 (s : State) (a : Nat) (w : Word) : State := s.write a w.toNat 4

/-- Writes the lanes of a token that a mask has on, each as four bytes (R77, R148). -/
def writeLanes (s : State) (a : Nat) (m : Mask) (v : Vec) : Nat → State
  | 0 => s
  | n + 1 =>
    let s' := writeLanes s a m v n
    if m.getLsbD n then s'.write (a + 4 * n) (lane v n).toNat 4 else s'

/-- A token written by its valid lanes; a poisoned token poisons the words it writes (R326). -/
def State.writeTok (s : State) (a : Nat) (t : Token) : State :=
  let s' := writeLanes s a t.valid t.data 16
  if t.poison then
    { s' with poison := (List.range 16).foldl (fun p l => if t.valid.getLsbD l then addPoison p (a + 4 * l) 4 else p) s'.poison }
  else s'

/-- A token read from 64 bytes, marked where a word of it is poisoned. -/
def State.tokAt (s : State) (a : Nat) : Token :=
  { data := s.readTok a, valid := 0xFFFF#16, poison := isPoisoned s.poison a 64 }

end Sys2Proof.Machine
end

