-- ==== Sys2Proof/Machine/Objects.lean ====
section
/-! DEFINITION. Capabilities (R155, R287), logical tiles (R33, R277, R290), and the object table with its per-tile cache
(R284, R288 to R290). -/

namespace Sys2Proof.Machine

/-! ## Capabilities (R287) -/

def capObj (c : BitVec 128) : Nat := (c.extractLsb' 108 20).toNat
def capRgt (c : BitVec 128) : BitVec 8 := c.extractLsb' 100 8
def capVer (c : BitVec 128) : Nat := (c.extractLsb' 96 4).toNat
def capHi (c : BitVec 128) : Nat := (c.extractLsb' 40 40).toNat
def capLo (c : BitVec 128) : Nat := (c.extractLsb' 0 40).toNat

/-- A capability with other bounds. -/
def capBounds (c : BitVec 128) (lo hi : Nat) : BitVec 128 :=
  c.extractLsb' 80 48 ++ BitVec.ofNat 40 hi ++ BitVec.ofNat 40 lo

/-- A capability with other rights. -/
def capRights (c : BitVec 128) (r : BitVec 8) : BitVec 128 := c.extractLsb' 108 20 ++ r ++ c.extractLsb' 0 100

/-- A capability holds every right of a mask (R155). -/
def hasRights (c : BitVec 128) (need : BitVec 8) : Bool := capRgt c &&& need == need

/-- The rights of R155. -/
def rMX : BitVec 8 := 0x80
def rFA : BitVec 8 := 0x40
def rLN : BitVec 8 := 0x20
def rCP : BitVec 8 := 0x10
def rSP : BitVec 8 := 0x08
def rAT : BitVec 8 := 0x04
def rWR : BitVec 8 := 0x02
def rRD : BitVec 8 := 0x01

/-- A capability held in the four words from position `i` of a list (R161, R213). -/
def capAt (ws : List Word) (i : Nat) : BitVec 128 :=
  ws.getD (i + 3) 0 ++ ws.getD (i + 2) 0 ++ ws.getD (i + 1) 0 ++ ws.getD i 0

/-! ## Words with reserved fields (R9) -/

/-- The bits of word i of a copy template that hold a field: the others read as zero (R9, R213). -/
def tmplMask (i : Nat) : Word :=
  if i = 2 ∨ i = 6 then 0x0000_FFFF#32 else if i = 12 then 0xFF7F_FFFF#32 else if i = 14 then 0x8000_03FF#32 else if i = 15 then 0 else 0xFFFF_FFFF#32

/-- The same for a window entry (R291). -/
def windowMask (i : Nat) : Word := if i = 3 then 0xF000_0000#32 else 0x0FFF_FFFF#32

/-- The same for a tensor map (R161). -/
def mapMask (i : Nat) : Word :=
  if i = 4 then 0x0000_FFC0#32 else if i = 2 ∨ i = 8 ∨ i = 12 ∨ i = 16 ∨ i = 20 then 0x0000_FFFF#32 else if 22 ≤ i then 0 else 0xFFFF_FFFF#32

/-! ## Object-table entries (R289) -/

/-- The fields of an object-table entry. -/
structure ObjRec where
  valid : Bool
  kind : Nat
  ord : Nat
  dbuf : Bool
  sel : Nat
  ver : Nat
  vbase : Nat
  len : Nat
  loc : BitVec 64
  hoff : Nat
deriving DecidableEq, Repr

/-- Two words as one of 64 bits, the first low. -/
def twoWords (ws : List Word) (i : Nat) : BitVec 64 := ws.getD (i + 1) 0 ++ ws.getD i 0

/-- The fields of the eight words of an entry. -/
def objRec (ws : List Word) : ObjRec :=
  let w0 := ws.getD 0 0
  { valid := w0.getLsbD 31, kind := (w0.extractLsb' 28 3).toNat, ord := (w0.extractLsb' 26 2).toNat
    dbuf := w0.getLsbD 25, sel := (w0.extractLsb' 24 1).toNat, ver := (w0.extractLsb' 20 4).toNat
    vbase := (twoWords ws 1).toNat % 2 ^ 40, len := (twoWords ws 3).toNat % 2 ^ 40, loc := twoWords ws 5
    hoff := (ws.getD 7 0).toNat }

/-- The Vault partition of a context on a die: validity, base and size in bytes (R284). -/
def partition (s : State) (d c : Nat) : Bool × Nat × Nat :=
  let w := mget 0#32 (s.die d).parts c
  (w.getLsbD 31, 65536 * (w.extractLsb' 20 9).toNat, 65536 * (w.extractLsb' 0 10).toNat)

/-- The PA of an entry of a context's object table in a die's copy (R288). -/
def objEntryPa (s : State) (d c obj : Nat) : Nat :=
  vaultAddr d ((partition s d c).2.1 + (s.ctx c).otoff + 32 * obj)

/-- The eight words of an entry in a die's copy. -/
def objWords (s : State) (d c obj : Nat) : List Word :=
  (List.range 8).map (fun i => s.read32 (objEntryPa s d c obj + 4 * i))

/-- The generation of a context as a die holds it (R298). -/
def State.genOn (s : State) (d c : Nat) : Word := mget 0 (s.die d).gens c

/-- The answer of a tile's object cache. -/
inductive ObjRes where
  | hit (r : ObjRec)
  /-- The index is beyond the table, or the entry is not valid. -/
  | absent
  | miss
deriving DecidableEq, Repr

/-- A look-up in a tile's object cache; an entry of an older generation misses at levels D and F (R288, R298). -/
def State.objLook (s : State) (t c obj : Nat) : ObjRes :=
  if (s.ctx c).otlen ≤ obj then .absent
  else
    let g := s.genOn (dieOfTile t) c
    match (s.tile t).ocache.find? (fun e => e.ctx == c && e.obj == obj && (s.levelOf t == .t || e.gen == g)) with
    | some e => if (objRec e.words).valid then .hit (objRec e.words) else .absent
    | none => .miss

/-- The entry that an engine uses: the tile's cached one, or the die's copy. -/
def State.objRead (s : State) (t c obj : Nat) : Option ObjRec :=
  match s.objLook t c obj with
  | .hit r => some r
  | .absent => none
  | .miss =>
    let r := objRec (objWords s (dieOfTile t) c obj)
    if r.valid then some r else none

/-- Asks for an object-table entry that missed: it arrives 24 cycles later (R288). -/
def State.fetchObject (s : State) (t c obj : Nat) : State :=
  if (s.tile t).ofetch.contains (c, obj) then s
  else
    (s.modTile t (fun x => { x with ofetch := (c, obj) :: x.ofetch })).planEv (s.mcnt + 24) rkStart .objectCacheFill
      (Arg.of t c obj 0 0)

/-- OBJECT_CACHE_FILL: the entry arrives with the present generation; a full cache of 64 drops its oldest fill
(R288). -/
def fillObject (s : State) (t c obj : Nat) : State :=
  let d := dieOfTile t
  let e : ObjEntry := { ctx := c, obj := obj, gen := s.genOn d c, words := objWords s d c obj }
  s.modTile t (fun x =>
    let kept := x.ocache.filter (fun y => !(y.ctx == c && y.obj == obj))
    { x with ocache := (if kept.length < 64 then kept else kept.tail) ++ [e]
             ofetch := x.ofetch.filter (fun p => p != (c, obj)) })

/-! ## Logical tiles -/

/-- The home of a logical tile of a context, for a master on tile `t`: for the second copy of a twin, a tile of the first copy
names its replica (R277, R278, R290). -/
def homeOfLogical (s : State) (t c : Nat) (l : BitVec 10) : Option Nat :=
  let mine (p : Nat × Tile) : Bool := s.ctxOfTile p.1 == c
  let rep := if (s.tile t).twinOf.isSome then s.tiles.find? (fun p => mine p && p.2.twinOf == some l) else none
  match rep with
  | some p => some (homeOf p.1 p.2.ltid)
  | none => (s.tiles.find? (fun p => mine p && p.2.ltid == l && p.2.twinOf.isNone)).map (fun p => homeOf p.1 l)

/-- The physical tile that holds a logical tile of a context. -/
def tileOfLogical (s : State) (t c : Nat) (l : BitVec 10) : Option Nat := (homeOfLogical s t c l).map (fun h => h / 1024)

/-! ## Double-buffered objects (R274, R290) -/

/-- The Almanac entry that a key names (R268). -/
def almEntry (s : State) (e : Nat) : Option AlmEntry :=
  let a := e / 4096
  (mfind (s.ctx (a / 256)).alms (a % 256)).bind (fun x => mfind x.entries (e % 4096))

/-- The objects of the commit set that an Almanac entry names (R269, R274). -/
def csetOf (s : State) (e : Nat) : List Nat :=
  match almEntry s e with
  | some x =>
    let k := ((x.words.getD 3 0).extractLsb' 8 8).toNat
    if k = 255 then [] else mget [] (s.ctx (e / 4096 / 256)).csets k
  | none => []

/-- The physical die that a virtual die of a context binds (R300). -/
def dieOfVirtual (s : State) (c v : Nat) : Option Nat :=
  let w := mget 0#32 (s.ctx c).vdt v
  if w.getLsbD 31 then some (w.extractLsb' 0 2).toNat else none

/-- The die whose Vault holds the replica that a master on tile `t` reaches of a double-buffered object that the commit set of a
twin entry names: the copies stand on a diagonal pair of dies, and dies 0 and 1 reach the lower copy's (R331). -/
def replicaDie (s : State) (t c obj : Nat) (r : ObjRec) : Option Nat :=
  if !r.dbuf then none
  else
    (s.ctx c).alms.findSome? (fun a => a.2.entries.findSome? (fun e =>
      if (e.2.words.getD 1 0).getLsbD 30 && (csetOf s (4096 * (256 * c + a.1) + e.1)).contains obj then
        (e.2.tiles.head?.bind (fun l => dieOfVirtual s c (l.toNat / 256))).map (fun d =>
          if dieOfTile t ≤ 1 then min d (3 - d) else max d (3 - d))
      else none))

/-- The byte distance of the half that an access reaches; `entry` is the Almanac entry of the accessing block. -/
def halfOffset (s : State) (entry : Option Nat) (obj : Nat) (r : ObjRec) : Nat :=
  let own := match entry with
    | some e => (csetOf s e).contains obj
    | none => false
  if r.dbuf then (if own then 1 - r.sel else r.sel) * r.hoff else 0

/-- `MEMCAP`.UPPER of a tile: bit k says that ME k has its upper half (R33). -/
def State.upperHalves (s : State) (t : Nat) : BitVec 8 := (s.tile t).upper &&& ~~~Config.upperAbsent t

/-- The first n bytes of an ME exist: every ME has 96 KiB, one with an upper half 192 KiB (R282). -/
def meHas (s : State) (t k n : Nat) : Bool := decide (n ≤ 0x1_8000) || (decide (n ≤ 0x3_0000) && (s.upperHalves t).getLsbD k)

/-- The ME number, of its tile, and the local offset of a scratchpad object's offset (R290). -/
def padHome (r : ObjRec) : BitVec 10 × Nat × Nat :=
  (r.loc.extractLsb' 0 10, (r.loc.extractLsb' 10 3).toNat, (r.loc.extractLsb' 13 18).toNat)

/-- DETAIL of a translation record: va [35:12] (R321). -/
def vaDetail (va : Nat) : Nat := va / 4096 % 2 ^ 24

/-- Where a resident object's offset lies: a scratchpad of a tile, or a PA (R286, R290). -/
inductive Place where
  | pad (tile me off : Nat)
  | phys (pa : Nat)
  | aperture (tile off : Nat)
  | tellerRegs (sub off : Nat)
  /-- Reached through windows or a walk (R291 to R294). -/
  | radix (table : Nat)
  /-- Past the end of the bound die's Vault: outside every partition of it (R284). -/
  | outside
  | nowhere
deriving DecidableEq, Repr

/-- The place of offset `off` of an object (R290), for a master on tile `t` of a context. -/
def placeOf (s : State) (t c obj : Nat) (entry : Option Nat) (r : ObjRec) (off : Nat) : Place :=
  let h := halfOffset s entry obj r
  match r.kind with
  | 0 =>
    let (l, me, base) := padHome r
    match tileOfLogical s t c l with
    | some x => .pad x me (base + h + off)
    | none => .nowhere
  | 1 =>
    match (replicaDie s t c obj r).or (dieOfVirtual s c (r.loc.extractLsb' 0 2).toNat) with
    | some d =>
      let v := (partition s d c).2.1 + (r.loc.extractLsb' 32 25).toNat + h + off
      if v < 2 ^ 25 then .phys (vaultAddr d v) else .outside
    | none => .nowhere
  | 2 => .phys ((r.loc.extractLsb' 0 40).toNat + h + off)
  | 3 => .radix (r.loc.extractLsb' 0 40).toNat
  | 4 => .phys ((r.loc.extractLsb' 0 6).toNat * 2 ^ 32 + (r.loc.extractLsb' 32 17).toNat * 32768 + h + off)
  | 5 =>
    match tileOfLogical s t c (r.loc.extractLsb' 0 10) with
    | some x => .aperture x off
    | none => .nowhere
  | 6 => .tellerRegs (r.loc.extractLsb' 0 6).toNat off
  | _ => .nowhere

/-- A Vault PA lies within the context's partition on its die (R284). -/
def inPartition (s : State) (c pa : Nat) : Bool :=
  let d := (pa - 2 ^ 39) / 2 ^ 25
  let v := (pa - 2 ^ 39) % 2 ^ 25
  let (ok, base, size) := partition s d c
  ok && decide (base ≤ v) && decide (v < base + size)

/-- A PA that an access may reach: a location, and in the Vault one of the context's partition (R284, R286). -/
def paAllowed (s : State) (c pa : Nat) : Bool := paValid pa && (isDram pa || inPartition s c pa)

end Sys2Proof.Machine
end

