-- ==== Sys2Proof/Machine/Links.lean ====
section
/-! DEFINITION. The inter-die links (R341 to R348) and the paths over them (R265): owner words, beats and their CRC, the
wait for a beat, retry and lane repair. -/

namespace Sys2Proof.Machine

def State.link (s : State) (l : Nat) : Link := mget Link.reset s.links l
def State.modLink (s : State) (l : Nat) (f : Link → Link) : State := { s with links := mset s.links l (f (s.link l)) }

/-! ## Paths (R265, R342) -/

/-- The port die, beside compute dies 0 to 3. -/
def portDie : Nat := 4

/-- The dies that a link joins; the second end of links 4 and 5 is the port die (R341). -/
def linkEnds (l : Nat) : Nat × Nat :=
  match l with
  | 0 => (0, 1)
  | 1 => (0, 2)
  | 2 => (1, 3)
  | 3 => (2, 3)
  | 4 => (0, 4)
  | _ => (1, 4)

/-- The tile (x, y) of a link on one of its dies (R342). -/
def linkTile (l die : Nat) : Nat × Nat :=
  match l, die with
  | 0, 0 => (11, 8)
  | 0, _ => (0, 8)
  | 1, 0 => (8, 11)
  | 1, _ => (8, 0)
  | 2, 1 => (3, 11)
  | 2, _ => (3, 0)
  | 3, 2 => (11, 3)
  | 3, _ => (0, 3)
  | 4, _ => (8, 0)
  | _, _ => (3, 0)

/-- The links from one die to another, in order: bit 0 of the die number changes first, and the port die is reached
through die 0 or die 1 (R342). -/
def route (a b : Nat) : List Nat :=
  let fromBit1 (x y : Nat) : List Nat := if x / 2 = y / 2 then [] else [if x % 2 = 0 then 1 else 2]
  if a = b then []
  else if a = portDie then (if b % 2 = 0 then 4 else 5) :: fromBit1 (b % 2) b
  else if b = portDie then fromBit1 a (a % 2) ++ [if a % 2 = 0 then 4 else 5]
  else
    let first := if a % 2 = b % 2 then [] else [if a / 2 = 0 then 0 else 3]
    first ++ fromBit1 (a / 2 * 2 + b % 2) b

/-- The die at the far side of a link. -/
def across (l die : Nat) : Nat := let (x, y) := linkEnds l; if die = x then y else x

def manhattan (a b : Nat × Nat) : Nat := (a.1 - b.1) + (b.1 - a.1) + (a.2 - b.2) + (b.2 - a.2)

/-- The crossings of a route from a die, and the boundaries on the first die; a path end without a tile counts none
(R265). -/
def hopsOf (die : Nat) (src dst : Option (Nat × Nat)) : List Nat → Nat × List Hop
  | [] =>
    match src, dst with
    | some a, some b => (manhattan a b, [])
    | _, _ => (0, [])
  | l :: r =>
    let lead := match src with
      | some a => manhattan a (linkTile l die)
      | none => 0
    let d2 := across l die
    let entry := if d2 = portDie then none else some (linkTile l d2)
    let (after, rest) := hopsOf d2 entry dst r
    (lead, { link := l, back := (linkEnds l).2 == die, after := after } :: rest)

/-- The coordinates of a tile on its die. -/
def xy (t : Nat) : Nat × Nat := (xOfTile t, yOfTile t)

/-- The boundaries on the first die and the crossings between two dies; a tile is given where the path ends at one. -/
def pathOf (d1 : Nat) (t1 : Option Nat) (d2 : Nat) (t2 : Option Nat) : Nat × List Hop :=
  hopsOf d1 (t1.map xy) (t2.map xy) (route d1 d2)

/-- Compute-die hops between two dies (R342). -/
def hopCount (a b : Nat) : Nat := (route a b).length

/-- The fixed transit of a control message between two places, which takes no link slot (R265, R346). -/
def controlTransit (d1 : Nat) (t1 : Option Nat) (d2 : Nat) (t2 : Option Nat) : Nat :=
  let (lead, hops) := pathOf d1 t1 d2 t2
  2 + lead + hops.foldl (fun a h => a + 40 + h.after) 0

/-! ## Owner words and beats (R343 to R345) -/

/-- The traffic owns a pair (R344): slot 63 always reads KIND 3. -/
def ownsPair (k : Link) (back : Bool) (m slot kind ctx circ : Nat) : Bool :=
  if slot = 63 then kind == 3
  else
    let w := mget 0#32 k.owner (256 * back.toNat + 64 * m + slot)
    let wk := (w.extractLsb' 30 2).toNat
    wk == kind && (kind == 3 || (w.extractLsb' 27 3).toNat == ctx) && (kind != 1 || (w.extractLsb' 16 11).toNat == circ)

/-- The first free module of a cycle, in ascending order. -/
def freeModule (k : Link) (back : Bool) (cycle kind ctx circ : Nat) : Option Nat :=
  (List.range 4).find? (fun m => ownsPair k back m (cycle / 64 % 64) kind ctx circ
    && !(k.sent.any (fun b => b.back == back && b.cycle == cycle && b.module_ == m)))

/-- The first free beat from a cycle on: cycle and module. A slot in which the traffic owns no pair is passed over whole
(R345). -/
def findBeat (k : Link) (back : Bool) (kind ctx circ : Nat) : Nat → Nat → Option (Nat × Nat)
  | 0, _ => none
  | n + 1, c =>
    if (List.range 4).any (fun m => ownsPair k back m (c / 64 % 64) kind ctx circ) then
      match freeModule k back c kind ctx circ with
      | some m => some (c, m)
      | none => findBeat k back kind ctx circ n (c + 1)
    else findBeat k back kind ctx circ n (64 * (c / 64 + 1))

/-- Keeps the last 128 beats of each module (R347). -/
def keepBeats (bs : List Beat) (b : Beat) : List Beat :=
  let same := bs.filter (fun x => x.back == b.back && x.module_ == b.module_)
  if same.length < 128 then bs ++ [b]
  else
    let old := same.headD b
    bs.filter (fun x => x != old) ++ [b]

/-- Sends a packet over its next link in the first beat from a cycle on that its traffic owns; traffic that owns none
waits for good, as does any on a link that is down (R344, R348). -/
def sendBeat (s : State) (id c : Nat) : State :=
  match mfind s.packets id with
  | none => s
  | some p =>
    match p.hops with
    | [] => s
    | h :: _ =>
      if (s.link h.link).down then s
      else match findBeat (s.link h.link) h.back p.kind p.ctx p.circ 8192 c with
      | some (x, m) =>
        (s.modLink h.link (fun k => { k with sent := keepBeats k.sent { back := h.back, cycle := x, module_ := m, pkt := id } })).planN
          (x + 40) rkArrive .linkBeatReceive id 1
      | none => s

/-- Puts something on its way in cycle `c`: after `lead` cycles it is at the end of its path, or ready at its first
link. -/
def State.sendFrom (s : State) (c : Nat) (p : Packet) (lead : Nat) : State :=
  match p.hops with
  | [] => s.plan (c + lead + p.extra) p.rank p.act
  | _ =>
    let (id, s1) := s.fresh
    { s1 with packets := mset s1.packets id p }.planN (c + lead) rkComplete .linkBeatReceive id 0

def State.send (s : State) (p : Packet) (lead : Nat) : State := s.sendFrom s.mcnt p lead

/-! ## The CRC of a beat (R343) -/

/-- The bits of a beat that its CRC covers, [687:0], for a token (R343); CTL is idle and LPAR is the lanes' own. -/
def beatBits (circ : Nat) (t : Token) : BitVec 688 :=
  (0#64 ++ BitVec.ofNat 11 circ ++ 1#1 ++ BitVec.ofBool t.poison ++ t.valid ++ t.data ++ 0#83)

/-- One bit of CRC-16 with polynomial 0x1021. -/
def crc16Bit (c : BitVec 16) (b : Bool) : BitVec 16 :=
  let top := c.msb != b
  if top then (c <<< 1) ^^^ 0x1021#16 else c <<< 1

/-- CRC-16 over the low `n` bits of a value, most significant first. -/
def crc16 (w : BitVec 688) : Nat → BitVec 16 → BitVec 16
  | 0, c => c
  | n + 1, c => crc16 w n (crc16Bit c (w.getLsbD n))

/-- The CRC of a beat of a slot (R343). -/
def beatCrc (slot beat : Nat) (w : BitVec 688) : BitVec 16 := crc16 w 688 (BitVec.ofNat 16 (slot * 64 + beat))

/-- The error bits of a received beat: little-endian bytes, bits [703:688] those of the CRC. -/
def errorBits (bs : List (BitVec 8)) : BitVec 704 :=
  BitVec.ofNat 704 (bs.foldr (fun b a => b.toNat + 256 * a) 0)

/-- What a receiver finds of a beat. -/
inductive BeatCheck where
  | good | badCrc | badFrame
deriving DecidableEq, Repr

/-- The check of a beat of a packet sent in a cycle, received with error bits (R347). -/
def checkBeat (p : Packet) (cycle : Nat) (err : BitVec 704) : BeatCheck :=
  let w := beatBits p.circ p.tok
  let got := w ^^^ err.extractLsb' 0 688
  if beatCrc (cycle / 64 % 64) (cycle % 64) got ≠ beatCrc (cycle / 64 % 64) (cycle % 64) w ^^^ err.extractLsb' 688 16 then
    .badCrc
  else if p.kind = 1 ∧ got.getLsbD 612 ∧ got.extractLsb' 613 11 ≠ BitVec.ofNat 11 p.circ then .badFrame
  else .good

/-! ## Receiving (R347, R348) -/

/-- A token with its poison mark set and its data zero; its valid bits are all set (DESIGN CHOICE, log 212: R347 gives the mark and the data
alone). -/
def poisonedToken : Token := { data := 0, valid := 0xFFFF#16, poison := true }

/-- Delivers a packet at the end of its path, or brings it to its next link. -/
def passOn (s : State) (id : Nat) (p : Packet) : State :=
  match p.hops with
  | [] => s
  | h :: rest =>
    let act := match p.act with
      | .ev i a => .ev i { a with tok := p.tok }
      | a => a
    match rest with
    | [] => { s with packets := mdel s.packets id }.plan (s.mcnt + h.after + p.extra) p.rank act
    | _ =>
      { s with packets := mset s.packets id { p with hops := rest, retried := false } }.planN (s.mcnt + h.after) rkComplete
        .linkBeatReceive id 0

/-- Two packets have the same owner. -/
def sameOwner (a b : Packet) : Bool := a.kind == b.kind && a.ctx == b.ctx && (a.kind != 1 || a.circ == b.circ)

/-- The next beat 32 of slot 63 (R348). -/
def nextRepair (s : State) : Nat :=
  let turn := 4096 * (s.mcnt / 4096) + 63 * 64 + 32
  if s.mcnt < turn then turn else turn + 4096

/-- Counts parity failures of lanes; a lane that has failed 4 times, or alone in a beat in error, is to be moved at the
next beat 32 of slot 63 (R348). -/
def countLanes (s : State) (h : Hop) (m : Nat) (bad : Bool) (lanes : List Nat) : State :=
  let key (l : Nat) : Nat := 4096 * h.back.toNat + 64 * m + l
  let s1 := s.modLink h.link (fun k => { k with lanes := lanes.foldl (fun a l => mmod 0 a (key l) (fun n => n + 1)) k.lanes })
  lanes.foldl (fun a l =>
    let k := a.link h.link
    if (4 ≤ mget 0 k.lanes (key l) ∨ (bad ∧ lanes.length = 1)) ∧ !k.toFix.contains (key l) then
      (a.modLink h.link (fun k => { k with toFix := key l :: k.toFix })).planN (nextRepair s) rkStart .linkLaneRepair h.link (key l)
    else a) s1

/-- The level at which a packet's traffic runs: KIND 3 is not retried (R347). -/
def retries (s : State) (p : Packet) : Bool := p.kind != 3 && (s.ctx p.ctx).level != .t

/-- The token of a beat in error is delivered poisoned. -/
def passPoisoned (s : State) (id : Nat) (p : Packet) : State := passOn s id { p with tok := poisonedToken }

/-- Packets of the same owner that waited behind a retried beat go on, in order. -/
def releaseWaiting (s : State) (l : Nat) (p : Packet) : State :=
  let ids := (s.link l).waiting.filter (fun i => match mfind s.packets i with
    | some q => sameOwner p q
    | none => true)
  let s1 := s.modLink l (fun k => { k with waiting := k.waiting.filter (fun i => !ids.contains i) })
  ids.foldl (fun a i => match mfind a.packets i with
    | some q => passOn a i q
    | none => a) s1

/-- A retried beat was in error too: the link is faulty, and the lane that failed, which no count names, is moved at the next beat 32 of slot 63
(R347, R348; DEDUCED, log 143: the lane is a free value). -/
def markFaulty (s : State) (h : Hop) (m : Nat) : State :=
  let (w, s1) := s.drawWord
  let key := 4096 * h.back.toNat + 64 * m + w.toNat % 64
  (s1.modLink h.link (fun k => { k with faulty := true, toFix := key :: k.toFix })).planN (nextRepair s) rkStart .linkLaneRepair h.link key

/-- A beat of a packet is received (R347). -/
def receiveBeat (s : State) (id : Nat) (p : Packet) (h : Hop) (err : BitVec 704) (lanes : List Nat) : State :=
  let die := let d := if h.back then (linkEnds h.link).1 else (linkEnds h.link).2; if d = portDie then h.link - 4 else d
  let k := s.link h.link
  let c := s.mcnt - 40
  let m := ((k.sent.find? (fun b => b.pkt == id && b.cycle == c)).map (fun b => b.module_)).getD 0
  let chk := checkBeat p c err
  let s1 := if lanes.isEmpty then s else countLanes s h m (chk != .good) lanes
  let record (a : State) : State :=
    a.raise die (if chk = .badCrc then 0x0C4 else 0x089) (.nobody (if p.kind = 3 then 8 else p.ctx) (144 * die)) s.mcnt (h.link + 8 * (c / 64 % 64))
  let s2 := s1.modLink h.link (fun k => { k with retry := k.retry.filter (fun i => i != id) })
  if chk = .good then
    let ahead := s2.packets.any (fun q => (s2.link h.link).retry.contains q.1 && sameOwner p q.2)
    if ahead then s2.modLink h.link (fun k => { k with waiting := k.waiting ++ [id] })
    else releaseWaiting (passOn s2 id p) h.link p
  else if retries s p ∧ !p.retried then
    let s3 := { s2 with packets := mset s2.packets id { p with retried := true } }
    (s3.modLink h.link (fun k => { k with retry := k.retry ++ [id], retries := k.retries + 1 })).planEv (s.mcnt + 40)
      rkArrive .linkRetrySend (Arg.of id h.link h.back.toNat 0 0)
  else
    let s3 := passPoisoned (record s2) id p
    releaseWaiting (if p.retried then markFaulty s3 h m else s3) h.link p

/-- LINK_BEAT_RECEIVE. -/
def execLinkBeatReceive (s : State) : Host.Outcome State Fault Refusal :=
  let id := s.arg.a
  .next (if s.arg.b = 2 then
      let e := linkEnds s.arg.a
      let d := if s.arg.d = 1 then e.1 else e.2
      s.raise (if d = portDie then s.arg.a - 4 else d) 0x089 (.nobody 15 (144 * (if d = portDie then s.arg.a - 4 else d))) s.mcnt
        (s.arg.a + 8 * s.arg.c)
    else match mfind s.packets id with
    | none => s
    | some p =>
      if s.arg.b = 0 then sendBeat s id s.mcnt
      else match p.hops with
        | h :: _ => receiveBeat s id p h (errorBits s.arg.bytes) (s.arg.i.map Int.toNat)
        | [] => s)

/-- LINK_RETRY_SEND: the retry request has reached the sender, which sends the beat again in the next free beat of a pair
of the same owner (R347). -/
def execLinkRetrySend (s : State) : Host.Outcome State Fault Refusal := .next (sendBeat s s.arg.a s.mcnt)

end Sys2Proof.Machine
end

