-- ==== Sys2Proof/Machine/Operands.lean ====
section
/-! DEFINITION. The operand forms: the resolved triplet (R60, R74, R75), the effective mask (R27, R76), the source and
destination classes (R62, R63), the ports (R66 to R68, R171), and the two shapes of a lane-wise result, vector and
scalar (R76, R97, R120). -/

namespace Sys2Proof.Machine

/-! ## The triplet -/

/-- The route word, the register-address word and the literal that an instruction uses. -/
structure Trip where
  rtw : BitVec 16
  raw : BitVec 16
  lit : Option Word
deriving DecidableEq, Repr

/-- The words of a triplet: its own, or the slot's held words (R71, R74). -/
def resolve (x : Slot) (op : Op) : Trip :=
  match op.form with
  | .short => ⟨x.hrw, x.haw, none⟩
  | .mid r a => ⟨r, a, none⟩
  | .long r a l => ⟨r, a, some l⟩
  | .ring r a => ⟨r, a, none⟩

def Trip.aport (t : Trip) : Nat := (t.rtw.extractLsb' 13 3).toNat
def Trip.bport (t : Trip) : Nat := (t.rtw.extractLsb' 10 3).toNat
/-- FAN bits as a mask of targets: 0 to 3 ME.N, ME.E, ME.S, ME.W, 4 X, 5 Y (R65). -/
def Trip.fan (t : Trip) : BitVec 6 :=
  BitVec.ofBool (t.rtw.getLsbD 4) ++ BitVec.ofBool (t.rtw.getLsbD 5) ++ BitVec.ofBool (t.rtw.getLsbD 6)
    ++ BitVec.ofBool (t.rtw.getLsbD 7) ++ BitVec.ofBool (t.rtw.getLsbD 8) ++ BitVec.ofBool (t.rtw.getLsbD 9)
def Trip.phase (t : Trip) : Nat := (t.rtw.extractLsb' 0 4).toNat

/-- The destination pushes a token (R63). -/
def pushes (op : Op) : Bool := op.dcls == 3 || op.dcls == 4 || op.dcls == 5
/-- The destination is a scalar (R97, R120). -/
def scalarDest (op : Op) : Bool := op.dcls == 1 || op.dcls == 5

/-! ## Predication -/

/-- A predicate index read under PWSEL: the predicate, or an iteration window (R27). -/
def predMask (x : Slot) (k : Nat) : Mask :=
  if x.pwsel.getLsbD k then
    fullMask (decide ((mget 0 x.iwlo k).toNat ≤ x.ic.toNat ∧ x.ic.toNat ≤ (mget 0 x.iwhi k).toNat))
  else mget 0xFFFF#16 x.p k

/-- The effective mask (R76). -/
def effMask (x : Slot) (op : Op) : Mask :=
  let m := if op.pred = 7 then 0xFFFF#16 else predMask x op.pred.toNat
  if op.pinv then ~~~m else m

/-- A predicate named by PLOG or PCNT: the register itself, or all ones for index 7 (R98). -/
def namedPred (x : Slot) (k : Nat) : Mask := if k = 7 then 0xFFFF#16 else mget 0xFFFF#16 x.p k

/-! ## Ports -/

/-- The number of an input queue: VE and input circuit (R68). -/
def inqKey (v circ : Nat) : Nat := 2048 * v + circ

/-- The input queue that X (0) or Y (1) reads in a phase, where the entry is valid (R68). -/
def inQueueOf (e : Elem) (v port phase : Nat) : Option Nat :=
  let w := mget 0#32 (if port = 0 then e.xtab else e.ytab) phase
  if w.getLsbD 31 then some (inqKey v (w.extractLsb' 20 11).toNat) else none

/-- The circuit that X (0) or Y (1) pushes into in a phase, where the entry is valid (R68). An output circuit number belongs to its VE
and to its table, X or Y (DESIGN CHOICE, log 167: the spec gives no scope). -/
def outCircOf (e : Elem) (v port phase : Nat) : Option Nat :=
  let w := mget 0#32 (if port = 0 then e.xtab else e.ytab) phase
  if w.getLsbD 19 then some (4096 * v + 2048 * port + (w.extractLsb' 8 11).toNat) else none

/-- The token of an event-queue record: the record in lanes 0 to 3, all valid bits set (R171). -/
def evToken (r : BitVec 128) : Token := { data := r.setWidth 512, valid := 0xFFFF#16, poison := false }

/-- The ME that port 4 to 7 of a VE names. -/
def meOf (v port : Nat) : Option Nat := (meBeside (v % 8) port).map (fun m => 8 * tileOfVe v + m)

/-- The token a pop of a port would take, none where the port is empty (R67). -/
def State.peek (s : State) (v port phase : Nat) : Option Token :=
  if port ≤ 1 then
    match inQueueOf (s.elem v) v port phase with
    | some q => (s.inq q).toks.head?
    | none => none
  else if port = 2 then (s.elem v).mx.head?
  else if port = 3 then (s.records (tileOfVe v)).head?.map evToken
  else
    match meOf v port with
    | some m => (s.sport m).present.head?
    | none => none

/-- Puts an event on the agenda unless it stands there already. -/
def planOnce (s : State) (cycle rank : Nat) (i : Instr) (a b c : Nat) : State :=
  let it : Item := { time := 16 * cycle + rank, act := .ev i (Arg.of a b c 0 0) }
  if s.agenda.contains it then s else { s with agenda := insertItem it s.agenda }

/-- Moves a read walk on after a token has been popped: a plain walk requests its next tokens while fewer than 8 are
held or asked for, a BFP walk looks again at what it can present (R295). -/
def kickRead (s : State) (m : Nat) : Nat → State
  | 0 => s
  | n + 1 =>
    let p := s.sport m
    if p.state ≠ 1 ∨ p.dir then s
    else if p.bfp then planOnce s s.mcnt rkPort .readWalkTokenPresent m p.walk 2
    else if 0 < p.left ∧ p.present.length + p.asked < 8 then
      let r := max s.mcnt p.nextReq
      let s1 := s.setSport m { p with nextReq := r + 1, asked := p.asked + 1, left := p.left - 1 }
      kickRead (s1.planEv (r + p.lat) rkPort .readWalkTokenPresent (Arg.of m p.walk 0 0 0)) m n
    else s

/-- The tokens of an output queue that still occupy an entry at a cycle (R316). -/
def occupied (e : Elem) (now g : Nat) : Nat :=
  mget 0 e.resv g + ((mget [] e.outq g).filter (fun t => match t.leave with
    | none => true
    | some c => decide (now ≤ c))).length

/-- The output queue has a free entry (R29, R316). -/
def hasRoom (e : Elem) (now g : Nat) : Bool := decide (occupied e now g < (e.s6.extractLsb' 0 3).toNat + 1)

/-- Where an input queue stands: a queue of a sliced tile is numbered with the logical tile above bit 24, and stands at its
own place while that logical tile runs (R278). -/
def State.inqHome (s : State) (q : Nat) : Nat :=
  let base := q % 2 ^ 24
  if q < 2 ^ 24 ∨ s.runsOn (base / 2048 / 8) (BitVec.ofNat 10 (q / 2 ^ 24 - 1)) then base else q

/-- The element to which an input queue belongs, by the number where the queue stands. -/
def elemOfInq (q : Nat) : Nat := q % 2 ^ 24 / 2048 + 2 ^ 17 * (q / 2 ^ 24)

/-- The key of the circuit that leaves a VE, by its key among those of the physical tile: a sliced tile has circuits for each of its
logical tiles (R265, R278). -/
def circKey (tag k : Nat) : Nat := k + 2 ^ 29 * tag

/-- The circuit of a key that leaves a VE of the logical tile that runs. -/
def State.circuitAt (s : State) (k : Nat) : Option Circuit :=
  match mfind s.circuits (circKey ((s.tile (k / 4096 / 8)).ltid.toNat + 1) k) with
  | some c => some c
  | none => mfind s.circuits k

/-- The VE at which a circuit begins, where its tile's logical tile runs now. -/
def State.sourceOf (s : State) (k : Nat) : Option Nat :=
  let v := k % 2 ^ 29 / 4096
  if k < 2 ^ 29 ∨ s.runsOn (v / 8) (BitVec.ofNat 10 (k / 2 ^ 29 - 1)) then some v else none

/-- An input queue or ME stream input holds at most 4 tokens (R68, R316). -/
def canTake (s : State) (v g phase : Nat) : Bool :=
  if g < 4 then
    match meOf v (4 + g) with
    | some m => decide ((s.sport m).input.length < 4)
    | none => false
  else
    match (outCircOf (s.elem v) v (g - 4) phase).bind s.circuitAt with
    | some c =>
      let q := s.inqHome c.dst
      decide ((s.inq q).toks.length + (s.inq q).pend < 4) && !(s.elem (elemOfInq q)).blocked
    | none => false

/-- Sends one token off towards its target, leaving in cycle `c`: to a circuit's far end after its transit, to an ME's
stream input in the next cycle (R67, R265). -/
def sendOff (s : State) (v g : Nat) (t : OutTok) (c : Nat) : State :=
  if g < 4 then
    match meOf v (4 + g) with
    | some m =>
      let s1 := s.modSport m (fun p => { p with input := p.input ++ [{ slot := t.slot, seq := t.seq, pos := 0, tok := t.tok, id := 0, parts := [] }] })
      s1.planEv (c + 1) rkStart .meStreamInputToken (Arg.of m t.slot 1 0 0)
    | none => s
  else
    match (outCircOf (s.elem v) v (g - 4) t.phase).bind s.circuitAt with
    | some k =>
      let q := s.inqHome k.dst
      (s.setInq q { s.inq q with pend := (s.inq q).pend + 1 }).sendFrom c
        { kind := 1, ctx := k.ctx, circ := k.num, hops := k.hops, tok := t.tok, rank := rkArrive, extra := 0
          retried := false, act := .ev .tokenCircuitArrival { Arg.of k.dst 0 0 0 0 with tok := t.tok } } k.lead
    | none => s

/-- Two slots run for one block: the same launch or the same Almanac entry of one tile's context. -/
def sameBlock (s : State) (n m : Nat) : Bool :=
  n == m || ((s.slot n).launch.isSome && (s.slot n).launch == (s.slot m).launch)
    || ((s.slot n).entry.isSome && (s.slot n).entry == (s.slot m).entry && tileOfSlot n == tileOfSlot m)

/-- Nothing that keeps a slot in DRAINING is outstanding: no result in flight, no pushed token waiting, no command it
handed to an engine, and no command of its block with a start offset that has not begun (R107). -/
def drained (s : State) (n : Nat) : Bool :=
  let e := s.elem (veOfSlot n)
  !(e.flight.any (fun r => r.slot == n)) && !(e.quant.any (fun q => q.slot == n))
    && !(e.outq.any (fun q => q.2.any (fun t => t.slot == n && t.leave.isNone)))
    && !(s.cmds.any (fun c => c.2.slot == n || (c.2.offset && !c.2.begun && sameBlock s c.2.slot n)))

/-- Retires a draining slot once nothing is outstanding (R107). -/
def State.drainCheck (s : State) (n : Nat) : State :=
  if (s.slot n).st = .draining ∧ drained s n then s.planN s.mcnt rkArrive .slotDrainComplete n 0 else s

/-- Looks again at every draining slot of a slot's block. -/
def State.drainBlock (s : State) (n : Nat) : State :=
  s.slots.foldl (fun a x => if x.2.st = .draining ∧ sameBlock s x.1 n then a.drainCheck x.1 else a) s

/-- A command has completed or been discarded (R107). -/
def State.endCommand (s : State) (id slot : Nat) : State := { s with cmds := mdel s.cmds id }.drainBlock slot

/-- The commands of a tile's engine that have begun, or those that have not, are no longer outstanding. -/
def endEngine (s : State) (t engine : Nat) (begun : Bool) : State :=
  (s.cmds.filter (fun c => c.2.engine == engine && tileOfSlot c.2.slot == t && c.2.begun == begun)).foldl
    (fun a c => a.endCommand c.1 c.2.slot) s

/-- The firing of a tile's modulo table. -/
def isTableFire (t : Nat) : Act → Bool
  | .ev .matrixTableFire a => a.a == t && a.b == 0
  | _ => false

/-- The counter of a tile's modulo table stops (R186, R188). -/
def stopTable (s : State) (t : Nat) : State :=
  (s.modNode t (fun x => { x with counter := none, feed := x.feed.filter (fun f => f.id.isSome) })).unplan (isTableFire t)

/-- Everything of a node that is a cycle moves by d cycles. -/
def shiftMat (d : Nat) (x : MNode) : MNode :=
  { x with counter := x.counter.map (fun c => c + d), free := x.free + d, fed := x.fed + d
           queue := x.queue.map (fun c => { c with begin_ := c.begin_ + d }), feed := x.feed.map (fun f => { f with at_ := f.at_ + d }) }

def shiftLode (d : Nat) (x : LNode) : LNode :=
  { x with free := x.free + d, queue := x.queue.map (fun c => { c with acc := c.acc + d }) }

/-- Lets the oldest waiting tokens of an output queue leave, at most one per cycle (R316). -/
def drainOut (s : State) (v g : Nat) : Nat → State
  | 0 => s
  | n + 1 =>
    let q := mget [] (s.elem v).outq g
    let gone := q.filterMap (fun t => t.leave)
    match q.find? (fun t => t.leave.isNone) with
    | none => s
    | some t =>
      if canTake s v g t.phase then
        let c := gone.foldl (fun a b => max a (b + 1)) s.mcnt
        let kept := (q.filter (fun t => t.leave.isNone)).drop 1
        let last := (q.filter (fun t => match t.leave with
          | some d => decide (s.mcnt ≤ d)
          | none => false)) ++ [{ t with leave := some c }]
        let s1 := s.modElem v (fun e => { e with outq := mset e.outq g (last ++ kept) })
        drainOut ((sendOff s1 v g t c).drainCheck t.slot) v g n
      else s

/-- After room appears in an input queue, the producer's waiting tokens leave. -/
def wakeProducers (s : State) (q : Nat) : State :=
  s.circuits.foldl (fun a c => match a.sourceOf c.1 with
    | some v => if a.inqHome c.2.dst = q then drainOut a v (4 + c.1 / 2048 % 2) 8 else a
    | none => a) s

/-- Pops a port (R67): the token leaves, and what waited for its place moves up. -/
def State.pop (s : State) (v port phase : Nat) : State :=
  if port ≤ 1 then
    match inQueueOf (s.elem v) v port phase with
    | some q =>
      let x := s.inq q
      wakeProducers (s.setInq q { x with toks := x.toks.tail }) q
    | none => s
  else if port = 2 then s.modElem v (fun e => { e with mx := e.mx.tail })
  else if port = 3 then
    let t := tileOfVe v
    let s1 := s.modTile t (fun x => { x with evq := x.evq.tail })
    if (s.tile t).evWait.isEmpty then s1 else s1.planN s.mcnt rkArrive .eventRecordDeferredEnqueue t 0
  else
    match meOf v port with
    | some m => kickRead (s.modSport m (fun p => { p with present := p.present.tail })) m 8
    | none => s

/-- A port that exists on this VE (R66). -/
def portExists (v port : Nat) : Bool :=
  if port = 2 then decide (4 ≤ v % 8) else if 4 ≤ port then (meOf v port).isSome else true

/-! ## Sources -/

/-- The operands of an issued instruction. -/
structure Opnds where
  slot : Nat
  ve : Nat
  tile : Nat
  op : Op
  maj : Nat
  trip : Trip
  mask : Mask
  a : Vec
  b : Vec
  bValid : Mask
  /-- The capability c[AIDX] and the scalar s[AIDX] of an address operand (R143). -/
  cap : BitVec 128
  off : Word
  level : Level
  /-- The number the instruction's result would have. -/
  seq : Nat
deriving DecidableEq, Repr

/-- The window bases of a slot (R16, R28). -/
def State.vbase (s : State) (n : Nat) : Nat := ((mget 0 (s.elem (veOfSlot n)).bind (n % 8)).extractLsb' 24 6).toNat
def State.sbase (s : State) (n : Nat) : Nat := ((mget 0 (s.elem (veOfSlot n)).bind (n % 8)).extractLsb' 16 6).toNat

/-- A register of the slot's windows (R16). -/
def State.vreg (s : State) (n i : Nat) : Vec := mget 0 (s.elem (veOfSlot n)).pv (s.vbase n + i)
def State.sreg (s : State) (n i : Nat) : Word := mget 0 (s.elem (veOfSlot n)).ps (s.sbase n + i)

/-- Writes a register of the slot's windows; a whole write replaces the register's poison. -/
def State.setVreg (s : State) (n i : Nat) (v : Vec) : State :=
  s.modElem (veOfSlot n) (fun e =>
    { e with pv := mset e.pv (s.vbase n + i) v, pvPoison := e.pvPoison.filter (fun r => r != s.vbase n + i) })
def State.setSreg (s : State) (n i : Nat) (w : Word) : State :=
  s.modElem (veOfSlot n) (fun e =>
    { e with ps := mset e.ps (s.sbase n + i) w, psPoison := e.psPoison.filter (fun r => r != s.sbase n + i) })

/-- One of the last-result registers. -/
def Slot.q (x : Slot) (i : Nat) : Vec :=
  match i with
  | 0 => x.q0
  | 1 => x.q1
  | 2 => x.q2
  | _ => x.q3

/-- A consumer reads a void lane as zero (R77). -/
def Token.value (t : Token) : Vec := blend t.valid t.data 0

/-- The token that a source of an instruction takes from a port: where B names the other of X and Y and its phase's entry names the same
input circuit as A's, A takes the oldest token of their queue and B the next (R67, R68). -/
def State.tokenOf (s : State) (v : Nat) (op : Op) (t : Trip) (port : Nat) : Option Token :=
  if op.acls = 4 ∧ t.aport ≤ 1 ∧ port ≤ 1 ∧ port ≠ t.aport
      ∧ inQueueOf (s.elem v) v t.aport t.phase = inQueueOf (s.elem v) v port t.phase then
    (inQueueOf (s.elem v) v port t.phase).bind (fun q => (s.inq q).toks.tail.head?)
  else s.peek v port t.phase

/-- The value of a source by class (R62), a port's token given; a scalar, constant or literal fills every lane. -/
def State.source (s : State) (n : Nat) (t : Trip) (cls idx : Nat) (tok : Option Token) : Vec :=
  let x := s.slot n
  match cls with
  | 0 => s.vreg n idx
  | 1 => splat (s.sreg n idx)
  | 2 => mget 0 x.o idx
  | 3 => x.q idx
  | 4 => (tok.map Token.value).getD 0
  | 5 => splat (t.lit.getD (mget 0 x.k idx))
  | _ => 0

/-- The ports that the sources of an instruction pop, each once (R67). -/
def popList (op : Op) (t : Trip) : List Nat :=
  let a := if op.acls = 4 then [t.aport] else []
  if op.bcls = 4 ∧ a ≠ [t.bport] then a ++ [t.bport] else a

/-- A source register is poisoned (R326); a NOP, whose word names class 0, reads none (R106), nor do PLOG and PCNT. -/
def State.srcPoisoned (s : State) (n : Nat) (maj : Nat) (cls idx : Nat) : Bool :=
  let e := s.elem (veOfSlot n)
  match cls with
  | 0 => maj != 0x00 && !namesPredicates maj && e.pvPoison.contains (s.vbase n + idx)
  | 1 => e.psPoison.contains (s.sbase n + idx)
  | 6 => e.psPoison.contains (s.sbase n + idx)
  | _ => false

/-- The operands of an instruction at issue. -/
def State.operands (s : State) (n maj : Nat) (op : Op) : Opnds :=
  let x := s.slot n
  let t := resolve x op
  { slot := n, ve := veOfSlot n, tile := tileOfSlot n, op := op, maj := maj, trip := t, mask := effMask x op
    a := s.source n t op.acls.toNat (rawA t.raw) (s.tokenOf (veOfSlot n) op t t.aport)
    b := s.source n t op.bcls.toNat (rawB t.raw) (s.tokenOf (veOfSlot n) op t t.bport)
    bValid := if op.bcls = 4 then ((s.tokenOf (veOfSlot n) op t t.bport).map Token.valid).getD 0 else 0xFFFF#16
    cap := mget 0 x.c (rawA t.raw), off := s.sreg n (rawA t.raw), level := s.levelOf (tileOfSlot n), seq := x.seq }

/-- A source read as a scalar: lane 0 (R62). -/
def Opnds.sa (o : Opnds) : Word := lane o.a 0
def Opnds.sb (o : Opnds) : Word := lane o.b 0
/-- At least one lane of the effective mask is on. -/
def Opnds.on (o : Opnds) : Bool := anyOn o.mask
/-- The old value of the destination, as an addend or BFI reads it (R116, R123). -/
def State.oldDest (s : State) (o : Opnds) : Vec :=
  let d := rawD o.trip.raw
  match o.op.dcls.toNat with
  | 1 => splat (s.sreg o.slot d)
  | 2 => mget 0 (s.slot o.slot).o d
  | 5 => splat (s.sreg o.slot d)
  | _ => s.vreg o.slot d

/-! ## Results -/

/-- What an instruction delivers: a vector with off lanes zero or a scalar in every lane, the lanes written (a scalar is
written where there is one), the valid bits of a pushed token, and the flags it raises. -/
structure Delivery where
  value : Vec
  lanes : Mask
  valid : Mask
  flags : Flags
deriving DecidableEq, Repr

/-- The OR of the flags of the lanes that are on, over the first `n` lanes (R24). -/
def orFlags (m : Mask) (f : Nat → Flags) : Nat → Flags
  | 0 => noFlags
  | n + 1 => orFlags m f n ||| (if m.getLsbD n then f n else noFlags)

/-- A result computed lane by lane: a vector in the lanes that are on, or one scalar from lane 0 (R76, R97, R120). -/
def perLane (o : Opnds) (f : Nat → Word × Flags) : Delivery :=
  if scalarDest o.op then
    { value := if o.on then splat (f 0).1 else 0, lanes := o.mask, valid := fullMask o.on
      flags := if o.on then (f 0).2 else noFlags }
  else
    { value := ofLanes (fun l => if o.mask.getLsbD l then (f l).1 else 0#32), lanes := o.mask, valid := o.mask
      flags := orFlags o.mask (fun l => (f l).2) 16 }

/-- A scalar result (R76, R97): a vector destination receives it broadcast in the lanes that are on. -/
def scalarOut (o : Opnds) (w : Word) : Delivery := perLane o (fun _ => (w, noFlags))

/-- A mask delivered by a compare-class instruction: lanes of all ones or zero (R63). -/
def maskOut (o : Opnds) (m : Nat → Bool) (fl : Nat → Flags) : Delivery :=
  { value := ofLanes (fun l => if o.mask.getLsbD l && m l then 0xFFFFFFFF#32 else 0#32), lanes := o.mask
    valid := o.mask, flags := orFlags o.mask fl 16 }

/-- A capability result (K kind), written under the scalar write condition. -/
def capOut (o : Opnds) (c : BitVec 128) : Delivery :=
  { value := c.setWidth 512, lanes := fullMask o.on, valid := 0, flags := noFlags }

/-! ## Elements within a lane (R37) -/

/-- The element width that S2.WIDTH names (R29, R37). -/
def Elem.width (e : Elem) : Nat :=
  match (e.s2.extractLsb' 0 2).toNat with
  | 0 => 8
  | 1 => 16
  | _ => 32

/-- The element width of an integer instruction: 32 for a scalar destination (R97). -/
def State.intWidth (s : State) (o : Opnds) : Nat := if scalarDest o.op then 32 else (s.elem o.ve).width

/-- Element k of width n of a lane. -/
def elemK (n : Nat) (w : Word) (k : Nat) : Nat := w.toNat / 2 ^ (n * k) % 2 ^ n

/-- A lane computed from its first `m` elements of width n, and the OR of their flags. -/
def elems (n : Nat) (f : Nat → Nat × Flags) : Nat → Word × Flags
  | 0 => (0#32, noFlags)
  | m + 1 =>
    let r := elems n f m
    let x := f m
    (r.1 ||| BitVec.ofNat 32 (x.1 % 2 ^ n * 2 ^ (n * m)), r.2 ||| x.2)

/-- A lane of an integer operation on the elements of width n of two lanes. -/
def intLane (n : Nat) (f : Nat → Nat → Nat × Flags) (a b : Word) : Word × Flags :=
  elems n (fun k => f (elemK n a k) (elemK n b k)) (32 / n)

end Sys2Proof.Machine
end

