-- ==== Sys2Proof/Machine/Issue.lean ====
section
/-! DEFINITION. Issue and completion: the gate an instruction passes at issue (R18, R20, R66, R67, R87, R316, R326), the
one operation `issueVE` through which every vector-element instruction runs, the turn gap and the next issue (R25, R26,
R73), and `completeResult`, which every result in flight runs through (R19, R21, R22, R24). -/

namespace Sys2Proof.Machine

/-! ## Fetch -/

/-- The word addresses of the triplet at a ring-mode slot's pointers: the operation entry, and the words that hold the route and the
register-address entries (R25, R69). -/
def ringWords (x : Slot) : List Nat := [x.rings.op + x.opp, (x.rings.rt + x.rtp) / 2, (x.rings.ra + x.rap) / 2]

/-- Half-word k of an instruction memory: the low half of word k ÷ 2 where k is even. -/
def halfAt (m : Map Word) (k : Nat) : BitVec 16 := (mget 0 m (k / 2)).extractLsb' (16 * (k % 2)) 16

/-- The instruction at the slot's position, or why there is none (R69, R72, R96). -/
def fetchAt (s : State) (n : Nat) : Except IllFormed Instr :=
  let x := s.slot n
  let m := (s.elem (veOfSlot n)).imem
  if s.isSeq n then
    decodeSeq ((List.range (min 3 (2048 - x.ia.toNat))).map (fun i => mget 0 m (x.ia.toNat + i)))
  else decodeRing (mget 0 m (x.rings.op + x.opp)) (halfAt m (x.rings.rt + x.rtp)) (halfAt m (x.rings.ra + x.rap))

/-- The first word at the slot's position, for a record. -/
def fetchWord (s : State) (n : Nat) : Word :=
  let x := s.slot n
  mget 0 (s.elem (veOfSlot n)).imem (if s.isSeq n then x.ia.toNat else x.rings.op + x.opp)

/-- A word of the instruction at the slot's position is poisoned (R96). -/
def fetchPoisoned (s : State) (n : Nat) : Bool :=
  let x := s.slot n
  (if s.isSeq n then (List.range (lengthOf (fetchWord s n))).map (fun i => x.ia.toNat + i) else ringWords x).any
    (fun a => (s.elem (veOfSlot n)).imemPoison.contains a)

/-- The slot's next instruction is a safe point, and takes its action (R99, R109). -/
def atSafePoint (s : State) (n : Nat) : Bool :=
  match fetchAt s n with
  | .ok (.yieldI op) => anyOn (effMask (s.slot n) op)
  | .ok (.safeI op) => anyOn (effMask (s.slot n) op)
  | _ => false

/-! ## Bubbles and coupled groups (R18, R67) -/

/-- The item moves when its group is delayed: an issue, a start, a hold or a completion of a slot of the group. -/
def movesWith (g : List Nat) (now : Nat) (it : Item) : Bool :=
  decide (16 * now ≤ it.time) && (match it.act with
    | .issue m => g.contains m
    | .ev .slotStart a => g.contains a.a
    | .ev .wKindHoldRelease a => g.contains a.a
    | .ev .resultCompletion a => g.contains a.a
    | .ev .qblkTokenRelease a => g.contains a.d
    | _ => false)

/-- Delays every later event of a slot's group by one turn (R18); the issue cycles of an open QBLK block move with it, since its
tokens complete by them. -/
def delayGroup (s : State) (n : Nat) : State :=
  let v := veOfSlot n
  let g := coupledWith s n
  let w := (s.elem v).wheel
  let moved := s.agenda.map (fun it => if movesWith g s.mcnt it then { it with time := it.time + 16 * w } else it)
  let s1 := { s with agenda := moved.foldl (fun l it => insertItem it l) [] }
  s1.modElem v (fun e => { e with
    flight := e.flight.map (fun r => if g.contains r.slot ∧ s.mcnt ≤ r.due then { r with due := r.due + w } else r)
    quant := e.quant.map (fun q =>
      if g.contains q.slot ∧ q.times.length < 32 then { q with times := q.times.map (fun c => c + w) } else q) })

/-- A slot of a coupled group does not issue on its turn: the group waits a turn with it (R18). -/
def State.delay (s : State) (n : Nat) : State := if s.inGroup n then delayGroup s n else s

/-- The turn is a bubble: the instruction is tried again on the slot's next turn, and a coupled group waits with it. -/
def State.bubble (s : State) (n : Nat) : State := (s.delay n).planIssue n (s.mcnt + 1)

/-- What an unmet condition does at issue: a timing fault at level T, a bubble at levels D and F (R67, R147, R316). -/
def State.starve (s : State) (n cause : Nat) : State :=
  if s.levelOf (tileOfSlot n) = .t then s.trapSlot n cause (s.epcDetail n) else s.bubble n

/-! ## The gate -/

/-- Whether an instruction may issue in this cycle. -/
inductive Gate where
  | go
  /-- The slot does not issue: it is not RUNNING, or its element is blocked. -/
  | idle
  | illegal
  /-- A poisoned operand: the slot freezes with this DETAIL (R326). -/
  | poison (detail : Nat)
  | starve (cause : Nat)
  /-- The instruction uses an uncorrectable word of configuration (R326). -/
  | config (p : CfgPart) (ix : Nat)
deriving DecidableEq, Repr

/-- The majors whose address operand names an object: accesses, atomics, PROBE, PREF and the Lodestone's loads and stores (R143, R195). -/
def namesObject (maj : Nat) : Bool := [0xA0, 0xA1, 0xA2, 0xA3, 0xAC, 0xAD, 0xE0, 0xE1, 0xE6].contains maj || (decide (0xB0 ≤ maj) && decide (maj ≤ 0xB9))

/-- The uncorrectable word of configuration that an instruction uses, if any: the switch entries of its ports, the map that SPORT.ARM
takes, the template of a copy instruction, and the cached entry of its object (R326). -/
def cfgUsed (s : State) (n maj : Nat) (op : Op) : Option (CfgPart × Nat) :=
  let bad := (s.tile (tileOfSlot n)).badCfg
  if bad.isEmpty then none
  else
    let o := s.operands n maj op
    let t := o.trip
    let entry (p : Nat) : Nat := 32 * (o.ve % 8) + 16 * p + t.phase
    let on := anyOn o.mask
    let tmpl := if maj = 0xE9 then o.sa.toNat / 16 % 64 else o.sb.toNat % 64
    bad.find? (fun m => match m.1 with
      | .switch => (popList op t).any (fun p => decide (p ≤ 1) && m.2 == entry p)
          || (pushes op && (List.range 2).any (fun p => t.fan.getLsbD (4 + p) && m.2 == entry p))
      | .map => on && maj == 0xA5 && op.var == 0 && m.2 / 24 == (s.sport (8 * o.tile + o.sa.toNat % 8)).sel
      | .template => on && [0xE8, 0xE9].contains maj && m.2 / 16 == tmpl
      | .object => on && namesObject maj && m.2 == capObj o.cap
      | _ => false)

/-- The triplet as it stands at issue is illegal here: an index of the held words, an H-kind opcode outside the Helm
region, or a port that the VE does not have (R20, R66, R85, R96). -/
def illegalHere (s : State) (n maj : Nat) (op : Op) (t : Trip) : Bool :=
  let v := veOfSlot n
  (checkRaw maj op t.raw).isSome || (isHelmKind maj && !isHelmTile (tileOfSlot n))
    || (popList op t).any (fun p => !portExists v p)
    || (pushes op && (List.range 4).any (fun g => t.fan.getLsbD g && (meOf v (4 + g)).isNone))

/-- The iterative unit is busy: for the interval of the last I-kind issue, and while an iterative result stands in the flight
record (R87). -/
def unitBusy (e : Elem) (now : Nat) : Bool := decide (now < e.iterUntil) || e.record.any (fun h => h.res.iter)

/-- The instruction reserves an entry of each target's output queue at issue (R316). A QBLK does not: its token leaves the quantiser 34
cycles or more after the issue, and a block's 33 issues do not wait for one another's tokens (R137, R138; DEDUCED, log 202). -/
def reserves (maj : Nat) (op : Op) : Bool := pushes op && maj != 0x88

/-- The conditions of issue, in order. -/
def gate (s : State) (n maj : Nat) (op : Op) : Gate :=
  let x := s.slot n
  let v := veOfSlot n
  let e := s.elem v
  let t := resolve x op
  let pops := popList op t
  if x.st ≠ .running ∨ e.blocked then .idle
  else if illegalHere s n maj op t then .illegal
  else match cfgUsed s n maj op with
  | some u => .config u.1 u.2
  | none =>
  if pops.any (fun p => (s.tokenOf v op t p).isNone) then .starve 0x080
  else match pops.find? (fun p => ((s.tokenOf v op t p).map Token.poison).getD false) with
  | some p => .poison p
  | none =>
    if s.srcPoisoned n maj op.acls.toNat (rawA t.raw) || s.srcPoisoned n maj op.bcls.toNat (rawB t.raw) then
      .poison (s.epcDetail n)
    else if reserves maj op && (List.range 6).any (fun g => t.fan.getLsbD g && !hasRoom e s.mcnt g) then .starve 0x08D
    else if isIterative maj && unitBusy e s.mcnt then .starve 0x080
    else .go

/-- The stream ports of a slot's tile send the merged UN tokens that hold one of the slot (R249). -/
def flushMerged (s : State) (n : Nat) : State :=
  (List.range 8).foldl (fun a k =>
    let m := 8 * tileOfSlot n + k
    if (s.sport m).merge.any (fun t => t.slot == n) then a.planN s.mcnt rkPort .writePortUnFlush m 0 else a) s

/-! ## Issue -/

/-- How an instruction's own checks end. -/
inductive Verdict where
  | done
  /-- Tried again as for an empty port (R147, R288). -/
  | retry (cause : Nat)
  /-- Tried again so, and merged UN tokens of the slot, for which it may wait, leave their ports (R245, R249). -/
  | flush (cause : Nat)
  /-- The instruction takes effect and stops its slot at the end of its issue cycle (R168, R229). -/
  | stops (cause detail : Nat)
  /-- The instruction takes effect, and its slot stops on purpose in the next cycle (R229). -/
  | halts (cause : Nat)
  /-- `trap(cause)`: none of its assignments is made. -/
  | trap (cause detail : Nat)
  /-- Tried again once the object-table entry of this context and object has come (R288). -/
  | fetch (ctx obj : Nat)
  /-- A W-kind hold at issue (R85, R153). -/
  | hold
deriving DecidableEq, Repr

/-- What an instruction does at its issue cycle: the state with its effects, its result with kind and latency, a
transfer's target, and whether the slot issues nothing after it. -/
structure Issued where
  st : State
  verdict : Verdict
  res : Option (DestKind × Nat × Delivery)
  jump : Option (BitVec 11)
  stop : Bool

/-- An instruction without a result. -/
def Issued.only (s : State) : Issued := { st := s, verdict := .done, res := none, jump := none, stop := false }
/-- An instruction with a register, port or operand-file result of latency `lat`. -/
def Issued.value (s : State) (lat : Nat) (d : Delivery) : Issued :=
  { st := s, verdict := .done, res := some (.value, lat, d), jump := none, stop := false }
/-- An instruction whose checks end otherwise. -/
def Issued.ends (s : State) (v : Verdict) : Issued := { st := s, verdict := v, res := none, jump := none, stop := false }

/-- The slot after an issue: the held words (R74), the next position (R25, R26, R101), the result number. -/
def advance (x : Slot) (op : Op) (jump : Option (BitVec 11)) : Slot :=
  let y := { x with seq := x.seq + 1, heldSince := none, arvw := none }
  let go (len : Nat) : BitVec 11 := jump.getD (x.ia + BitVec.ofNat 11 len)
  match op.form with
  | .short => { y with ia := go 1 }
  | .mid r a => { y with ia := go 2, hrw := r, haw := a }
  | .long r a _ => { y with ia := go 3, hrw := r, haw := a }
  | .ring _ _ =>
    let wrap := x.opp + 1 = x.rings.lo
    { y with opp := if wrap then 0 else x.opp + 1, ic := if wrap then x.ic + 1 else x.ic
             rtp := if x.rtp + 1 = x.rings.lr then 0 else x.rtp + 1
             rap := if x.rap + 1 = x.rings.la then 0 else x.rap + 1 }

/-- The result of an issue: it completes at the end of issue + L − 1 (R86). -/
def resultOf (o : Opnds) (now : Nat) (kind : DestKind) (lat : Nat) (d : Delivery) : Result :=
  { slot := o.slot, seq := o.seq, due := now + lat - 1, kind := kind, dcls := o.op.dcls.toNat
    didx := if kind = .link then (if o.maj = 0x03 then 31 else rawA o.trip.raw) else rawD o.trip.raw
    fan := if pushes o.op then o.trip.fan else 0, phase := o.trip.phase, lanes := d.lanes, valid := d.valid
    value := d.value, flags := d.flags, iter := isIterative o.maj }

/-- Puts a result in flight and reserves its output-queue entries (R316). -/
def State.launchResult (s : State) (r : Result) : State :=
  let v := veOfSlot r.slot
  let s1 := s.modElem v (fun e => { e with
    flight := e.flight ++ [r]
    resv := (List.range 6).foldl (fun m g => if r.fan.getLsbD g then mmod 0 m g (fun k => k + 1) else m) e.resv })
  s1.planResult r.slot r.seq r.due .resultCompletion (Arg.of r.slot r.seq 0 0 0)

/-- The first end of a hold that has not passed, among those that the loader derived from a block start; where every one has passed,
this cycle. -/
def holdLimit (ends : List Nat) (start now : Nat) : Nat :=
  (ends.filterMap (fun c => if now ≤ start + c then some (start + c) else none)).foldl
    (fun m c => some (min (m.getD c) c)) none |>.getD now

/-- A W-kind hold: the slot looks again on its next turn, and a coupled group waits with it, but not at a safe point, which the
others of the group are still to reach (R18). At level T the hold may not outlast the cycle that the loader derived, in which the slot
may still issue (R153). -/
def State.holdSlot (s : State) (n : Nat) : State :=
  let x := s.slot n
  let s1 := s.modSlot n (fun y => { y with heldSince := some (y.heldSince.getD s.mcnt) })
  let s2 := (if atSafePoint s n then s1 else s1.delay n).planN (s.turnOf n (s.mcnt + 1)) rkHold .wKindHoldRelease n 0
  match mfind x.holdEnd (s.position n).toNat with
  | some ends =>
    if x.heldSince.isNone ∧ s.levelOf (tileOfSlot n) = .t then
      s2.planN (holdLimit ends x.start s.mcnt) rkEngine .holdOverrun n 0
    else s2
  | none => s2

/-- The state after an instruction has issued: the slot advances, its result is in flight, and its next issue stands
`gap` + 1 turns later (R73). -/
def finish (o : Opnds) (r : Issued) : State :=
  let s1 := r.st.modSlot o.slot (fun x => advance x o.op r.jump)
  let s2 := s1.unplan (fun a => match a with
    | .ev .holdOverrun g => g.a == o.slot
    | _ => false)
  let s3 := match r.res with
    | some (kind, lat, d) => s2.launchResult (resultOf o s2.mcnt kind lat d)
    | none => s2
  if r.stop then s3 else s3.planIssue o.slot (s3.mcnt + (o.op.gap.toNat + 1) * (s3.elem o.ve).wheel)

/-- The issue of a vector-element instruction by the slot whose turn it is: the gate, the pops, the instruction's own
effect, and what its verdict says. -/
def issueVE (maj : Nat) (op : Op) (body : Opnds → State → Issued) (s : State) : State :=
  let n := s.cur
  let v := veOfSlot n
  match gate s n maj op with
  | .idle => s
  | .illegal => s.blockElem v 0x001 (fetchWord s n).toNat
  | .poison d => s.trapSlot n 0x0C1 d
  | .starve c => s.starve n c
  | .config p ix => (s.failLoad (tileOfSlot n) p ix).bubble n
  | .go =>
    let o := s.operands n maj op
    let s1 := (popList op o.trip).foldl (fun a p => a.pop v p o.trip.phase) s
    let r := body o s1
    match r.verdict with
    | .done => finish o r
    | .retry c => s.starve n c
    | .flush c => (flushMerged s n).starve n c
    | .fetch c x => (s.fetchObject o.tile c x).bubble n
    | .trap c d => s.trapSlot n c d
    | .stops c d => (finish o r).trapAt n c d (s.mcnt + 1)
    | .halts c => (finish o r).planEv (s.mcnt + 1) rkStart .resultCompletion (Arg.of n o.seq c 0 0)
    | .hold => r.st.holdSlot n

/-- A lane-wise instruction of latency `lat`. -/
def aluVE (maj lat : Nat) (op : Op) (f : State → Opnds → Nat → Word × Flags) (s : State) : State :=
  issueVE maj op (fun o s1 => Issued.value s1 lat (perLane o (f s o))) s

/-- An instruction without a result that acts only when a lane is on (R99, R145, R226). -/
def actVE (maj : Nat) (op : Op) (f : Opnds → State → Issued) (s : State) : State :=
  issueVE maj op (fun o s1 => if o.on then f o s1 else Issued.only s1) s

/-- A compare-class instruction of latency 2 (R63). -/
def cmpVE (maj : Nat) (op : Op) (m : State → Opnds → Nat → Bool × Flags) (s : State) : State :=
  issueVE maj op (fun o s1 =>
    { Issued.only s1 with res := some (.predicate, 2, maskOut o (fun l => (m s o l).1) (fun l => (m s o l).2)) }) s

/-- The I-kind instructions also take the iterative unit for `int` cycles (R87). -/
def iterVE (maj lat int : Nat) (op : Op) (f : State → Opnds → Nat → Word × Flags) (s : State) : State :=
  issueVE maj op (fun o s1 =>
    Issued.value (s1.modElem o.ve (fun e => { e with iterUntil := s.mcnt + int })) lat (perLane o (f s o))) s

/-! ## Completion -/

/-- Pushes a token into the output queues of its targets, in the places that its instruction reserved, where it did (R67, R316);
`seq` is the place of the instruction in the slot's issue order. -/
def pushOut (s : State) (n seq : Nat) (fan : BitVec 6) (phase : Nat) (tok : Token) (reserved : Bool) : State :=
  let v := veOfSlot n
  (List.range 6).foldl (fun a g =>
    if fan.getLsbD g then
      drainOut (a.modElem v (fun e => { e with
        resv := if reserved then mmod 0 e.resv g (fun k => k - 1) else e.resv
        outq := mset e.outq g (mget [] e.outq g ++ [{ tok := tok, phase := phase, slot := n, seq := seq, leave := none }]) })) v g 8
    else a) s

/-- Shifts the last-result file (R21). -/
def shiftQ (x : Slot) (v : Vec) : Slot := { x with q3 := x.q2, q2 := x.q1, q1 := x.q0, q0 := v }

/-- ORs flags into FLG at completion, and remembers those of this cycle for a write that completes in it (R24). -/
def raiseFlags (x : Slot) (now : Nat) (f : Flags) : Slot :=
  { x with flg := x.flg ||| f, flgAt := now, flgNow := if x.flgAt = now then x.flgNow ||| f else f }

/-- A write to FLG: the written value OR the bits set in the same cycle (R24, R228). -/
def writeFlg (x : Slot) (now : Nat) (w : Flags) : Slot :=
  { x with flg := flgMerge x.flg (some w) (if x.flgAt = now then x.flgNow else noFlags) }

/-- The register write of a completing result (R76, R86). -/
def writeDest (s : State) (r : Result) : State :=
  let n := r.slot
  match r.kind with
  | .value =>
    match r.dcls with
    | 0 => s.setVreg n r.didx (blend r.lanes r.value (s.vreg n r.didx))
    | 4 => s.setVreg n r.didx (blend r.lanes r.value (s.vreg n r.didx))
    | 1 => if anyOn r.lanes then s.setSreg n r.didx (lane r.value 0) else s
    | 5 => if anyOn r.lanes then s.setSreg n r.didx (lane r.value 0) else s
    | 2 => s.modSlot n (fun x => { x with o := mset x.o r.didx (blend r.lanes r.value (mget 0 x.o r.didx)) })
    | _ => s
  | .predicate =>
    if r.dcls = 3 then s else
    let m := ofMask (fun l => (lane r.value l) != 0#32)
    s.modSlot n (fun x =>
      { x with p := mset x.p r.didx ((mget 0xFFFF#16 x.p r.didx &&& ~~~r.lanes) ||| (m &&& r.lanes)) })
  | .flags =>
    if anyOn r.lanes then s.modSlot n (fun x => writeFlg x s.mcnt ((lane r.value 0).setWidth 6)) else s
  | .capability =>
    if anyOn r.lanes then s.modSlot n (fun x => { x with c := mset x.c r.didx (r.value.setWidth 128) }) else s
  | .link => if anyOn r.lanes then s.setSreg n r.didx (lane r.value 0) else s
  | .quant _ _ => s

/-- The result shifts the last-result file (R21). -/
def shifts (r : Result) : Bool :=
  match r.kind with
  | .value => decide (r.dcls ≤ 5)
  | .predicate => r.dcls == 3
  | .quant _ _ => true
  | _ => false

/-- What enters the last-result file: the result, in the lanes that the predicate left on (R21, R76). -/
def lastResult (r : Result) : Vec := blend r.lanes r.value 0

/-- The completion of a result: its register write, its flags, the last-result shift, then its pushes (R21, R24,
R67). -/
def applyResult (s : State) (r : Result) : State :=
  let s1 := writeDest s r
  let s2 := s1.modSlot r.slot (fun x =>
    let y := if r.flags = 0 then x else raiseFlags x s.mcnt r.flags
    if shifts r then shiftQ y (lastResult r) else y)
  (pushOut s2 r.slot r.seq r.fan r.phase { data := r.value, valid := r.valid, poison := false } true).drainCheck r.slot

/-- RESULT_COMPLETION: the result of this number leaves the element's results in flight and completes; where it has
been diverted to the flight record or discarded, nothing happens (R31). -/
def completeResult (n seq : Nat) (s : State) : State :=
  let v := veOfSlot n
  let e := s.elem v
  match e.flight.find? (fun r => r.slot == n && r.seq == seq && r.due == s.mcnt) with
  | some r =>
    applyResult (s.setElem v { e with flight := e.flight.filter (fun x => !(x.slot == n && x.seq == seq)) }) r
  | none => s

end Sys2Proof.Machine
end

