-- ==== Sys2Proof/Machine/Access.lean ====
section
/-! DEFINITION. Scratchpad access (R143 to R153), capabilities (R156 to R158) and atomics (R159, R160): the checks of an
access, its acceptance at its ME's banks, and its performance at the end of issue + 3. -/

namespace Sys2Proof.Machine

/-! ## The access that an instruction makes -/

/-- Bytes of an access (R93). -/
def accessSize (maj : Nat) (var : BitVec 3) : Nat :=
  if maj = 0xA0 ∨ maj = 0xA1 then
    match var.toNat with
    | 0 => 64
    | 1 => 4
    | 2 => 2
    | _ => 1
  else 4

/-- Rights that check 1 of R146 asks for. -/
def accessNeed (maj : Nat) : BitVec 8 :=
  match maj with
  | 0xA0 => rRD
  | 0xA2 => rRD
  | 0xA1 => rWR
  | 0xA3 => rWR
  | 0xB9 => rRD ||| rWR ||| rAT ||| rFA
  | _ => rRD ||| rWR ||| rAT

/-- The effective address (R143): exact, with the displacement of a load or PREF. -/
def eaOf (maj : Nat) (o : Opnds) : Nat :=
  capLo o.cap + o.off.toNat + (if maj = 0xA0 ∨ maj = 0xA2 ∨ maj = 0xAD then o.sb.toNat else 0)

/-- What the checks of R146 find. -/
inductive Check where
  /-- An adjacent ME, the flat address and the object's ordering kind. -/
  | hit (me addr ord : Nat)
  | aperture (tile off : Nat)
  | trap (cause detail : Nat)
  | fetch (ctx obj : Nat)
deriving DecidableEq, Repr

/-- Checks 1 to 3 of R146 on an address. -/
def checkCap (c : BitVec 128) (need : BitVec 8) (ea size detail : Nat) : Option (Nat × Nat) :=
  if !hasRights c need then some (0x040, detail)
  else if ea % size ≠ 0 then some (0x041, detail)
  else if ea < capLo c ∨ capHi c < ea + size then some (0x042, detail)
  else none

/-- Checks 4 and 5 of R146: the valid scratchpad or aperture object, or the trap. -/
def checkObj (s : State) (t : Nat) (c : BitVec 128) : Except Check ObjRec :=
  let ctx := s.ctxOfTile t
  match s.objLook t ctx (capObj c) with
  | .miss => .error (.fetch ctx (capObj c))
  | .absent => .error (.trap 0x043 (capObj c))
  | .hit r =>
    if r.ver ≠ capVer c then .error (.trap 0x043 (capObj c))
    else if r.kind ≠ 0 ∧ r.kind ≠ 5 then .error (.trap 0x044 (capObj c))
    else .ok r

/-- The checks of R146, in order; an object whose ordering kind is 0b11 raises the translation cause (R246). -/
def checkAccess (s : State) (o : Opnds) (maj : Nat) : Check :=
  let size := accessSize maj o.op.var
  let ea := eaOf maj o
  let detail := s.epcDetail o.slot
  match checkCap o.cap (accessNeed maj) ea size detail with
  | some (c, d) => .trap c d
  | none =>
    match checkObj s o.tile o.cap with
    | .error e => e
    | .ok r =>
      match placeOf s o.tile (s.ctxOfTile o.tile) (capObj o.cap) (s.slot o.slot).entry r (ea - r.vbase) with
      | .aperture t off => if 0xB0 ≤ maj then .trap 0x044 (capObj o.cap) else .aperture t off
      | .pad t me off =>
        if r.ord = 3 then .trap 0x048 (vaDetail ea)
        else if t ≠ o.tile ∨ (mePortOf (o.ve % 8) me).isNone then .trap 0x045 detail
        else if !meHas s t me (off + size) then .trap 0x043 (capObj o.cap)
        else .hit me (padAddr (8 * t + me) off) r.ord
      | _ => .trap 0x045 detail

/-! ## Prior accesses (R150 to R152, R242) -/

/-- The ME sides of a fan-out. -/
def fanMe (f : BitVec 6) : Bool := f.extractLsb' 0 4 != 0

/-- A port holds a token that the slot pushed before place `bound` of its issue order, and that is not performed: on its way, or held
to be merged or to complete its BFP group where `held` says so (R163, R242, R295). -/
def portOwes (p : SPort) (n bound : Nat) (held : Bool) : Bool :=
  (p.input ++ p.accepted ++ (if held then p.merge else [])).any (fun t => t.slot == n && decide (t.seq < bound))

/-- Tokens that the slot pushes to an ME have not come to it: from instructions in flight, open blocks and output queues. -/
def pushesUnder (e : Elem) (n bound : Nat) (goes : BitVec 6 → Bool) : Bool :=
  e.flight.any (fun r => r.slot == n && decide (r.seq < bound) && goes r.fan)
    || e.quant.any (fun q => q.slot == n && (q.fans.zip q.seqs).any (fun f => goes f.1.1 && decide (f.2 < bound)))
    || e.outq.any (fun q => q.2.any (fun t => t.slot == n && decide (t.seq < bound) && t.leave.isNone && goes (1#6 <<< q.1)))

/-- An event of the slot before place `bound` of its issue order has not been performed yet: an access, or a token that it pushed to a
write-direction stream port (R242); what a port holds back counts where `held` says so. -/
def eventsPending (s : State) (n bound : Nat) (held : Bool) : Bool :=
  s.accs.any (fun a => a.2.slot == n && decide (a.2.seq < bound)) || pushesUnder (s.elem (veOfSlot n)) n bound fanMe
    || s.sports.any (fun p => p.1 / 8 == tileOfSlot n && portOwes p.2 n bound held)

/-- An access of the slot that issued before number `bound`, or a token that it pushed to a write-direction stream port,
has not been performed yet. -/
def priorPending (s : State) (n bound : Nat) : Bool := eventsPending s n bound true

/-- What a release of the slot that is neither STRL nor a copy's credit has to wait for: a UN write that a port holds is carried by none of
them (R249, R252, R254). -/
def releasePending (s : State) (n bound : Nat) : Bool := eventsPending s n bound false

/-- An STRL of the slot has not been performed yet (R152). -/
def releaseOut (s : State) (n : Nat) : Bool := s.accs.any (fun a => a.2.slot == n && a.2.kind == .release)

/-- A token that write port m has accepted is performed at the end of this cycle: all that it has still to write. -/
def portDue (s : State) (m : Nat) (t : WToken) : Bool :=
  let now := s.agenda.filter (fun it => it.time == 16 * s.mcnt + rkPerform)
  now.any (fun it => match it.act with
    | .ev .writeWalkTokenPerform g => g.a == m && g.b == t.id
    | _ => false)
  || (!t.parts.isEmpty && t.parts.all (fun p => now.any (fun it => match it.act with
    | .ev .vaultBankEvent g => (match mfind s.reqs g.a with
      | some r => r.write && r.tag == t.id && r.parts.contains p
      | none => false)
    | _ => false)))

/-- The state less the port tokens that are performed at the end of this cycle. -/
def withoutDue (s : State) : State :=
  { s with sports := s.sports.map (fun p => (p.1, { p.2 with accepted := p.2.accepted.filter (fun t => !portDue s p.1 t) })) }

/-- The ME holds an STRL: from cycle issue + 3, where something before it will not have been performed by the end of that cycle
(R151). -/
def strlHeld (s : State) (a : Access) : Bool :=
  a.held || (a.kind == .release && decide (a.issue + 3 ≤ s.mcnt)
    && priorPending { withoutDue s with
        accs := s.accs.filter (fun x => decide (s.mcnt < x.2.issue + 3) || x.2.held || x.2.kind == .release) } a.slot a.seq)

/-- A side of a fan-out that names an ME of the slot's tile. -/
def fanTo (n me : Nat) (f : BitVec 6) : Bool := (List.range 4).any (fun g => f.getLsbD g && meOf (veOfSlot n) (4 + g) == some (8 * tileOfSlot n + me))

/-- The local bytes that the capability of a port's map spans. -/
def walkSpan (s : State) (m : Nat) : Nat × Nat :=
  let c := capAt (s.sport m).mapw 0
  let t := m / 8
  match s.objRead t (s.ctxOfTile t) (capObj c) with
  | some r => match placeOf s t (s.ctxOfTile t) (capObj c) (s.slot (s.sport m).owner).entry r (capLo c - r.vbase) with
    | .pad x me off => let a := padAddr (8 * x + me) off; (a, a + (capHi c - capLo c))
    | _ => (0, 0)
  | none => (0, 0)

/-- A token that the slot pushed to its write walk on ME me, and that is not performed, writes a byte of the access, or may: until the port
has accepted it, its place is one that the map can reach (R245, R247). -/
def ownBytes (s : State) (n me addr size : Nat) : Bool :=
  let p := s.sport (8 * tileOfSlot n + me)
  let span := walkSpan s (8 * tileOfSlot n + me)
  (p.accepted ++ p.merge).any (fun t => t.slot == n && t.parts.any (fun q => decide (q.pa < addr + size) && decide (addr < q.pa + q.n)))
    || (p.dir && p.state == 1 && decide (addr < span.2) && decide (span.1 < addr + size) && (p.bfp && p.merge.any (fun t => t.slot == n) || p.input.any (fun t => t.slot == n)
        || pushesUnder (s.elem (veOfSlot n)) n (s.slot n).seq (fanTo n me)))

/-- A token that the slot pushed to an SO object is on its way (R247). -/
def strongUnder (s : State) (n : Nat) : Bool :=
  s.sports.any (fun p => p.1 / 8 == tileOfSlot n && p.2.dir && p.2.ord == 0
    && ((p.2.input ++ p.2.accepted).any (fun t => t.slot == n) || pushesUnder (s.elem (veOfSlot n)) n (s.slot n).seq (fanTo n (p.1 % 8))))

/-- A held STRL of the slot keeps this ME, and every ME for an SO object, from accepting the access (R151, R247). At
levels D and F an access also waits for the tokens that the slot has pushed to the same bytes, and one to an SO object for those to SO
objects (R245, R247); at level T the loader derives the order. -/
def orderBlocks (s : State) (n me ord addr size : Nat) : Bool :=
  s.accs.any (fun a => a.2.slot == n && strlHeld s a.2 && (a.2.me == 8 * tileOfSlot n + me || ord == 0))
    || (s.levelOf (tileOfSlot n) != .t && (ownBytes s n me addr size || (ord == 0 && strongUnder s n)))

/-! ## Acceptance at the banks (R147) -/

/-- The banks that an access takes. -/
def banksOf (size addr : Nat) : Mask := if size = 64 then 0xFFFF#16 else 1#16 <<< (addr / 4 % 16)

/-- Banks of an ME taken so far in this cycle. -/
def bankTaken (s : State) (m : Nat) : Mask :=
  let x := mget MeState.reset s.mes m
  if x.cyc = s.mcnt then x.banks else 0

/-- Takes banks of an ME in this cycle. -/
def takeBanks (s : State) (m : Nat) (b : Mask) : State :=
  { s with mes := mset s.mes m { cyc := s.mcnt, banks := bankTaken s m ||| b } }

/-- The VE on side q of ME m (R147). -/
def veOnSide (m q : Nat) : Option Nat := (List.range 8).find? (fun k => mePortOf k m == some q)

/-- An opcode that accesses a scratchpad. -/
def isAccess (maj : Nat) : Bool := decide (0xA0 ≤ maj ∧ maj ≤ 0xA3) || decide (0xB0 ≤ maj ∧ maj ≤ 0xB9)

/-- The access that a slot's next instruction makes when it issues in this cycle: ME and banks. -/
def arrival (s : State) (n : Nat) : Option (Nat × Mask) :=
  match fetchAt s n with
  | .error _ => none
  | .ok i =>
    match veView i with
    | none => none
    | some (maj, op) =>
      if !isAccess maj || gate s n maj op != .go then none
      else
        let o := s.operands n maj op
        if !o.on || (maj == 0xA2 && releaseOut s n) then none
        else
          match checkAccess s o maj with
          | .hit me addr ord =>
            if orderBlocks s n me ord addr (accessSize maj op.var) then none else some (me, banksOf (accessSize maj op.var) addr)
          | _ => none

/-- The slot of a VE whose turn in this cycle is still to come. -/
def turnToCome (s : State) (v : Nat) : Option Nat :=
  s.agenda.findSome? (fun it => match it.act with
    | .issue n => if it.time = 16 * s.mcnt + rkIssue v ∧ veOfSlot n = v then some n else none
    | _ => none)

/-- Banks of ME m of a tile that ports below `p` take in this cycle: those taken already, and those that VEs on lower
sides will take at a turn still to come. -/
def banksBelow (s : State) (t m : Nat) : Nat → Mask
  | 0 => bankTaken s (8 * t + m)
  | q + 1 =>
    let low := banksBelow s t m q
    match (veOnSide m q).bind (fun k => turnToCome s (8 * t + k)) with
    | some n =>
      match arrival s n with
      | some (me, b) => if me = m ∧ b &&& low = 0 then low ||| b else low
      | none => low
    | none => low

/-- The ME accepts the access at issue. -/
def accepts (s : State) (o : Opnds) (me : Nat) (b : Mask) : Bool :=
  match mePortOf (o.ve % 8) me with
  | some p => banksBelow s o.tile me p &&& b == 0
  | none => false

/-! ## Issue -/

/-- The atomic delivers its old value (R159). -/
def isRet (maj : Nat) (var : BitVec 3) : Bool :=
  if maj = 0xB8 then true else if maj = 0xB5 ∨ maj = 0xB6 then decide (2 ≤ var.toNat) else var == 1

/-- The kind of an access. -/
def accKind (maj : Nat) : AccKind :=
  match maj with
  | 0xA0 => .load
  | 0xA2 => .load
  | 0xA1 => .store
  | 0xA3 => .release
  | _ => .atomic

/-- The result that an access will have: latency 7 for a load, 9 for an atomic; its value comes from the bank. -/
def accessResult (maj : Nat) (o : Opnds) : Option (DestKind × Nat × Delivery) :=
  let d := perLane o (fun _ => (0#32, noFlags))
  match accKind maj with
  | .load => some (.value, 7, d)
  | .atomic => if isRet maj o.op.var then some (.value, 9, d) else none
  | _ => none

/-- The record of an access that is accepted in this cycle. -/
def accessOf (s : State) (o : Opnds) (maj : Nat) (kind : AccKind) (me addr : Nat) : Access :=
  { slot := o.slot, seq := o.seq, kind := kind, me := me, addr := addr, size := accessSize maj o.op.var
    lanes := o.mask &&& o.bValid, data := o.b, maj := maj, var := o.op.var.toNat, cmp := s.sreg o.slot (rawD o.trip.raw)
    scope := o.op.var.toNat, issue := s.mcnt, epc := s.position o.slot, held := false }

/-- Sends an access on its way: its bank read at the start and its performance at the end of issue + 3. -/
def sendAccess (s : State) (a : Access) : State :=
  let (id, s1) := s.fresh
  let s2 := { s1 with accs := mset s1.accs id a }
  (s2.planN (s.mcnt + 3) rkStart .bankAccessPerform id 0).planN (s.mcnt + 3) rkPerform .bankAccessPerform id 1

/-- The issue of an access instruction (R145 to R147). -/
def accessBody (maj : Nat) (o : Opnds) (s : State) : Issued :=
  let res := accessResult maj o
  if !o.on then { Issued.only s with res := res }
  else if maj = 0xA2 ∧ releaseOut s o.slot then Issued.ends s .hold
  else
    match checkAccess s o maj with
    | .trap c d => Issued.ends s (.trap c d)
    | .fetch c x => Issued.ends s (if o.level = .t then .trap 0x08C x else .fetch c x)
    | .aperture t off =>
      if maj = 0xA0 ∨ maj = 0xA2 then { Issued.only s with res := res }
      else Issued.only (sendAccess s (accessOf s o maj .aperture (8 * t) off))
    | .hit me addr ord =>
      let b := banksOf (accessSize maj o.op.var) addr
      if orderBlocks s o.slot me ord addr (accessSize maj o.op.var) || !accepts s o me b then
        Issued.ends s (if o.level = .t then .retry 0x080 else .flush 0x080)
      else
        let m := 8 * o.tile + me
        { Issued.only (sendAccess (takeBanks s m b) (accessOf s o maj (accKind maj) m addr)) with res := res }

/-- R148. -/
def execLd (op : Op) (s : State) : Host.Outcome State Fault Refusal := .next (issueVE 0xA0 op (accessBody 0xA0) s)
/-- R148. -/
def execSt (op : Op) (s : State) : Host.Outcome State Fault Refusal := .next (issueVE 0xA1 op (accessBody 0xA1) s)
/-- R152. -/
def execLda (op : Op) (s : State) : Host.Outcome State Fault Refusal := .next (issueVE 0xA2 op (accessBody 0xA2) s)
/-- R151. -/
def execStrl (op : Op) (s : State) : Host.Outcome State Fault Refusal := .next (issueVE 0xA3 op (accessBody 0xA3) s)
/-- R159. -/
def execAadd (op : Op) (s : State) : Host.Outcome State Fault Refusal := .next (issueVE 0xB0 op (accessBody 0xB0) s)
/-- R159. -/
def execAsub (op : Op) (s : State) : Host.Outcome State Fault Refusal := .next (issueVE 0xB1 op (accessBody 0xB1) s)
/-- R159. -/
def execAand (op : Op) (s : State) : Host.Outcome State Fault Refusal := .next (issueVE 0xB2 op (accessBody 0xB2) s)
/-- R159. -/
def execAor (op : Op) (s : State) : Host.Outcome State Fault Refusal := .next (issueVE 0xB3 op (accessBody 0xB3) s)
/-- R159. -/
def execAxor (op : Op) (s : State) : Host.Outcome State Fault Refusal := .next (issueVE 0xB4 op (accessBody 0xB4) s)
/-- R159. -/
def execAmin (op : Op) (s : State) : Host.Outcome State Fault Refusal := .next (issueVE 0xB5 op (accessBody 0xB5) s)
/-- R159. -/
def execAmax (op : Op) (s : State) : Host.Outcome State Fault Refusal := .next (issueVE 0xB6 op (accessBody 0xB6) s)
/-- R159. -/
def execAxch (op : Op) (s : State) : Host.Outcome State Fault Refusal := .next (issueVE 0xB7 op (accessBody 0xB7) s)
/-- R159. -/
def execAcas (op : Op) (s : State) : Host.Outcome State Fault Refusal := .next (issueVE 0xB8 op (accessBody 0xB8) s)
/-- R159: the loader refuses it at levels T and D (R93). -/
def execAfadd (op : Op) (s : State) : Host.Outcome State Fault Refusal := .next (issueVE 0xB9 op (accessBody 0xB9) s)

/-- The slot is held by a fence: a prior access is outstanding (R150). -/
def fenceHeld (s : State) (n : Nat) : Bool := priorPending s n (s.slot n).seq

/-- R150. -/
def execFence (op : Op) (s : State) : Host.Outcome State Fault Refusal :=
  .next (actVE 0xA4 op (fun o s1 =>
    if fenceHeld s1 o.slot then Issued.ends (flushMerged s1 o.slot) .hold else Issued.only s1) s)

/-! ## Performance -/

/-- The function of an atomic (R159). -/
def atomicFn (maj var : Nat) (cmp old b : Word) : Word :=
  match maj with
  | 0xB0 => old + b
  | 0xB1 => old - b
  | 0xB2 => old &&& b
  | 0xB3 => old ||| b
  | 0xB4 => old ^^^ b
  | 0xB5 => if var % 2 = 0 then (if b.slt old then b else old) else (if b.ult old then b else old)
  | 0xB6 => if var % 2 = 0 then (if old.slt b then b else old) else (if old.ult b then b else old)
  | 0xB7 => b
  | 0xB8 => if old = cmp then b else old
  | _ => BitVec.ofNat 32 (fAdd fp32 old.toNat b.toNat).1

/-- The value that a load or atomic delivers, in the lanes it writes (R148). -/
def bankValue (r : Result) (size : Nat) (tok : Vec) (w : Word) : Vec :=
  if r.dcls = 1 ∨ r.dcls = 5 then (if anyOn r.lanes then splat (if size = 64 then lane tok 0 else w) else 0)
  else ofLanes (fun l => if r.lanes.getLsbD l then (if size = 64 then lane tok l else w) else 0#32)

/-- Gives a result that is in flight, or held in the flight record, its value. -/
def fillResult (s : State) (n seq size : Nat) (tok : Vec) (w : Word) : State :=
  let fill (r : Result) : Result := if r.slot = n ∧ r.seq = seq then { r with value := bankValue r size tok w } else r
  s.modElem (veOfSlot n) (fun e =>
    { e with flight := e.flight.map fill, record := e.record.map (fun h => { h with res := fill h.res }) })

/-- Drops a result that is in flight or held: it delivers nothing (R149). -/
def dropResult (s : State) (n seq : Nat) : State :=
  let is (r : Result) : Bool := r.slot == n && r.seq == seq
  s.modElem (veOfSlot n) (fun e =>
    let gone := e.flight.filter is ++ (e.record.filter (fun h => is h.res)).map (fun h => h.res)
    gone.foldl (fun a r => releaseFan a r.fan)
      { e with flight := e.flight.filter (fun r => !is r), record := e.record.filter (fun h => !is h.res) })

/-- The access has left its ME. -/
def endAccess (s : State) (id : Nat) : State := { s with accs := mdel s.accs id }

/-- A store to the BTE aperture that names no template, or of another width than a word (R216). -/
def apertureBad (a : Access) : Bool := a.size != 4 || decide (64 ≤ (lane a.data 0).toNat)

/-- The bank read of an access at the start of issue + 3: poison ends a load or atomic and freezes its slot (R149); a bad store to the
BTE aperture traps its slot (R216). -/
def bankRead (s : State) (id : Nat) (a : Access) : State :=
  if a.kind = .aperture ∧ apertureBad a then
    ((endAccess s id).trapAt a.slot 0x002 ((lane a.data 0).toNat % 2 ^ 24) s.mcnt).drainCheck a.slot
  else if (a.kind = .load ∨ a.kind = .atomic) ∧ isPoisoned s.poison a.addr a.size then
    ((endAccess (dropResult s a.slot a.seq) id).trapAt a.slot 0x0C1 (a.epc.toNat % 2 ^ 24) s.mcnt).drainCheck a.slot
  else s

/-- Stores the bytes of a store (R148). -/
def storeBytes (s : State) (a : Access) : State :=
  if a.size = 64 then writeLanes s a.addr a.lanes a.data 16
  else s.write a.addr ((lane a.data 0).toNat % 2 ^ (8 * a.size)) a.size

/-- A store to the BTE aperture is performed: it starts a copy on the channel and template it names, at the BTE of the tile where the
aperture lies (R216, R290). -/
def performAperture (s : State) (a : Access) : State :=
  s.planEv s.mcnt rkBte .bteDeferredAccept
    { Arg.of (a.me / 8) (a.addr / 64 % 16) (lane a.data 0).toNat a.slot 1 with i := [(a.seq : Int)] }

/-- The performance of an access at its bank at the end of issue + 3 (R147, R151, R159); an STRL that follows tokens which a port performs
at the end of the same cycle comes after them. R151 has an access that the ME accepted before an
STRL's issue + 3 perform both after the STRL and at its own issue + 3; where the STRL is still held then, the two cannot both be, and it
performs at its own issue + 3 (DESIGN CHOICE, log 161). -/
def performAccess (s : State) (id : Nat) (a : Access) : State :=
  match a.kind with
  | .load =>
    endAccess (fillResult s a.slot a.seq a.size (s.readTok a.addr) (BitVec.ofNat 32 (s.read a.addr a.size))) id
  | .store => endAccess (storeBytes s a) id
  | .release =>
    if priorPending s a.slot a.seq ∧ !priorPending (withoutDue s) a.slot a.seq then s.planN s.mcnt rkPerform .strlHeldPerform id 0
    else if priorPending s a.slot a.seq then
      (flushMerged { s with accs := mset s.accs id { a with held := true } } a.slot).planN (s.mcnt + 1) rkPerform
        .strlHeldPerform id 0
    else endAccess (storeBytes s a) id
  | .atomic =>
    let old := s.read32 a.addr
    let s1 := fillResult s a.slot a.seq 4 0 old
    endAccess (s1.write32 a.addr (atomicFn a.maj a.var a.cmp old (lane a.data 0))) id
  | .aperture => performAperture (endAccess s id) a

/-- BANK_ACCESS_PERFORM. -/
def execBankAccessPerform (s : State) : Host.Outcome State Fault Refusal :=
  .next (match mfind s.accs s.arg.a with
    | some a => if s.arg.b = 0 then bankRead s s.arg.a a else performAccess s s.arg.a a
    | none => s)

/-- STRL_HELD_PERFORM: performed once every prior access of the slot has been; otherwise held on (R151). -/
def execStrlHeldPerform (s : State) : Host.Outcome State Fault Refusal :=
  .next (match mfind s.accs s.arg.a with
    | some a => performAccess s s.arg.a a
    | none => s)

/-- OBJECT_CACHE_FILL (R288, R326): an entry read from poisoned words fails the tile's load. -/
def execObjectCacheFill (s : State) : Host.Outcome State Fault Refusal :=
  let t := s.arg.a
  .next (if isPoisoned s.poison (objEntryPa s (dieOfTile t) s.arg.b s.arg.c) 32 then
    (s.modTile t (fun x => { x with ofetch := x.ofetch.filter (fun p => p != (s.arg.b, s.arg.c)) })).failLoad t .object s.arg.c
  else fillObject s t s.arg.b s.arg.c)

/-! ## Capabilities (R156 to R158) -/

/-- The bounds of CBND, or none where they would widen (R156). -/
def cbndBounds (var : BitVec 3) (a : BitVec 128) (b : Vec) : Option (Nat × Nat) :=
  let b0 := (lane b 0).toNat
  let (lo, hi) :=
    match var.toNat with
    | 0 => (capLo a + b0, capHi a)
    | 1 => (capLo a, capLo a + b0)
    | _ => (capLo a + b0, capLo a + b0 + (lane b 1).toNat)
  if hi < lo ∨ capHi a < hi then none else some (lo, hi)

/-- A capability result of a K-kind instruction. -/
def capRes (s : State) (o : Opnds) (lat : Nat) (c : BitVec 128) : Issued :=
  { Issued.only s with res := some (.capability, lat, capOut o c) }

/-- R156. -/
def execCbnd (op : Op) (s : State) : Host.Outcome State Fault Refusal :=
  .next (issueVE 0xA8 op (fun o s1 =>
    match cbndBounds op.var o.cap o.b with
    | some (lo, hi) => capRes s1 o 3 (capBounds o.cap lo hi)
    | none => if o.on then Issued.ends s1 (.trap 0x046 (s.epcDetail o.slot)) else capRes s1 o 3 o.cap) s)

/-- R156. -/
def execCrgt (op : Op) (s : State) : Host.Outcome State Fault Refusal :=
  .next (issueVE 0xA9 op (fun o s1 => capRes s1 o 3 (capRights o.cap (capRgt o.cap &&& o.sb.setWidth 8))) s)

/-- R156. -/
def execCmov (op : Op) (s : State) : Host.Outcome State Fault Refusal :=
  .next (issueVE 0xAB op (fun o s1 => capRes s1 o 2 o.cap) s)

/-- The field that CGET reads (R157). -/
def cgetField (var : BitVec 3) (c : BitVec 128) : Word :=
  match var.toNat with
  | 0 => c.extractLsb' 0 32
  | 1 => c.extractLsb' 40 32
  | 2 => c.extractLsb' 72 8 ++ c.extractLsb' 32 8 ++ 0#8 ++ capRgt c
  | 3 => BitVec.ofNat 32 (capObj c)
  | _ => BitVec.ofNat 32 (capVer c)

/-- R157. -/
def execCget (op : Op) (s : State) : Host.Outcome State Fault Refusal :=
  .next (issueVE 0xAA op (fun o s1 => Issued.value s1 2 (scalarOut o (cgetField op.var o.cap))) s)

/-- The test of one lane by CCHK (R158): checks 1 to 5 for a word at a.LO + b, with kind 0 asked for. -/
def cchkLane (s : State) (o : Opnds) (l : Nat) : Bool :=
  let ea := capLo o.cap + (lane o.b l).toNat
  (checkCap o.cap (if o.op.var = 0 then rRD else rWR) ea 4 0).isNone
    && (match checkObj s o.tile o.cap with
      | .ok _ => true
      | .error _ => false)

/-- R158: it never traps; at levels D and F an object-cache miss is a bubble. -/
def execCchk (op : Op) (s : State) : Host.Outcome State Fault Refusal :=
  .next (issueVE 0xAC op (fun o s1 =>
    let go : Issued := { Issued.only s1 with res := some (.predicate, 2, maskOut o (cchkLane s o) (fun _ => noFlags)) }
    match checkObj s o.tile o.cap with
    | .error (.fetch c x) => if o.on ∧ o.level ≠ .t then Issued.ends s1 (.fetch c x) else go
    | _ => go) s)

end Sys2Proof.Machine
end

