-- ==== Sys2Proof/Machine/Sync.lean ====
section
/-! DEFINITION. Barriers (R167), completion counters (R168, R169), the event queue (R171, R172) and the mint (R173,
R174). -/

namespace Sys2Proof.Machine

/-! ## Barriers -/

/-- The barrier that A names (R144). -/
def barIx (o : Opnds) : Nat := o.sa.toNat % 32

/-- The phase that a wait leaves: B[0], or 0 where B is class 7. -/
def waitPhase (o : Opnds) : Bool := o.sb.getLsbD 0

/-- An arrival of a slot: where it has accesses under way, the barrier keeps them in mind for those who wait (R252). -/
def arriveSlot (s : State) (o : Opnds) : State :=
  let s1 := s.arrive o.tile (barIx o)
  let owe := ((s.bar o.tile (barIx o)).owe ++ [(o.slot, o.seq)]).filter (fun x => releasePending s x.1 x.2)
  if owe.isEmpty ∧ (s.bar o.tile (barIx o)).owe.isEmpty then s1
  else s1.modTile o.tile (fun x => { x with bars := mmod Barrier.reset x.bars (barIx o) (fun r => { r with owe := owe }) })

/-- The end of a wait acquires what the slots that arrived have released: their accesses before it have been performed (R252, R253). -/
def barOwes (s : State) (o : Opnds) : Bool := (s.bar o.tile (barIx o)).owe.any (fun x => releasePending s x.1 x.2)

/-- R167. -/
def execBarArv (op : Op) (s : State) : Host.Outcome State Fault Refusal :=
  .next (actVE 0xC0 op (fun o s1 => Issued.only (arriveSlot s1 o)) s)

/-- A BAR.WAIT is held while the phase is the one it waits to leave, or what that phase releases is under way. -/
def barWaitHeld (s : State) (o : Opnds) : Bool := (s.bar o.tile (barIx o)).seen s.mcnt == waitPhase o || barOwes s o

/-- R167. -/
def execBarWait (op : Op) (s : State) : Host.Outcome State Fault Refusal :=
  .next (actVE 0xC0 op (fun o s1 => if barWaitHeld s1 o then Issued.ends s1 .hold else Issued.only s1) s)

/-- A BAR.ARVW that has arrived is held while the phase is that of before its arrival; one that has not arrived does so
first. -/
def barArvwHeld (s : State) (o : Opnds) : Bool :=
  match (s.slot o.slot).arvw with
  | some ph => (s.bar o.tile (barIx o)).seen s.mcnt == ph || barOwes s o
  | none => true

/-- R167: one arrival, then the hold, until the phase differs from what it is as the arrival acts: where an earlier arrival of the same
cycle has completed the phase, the new one (DESIGN CHOICE, log 166). -/
def execBarArvw (op : Op) (s : State) : Host.Outcome State Fault Refusal :=
  .next (actVE 0xC0 op (fun o s1 =>
    if (s1.slot o.slot).arvw.isNone then
      let ph := (s1.bar o.tile (barIx o)).phase
      Issued.ends ((arriveSlot s1 o).modSlot o.slot (fun x => { x with arvw := some ph })) .hold
    else if barArvwHeld s1 o then Issued.ends s1 .hold
    else Issued.only s1) s)

/-- R167. -/
def execBarPh (op : Op) (s : State) : Host.Outcome State Fault Refusal :=
  .next (issueVE 0xC0 op (fun o s1 =>
    Issued.value s1 2 (scalarOut o (BitVec.ofNat 32 ((s1.bar o.tile (barIx o)).seen s1.mcnt).toNat))) s)

/-! ## Completion counters -/

/-- The counter that A names (R144). -/
def ctrIx (o : Opnds) : Nat := o.sa.toNat % 16

/-- An update of a counter by a slot; one that over-credits it stops the slot (R168). -/
def ctrUpdate (k : Nat) (r : State × Bool) : Issued :=
  if r.2 then Issued.ends r.1 (.stops 0x08B k) else Issued.only r.1

/-- R168. -/
def execCtrAdd (op : Op) (s : State) : Host.Outcome State Fault Refusal :=
  .next (actVE 0xC1 op (fun o s1 => ctrUpdate (ctrIx o) (s1.credit o.tile (ctrIx o) o.sb.toInt)) s)

/-- R168. -/
def execCtrArvx (op : Op) (s : State) : Host.Outcome State Fault Refusal :=
  .next (actVE 0xC1 op (fun o s1 => ctrUpdate (ctrIx o) (s1.announce o.tile (ctrIx o) o.sb)) s)

/-- A CTR.WAIT is held while the phase is the one it waits to leave (R169). -/
def ctrWaitHeld (s : State) (o : Opnds) : Bool := ((s.ctr o.tile (ctrIx o)).seen s.mcnt).phase == waitPhase o

/-- R169. -/
def execCtrWait (op : Op) (s : State) : Host.Outcome State Fault Refusal :=
  .next (actVE 0xC1 op (fun o s1 => if ctrWaitHeld s1 o then Issued.ends s1 .hold else Issued.only s1) s)

/-- The word of CTR.RD: phase, armed, and C clamped to 30 bits (R169). -/
def ctrWord (k : CtrView) : Word :=
  BitVec.ofBool k.phase ++ BitVec.ofBool k.armed ++ BitVec.ofInt 30 (max (-(2 ^ 29)) (min (2 ^ 29 - 1) k.c.toInt))

/-- R169. -/
def execCtrRd (op : Op) (s : State) : Host.Outcome State Fault Refusal :=
  .next (issueVE 0xC1 op (fun o s1 =>
    Issued.value s1 2 (scalarOut o (ctrWord ((s1.ctr o.tile (ctrIx o)).seen s1.mcnt)))) s)

/-! ## The event queue -/

/-- R172. -/
def execEvwaitWait (op : Op) (s : State) : Host.Outcome State Fault Refusal :=
  .next (actVE 0xC2 op (fun o s1 => if (s1.records o.tile).isEmpty then Issued.ends s1 .hold else Issued.only s1) s)

/-- R172. -/
def execEvwaitPeek (op : Op) (s : State) : Host.Outcome State Fault Refusal :=
  .next (issueVE 0xC2 op (fun o s1 =>
    Issued.value s1 2 (scalarOut o (BitVec.ofNat 32 (s1.records o.tile).length))) s)

/-- The record that EVPOST appends: KIND 0x03 above lanes 0 to 3 of A (R172). -/
def postedRecord (a : Vec) : BitVec 128 := 0x03#8 ++ a.extractLsb' 0 120

/-- R172: a full queue stalls the slot. The record is posted once the slot's accesses before it have been performed (R252). -/
def execEvpost (op : Op) (s : State) : Host.Outcome State Fault Refusal :=
  .next (actVE 0xC3 op (fun o s1 =>
    if (s1.tile o.tile).evq.length < 64 ∧ (s1.tile o.tile).evWait.isEmpty then
      Issued.only (if releasePending s1 o.slot o.seq then
          s1.planEv (s1.mcnt + 1) rkArrive .eventRecordDeferredEnqueue { Arg.of o.slot 1 o.seq 0 0 with v := (postedRecord o.a).setWidth 512 }
        else s1.postRecord o.tile 3 (postedRecord o.a))
    else Issued.ends s1 (.retry 0x08D)) s)

/-- EVENT_RECORD_DEFERRED_ENQUEUE: a record held at its source enters the queue once an entry is free (b = 0), and the record of an EVPOST
once what it releases has been performed (b = 1) (R172, R252). -/
def execEventRecordDeferredEnqueue (s : State) : Host.Outcome State Fault Refusal :=
  let t := s.arg.a
  .next (if s.arg.b = 1 then
      (if releasePending s s.arg.a s.arg.c then s.planEv (s.mcnt + 1) rkArrive .eventRecordDeferredEnqueue s.arg
      else s.postRecord (tileOfSlot s.arg.a) 3 (s.arg.v.setWidth 128))
    else s.modTile t (fun x =>
    match x.evWait with
    | r :: rest => if x.evq.length < 64 then { x with evq := x.evq ++ [(s.mcnt, r.2)], evWait := rest } else x
    | [] => x))

/-! ## The mint -/

/-- The four words of the mint in turn. -/
structure Quad where
  a : Word
  b : Word
  c : Word
  d : Word
deriving DecidableEq, Repr

/-- The key's word i: K0, K1, K2, and K3 (R173). -/
def mintKey (k0 k1 k2 : Word) (i : Nat) : Word :=
  match i % 4 with
  | 0 => k0
  | 1 => k1
  | 2 => k2
  | _ => 0x5D4E3A17#32 ^^^ k0 ^^^ k1 ^^^ k2

/-- `inject(s)` of R173. -/
def mintInject (k : Nat → Word) (n : Nat) (q : Quad) : Quad :=
  ⟨q.a + k n, q.b + k (n + 1), q.c + k (n + 2), q.d + k (n + 3) + BitVec.ofNat 32 n⟩

def rotA : List Nat := [13, 26, 17, 16, 9, 21, 28, 5]
def rotB : List Nat := [15, 6, 29, 24, 19, 11, 7, 23]

/-- Round i of R173. -/
def mintRound (i : Nat) (q : Quad) : Quad :=
  let a := q.a + q.b
  let b := q.b.rotateLeft (rotA.getD i 0) ^^^ a
  let c := q.c + q.d
  let d := q.d.rotateLeft (rotB.getD i 0) ^^^ c
  ⟨a, d, c, b⟩

/-- The mint (R173). -/
def mint (k0 k1 k2 c0 c1 c2 c3 : Word) : Quad :=
  let k := mintKey k0 k1 k2
  let half (n : Nat) (q : Quad) : Quad := (List.range 4).foldl (fun x i => mintRound (n + i) x) q
  mintInject k 2 (half 4 (mintInject k 1 (half 0 (mintInject k 0 ⟨c0, c1, c2, c3⟩))))

/-- Word j of the mint's result. -/
def Quad.word (q : Quad) (j : Nat) : Word :=
  match j with
  | 0 => q.a
  | 1 => q.b
  | 2 => q.c
  | _ => q.d

/-- R174. -/
def execMint (op : Op) (s : State) : Host.Outcome State Fault Refusal :=
  .next (aluVE 0xC4 10 op (fun s0 o l =>
    let x := s0.slot o.slot
    ((mint x.mk0 x.mk1 x.mtid (lane o.a l) (lane o.b l) x.mcz 0).word op.var.toNat, noFlags)) s)

/-- R174: .LO writes MK0 and MK1, .HI writes MTID and MCZ. -/
def execMseed (op : Op) (s : State) : Host.Outcome State Fault Refusal :=
  .next (actVE 0xC5 op (fun o s1 => Issued.only (s1.modSlot o.slot (fun x =>
    if op.var = 0 then { x with mk0 := o.sa, mk1 := o.sb } else { x with mtid := o.sa, mcz := o.sb }))) s)

end Sys2Proof.Machine
end

