-- ==== Sys2Proof/Machine/System.lean ====
section
/-! DEFINITION. The system, schedule and trap instructions (R226 to R241) as their slot sees them: special-register
moves, TRAP, waits for time, course changes and child launches, placement queries, signatures, audit requests, and the
requests of the Helm region with the collection of their two copies (R231). -/

namespace Sys2Proof.Machine

/-! ## Special registers (R32, R33, R227, R228) -/

/-- The Meridian count as a die holds it (R353). -/
def State.mcntOn (s : State) (d : Nat) : Nat := ((s.mcnt : Int) + (s.die d).skew).toNat

/-- TICK on a die (R32). -/
def State.tickOn (s : State) (d : Nat) : Nat := s.mcntOn d / 2900 % 2 ^ 32

/-- The number of virtual dies of a context (R33, R300). -/
def nvdOf (s : State) (c : Nat) : Nat := ((List.range 4).filter (fun v => (dieOfVirtual s c v).isSome)).length

/-- FPOS: the tick within the major frame; 0 at levels D and F (R32, R268). -/
def fposOf (s : State) (t : Nat) : Nat :=
  let c := s.ctx (s.ctxOfTile t)
  match c.active with
  | some a =>
    if s.levelOf t = .t then (s.tickOn (dieOfTile t) + 2 ^ 32 - c.base % 2 ^ 32) % 2 ^ 32 % (mget Almanac.reset c.alms a).frame else 0
  | none => 0

/-- SLOT (R33). -/
def slotWord (s : State) (n : Nat) : Word :=
  BitVec.ofNat 32 (n / 8 % 8 * 256 + (s.isSeq n).toNat * 128 + ((s.elem (veOfSlot n)).wheel - 1) * 16 + n % 8)

/-- A 32-bit special register by number (R32, R33). -/
def specialWord (s : State) (n k : Nat) : Word :=
  let x := s.slot n
  let e := s.elem (veOfSlot n)
  let t := tileOfSlot n
  let d := dieOfTile t
  match k with
  | 0 => BitVec.ofNat 32 (s.mcntOn d)
  | 1 => x.shadow.getD (BitVec.ofNat 32 (s.mcntOn d / 2 ^ 32))
  | 2 => BitVec.ofNat 32 (s.tickOn d)
  | 3 => BitVec.ofNat 32 (fposOf s t)
  | 4 => slotWord s n
  | 5 => (s.tile t).ltid.setWidth 32
  | 6 => (ptidOf t).setWidth 32
  | 7 => BitVec.ofNat 32 (nvdOf s (s.ctxOfTile t) * 8 + (s.tile t).ltid.toNat / 256)
  | 8 => (s.upperHalves t).setWidth 32
  | 9 => x.flg.setWidth 32
  | 10 => x.ic
  | 11 => x.cause
  | 12 => x.epc
  | 14 => x.hrw.setWidth 32
  | 15 => x.haw.setWidth 32
  | 16 => e.s1
  | 17 => e.s2
  | 18 => e.s3
  | 19 => e.s4
  | 20 => e.s5
  | 21 => e.s6
  | 22 => x.pwsel
  | 23 => BitVec.ofNat 32 (s.vbase n * 256 + s.sbase n)
  | 24 => match s.levelOf t with
    | .t => 0
    | .d => 1
    | .f => 2
  | _ => 0

/-- R227: a read of MCNT.LO latches the high half. -/
def execMfsr (op : Op) (s : State) : Host.Outcome State Fault Refusal :=
  .next (issueVE 0x0C op (fun o s1 =>
    let k := rawA o.trip.raw
    let s2 := if k = 0 ∧ o.on then
        s1.modSlot o.slot (fun x => { x with shadow := some (BitVec.ofNat 32 (s1.mcntOn (dieOfTile o.tile) / 2 ^ 32)) })
      else s1
    Issued.value s2 2 (if k = 13 then perLane o (fun l => (lane (s1.slot o.slot).dth l, noFlags))
      else scalarOut o (specialWord s1 o.slot k))) s)

/-- R228. -/
def execMtsr (op : Op) (s : State) : Host.Outcome State Fault Refusal :=
  .next (issueVE 0x0D op (fun o s1 => { Issued.only s1 with
    res := some (.flags, 2, { value := splat o.sa, lanes := fullMask o.on, valid := 0, flags := noFlags }) }) s)

/-! ## Traps (R229) -/

/-- R229. -/
def execTrapI (op : Op) (s : State) : Host.Outcome State Fault Refusal :=
  .next (actVE 0x0E op (fun o s1 => Issued.ends s1 (.halts (0x180 + o.sa.toNat % 32))) s)

/-- The stop of a TRAP, in the cycle after its issue: the record names the issue cycle (R229). -/
def trapStop (s : State) (n cause : Nat) : State :=
  let s1 := if (s.slot n).st = .frozen then s
    else s.modSlot n (fun y => { y with cause := BitVec.ofNat 32 cause, epc := s.position n })
  (s1.raise (dieOfTile (tileOfSlot n)) cause (.slot n) (s.mcnt - 1) (cause % 32)).freezeSlot n s.mcnt

/-- RESULT_COMPLETION: a result in flight completes, or a TRAP's stop takes effect. -/
def execResultCompletion (s : State) : Host.Outcome State Fault Refusal :=
  .next (if s.arg.c = 0 then completeResult s.arg.a s.arg.b s else trapStop s s.arg.a s.arg.c)

/-! ## Waiting for time (R232) -/

/-- WAITT.TICK is held. -/
def waitTickHeld (s : State) (o : Opnds) : Bool :=
  if o.level = .t then decide (s.mcnt < (s.slot o.slot).start + o.sa.toNat * 2900)
  else decide (2 ^ 31 ≤ (BitVec.ofNat 32 (s.tickOn (dieOfTile o.tile)) - o.sa).toNat)

/-- WAITT.MCNT is held. -/
def waitMcntHeld (s : State) (o : Opnds) : Bool :=
  let w := o.sa.toNat + 2 ^ 32 * o.sb.toNat
  if o.level = .t then decide (s.mcnt < (s.slot o.slot).start + w) else decide (s.mcntOn (dieOfTile o.tile) < w)

/-- R232. -/
def execWaittTick (op : Op) (s : State) : Host.Outcome State Fault Refusal :=
  .next (actVE 0x10 op (fun o s1 => if waitTickHeld s1 o then Issued.ends s1 .hold else Issued.only s1) s)

/-- R232. -/
def execWaittMcnt (op : Op) (s : State) : Host.Outcome State Fault Refusal :=
  .next (actVE 0x10 op (fun o s1 => if waitMcntHeld s1 o then Issued.ends s1 .hold else Issued.only s1) s)

/-! ## Course changes and child launches (R233, R234) -/

/-- The order among COURSE requests of one cycle: LTID, VE index, slot (R233). -/
def courseKey (s : State) (n : Nat) : Nat := (s.tile (tileOfSlot n)).ltid.toNat * 64 + n % 64

/-- R233: an Almanac that is not loaded writes a record and is otherwise ignored. -/
def execCourse (op : Op) (s : State) : Host.Outcome State Fault Refusal :=
  .next (actVE 0x11 op (fun o s1 =>
    let c := s1.ctxOfTile o.tile
    let a := o.sa.toNat % 256
    Issued.only (if (mfind (s1.ctx c).alms a).isSome then
      s1.modCtx c (fun x => { x with courses := x.courses ++ [{ at_ := s.mcnt, key := courseKey s o.slot, alm := a }] })
    else s1.raise (dieOfTile o.tile) 0x004 (.nobody c o.tile) s.mcnt a)) s)

/-- The tiles of the twinned Helm graphs: scheduler on dies 0 and 3, fault handler on dies 1 and 2 (R407). -/
def schedTiles : List Nat := [tileAt 0 1 0, tileAt 3 0 0]
def faultTiles : List Nat := [tileAt 1 0 0, tileAt 2 0 0]

/-- The copies of a twinned graph that are in service (R332). -/
def alive (s : State) (ts : List Nat) : List Nat := ts.filter (fun t => !s.lost.contains t)

/-- The transit of a control message from a tile to a tile (R265, R346). -/
def tileTransit (a b : Nat) : Nat := controlTransit (dieOfTile a) (some a) (dieOfTile b) (some b)

/-- The cycles until every copy of the scheduler holds a message of a tile (R234). -/
def schedTransit (s : State) (t : Nat) : Nat := (alive s schedTiles).foldl (fun m u => max m (tileTransit t u)) 0

/-- The capabilities of a child: those of the parent that hold LN, and empty ones (R234). -/
def childCaps (x : Slot) : List (BitVec 128) :=
  (List.range 16).map (fun k => let c := mget 0 x.c k; if hasRights c rLN then c else 0)

/-- A launch with nothing but its identity. -/
def Launch.blank (ctx : Nat) (w0 : Word) (host : Bool) (kern prio : Nat) (arg : Word) : Launch :=
  { ctx := ctx, w0 := w0, host := host, parent := 0, kern := kern, prio := prio, arg := arg, caps := [], deps := [], credit := none
    esc := [], order := 0, passed := 0, st := .pending, slots := [], done := [], abnd := 0, start := 0, mark := none, again := false
    saves := [], ledger := [], mcmds := [], lcmds := [], copies := [], savedAt := 0, nodes := [], lodes := [] }

/-- The launch that a LAUNCH sends: bit 23 of word 0 holds EVR (R234, R314). -/
def childLaunch (s : State) (o : Opnds) : Launch :=
  { Launch.blank (s.ctxOfTile o.tile) (0x0400_0000#32 ||| (if o.sa.getLsbD 18 then 0x0080_0000#32 else 0)) false
      (o.sa.toNat % 65536) (o.sa.toNat / 65536 % 4) o.sb with
    parent := homeOf o.tile (s.tile o.tile).ltid, caps := childCaps (s.slot o.slot), st := .sent }

/-- R234: sent once every prior access of the slot has been performed; the slot is not held. -/
def execLaunch (op : Op) (s : State) : Host.Outcome State Fault Refusal :=
  .next (actVE 0x12 op (fun o s1 =>
    let (id, s2) := s1.fresh
    Issued.only ({ s2 with launches := mset s2.launches id (childLaunch s1 o) }.planEv s.mcnt rkArrive .deviceLaunchArrival
      (Arg.of id 0 o.slot o.seq o.tile))) s)

/-! ## Placement queries (R235) -/

/-- HOPS: the distance between two virtual dies. -/
def hopsWord (s : State) (c v w : Nat) : Word :=
  match dieOfVirtual s c v, dieOfVirtual s c w with
  | some a, some b => BitVec.ofNat 32 (hopCount a b)
  | _, _ => 0xFFFF_FFFF#32

/-- The logical tiles of a context that its remap tables place on a virtual die. -/
def tilesOnVirtual (s : State) (c v : Nat) : Nat :=
  (s.remap.filter (fun e => e.1 / 1024 == c && e.1 % 1024 / 256 == v && e.2.getLsbD 31)).length

/-- VDQ: PRES, NT and PDIE of a virtual die. -/
def vdqWord (s : State) (c v : Nat) : Word :=
  match dieOfVirtual s c v with
  | some d => BitVec.ofNat 32 (2 ^ 31 + tilesOnVirtual s c v * 256 + d)
  | none => 0

/-- R235. -/
def execHops (op : Op) (s : State) : Host.Outcome State Fault Refusal :=
  .next (issueVE 0x13 op (fun o s1 =>
    Issued.value s1 2 (scalarOut o (hopsWord s1 (s1.ctxOfTile o.tile) (o.sa.toNat % 4) (o.sb.toNat % 4)))) s)

/-- R235. -/
def execVdq (op : Op) (s : State) : Host.Outcome State Fault Refusal :=
  .next (issueVE 0x14 op (fun o s1 => Issued.value s1 2 (scalarOut o (vdqWord s1 (s1.ctxOfTile o.tile) (o.sa.toNat % 4)))) s)

/-! ## Signatures (R236, R237) -/

/-- One bit of the fold of R236. -/
def foldBit (g : BitVec 64) : BitVec 64 := if g.msb then (g <<< 1) ^^^ 0x42F0_E1EB_A9EA_3693#64 else g <<< 1

/-- The fold of one byte. -/
def foldByte (g : BitVec 64) (x : BitVec 8) : BitVec 64 :=
  (List.range 8).foldl (fun a _ => foldBit a) (g ^^^ (x.setWidth 64 <<< 56))

/-- The fold of the 64 bytes of a value. -/
def foldVec (g : BitVec 64) (v : Vec) : BitVec 64 :=
  (List.range 64).foldl (fun a b => foldByte a (v.extractLsb' (8 * b) 8)) g

def State.assay (s : State) (t g : Nat) : Assay := mget Assay.reset (s.tile t).assay g
def State.setAssay (s : State) (t g : Nat) (a : Assay) : State := s.modTile t (fun x => { x with assay := mset x.assay g a })

/-- Plans the effect of SIGN (0), ASSAY.CLR (1) or ASSAY.ARM (2) for the end of issue + 2; effects of one cycle apply in
issue order. -/
def planAssay (s : State) (t g kind : Nat) (v : Vec) : State :=
  s.planEv (s.mcnt + 2) rkComplete .assayEarlyCompare { Arg.of t g kind 0 0 with v := v }

/-- R236: lanes off and void lanes fold as zero. -/
def execSign (op : Op) (s : State) : Host.Outcome State Fault Refusal :=
  .next (actVE 0x15 op (fun o s1 => Issued.only (planAssay s1 o.tile (s1.slot o.slot).assayGroup 0 (blend o.mask o.a 0))) s)

/-- R237. -/
def execAssayArm (op : Op) (s : State) : Host.Outcome State Fault Refusal :=
  .next (actVE 0x16 op (fun o s1 => Issued.only (planAssay s1 o.tile (o.sa.toNat % 8) 2 0)) s)

/-- R237. -/
def execAssayClr (op : Op) (s : State) : Host.Outcome State Fault Refusal :=
  .next (actVE 0x16 op (fun o s1 => Issued.only (planAssay s1 o.tile (o.sa.toNat % 8) 1 0)) s)

/-! ## Audit requests (R238) -/

/-- Audits that may be requested (R338). -/
def requestable (n : Nat) : Bool := [1, 2, 3, 5, 6, 7, 9, 11, 13, 14, 23].contains n

/-- R238: a request that is dropped writes a record. -/
def askAudit (s : State) (c n t : Nat) (w0 : Option Word) : Bool × State :=
  if requestable n ∧ (s.ctx c).audit.isNone then
    (true, (s.modCtx c (fun x => { x with audit := some (n, w0, false) })).planEv (s.mcnt + tileTransit t (tileAt 2 1 0)) rkArrive .auditRun
      (Arg.of n 0 c 0 0))
  else (false, s.raise (dieOfTile t) 0x1C2 (.nobody c t) s.mcnt n)

/-- R238. -/
def execAudit (op : Op) (s : State) : Host.Outcome State Fault Refusal :=
  .next (actVE 0x17 op (fun o s1 =>
    Issued.only (askAudit s1 (s1.ctxOfTile o.tile) (o.sa.toNat % 1024) o.tile none).2) s)

/-! ## Requests of the Helm region (R230, R231, R239 to R241) -/

/-- The other copy of the twinned graph of a Helm tile, where it is in service (R231, R332, R407). -/
def twinTile (s : State) (t : Nat) : Option Nat :=
  let pair := if schedTiles.contains t then schedTiles else if faultTiles.contains t then faultTiles else []
  (alive s pair).find? (fun u => u != t)

/-- The bits of A that name a request's target: a slot, an escrow entry, a context, a logical tile. -/
def targetOf (kind : Nat) (a : Word) : Nat :=
  match kind with
  | 0 => a.toNat % 65536
  | 4 => a.toNat % 8
  | 5 => a.toNat % 8192
  | _ => a.toNat % 2048

/-- The slot that an RTE names (R230). -/
def rteSlot (a : Word) : Nat :=
  64 * tileAt (bitsOf a.toNat 15 14) (bitsOf a.toNat 9 6) (bitsOf a.toNat 13 10) + a.toNat % 64

/-- The event of a request's action. -/
def helmEvent (kind : Nat) : Instr :=
  match kind with
  | 0 => .rteAction
  | 4 => .genupArrival
  | 5 => .remapApply
  | _ => .helmRequestCredit

/-- The action cycle of a request: 256 cycles after its issue, for RTE the target's next wheel cycle (R230). -/
def actionCycle (s : State) (kind : Nat) (a : Word) : Nat :=
  if kind = 0 then s.turnOf (rteSlot a) (s.mcnt + 256) else s.mcnt + 256

/-- The cycles that a request of tile t takes to its target: for RTE the transit to the slot's tile, for the others, whose targets stand
on every die of a context, the bound of R231 (DEDUCED, log 173). -/
def requestTransit (kind : Nat) (a : Word) (t : Nat) : Nat := if kind = 0 then tileTransit t (rteSlot a / 64) else 212

/-- A request of the other copy, which stands at tile u, is still being collected for the same target when this one of tile t arrives
there (R231). -/
def waitsFor (s : State) (kind : Nat) (a : Word) (t u : Nat) (r : Nat × HelmReq) : Bool :=
  r.2.kind == kind && r.2.tile == u && r.2.twin.isNone && !r.2.acted && targetOf kind r.2.a == targetOf kind a
    && decide (s.mcnt + requestTransit kind a t < r.2.due)

/-- Sends a request: it joins the other copy's, or its target begins to collect (R231). -/
def helmRequest (s : State) (kind : Nat) (a : Word) (b : Vec) (t : Nat) : State :=
  match (twinTile s t).bind (fun u => s.helm.find? (waitsFor s kind a t u)) with
  | some r => { s with helm := mset s.helm r.1 { r.2 with twin := some (a, b, t) } }
  | none =>
    let (id, s1) := s.fresh
    let due := actionCycle s kind a
    { s1 with helm := mset s1.helm id { kind := kind, a := a, b := b, tile := t, due := due, twin := none, acted := false, wait := [] } }.planN
      due rkHold (helmEvent kind) id 0

/-- R230: only B's bits 8 to 0 say anything. -/
def execRte (op : Op) (s : State) : Host.Outcome State Fault Refusal :=
  .next (actVE 0x0F op (fun o s1 => Issued.only (helmRequest s1 0 o.sa o.b o.tile)) s)

/-- R239. -/
def execEscrowGrant (op : Op) (s : State) : Host.Outcome State Fault Refusal :=
  .next (actVE 0x18 op (fun o s1 => Issued.only (helmRequest s1 1 o.sa o.b o.tile)) s)

/-- R239. -/
def execEscrowRevoke (op : Op) (s : State) : Host.Outcome State Fault Refusal :=
  .next (actVE 0x18 op (fun o s1 => Issued.only (helmRequest s1 2 o.sa o.b o.tile)) s)

/-- R239. -/
def execEscrowDrain (op : Op) (s : State) : Host.Outcome State Fault Refusal :=
  .next (actVE 0x18 op (fun o s1 => Issued.only (helmRequest s1 3 o.sa o.b o.tile)) s)

/-- R240. -/
def execGenup (op : Op) (s : State) : Host.Outcome State Fault Refusal :=
  .next (actVE 0x19 op (fun o s1 => Issued.only (helmRequest s1 4 o.sa o.b o.tile)) s)

/-- R241. -/
def execRemap (op : Op) (s : State) : Host.Outcome State Fault Refusal :=
  .next (actVE 0x1A op (fun o s1 => Issued.only (helmRequest s1 5 o.sa o.b o.tile)) s)

end Sys2Proof.Machine
end

