-- ==== Sys2Proof/Machine/Cfg.lean ====
section
/-! DEFINITION. The configuration space of a tile (R396), its configuration port (R395, R397), image verification (R370,
R371, R398) and the heartbeat instruction (R402). -/

namespace Sys2Proof.Machine

/-! ## The word map (R396) -/

/-- What a configuration word address names; the numbers are those of the table's columns. -/
inductive CfgLoc where
  | imem (v w : Nat)
  | switch (v port phase : Nat)
  | bind (v k : Nat)
  | stage (v n : Nat)
  | const (n k : Nat)
  | tmap (m w : Nat)
  | tmpl (t w : Nat)
  | mtab (e h : Nat)
  | desc (d w : Nat)
  | rec_ (ix : Nat)
  | nbr (i n : Nat)
  | colour (ix : Nat)
  | window (p e w : Nat)
  | bar (b : Nat)
  | ctr (k : Nat)
  | tid (n : Nat)
  | preload (e : Nat)
  | iwin (n w h : Nat)
  | lkey
  | topo
  | seed (h : Nat)
  | vreg (v r l : Nat)
  | sreg (v r : Nat)
  | cap (n k w : Nat)
deriving DecidableEq, Repr

/-- The location of a word address, none outside the listed regions; slots are numbered 8·VE + slot within the tile. -/
def cfgLoc (a : Nat) : Option CfgLoc :=
  if a < 0x4000 then some (.imem (a / 2048) (a % 2048))
  else if a < 0x4100 then let b := a - 0x4000; some (.switch (b / 32) (b / 16 % 2) (b % 16))
  else if a < 0x4140 then let b := a - 0x4100; some (.bind (b / 8) (b % 8))
  else if a < 0x4180 then let b := a - 0x4140; some (.stage (b / 8) (b % 8))
  else if a < 0x4580 then let b := a - 0x4180; some (.const (b / 16) (b % 16))
  else if a < 0x4880 then let b := a - 0x4580; some (.tmap (b / 24) (b % 24))
  else if a < 0x4C80 then let b := a - 0x4880; some (.tmpl (b / 16) (b % 16))
  else if a < 0x4E80 then let b := a - 0x4C80; some (.mtab (b / 2) (b % 2))
  else if a < 0x4F00 then let b := a - 0x4E80; some (.desc (b / 8) (b % 8))
  else if a < 0x5F00 then some (.rec_ (a - 0x4F00))
  else if a < 0xDF00 then let b := a - 0x5F00; some (.nbr (b / 8) (b % 8))
  else if a < 0xE100 then some (.colour (a - 0xDF00))
  else if a < 0xE200 then let b := a - 0xE100; some (.window (b / 32) (b / 4 % 8) (b % 4))
  else if a < 0xE220 then some (.bar (a - 0xE200))
  else if a < 0xE230 then some (.ctr (a - 0xE220))
  else if 0xE240 ≤ a ∧ a < 0xE280 then some (.tid (a - 0xE240))
  else if 0xE280 ≤ a ∧ a < 0xE2C0 then some (.preload (a - 0xE280))
  else if 0xE300 ≤ a ∧ a < 0xE700 then let b := a - 0xE300; some (.iwin (b / 16) (b / 2 % 8) (b % 2))
  else if a = 0xE700 then some .lkey
  else if a = 0xE701 then some .topo
  else if a = 0xE702 ∨ a = 0xE703 then some (.seed (a - 0xE702))
  else if 0x1_0000 ≤ a ∧ a < 0x1_2000 then let b := a - 0x1_0000; some (.vreg (b / 1024) (b / 16 % 64) (b % 16))
  else if 0x1_2000 ≤ a ∧ a < 0x1_2200 then let b := a - 0x1_2000; some (.sreg (b / 64) (b % 64))
  else if 0x1_3000 ≤ a ∧ a < 0x1_4000 then let b := a - 0x1_3000; some (.cap (b / 64) (b / 4 % 16) (b % 4))
  else none

def State.cport (s : State) (t : Nat) : CfgPort := mget CfgPort.reset s.ports t
def State.modPort (s : State) (t : Nat) (f : CfgPort → CfgPort) : State := { s with ports := mset s.ports t (f (s.cport t)) }

/-- Sets word i of a list of n words. -/
def setWord (ws : List Word) (n i : Nat) (w : Word) : List Word :=
  (List.range n).map (fun k => if k = i then w else ws.getD k 0)

/-- Half h of a 64-bit value. -/
def setHalf (x : BitVec 64) (h : Nat) (w : Word) : BitVec 64 :=
  if h = 0 then x.extractLsb' 32 32 ++ w else w ++ x.extractLsb' 0 32

/-- The neighbour slots of the built-in king's graph, by 16·i + n (R191). -/
def kingsGraph : Map Nat :=
  (List.range 4096).flatMap (fun i =>
    let moves : List (Int × Int) := [(0, -1), (1, -1), (1, 0), (1, 1), (0, 1), (-1, 1), (-1, 0), (-1, -1)]
    (moves.zip (List.range 8)).filterMap (fun m =>
      let x := ((i % 64 : Nat) : Int) + m.1.1
      let y := ((i / 64 : Nat) : Int) + m.1.2
      if 0 ≤ x ∧ x < 64 ∧ 0 ≤ y ∧ y < 64 then some (16 * i + m.2, (64 * y + x).toNat) else none))

/-- The colours of the king's graph (R191). -/
def kingsColours : Map Nat := (List.range 4096).map (fun i => (i, i % 2 + 2 * (i / 64 % 2)))

/-- One neighbour slot from its 16 bits: [12] valid, [11:0] the index. -/
def setNeighbour (m : Map Nat) (k : Nat) (h : BitVec 16) : Map Nat :=
  if h.getLsbD 12 then mset m k (h.toNat % 4096) else mdel m k

/-- The bits of a matrix command that hold a field of its CMD (R178). -/
def commandMask (w : BitVec 64) : BitVec 64 :=
  match (w.extractLsb' 60 4).toNat with
  | 1 => 0xFFFF_FFFF_FFFF_F0DF#64
  | 3 => 0xFFFF_FFFF_F000_00DF#64
  | 4 => 0xFFFF_FFF0_0000_00DF#64
  | _ => 0xFFFF_FFFF_FFFF_FFDF#64

/-- The bits of a configuration word that hold a field (R9, R28, R68, R176, R269, R287, R288). -/
def cfgMask (loc : CfgLoc) : Word :=
  match loc with
  | .switch _ _ _ => 0xFFFF_FF00#32
  | .bind _ _ => 0xFF3F_FFFF#32
  | .tmap _ i => mapMask i
  | .tmpl _ i => tmplMask i
  | .desc _ i => if i = 4 then 0xFC00_0000#32 else if i = 2 then 0x0000_FFFF#32 else 0xFFFF_FFFF#32
  | .cap _ _ i => if i = 2 then 0x0000_FFFF#32 else 0xFFFF_FFFF#32
  | .rec_ i => if i % 4 = 1 then 0xF0FF_FFFF#32 else if i % 4 = 3 then 0xFFFF_FF00#32 else 0xFFFF_FFFF#32
  | .window _ _ i => windowMask i
  | .preload _ => 0x800F_FFFF#32
  | _ => 0xFFFF_FFFF#32

/-- The structure of R326 of which a word is, and its index there. -/
def cfgPart (loc : CfgLoc) : Option (CfgPart × Nat) :=
  match loc with
  | .switch v i p => some (.switch, 32 * v + 16 * i + p)
  | .tmap m i => some (.map, 24 * m + i)
  | .tmpl m i => some (.template, 16 * m + i)
  | .mtab e h => some (.table, 2 * e + h)
  | .desc d i => some (.descriptor, 8 * d + i)
  | _ => none

/-- Writes a configuration word; a reserved field keeps zero (R9, R396). -/
def cfgWrite (s0 : State) (t : Nat) (loc : CfgLoc) (raw : Word) : State :=
  let s := match cfgPart loc with
    | some p => s0.mendWord t p.1 p.2
    | none => s0
  let ve (v : Nat) := 8 * t + v
  let w := raw &&& cfgMask loc
  match loc with
  | .imem v a => s.modElem (ve v) (fun e => { e with imem := mset e.imem a w, imemPoison := e.imemPoison.filter (fun x => x != a) })
  | .switch v 0 p => s.modElem (ve v) (fun e => { e with xtab := mset e.xtab p w })
  | .switch v _ p => s.modElem (ve v) (fun e => { e with ytab := mset e.ytab p w })
  | .bind v k =>
    (s.modElem (ve v) (fun e => { e with bind := mset e.bind k w })).modSlot (8 * ve v + k) (fun x =>
      { x with st := if !w.getLsbD 31 then .unbound else if x.st = .unbound then .bound else x.st })
  | .stage v 0 => s.modElem (ve v) (fun e => { e with s1 := w &&& 7 })
  | .stage v 1 => s.modElem (ve v) (fun e => { e with s2 := w &&& 3 })
  | .stage v 4 => s.modElem (ve v) (fun e => { e with s5 := w &&& 15 })
  | .stage v 5 => s.modElem (ve v) (fun e => { e with s6 := w &&& 7 })
  | .stage v 6 => (List.range 8).foldl (fun a k => a.modSlot (8 * ve v + k) (fun x => { x with pwsel := w &&& 0x7F })) s
  | .stage _ _ => s
  | .const n k => s.modSlot (64 * t + n) (fun x => { x with k := mset x.k k w })
  | .tmap m i => s.modTile t (fun x => { x with tmaps := mmod [] x.tmaps m (fun l => setWord l 24 i w) })
  | .tmpl m i => s.modTile t (fun x => { x with tmpls := mmod [] x.tmpls m (fun l => setWord l 16 i w) })
  | .mtab e h => s.modNode t (fun x => { x with table := mmod 0 x.table e (fun d => let c := setHalf d h w; c &&& commandMask c) })
  | .desc d i => s.modNode t (fun x => { x with opd := mmod [] x.opd d (fun l => setWord l 8 i w) })
  | .rec_ i => s.modPort t (fun p => { p with recs := mset p.recs i w })
  | .nbr i n => s.modLode t (fun x =>
      { x with nb := setNeighbour (setNeighbour x.nb (16 * i + 2 * n) (w.setWidth 16)) (16 * i + 2 * n + 1) (w.extractLsb' 16 16) })
  | .colour i => s.modLode t (fun x =>
      { x with colour := (List.range 8).foldl (fun m k => mset m (8 * i + k) (w.extractLsb' (4 * k) 3).toNat) x.colour })
  | .window p e i => s.modSport (8 * t + p) (fun x => { x with win := mmod [] x.win e (fun l => setWord l 4 i w) })
  | .bar b => s.modTile t (fun x => { x with bars := mmod Barrier.reset x.bars b (fun r => { r with n := w.toNat % 64 }) })
  | .ctr k => s.modTile t (fun x => { x with ctrs := mmod Counter.reset x.ctrs k (fun r => { r with scope := w.toNat % 4 + 1 }) })
  | .tid n => s.modPort t (fun p => { p with tids := mset p.tids n w })
  | .preload e => s.modPort t (fun p => { p with preload := mset p.preload e w })
  | .iwin n k 0 => if k < 7 then s.modSlot (64 * t + n) (fun x => { x with iwlo := mset x.iwlo k w }) else s
  | .iwin n k _ => if k < 7 then s.modSlot (64 * t + n) (fun x => { x with iwhi := mset x.iwhi k w }) else s
  | .lkey => s.modLode t (fun x => { x with lkey := w })
  | .topo => s.modLode t (fun x =>
      if w.getLsbD 0 then { x with nb := kingsGraph, colour := kingsColours, ncol := 4 }
      else { x with ncol := (w.extractLsb' 4 3).toNat + 1 })
  | .seed 0 => s.modPort t (fun p => { p with seedLo := w })
  | .seed _ => s.modPort t (fun p => { p with seedHi := w })
  | .vreg v r l => s.modElem (ve v) (fun e =>
      { e with pv := mmod 0 e.pv r (fun x => ofLanes (fun i => if i = l then w else lane x i)), pvPoison := e.pvPoison.filter (fun x => x != r) })
  | .sreg v r => s.modElem (ve v) (fun e => { e with ps := mset e.ps r w, psPoison := e.psPoison.filter (fun x => x != r) })
  | .cap n k i => s.modSlot (64 * t + n) (fun x =>
      { x with loadedC := mmod 0 x.loadedC k (fun c =>
          BitVec.ofNat 128 ((List.range 4).foldl (fun a j => a + (if j = i then w else c.extractLsb' (32 * j) 32).toNat * 2 ^ (32 * j)) 0)) })

/-- The word that the port reads back. -/
def cfgRead (s : State) (t : Nat) (loc : CfgLoc) : Word :=
  let el (v : Nat) := s.elem (8 * t + v)
  let half (m : Map Nat) (k : Nat) : BitVec 16 := match mfind m k with
    | some j => BitVec.ofNat 16 (4096 + j)
    | none => 0
  match loc with
  | .imem v a => mget 0 (el v).imem a
  | .switch v 0 p => mget 0 (el v).xtab p
  | .switch v _ p => mget 0 (el v).ytab p
  | .bind v k => mget 0 (el v).bind k
  | .stage v 0 => (el v).s1
  | .stage v 1 => (el v).s2
  | .stage v 4 => (el v).s5
  | .stage v 5 => (el v).s6
  | .stage v 6 => (s.slot (8 * (8 * t + v))).pwsel
  | .stage _ _ => 0
  | .const n k => mget 0 (s.slot (64 * t + n)).k k
  | .tmap m i => (mget [] (s.tile t).tmaps m).getD i 0
  | .tmpl m i => (mget [] (s.tile t).tmpls m).getD i 0
  | .mtab e h => (mget 0 (s.mnode t).table e).extractLsb' (32 * h) 32
  | .desc d i => (mget [] (s.mnode t).opd d).getD i 0
  | .rec_ i => mget 0 (s.cport t).recs i
  | .nbr i n => half (s.lnode t).nb (16 * i + 2 * n + 1) ++ half (s.lnode t).nb (16 * i + 2 * n)
  | .colour i => BitVec.ofNat 32 ((List.range 8).foldl (fun a k => a + mget 0 (s.lnode t).colour (8 * i + k) * 16 ^ k) 0)
  | .window p e i => (mget [] (s.sport (8 * t + p)).win e).getD i 0
  | .bar b => BitVec.ofNat 32 (s.bar t b).n
  | .ctr k => BitVec.ofNat 32 ((s.ctr t k).scope - 1)
  | .tid n => mget 0 (s.cport t).tids n
  | .preload e => mget 0 (s.cport t).preload e
  | .iwin n k 0 => mget 0 (s.slot (64 * t + n)).iwlo k
  | .iwin n k _ => mget 0 (s.slot (64 * t + n)).iwhi k
  | .lkey => (s.lnode t).lkey
  | .topo => BitVec.ofNat 32 (((s.lnode t).ncol - 1) * 16 + ((s.lnode t).nb == kingsGraph).toNat)
  | .seed 0 => (s.cport t).seedLo
  | .seed _ => (s.cport t).seedHi
  | .vreg v r l => lane (mget 0 (el v).pv r) l
  | .sreg v r => mget 0 (el v).ps r
  | .cap n k i => (mget 0 (s.slot (64 * t + n)).loadedC k).extractLsb' (32 * i) 32

/-- The reset value of a configuration word (R29, R190). -/
def cfgReset (loc : CfgLoc) : Word :=
  match loc with
  | .stage _ 1 => 2
  | .stage _ 5 => 3
  | _ => 0

/-- Returns words to their reset values. -/
def resetWords (s : State) (t : Nat) (as : List Nat) : State :=
  as.foldl (fun x a => match cfgLoc a with
    | some l => cfgWrite x t l (cfgReset l)
    | none => x) s

/-- Returns every word of R396 to its reset value: elements, slots, maps, templates, tables, ports and the
configuration rows of the Lodestone node; its other state takes load values at the next load (R190). -/
def clearTile (s : State) (t : Nat) : State :=
  let s1 := (List.range 8).foldl (fun a v => a.setElem (8 * t + v) Elem.reset) s
  let s2 := (List.range 64).foldl (fun a n => a.setSlot (64 * t + n) Slot.reset) s1
  let s3 := (List.range 8).foldl (fun a k => a.modSport (8 * t + k) (fun p => { p with win := [] })) s2
  let s4 := s3.modTile t (fun x => { x with tmaps := [], tmpls := [], bars := [], ctrs := [], badCfg := [], graph := none })
  ((s4.modNode t (fun x => { x with table := [], opd := [] })).setLode t LNode.reset).modPort t (fun _ =>
    { CfgPort.reset with queue := (s.cport t).queue, free := (s.cport t).free })

/-! ## Seeds and preloads (R23, R174, R288, R396) -/

/-- The DTH seed of a slot (R23, R174). -/
def dthOf (s : State) (t n : Nat) : Vec :=
  let p := s.cport t
  let l := ((s.tile t).twinOf.getD (s.tile t).ltid).setWidth 32
  ofLanes (fun i =>
    let w := (mint p.seedLo p.seedHi (mget 0 p.tids n) (BitVec.ofNat 32 i) (BitVec.ofNat 32 (n / 8)) l (BitVec.ofNat 32 (n % 8))).a
    if w = 0 then 1 else w)

/-- Seeds every bound slot of a tile, and gives the Lodestone node its seed where the tile held no load of the graph
(R174, R190). -/
def seedTile (s : State) (t : Nat) (fresh : Bool) : State :=
  let p := s.cport t
  let g := p.seedHi ++ p.seedLo
  let s1 := (List.range 64).foldl (fun a n =>
    if (a.slot (64 * t + n)).st = .unbound then a
    else a.modSlot (64 * t + n) (fun x => { x with dthSeed := dthOf s t n, gseed := g })) s
  if fresh then s1.modLode t (fun x => { x with seed := g }) else s1

/-- Fills the object cache from the preload entries (R288, R396). -/
def preloadTile (s : State) (t c : Nat) : State :=
  (s.cport t).preload.foldl (fun a e => if e.2.getLsbD 31 then fillObject a t c (e.2.toNat % 2 ^ 20) else a) s

/-! ## Coupled groups (R17, R18) -/

/-- The binding word of a slot (R28). -/
def State.binding (s : State) (n : Nat) : Word := mget 0 (s.elem (veOfSlot n)).bind (n % 8)
/-- The triplets that a ring-mode slot repeats: every operation with each register-address entry that it meets (R69). -/
def ringOps (m : Map Word) (r : Config.Rings) : List (Nat × Op × BitVec 16) :=
  let g := Nat.gcd r.lo r.la
  (List.range r.lo).flatMap (fun o =>
    ((List.range r.la).filter (fun a => a % g == o % g)).filterMap (fun a =>
      match decodeRing (mget 0 m (r.op + o)) 0 (halfAt m (r.ra + a)) with
      | .ok i => (veView i).map (fun v => (v.1, v.2, halfAt m (r.ra + a)))
      | .error _ => none))

def State.ringOps (s : State) (n : Nat) : List (Nat × Op × BitVec 16) :=
  Machine.ringOps (s.elem (veOfSlot n)).imem (s.slot n).rings

/-- The register of the windows that an instruction writes, by class and index: none for NOP, for a compare-class or K-kind
instruction, which writes a predicate or a capability, and for a push alone (R63, R85, R106). -/
def windowDest (maj : Nat) (op : Op) (raw : BitVec 16) : Option (Nat × Nat) :=
  if maj = 0x00 ∨ isCompare maj ∨ isCapWrite maj then none
  else if op.dcls = 0 ∨ op.dcls = 4 then some (0, rawD raw)
  else if op.dcls = 1 ∨ op.dcls = 5 then some (1, rawD raw)
  else none

/-- The physical registers that a slot writes: vector register r as 2·r, scalar register r as 2·r + 1. -/
def ringWrites (s : State) (n : Nat) : List Nat :=
  (s.ringOps n).filterMap (fun o => (windowDest o.1 o.2.1 o.2.2).map (fun d =>
    if d.1 = 0 then 2 * (s.vbase n + d.2) else 2 * (s.sbase n + d.2) + 1))

/-- A physical register lies in a slot's window. -/
def inWindow (s : State) (n r : Nat) : Bool :=
  let b := if r % 2 = 0 then s.vbase n else s.sbase n
  decide (b ≤ r / 2) && decide (r / 2 < b + 32)

/-- Two ring-mode slots of an element are linked (R18). -/
def linked (s : State) (n m : Nat) : Bool :=
  (ringWrites s n).any (inWindow s m) || (ringWrites s m).any (inWindow s n)
    || ((s.ringOps n).any (fun o => isIterative o.1) && (s.ringOps m).any (fun o => isIterative o.1))

/-- The coupled groups of an element: each bound ring-mode slot takes the number of the lowest slot that links reach; a slot linked
to none has no group. -/
def couple (s : State) (v : Nat) : State :=
  let ring := (List.range 8).filter (fun j => (s.binding (8 * v + j)).getLsbD 31 && !s.isSeq (8 * v + j))
  let near (j : Nat) : List Nat := ring.filter (fun k => k != j && linked s (8 * v + j) (8 * v + k))
  let reach (j : Nat) : List Nat := (List.range 8).foldl (fun l _ => (l ++ l.flatMap near).eraseDups) [j]
  s.modElem v (fun e => { e with coupled := (ring.filter (fun j => !(near j).isEmpty)).map (fun j => (j, 1 + (reach j).foldl min j)) })

/-- What the seal and the placement of a tile do: seeds and preloads, which need the tile's logical tile and context, and the
coupled groups. -/
def sealTile (s : State) (t : Nat) (fresh : Bool) : State :=
  let s1 := (List.range 8).foldl (fun a k => couple a (8 * t + k)) (seedTile s t fresh)
  let c := s1.ctxOfTile t
  if c < 9 then preloadTile s1 t c else s1

/-! ## The port (R395, R397) -/

/-- One byte of CRC-32 of IEEE 802.3. -/
def crc32Byte (c : Word) (b : BitVec 8) : Word :=
  (List.range 8).foldl (fun x _ => if x.getLsbD 0 then (x >>> 1) ^^^ 0xEDB8_8320#32 else x >>> 1) (c ^^^ b.setWidth 32)

/-- The four bytes of a word in little-endian order. -/
def crc32Word (c w : Word) : Word := (List.range 4).foldl (fun x i => crc32Byte x (w.extractLsb' (8 * i) 8)) c

/-- CRC-32 of a byte string. -/
def crc32 (bs : List (BitVec 8)) : Word := (bs.foldl crc32Byte 0xFFFF_FFFF#32) ^^^ 0xFFFF_FFFF#32

/-- A switch-table word put back in image form (R397). -/
def imageForm (loc : CfgLoc) (cbase : Nat) (w : Word) : Word :=
  match loc with
  | .switch _ _ _ =>
    let sub (f : Nat) : Nat := (f + 2048 - cbase % 2048) % 2048
    let i := if w.getLsbD 31 then sub (w.extractLsb' 20 11).toNat else (w.extractLsb' 20 11).toNat
    let o := if w.getLsbD 19 then sub (w.extractLsb' 8 11).toNat else (w.extractLsb' 8 11).toNat
    w.extractLsb' 31 1 ++ BitVec.ofNat 11 i ++ w.extractLsb' 19 1 ++ BitVec.ofNat 11 o ++ w.extractLsb' 0 8
  | _ => w

/-- The tile that the A operand of CFG names, none above 11 (R395). -/
def cfgTile (a : Word) : Option Nat :=
  let y := bitsOf a.toNat 11 8
  let x := bitsOf a.toNat 7 4
  if x ≤ 11 ∧ y ≤ 11 then some (tileAt (bitsOf a.toNat 13 12) x y) else none

/-- A FIXED port: a Helm tile or a tile fused off (R397). -/
def cfgFixed (t : Nat) : Bool := isHelmTile t || Config.fusedOff t

/-- A valid remap entry names the tile. -/
def remapNames (s : State) (t : Nat) : Bool :=
  s.remap.any (fun e => e.2.getLsbD 31
    && (match dieOfVirtual s (e.1 / 1024) (e.1 % 1024 / 256) with
      | some d => tileAt d (e.2.extractLsb' 16 4).toNat (e.2.extractLsb' 20 4).toNat == t
      | none => false))

/-- A `.WR`: each valid lane is written, read back and folded; an address that is not a multiple of 16 or lies outside
the regions sets ERR and writes nothing. -/
def cfgWrites (s : State) (t : Nat) (r : CfgReq) : State :=
  let a := r.a.toNat / 2 ^ 14
  let lanes := (List.range 16).filter (fun l => r.valid.getLsbD l)
  if a % 16 ≠ 0 ∨ lanes.any (fun l => (cfgLoc (a + l)).isNone) then s.modPort t (fun p => { p with err := true })
  else lanes.foldl (fun x l => match cfgLoc (a + l) with
    | some loc =>
      let y := cfgWrite x t loc (lane r.b l)
      y.modPort t (fun p => { p with crc := crc32Word p.crc (imageForm loc p.cbase (cfgRead y t loc)), written := p.written ++ [a + l] })
    | none => x) s

/-- The record of `.SEAL` and `.CLEAR`: KIND 0x04 (R397). -/
def cfgRecord (a crc : Word) (var count status : Nat) : BitVec 128 :=
  recordOf a crc (BitVec.ofNat 32 (3 * 2 ^ 24 + var * 2 ^ 16 + count % 65536)) (BitVec.ofNat 32 (4 * 2 ^ 24 + status * 2 ^ 16))

/-- Serves a request: the port's next state, and the STATUS of the record where one is posted (R397). -/
def serveCfg (s : State) (t : Nat) (r : CfgReq) : State × Option Nat :=
  let p := s.cport t
  let refuse := if 2 ≤ r.op then some 2 else none
  if cfgFixed t then (s, refuse)
  else
    match p.st, r.op with
    | .empty, 0 =>
      (s.modPort t (fun q => { q with st := .loading, cbase := (lane r.b 0).toNat % 2048, crc := 0xFFFF_FFFF#32, err := false, pois := false, written := [] }), none)
    | .loading, 1 => (cfgWrites s t r, none)
    | .loading, 2 =>
      if p.err = false ∧ p.pois = false ∧ p.crc ^^^ 0xFFFF_FFFF#32 = lane r.b 0 then
        ((sealTile s t true).modPort t (fun q => { q with st := .sealed }), some 0)
      else ((resetWords s t p.written).modPort t (fun q => { q with st := .empty }), some (if p.pois then 3 else if p.err then 2 else 1))
    | .loading, 3 => (clearTile s t, some 0)
    | .sealed, 3 => (clearTile s t, some 0)
    | .placed, 3 => if remapNames s t then (s, some 2) else (clearTile s t, some 0)
    | _, _ => (s, refuse)

/-- The cycles that a request takes at its port. -/
def cfgCost (op : Nat) : Nat :=
  match op with
  | 0 => 1
  | 1 => 16
  | 2 => 4
  | _ => 4096

/-- CFG_PORT_REQUEST: the port has served the request at the head of its queue, whose record leaves for the issuing tile
(b = 0), or the record arrives there (b = 1). -/
def execCfgPortRequest (s : State) : Host.Outcome State Fault Refusal :=
  let t := s.arg.a
  .next (if s.arg.b = 1 then s.postRecord s.arg.c 3 (s.arg.v.setWidth 128)
    else match (s.cport t).queue with
      | [] => s
      | r :: rest =>
        let p := s.cport t
        let (s1, st) := serveCfg (s.modPort t (fun q => { q with queue := rest })) t r
        match st with
        | some k =>
          s1.planEv (s.mcnt + tileTransit t r.src) rkArrive .cfgPortRequest
            { Arg.of t 1 r.src 0 0 with v := (cfgRecord r.a (p.crc ^^^ 0xFFFF_FFFF#32) r.op p.written.length k).setWidth 512 }
        | none => s1)

/-- A CFG instruction: it waits while the port holds 16 requests; one that names no port is answered as a FIXED port
answers (R395, R397), with CRC and word count 0 (DESIGN CHOICE, log 78). -/
def sendCfg (op : Nat) (o : Opnds) (s : State) : Issued :=
  let r : CfgReq := { op := op, a := o.sa, b := o.b, valid := o.bValid, src := o.tile }
  match cfgTile o.sa with
  | none =>
    Issued.only (if 2 ≤ op then
      s.planEv (s.mcnt + 1) rkArrive .cfgPortRequest { Arg.of 0 1 o.tile 0 0 with v := (cfgRecord o.sa 0 op 0 2).setWidth 512 }
    else s)
  | some t =>
    let p := s.cport t
    if 16 ≤ p.queue.length then Issued.ends s (.retry 0x08D)
    else
      let done := max (s.mcnt + tileTransit o.tile t) p.free + cfgCost op
      Issued.only ((s.modPort t (fun q => { q with queue := q.queue ++ [r], free := done })).planN done rkEngine .cfgPortRequest t 0)

/-- R395. -/
def execCfgOpen (op : Op) (s : State) : Host.Outcome State Fault Refusal := .next (actVE 0x1B op (sendCfg 0) s)

/-- R395. -/
def execCfgWr (op : Op) (s : State) : Host.Outcome State Fault Refusal := .next (actVE 0x1B op (sendCfg 1) s)

/-- R395. -/
def execCfgSeal (op : Op) (s : State) : Host.Outcome State Fault Refusal := .next (actVE 0x1B op (sendCfg 2) s)

/-- R395. -/
def execCfgClear (op : Op) (s : State) : Host.Outcome State Fault Refusal := .next (actVE 0x1B op (sendCfg 3) s)

/-! ## Image verification (R370, R371, R398) -/

/-- A little-endian number of n bytes at an offset of a byte string. -/
def leAt (bs : List (BitVec 8)) (off n : Nat) : Nat := ((bs.drop off).take n).foldr (fun b a => b.toNat + 256 * a) 0

/-- A big-endian number, the order in which digests stand. -/
def beNat (bs : List (BitVec 8)) : Nat := bs.foldl (fun a b => 256 * a + b.toNat) 0

def digestAt (bs : List (BitVec 8)) (off : Nat) : BitVec 384 := BitVec.ofNat 384 (beNat ((bs.drop off).take 48))

/-- The five graph images of a body: a length word, the bytes, padding to a multiple of 64 (R370). -/
def splitBody (bs : List (BitVec 8)) : Nat → List (List (BitVec 8))
  | 0 => []
  | n + 1 =>
    let len := leAt bs 0 4
    ((bs.drop 4).take len) :: splitBody (bs.drop ((4 + len + 63) / 64 * 64)) n

/-- Bytes [lo, hi) are zero. -/
def zeroBytes (bs : List (BitVec 8)) (lo hi : Nat) : Bool := ((bs.drop lo).take (hi - lo)).all (fun b => b == 0)

/-- The checks of R371 on a header and its body, in order; 0 where all pass. A relocatable image has its own MAGIC and no
GDIG (R398). -/
def verifyImage (hdr body : List (BitVec 8)) (magic : Nat) (graphs lenOk : Bool) (rollback : Nat) : Nat :=
  if leAt hdr 0 4 ≠ magic ∨ leAt hdr 4 4 ≠ 0x0001_0000 ∨ !zeroBytes hdr 0x014 0x040 ∨ !zeroBytes hdr 0x220 0x400
    ∨ (!graphs ∧ !zeroBytes hdr 0x070 0x160) ∨ !lenOk then 1
  else if Config.sha384 ((hdr.drop 0x160).take 96) ≠ Config.fuseKeyHash then 2
  else if !Config.ecdsaVerify ((hdr.drop 0x160).take 96) ((hdr.drop 0x1C0).take 96) (Config.sha384 (hdr.take 0x1C0)) then 3
  else if Config.sha384 body ≠ digestAt hdr 0x040
    ∨ (graphs ∧ (splitBody body 5).map Config.sha384 ≠ (List.range 5).map (fun i => digestAt hdr (0x070 + 48 * i))) then 4
  else if leAt hdr 8 4 < rollback then 5
  else 0

/-- The reason of a VRFY over the issuing die's Helm partition (R398). A range that goes on past the partition is read on, as the Vault's bytes
stand (DESIGN CHOICE, log 216). -/
def vrfyReason (s : State) (d a b : Nat) : Nat :=
  if a % 1024 ≠ 0 ∨ b % 64 ≠ 0 then 1
  else
    let at_ := vaultAddr d ((partition s d 8).2.1 + a)
    let hdr := readBytes s.mem at_ 1024
    verifyImage hdr (readBytes s.mem (at_ + 1024) b) 0x5250_4C43 false (leAt hdr 0xC 4 == b) s.port.rollback

/-- R398: the engine serves one request at a time; it takes the longest time that the rule allows. -/
def execVrfy (op : Op) (s : State) : Host.Outcome State Fault Refusal :=
  .next (actVE 0x1C op (fun o s1 =>
    let d := dieOfTile o.tile
    let done := max (s.mcnt + controlTransit d (some o.tile) portDie none) s1.port.verify + 4000 + (1024 + o.sb.toNat + 31) / 32
    Issued.only ({ s1 with port := { s1.port with verify := done } }.planEv done rkArrive .verifyEngineComplete
      (Arg.of o.tile 0 o.sa.toNat o.sb.toNat 0))) s)

/-- VERIFY_ENGINE_COMPLETE: the engine has its reason (b = 0), and its record reaches the issuing tile (b = 1). -/
def execVerifyEngineComplete (s : State) : Host.Outcome State Fault Refusal :=
  let g := s.arg
  .next (if g.b = 1 then
      s.postRecord g.a 3 (recordOf (BitVec.ofNat 32 g.c) (BitVec.ofNat 32 g.d) 0x041C_FFFF#32 (BitVec.ofNat 32 (4 * 2 ^ 24 + g.e * 2 ^ 16)))
    else s.planEv (s.mcnt + controlTransit portDie none (dieOfTile g.a) (some g.a)) rkArrive .verifyEngineComplete
      (Arg.of g.a 1 g.c g.d (vrfyReason s (dieOfTile g.a) g.c g.d)))

/-! ## The heartbeat (R402, R407) -/

/-- The Helm graph of a tile: 0 scheduler, 1 fault handler, 2 loader, 3 audit manager, 4 Teller upkeep, 5 none (R370,
R407). -/
def helmGraph (t : Nat) : Nat :=
  if schedTiles.contains t then 0 else if faultTiles.contains t then 1 else if t = tileAt 0 0 0 then 2
  else if t = tileAt 2 1 0 then 3 else if t = tileAt 1 1 0 then 4 else 5

/-- R402. -/
def execHbt (op : Op) (s : State) : Host.Outcome State Fault Refusal :=
  .next (actVE 0x1D op (fun o s1 =>
    let d := dieOfTile o.tile
    Issued.only (s1.planEv (s.mcnt + controlTransit d (some o.tile) portDie none) rkArrive .heartbeatArrival
      (Arg.of (helmGraph o.tile) d (o.sa.toNat % 65536) 0 0))) s)

end Sys2Proof.Machine
end

