-- ==== Sys2Proof/Machine/Code.lean ====
section
/-! DEFINITION. Code as the loader reads it from an image before anything is written (R84): the words of a tile, the instructions of
a slot, what each reads and writes with its latency (R86, R89 to R94), the paths of a sequenced block, and the issues of a
ring. -/

namespace Sys2Proof.Machine

/-! ## The words of a tile image -/

/-- A configuration word of an image: the image's, else the reset value. -/
def imageWord (g : Config.TileImg) (a : Nat) : Word :=
  (mfind g.words a).getD (match cfgLoc a with
    | some l => cfgReset l
    | none => 0)

/-- The instruction memory of VE v in an image. -/
def imemOf (g : Config.TileImg) (v : Nat) : Map Word :=
  (g.words.filter (fun p => decide (2048 * v ≤ p.1) && decide (p.1 < 2048 * (v + 1)))).map (fun p => (p.1 - 2048 * v, p.2))

/-- Binding word and stage word n of an image (R28, R29); slots are numbered within the tile. -/
def imageBind (g : Config.TileImg) (n : Nat) : Word := imageWord g (0x4100 + n)
def imageStage (g : Config.TileImg) (v n : Nat) : Word := imageWord g (0x4140 + 8 * v + n)

/-- The wheel width of VE v (R29). -/
def imageWheel (g : Config.TileImg) (v : Nat) : Nat := (imageStage g v 0).toNat % 8 + 1

/-- A slot of an image is bound; it runs in sequenced mode (R28). -/
def imageBound (g : Config.TileImg) (n : Nat) : Bool := (imageBind g n).getLsbD 31
def imageSeq (g : Config.TileImg) (n : Nat) : Bool := (imageBind g n).getLsbD 30

/-! ## Instructions -/

/-- An instruction of a slot: its word address or issue index, major opcode, operation word fields, length in words. -/
structure Line where
  at_ : Nat
  maj : Nat
  op : Op
  len : Nat
deriving DecidableEq, Repr

/-- A decoded instruction as a line. -/
def lineOf (a len : Nat) (i : Instr) : Except IllFormed Line :=
  match veView i with
  | some (maj, op) => .ok { at_ := a, maj := maj, op := op, len := len }
  | none => .error .notAnInstruction

/-- The instruction at a word address of an instruction memory (R71). -/
def lineAt (m : Map Word) (a : Nat) : Except IllFormed Line :=
  (decodeSeq ((List.range (min 3 (2048 - a))).map (fun i => mget 0 m (a + i)))).bind (lineOf a (lengthOf (mget 0 m a)))

/-- Linear decoding from a word address to the end of a block (R72). -/
def linearFrom (m : Map Word) (stop : Nat) : Nat → Nat → List (Nat × Except IllFormed Line)
  | 0, _ => []
  | k + 1, a => if stop ≤ a then [] else (a, lineAt m a) :: linearFrom m stop k (a + lengthOf (mget 0 m a))

/-- The addresses at which the instructions of a block begin, with what stands there. -/
def blockLines (m : Map Word) (b : Config.BlockImg) : List (Nat × Except IllFormed Line) := linearFrom m (b.base + b.len) 2048 b.base

/-- The repetition period of a slot's rings in issues (R70). -/
def ringPeriod (r : Config.Rings) : Nat := Nat.lcm r.lo (Nat.lcm r.lr r.la)

/-- Issue n of a slot in ring mode (R69, R70). -/
def ringLine (m : Map Word) (r : Config.Rings) (n : Nat) : Except IllFormed Line :=
  (decodeRing (mget 0 m (r.op + n % r.lo)) (halfAt m (r.rt + n % r.lr)) (halfAt m (r.ra + n % r.la))).bind (lineOf n 1)

/-! ## What an instruction reads and writes (R86) -/

/-- What a result goes to and an operand comes from: a register of the windows, the operand file, the last-result file as one
register, a predicate, a capability, a special register, the iterative unit, and the dither registers while a block of the
quantiser holds them (R139). -/
inductive Resource where
  | v (i : Nat)
  | s (i : Nat)
  | o (i : Nat)
  | q
  | p (i : Nat)
  | c (i : Nat)
  | special (i : Nat)
  | unit
  | dither
deriving DecidableEq, Repr

/-- Latencies of the opcodes 0x00 to 0x4F (R89, R90); 0 where there is no register result. -/
def latencyLow (maj : Nat) : Nat :=
  if [0x09, 0x0A, 0x0B, 0x0C, 0x0D, 0x13, 0x14].contains maj then 2
  else if maj = 0x22 then 4
  else if maj = 0x23 ∨ maj = 0x24 then 18
  else if 0x20 ≤ maj ∧ maj ≤ 0x3B then 2
  else 0

/-- Latencies of the opcodes 0x50 to 0x9F (R91, R92). -/
def latencyMid (maj var : Nat) : Nat :=
  if maj = 0x57 then 16
  else if maj = 0x58 then 20
  else if [0x50, 0x51, 0x52, 0x60, 0x61, 0x62].contains maj then 4
  else if [0x56, 0x63, 0x67, 0x97].contains maj then 6
  else if maj = 0x59 ∨ maj = 0x5A then 8
  else if maj = 0x5B ∨ maj = 0x5C then 10
  else if [0x53, 0x54, 0x55, 0x5D, 0x5E, 0x64, 0x65, 0x66].contains maj then 2
  else if maj = 0x88 then 34
  else if 0x80 ≤ maj ∧ maj ≤ 0x89 then 5
  else if maj = 0x94 then (if var = 2 then 12 else 6)
  else if maj = 0x95 ∨ maj = 0x96 then (if var = 2 then 8 else 6)
  else if [0x90, 0x91, 0x92, 0x93, 0x98, 0x99].contains maj then 3
  else 0

/-- Latencies of the opcodes 0xA0 to 0xEF (R93, R94). -/
def latencyHigh (maj var : Nat) : Nat :=
  if maj = 0xA0 ∨ maj = 0xA2 then 7
  else if maj = 0xA8 ∨ maj = 0xA9 then 3
  else if [0xA7, 0xAA, 0xAB, 0xAC, 0xD6, 0xD7, 0xE7, 0xEA].contains maj then 2
  else if maj = 0xB8 then 9
  else if maj = 0xB5 ∨ maj = 0xB6 then (if 2 ≤ var then 9 else 0)
  else if 0xB0 ≤ maj ∧ maj ≤ 0xB9 then (if var = 1 then 9 else 0)
  else if maj = 0xC0 ∨ maj = 0xC1 then (if var = 3 then 2 else 0)
  else if maj = 0xC2 then (if var = 1 then 2 else 0)
  else if maj = 0xC4 then 10
  else if maj = 0xE6 then (if var = 0 then 4 else 0)
  else 0

/-- The latency of an opcode (R86, R89 to R94). -/
def latencyOf (maj var : Nat) : Nat :=
  if maj < 0x50 then latencyLow maj else if maj < 0xA0 then latencyMid maj var else latencyHigh maj var

/-- The issue interval of an I-kind opcode (R87). -/
def intervalOf (maj : Nat) : Nat :=
  if maj = 0x23 ∨ maj = 0x24 then 16 else if maj = 0x57 then 14 else if maj = 0x58 then 18 else 1

/-- Conversions that step the dither registers under STOCH, but for QBLK: those of R46 and R135 that are not exact, as R48 has CVTF of
an integer of 8 or 16 bits and CVTH to a wider format. -/
def isRounding (maj var : Nat) : Bool :=
  if maj = 0x80 then decide (4 ≤ var) else if maj = 0x82 then decide (2 ≤ var) else decide (0x80 ≤ maj) && decide (maj ≤ 0x86)

/-- Opcodes but for the fused multiply-adds that read what their destination names: BFI, HDOT, ACAS (R119, R133, R159). -/
def readsDest (maj : Nat) : Bool := [0x37, 0x67, 0xB8].contains maj

/-- A source of a class reads these (R62, R98, R143); a class 6 operand of a capability instruction names no offset. -/
def sourceReads (maj cls idx : Nat) : List Resource :=
  match cls with
  | 0 => if maj = 0x00 then [] else if namesPredicates maj then (if idx < 7 then [.p idx] else []) else [.v idx]
  | 1 => [.s idx]
  | 2 => [.o idx]
  | 3 => [.q]
  | 6 => if 0xA8 ≤ maj ∧ maj ≤ 0xAC then [.c idx] else [.c idx, .s idx]
  | _ => []

/-- The register that a destination class names. -/
def destOf (cls idx : Nat) : List Resource :=
  match cls with
  | 0 => [.v idx]
  | 1 => [.s idx]
  | 2 => [.o idx]
  | 4 => [.v idx]
  | 5 => [.s idx]
  | _ => []

/-- What an instruction reads at issue, under the slot's PWSEL word and its element's rounding mode. -/
def lineReads (pwsel : Word) (stoch : Bool) (maj : Nat) (op : Op) (raw : BitVec 16) : List Resource :=
  sourceReads maj op.acls.toNat (rawA raw)
    ++ (if maj = 0x66 then sourceReads maj op.bcls.toNat 0 else sourceReads maj op.bcls.toNat (rawB raw))
    ++ (if maj = 0x00 ∨ op.pred = 7 ∨ pwsel.getLsbD op.pred.toNat then [] else [.p op.pred.toNat])
    ++ (if readsAcc maj then (if rawAcc raw then [.q] else destOf op.dcls.toNat (rawD raw))
        else if readsDest maj then destOf op.dcls.toNat (rawD raw)
        else if maj = 0x04 then [.s 31]
        else if maj = 0x0C then [.special (rawA raw)]
        else if isIterative maj then [.unit]
        else if isRounding maj op.var.toNat && stoch then [.dither]
        else [])

/-- What an instruction writes, with the cycles from its issue until a read may issue (R86, R87, R104, R105); qpos is the slot's
position in its block of the quantiser before the instruction (R139). -/
def lineWrites (stoch : Bool) (qpos maj : Nat) (op : Op) (raw : BitVec 16) : List (Resource × Nat) :=
  let l := latencyOf maj op.var.toNat
  let d := op.dcls.toNat
  if maj = 0x00 then []
  else if maj = 0x03 then [(.s 31, 1)]
  else if maj = 0x05 then [(.s (rawA raw), 1)]
  else if isCompare maj then (if d = 3 then [(.q, l)] else [(.p (rawD raw), l)])
  else if isCapWrite maj then [(.c (rawD raw), l)]
  else if maj = 0x88 then
    (.q, l) :: (if stoch ∧ qpos = 0 then [(.dither, 34)] else if stoch ∧ qpos = 31 then [(.dither, 3)] else [])
  else
    (if d = 6 then [(.special (rawD raw), l)] else if l = 0 ∨ d = 7 then [] else (.q, l) :: (destOf d (rawD raw)).map (fun r => (r, l)))
      ++ (if isIterative maj then [(.unit, intervalOf maj)] else [])

/-! ## Waiting times along a path (R73, R86) -/

/-- What is still under way: the resource, the cycles until it may be read, and the instruction that writes it. -/
abbrev Waits := List (Resource × Nat × Nat)

/-- The later of two waiting times for each resource. -/
def joinWait (w : Waits) (x : Resource × Nat × Nat) : Waits :=
  match w.find? (fun y => y.1 == x.1) with
  | some y => if y.2.1 < x.2.1 then w.map (fun z => if z.1 = x.1 then x else z) else w
  | none => w ++ [x]

/-- What is under way after an instruction and `d` further cycles. -/
def afterLine (w : Waits) (a d : Nat) (writes : List (Resource × Nat)) : Waits :=
  ((writes.map (fun x => (x.1, x.2, a))).foldl joinWait w).filterMap (fun x =>
    if d < x.2.1 then some (x.1, x.2.1 - d, x.2.2) else none)

/-- The first of some resources that is still under way, with the instruction that writes it. -/
def tooEarly (w : Waits) (reads : List Resource) : Option (Resource × Nat) :=
  reads.findSome? (fun r => (w.find? (fun y => y.1 == r)).map (fun y => (r, y.2.2)))

/-! ## A slot's code -/

/-- What the checks of a slot's code are made against: its graph as reports name it, its load and level, its tile image, its number
there and what the image says of it, its instruction memory. -/
structure Code where
  graph : Nat
  load : Nat
  level : Level
  g : Config.TileImg
  x : Config.SlotImg
  mem : Map Word

/-- The code of a slot of a tile image. -/
def codeOf (graph load : Nat) (lv : Level) (g : Config.TileImg) (x : Config.SlotImg) : Code :=
  { graph := graph, load := load, level := lv, g := g, x := x, mem := imemOf g (x.slot / 8) }

def Code.ve (c : Code) : Nat := c.x.slot / 8
def Code.seq (c : Code) : Bool := imageSeq c.g c.x.slot
def Code.wheel (c : Code) : Nat := imageWheel c.g c.ve
def Code.pwsel (c : Code) : Word := imageStage c.g c.ve 6
def Code.stoch (c : Code) : Bool := (imageStage c.g c.ve 4).toNat % 8 == 5

/-- A report of a slot. -/
def Code.report (c : Code) (k : Config.Check) (sp : Config.Spot) (a : Nat) (w : Word) (other : Nat) : Config.Report :=
  { check := k, graph := c.graph, spot := sp, load := c.load, lt := c.g.lt.toNat, ve := c.ve, slot := c.x.slot % 8, at_ := a, word := w
    other := other }

/-- A report that names an instruction: in sequenced mode by its IA and first word, in ring mode by the entry of one of its rings that
issue n takes. -/
def Code.named (c : Code) (k : Config.Check) (ring : Config.Spot) (n other : Nat) : Config.Report :=
  let r := c.x.rings
  if c.seq then c.report k .address n (mget 0 c.mem n) other
  else match ring with
    | .rtRing => c.report k .rtRing (n % r.lr) ((halfAt c.mem (r.rt + n % r.lr)).setWidth 32) other
    | .raRing => c.report k .raRing (n % r.la) ((halfAt c.mem (r.ra + n % r.la)).setWidth 32) other
    | _ => c.report k .opRing (n % r.lo) (mget 0 c.mem (r.op + n % r.lo)) other

/-- A report that names an instruction by its operation word. -/
def Code.at_ (c : Code) (k : Config.Check) (n : Nat) : Config.Report := c.named k .opRing n 0

/-- A report that names two instructions of a slot. -/
def Code.atTwo (c : Code) (k : Config.Check) (n m : Nat) : Config.Report := c.named k .opRing n (if c.seq then m else m % c.x.rings.lo)

/-- The block that holds a word address. -/
def Code.blockOf (c : Code) (a : Nat) : Option Config.BlockImg :=
  (c.x.blocks.find? (fun b => decide (b.2.base ≤ a) && decide (a < b.2.base + b.2.len))).map Prod.snd

/-- The instruction boundaries of the slot's code (R72). -/
def Code.boundaries (c : Code) : List Nat := c.x.blocks.flatMap (fun b => (blockLines c.mem b.2).map Prod.fst)

/-! ## Paths of sequenced code (R74, R100 to R105, R139) -/

/-- A point of a path: IA, the address after the last CALL, whether that has not returned, the cycles from the block's start where the
path from there fixes them, the held words, the position in the block of the quantiser and the variant of its first issue. -/
structure Point where
  ia : Nat
  ret : Option Nat
  called : Bool
  time : Option Nat
  hrw : BitVec 16
  haw : BitVec 16
  qpos : Nat
  qvar : Nat
deriving DecidableEq, Repr

/-- The route and register-address words that an instruction uses at a point, and that the slot holds after it. -/
def Point.held (p : Point) (op : Op) : BitVec 16 × BitVec 16 := op.words.getD (p.hrw, p.haw)

/-- The instruction is predicated always, or never. -/
def isAlways (op : Op) : Bool := op.pred == 7 && !op.pinv
def isNever (op : Op) : Bool := op.pred == 7 && op.pinv

/-- The address that a transfer's literal gives, relocated by its block's base (R100). -/
def Code.target (c : Code) (l : Line) : Nat :=
  ((c.blockOf l.at_).map (fun b => b.base)).getD 0 + (match l.op.form with
    | .long _ _ w => w.toNat
    | _ => 0)

/-- The transfers of a slot's blocks, on a path or not, taken or never, whose target is no instruction of its code (R72, R100). -/
def Code.badTargets (c : Code) : List Config.Report :=
  let bs := c.boundaries
  c.x.blocks.flatMap (fun b => (blockLines c.mem b.2).filterMap (fun x => match x.2 with
    | .ok l =>
      if !needsLiteral l.maj then none
      else if 2048 ≤ c.target l then some (c.at_ .targetRange l.at_)
      else if !bs.contains (c.target l) then some (c.atTwo .instructionBoundary l.at_ (c.target l))
      else none
    | .error _ => none))

/-! ## Waits of level T (R153, R232) -/

/-- The value that a class 5 source names: the literal, else the slot's constant as the image loads it (R75, R396). -/
def Code.constOf (c : Code) (op : Op) (idx : Nat) : Word :=
  match op.form with
  | .long _ _ w => w
  | _ => imageWord c.g (0x4180 + 16 * c.x.slot + idx)

/-- The cycles that a WAITT waits for from its block's start at level T, where its operands are class 5 (R232). -/
def Code.waitEnd (c : Code) (op : Op) (raw : BitVec 16) : Nat :=
  let a := (c.constOf op (rawA raw)).toNat
  let b := if op.bcls = 5 then (c.constOf op (rawB raw)).toNat else 0
  if op.var = 0 then 2900 * a else a + 2 ^ 32 * b

/-- The most cycles from a block's start to the first turn of the slot: slot k's own place where every start falls on a turn of slot 0,
as on ticks of 2,900 cycles for a wheel of 1, 2, 4 or 5. -/
def Code.firstTurn (c : Code) : Nat := if 2900 % c.wheel = 0 then c.x.slot % 8 % c.wheel else c.wheel - 1

/-- W-kind opcodes but for DONE and LDA: WAITT, the waits for barriers, counters and events, FENCE, CPYB (R85). -/
def isWait (maj var : Nat) : Bool :=
  maj == 0x10 || maj == 0xA4 || maj == 0xED || (maj == 0xC0 && decide (1 ≤ var) && decide (var ≤ 2)) || (maj == 0xC1 && var == 2) || (maj == 0xC2 && var == 0)

/-- The instruction may hold its slot: a wait, and an LDA in a slot whose code holds an STRL, for it holds while one has not been performed
(R85, R152). -/
def Code.canHold (c : Code) (l : Line) : Bool :=
  isWait l.maj l.op.var.toNat || (l.maj == 0xA2 && c.x.blocks.any (fun b => (blockLines c.mem b.2).any (fun x => match x.2 with
    | .ok y => y.maj == 0xA3
    | .error _ => false)))

/-- The cycles from the block's start at which a hold there ends at level T: a WAITT by its operands, another by what the image says of
the only time that the block holds there (R153, R232). -/
def Code.holdEnd (c : Code) (l : Line) (raw : BitVec 16) : Option Nat :=
  if c.level ≠ .t then none
  else if l.maj = 0x10 then (if l.op.acls = 5 then some (c.waitEnd l.op raw) else none)
  else match mfind c.x.holds (2 ^ 31 + l.at_) with
    | some [e] => some e
    | _ => none

/-- The turns, in cycles, that a slot which stands at an instruction `t` cycles after its block's start spends until a hold there has
ended (R232). -/
def Code.holdFrom (c : Code) (e t : Nat) : Nat := if e ≤ t then 0 else (e - t + c.wheel - 1) / c.wheel * c.wheel

/-- The least time of a hold at a point of a path, and the time at which the instruction issues, where it is known. -/
def Code.heldAt (c : Code) (p : Point) (l : Line) : Nat × Option Nat :=
  match p.time with
  | none => (0, none)
  | some t =>
    if !c.canHold l || isNever l.op then (0, some t)
    else match c.holdEnd l (p.held l.op).2 with
      | some e => if isAlways l.op then (c.holdFrom e t, some (t + c.holdFrom e t)) else (0, if e ≤ t then some t else none)
      | none => (0, none)

/-- The points that follow, and the reports of where the path may not go (R99 to R105). -/
def Code.next (c : Code) (p : Point) (l : Line) : List Point × List Config.Report :=
  let h := p.held l.op
  let q : Point := { p with
    ia := p.ia + l.len, hrw := h.1, haw := h.2, qpos := if l.maj = 0x88 then (p.qpos + 1) % 33 else p.qpos
    time := (c.heldAt p l).2.map (fun t => t + (l.op.gap.toNat + 1) * c.wheel)
    qvar := if l.maj = 0x88 ∧ p.qpos = 0 then l.op.var.toNat else p.qvar }
  let stop := ((c.blockOf p.ia).map (fun b => b.base + b.len)).getD 0
  let on : List Point × List Config.Report := if q.ia < stop then ([q], []) else ([], [c.at_ .fallsOffBlock p.ia])
  let into (a : Nat) (x : Point) : List Point × List Config.Report :=
    if isNever l.op || !c.boundaries.contains a then ([], []) else ([{ x with ia := a, time := if a ≤ p.ia then none else x.time }], [])
  let jump (x : Point) : List Point × List Config.Report := into (c.target l) x
  let both (a b : List Point × List Config.Report) : List Point × List Config.Report := (a.1 ++ b.1, a.2 ++ b.2)
  let onUnless (b : Bool) : List Point × List Config.Report := if b then ([], []) else on
  match l.maj with
  | 0x01 => both (jump q) (onUnless (isAlways l.op))
  | 0x02 => both (jump q) on
  | 0x03 =>
    both (if p.called then ([], [c.at_ .callDepth p.ia]) else jump { q with ret := some q.ia, called := true }) (onUnless (isAlways l.op))
  | 0x04 =>
    both (match p.ret with
      | none => ([], [c.at_ .returnWithoutCall p.ia])
      | some r =>
        if c.blockOf r ≠ c.blockOf (r - 3) then ([], [c.at_ .fallsOffBlock (r - 3)])
        else if !c.boundaries.contains r then ([], [c.atTwo .instructionBoundary p.ia r])
        else into r { q with called := false }) (onUnless (isAlways l.op))
  | 0x05 => both (jump q) on
  | 0x06 => onUnless (isAlways l.op)
  | _ => on

/-- What the loader finds on the paths of a block: the points reached, each with what is under way there, and the reports of where a
path may not go and of distances too short. -/
structure Walk where
  seen : List (Point × Waits)
  found : List Config.Report

/-- The report of an operand that is read too early. -/
def Code.early (c : Code) (a : Nat) (x : Resource × Nat) : Config.Report :=
  c.atTwo (match x.1 with
    | .unit => .iterativeInterval
    | .dither => .ditherOrder
    | _ => .latency) a x.2

/-- The point at which a block is entered: held words 0, no CALL before it (R26, R104). -/
def Code.entry (c : Code) (b : Config.BlockImg) : Point :=
  { ia := b.base, ret := none, called := false, time := if c.level = .t then some c.firstTurn else none, hrw := 0, haw := 0, qpos := 0
    qvar := 0 }

/-- Follows every path from some points, with what is under way at each, until nothing new is met (R74, R86, R101). -/
def Code.walk (c : Code) : Nat → List (Point × Waits) → Walk → Walk
  | 0, _, k => k
  | _, [], k => k
  | n + 1, (p, w) :: rest, k =>
    let old := k.seen.find? (fun y => y.1 == p)
    let w' := w.foldl joinWait ((old.map Prod.snd).getD [])
    if old.isSome ∧ (old.map Prod.snd).getD [] = w' then c.walk n rest k
    else
      let seen := (p, w') :: k.seen.filter (fun y => y.1 != p)
      match lineAt c.mem p.ia with
      | .error _ => c.walk n rest { k with seen := seen }
      | .ok l =>
        let raw := (p.held l.op).2
        let late := (tooEarly w' (lineReads c.pwsel c.stoch l.maj l.op raw)).toList.map (c.early p.ia)
        let (ps, rs) := c.next p l
        let out := afterLine w' p.ia ((l.op.gap.toNat + 1) * c.wheel + (c.heldAt p l).1) (lineWrites c.stoch p.qpos l.maj l.op raw)
        c.walk n (ps.map (fun q => (q, out)) ++ rest) { seen := seen, found := k.found ++ late ++ rs }

/-- All paths of a slot's sequenced code (R74). -/
def Code.paths (c : Code) : Walk :=
  c.walk (2 ^ 24) (c.x.blocks.map (fun b => (c.entry b.2, []))) ⟨[], []⟩

/-- The instructions of a slot's blocks that no path reaches. -/
def Code.deadLines (c : Code) (w : Walk) : List Line :=
  c.x.blocks.flatMap (fun b => (blockLines c.mem b.2).filterMap (fun x => match x.2 with
    | .ok l => if w.seen.any (fun p => p.1.ia == l.at_) then none else some l
    | .error _ => none))

/-! ## The issues of a slot -/

/-- An instruction as the slot issues it: the line, its route and register-address words, the position in the block of the quantiser
and the variant of its first issue. -/
structure Use where
  l : Line
  rtw : BitVec 16
  raw : BitVec 16
  qpos : Nat
  qvar : Nat
deriving DecidableEq, Repr

/-- The uses that some points of sequenced code make. -/
def Code.seqUses (c : Code) (w : Walk) : List Use :=
  w.seen.filterMap (fun p => match lineAt c.mem p.1.ia with
    | .ok l => let h := p.1.held l.op; some { l := l, rtw := h.1, raw := h.2, qpos := p.1.qpos, qvar := p.1.qvar }
    | .error _ => none)

/-- Uses of instructions that no path reaches, where they carry their own words (R74). -/
def deadUses (ls : List Line) : List Use :=
  ls.filterMap (fun l => l.op.words.map (fun h => { l := l, rtw := h.1, raw := h.2, qpos := 0, qvar := 0 }))

/-- The lines of n issues of a ring. -/
def Code.ringLines (c : Code) (n : Nat) : List Line :=
  (List.range n).filterMap (fun i => match ringLine c.mem c.x.rings i with
    | .ok l => some l
    | .error _ => none)

/-- The first `n` issues of a ring, with the position in the block of the quantiser at each. -/
def Code.ringUses (c : Code) (n : Nat) : List Use :=
  ((c.ringLines n).foldl (fun (a : List Use × Nat × Nat) l =>
    let h := l.op.words.getD (0, 0)
    let u : Use := { l := l, rtw := h.1, raw := h.2, qpos := a.2.1, qvar := a.2.2 }
    (u :: a.1, if l.maj = 0x88 then (a.2.1 + 1) % 33 else a.2.1, if l.maj = 0x88 ∧ a.2.1 = 0 then l.op.var.toNat else a.2.2))
    ([], 0, 0)).1.reverse

/-- The cycles from the first issue of a ring to each of some issues (R73). -/
def issueTimes (w : Nat) : Nat → List Use → List (Nat × Use)
  | _, [] => []
  | t, u :: r => (t, u) :: issueTimes w (t + (u.l.op.gap.toNat + 1) * w) r

/-- The cycles of one period of a ring. -/
def periodCycles (w : Nat) (us : List Use) : Nat := us.foldl (fun t u => t + (u.l.op.gap.toNat + 1) * w) 0

end Sys2Proof.Machine
end

