-- ==== Sys2Proof/Machine/CodeChecks.lean ====
section
/-! DEFINITION. The loader's checks of a slot's and an element's code (R16, R17, R20, R25 to R29, R63, R66 to R75, R84 to R104,
R121, R139, R144, R226, R227, R232, R233, R236, R390). -/

namespace Sys2Proof.Machine

/-! ## One instruction -/

/-- The levels at which an opcode is accepted (R93, R94, R108, R226). -/
def levelAdmits (lv : Level) (maj : Nat) (op : Op) : Bool :=
  match maj with
  | 0x06 => op.var == 0 || lv != .t
  | 0x10 => lv != .t || (op.acls == 5 && (op.bcls == 5 || op.bcls == 7))
  | 0x11 => lv == .t
  | 0x12 => lv != .t
  | 0x17 => lv != .t
  | 0xB9 => lv == .f
  | 0xEB => lv != .t
  | 0xEC => lv != .t
  | _ => true

/-- The Helm graphs that hold an H-kind opcode: 0 scheduler, 1 fault handler, 2 loader, 3 audit manager, 4 Teller upkeep; none for a
graph of a context (R85, R89). -/
def helmAdmits (helm : Option Nat) (maj : Nat) : Bool :=
  match helm with
  | none => !isHelmKind maj
  | some k => if maj = 0x1B ∨ maj = 0x1C then k == 2 else if maj = 0x1D then [0, 1, 3].contains k else true

/-- The largest index that a literal may give for source A and source B (R144). -/
def indexLimits (maj : Nat) : Option Nat × Option Nat :=
  if maj = 0xA5 ∨ maj = 0xA7 then (some 7, none)
  else if maj = 0xA6 then (some 7, some 31)
  else if maj = 0xC0 then (some 31, none)
  else if maj = 0xC1 then (some 15, none)
  else (none, none)

/-- The word of an entry of a VE's switch tables in an image (R68). -/
def Code.switchWord (c : Code) (port phase : Nat) : Word := imageWord c.g (0x4000 + 32 * c.ve + 16 * port + phase)

/-- What the loader checks of an instruction's operation and literal, whether a path reaches it or not: the opcode's place and level, the
range of an index literal, an assay group for SIGN (R85, R93 to R95, R144, R236). -/
def Code.opReports (c : Code) (helm : Option Nat) (blk : Option Config.BlockImg) (l : Line) : List Config.Report :=
  let op := l.op
  let bad (b : Bool) (k : Config.Check) : List Config.Report := if b then [c.at_ k l.at_] else []
  let lits := indexLimits l.maj
  let beyond (lim : Option Nat) (cls : BitVec 3) : Bool := match lim, op.form with
    | some n, .long _ _ w => cls == 5 && decide (n < w.toNat)
    | _, _ => false
  bad (!helmAdmits helm l.maj) .illegalEncoding
    ++ bad (beyond lits.1 op.acls || beyond lits.2 op.bcls) .illegalEncoding
    ++ bad (helm.isNone && !levelAdmits c.level l.maj op) .level
    ++ bad (l.maj == 0x15 && (blk.bind (fun b => b.assay)).isNone) .noAssayGroup

/-- What it checks of an instruction with its route and register-address words (R20, R63, R66, R227, R233). -/
def Code.wordReports (c : Code) (helm : Option Nat) (alms : List Nat) (blk : Option Config.BlockImg) (u : Use) : List Config.Report :=
  let op := u.l.op
  let maj := u.l.maj
  let t : Trip := { rtw := u.rtw, raw := u.raw, lit := none }
  let fans := (List.range 6).filter (fun g => pushes op && t.fan.getLsbD g)
  let bad (b : Bool) (k : Config.Check) (ring : Config.Spot) : List Config.Report := if b then [c.named k ring u.l.at_ 0] else []
  bad (checkRaw maj op u.raw).isSome .illegalEncoding .raRing
    ++ bad (pushes op && fans.isEmpty) .pushWithNoTarget .rtRing
    ++ bad ((popList op t).any (fun p => !portExists c.ve p)) .portAbsent .raRing
    ++ bad (fans.any (fun g => decide (g < 4) && (meOf c.ve (4 + g)).isNone)) .portAbsent .rtRing
    ++ bad (maj == 0x0C && c.level == .d && helm.isNone && [0, 1, 2, 6, 8].contains (rawA u.raw)) .placementReadAtLevelD .raRing
    ++ bad (maj == 0x0C && (blk.map (fun b => b.twin)).getD false && [6, 8].contains (rawA u.raw)) .placementReadInTwin .raRing
    ++ bad (maj == 0x11 && op.acls == 5 && !alms.contains ((c.constOf op (rawA u.raw)).toNat % 256)) .noSuchAlmanac .opRing

/-- What it checks of an instruction as an issue order of the slot reaches it; `limit` gives the cycles from the start of the slot's
block by which a wait must end at level T (R68, R139, R232). -/
def Code.pathReports (c : Code) (limit : Option Nat) (u : Use) : List Config.Report :=
  let op := u.l.op
  let maj := u.l.maj
  let t : Trip := { rtw := u.rtw, raw := u.raw, lit := none }
  let ports := (popList op t).filter (fun p => decide (p ≤ 1) && !(c.switchWord p t.phase).getLsbD 31)
    ++ ((List.range 2).filter (fun p => pushes op && t.fan.getLsbD (4 + p) && !(c.switchWord p t.phase).getLsbD 19))
  let bad (b : Bool) (k : Config.Check) : List Config.Report := if b then [c.at_ k u.l.at_] else []
  ports.map (fun p => c.named .switchEntry .rtRing u.l.at_ (16 * p + t.phase))
    ++ bad (maj == 0x10 && c.level == .t && op.acls == 5 && decide ((limit.getD (c.waitEnd op u.raw + 1)) ≤ c.waitEnd op u.raw)) .waitBeyondDeadline
    ++ bad (maj == 0x88 && u.qpos != 0 && op.var.toNat != u.qvar) .qblkBlockIncomplete
    ++ bad (maj == 0x88 && u.qpos == 32 && op.acls != 7) .qblkReleasePops
    ++ bad ((maj == 0x07 || maj == 0x08) && u.qpos != 0) .safePointInQblkBlock
    ++ bad (isRounding maj op.var.toNat && c.stoch && u.qpos != 0 && u.qpos != 32) .ditherOrder

/-! ## The encodings of a slot -/

/-- The check that a word which is no instruction fails (R25, R26, R95, R98). -/
def badWordCheck (e : IllFormed) (ring : Bool) (w : Word) : Config.Check :=
  let maj := (w.extractLsb' 16 8).toNat
  if e = .truncated then .instructionMemory
  else if e = .formNotAllowed ∧ ring ∧ sequencedOnly maj then .transferInRingMode
  else if e = .formNotAllowed ∧ !ring ∧ needsLiteral maj then .targetNotLiteral
  else .illegalEncoding

/-- Words of a slot's blocks that are no instruction (R71, R95, R98). -/
def Code.badLines (c : Code) : List Config.Report :=
  c.x.blocks.flatMap (fun b => (blockLines c.mem b.2).filterMap (fun l => match l.2 with
    | .ok _ => none
    | .error e => some (c.at_ (badWordCheck e false (mget 0 c.mem l.1)) l.1)))

/-- The errors that lie in the register-address word. -/
def inRawWord (e : IllFormed) : Bool := [.indexRange, .specialRegister, .addend, .relation].contains e

/-- Ring lengths and places, and the period (R25, R69, R70). -/
def Code.ringShape (c : Code) : List Config.Report :=
  let r := c.x.rings
  let ok (n : Nat) : Bool := decide (1 ≤ n) && decide (n ≤ 256)
  if !ok r.lo || !ok r.lr || !ok r.la then [c.report .instructionMemory .number 0 0 0]
  else if 2048 < r.op + r.lo ∨ 4096 < r.rt + r.lr ∨ 4096 < r.ra + r.la then [c.report .instructionMemory .number 0 0 0]
  else if 65536 < ringPeriod r then [c.report .ringPeriod .number (ringPeriod r) 0 0]
  else []

/-- Triplets of a slot's rings that are no instruction (R70, R95, R98). -/
def Code.badTriplets (c : Code) : List Config.Report :=
  (List.range (ringPeriod c.x.rings)).filterMap (fun n =>
    let w := mget 0 c.mem (c.x.rings.op + n % c.x.rings.lo)
    match ringLine c.mem c.x.rings n with
    | .ok _ => none
    | .error e => some (c.named (badWordCheck e true w) (if inRawWord e then .raRing else .opRing) n 0))

/-! ## Sequenced code -/

/-- Two blocks of an element that share words and disagree on where instructions begin (R72). -/
def boundaryClash (m : Map Word) (a b : Config.BlockImg) : Option Nat :=
  let la := (blockLines m a).map Prod.fst
  let lb := (blockLines m b).map Prod.fst
  (List.range 2048).find? (fun i => decide (a.base ≤ i) && decide (i < a.base + a.len) && decide (b.base ≤ i) && decide (i < b.base + b.len)
    && la.contains i != lb.contains i)

/-- 32-bit instructions that two paths reach with different held words (R74). -/
def Code.heldClash (c : Code) (w : Walk) : List Config.Report :=
  w.seen.filterMap (fun p => match lineAt c.mem p.1.ia with
    | .ok l =>
      if l.op.words.isNone && w.seen.any (fun q => q.1.ia == p.1.ia && (q.1.hrw != p.1.hrw || q.1.haw != p.1.haw)) then
        some (c.at_ .heldWords p.1.ia)
      else none
    | .error _ => none)

/-- Instructions other than CALL that write s31 in a slot that holds a CALL or RET (R104). -/
def Code.linkWritten (c : Code) (us : List Use) : List Config.Report :=
  if us.any (fun u => u.l.maj == 0x03 || u.l.maj == 0x04) then
    (us.filter (fun u => u.l.maj != 0x03 && (lineWrites false 0 u.l.maj u.l.op u.raw).any (fun x => x.1 == .s 31))).map (fun u =>
      c.at_ .linkRegisterWritten u.l.at_)
  else []

/-- A block of the quantiser that a DONE which may take its action leaves open (R139). -/
def Code.openAtDone (c : Code) (us : List Use) : List Config.Report :=
  (us.filter (fun u => u.l.maj == 0x06 && !isNever u.l.op && u.qpos != 0)).map (fun u => c.at_ .qblkBlockIncomplete u.l.at_)

/-- The initial value that an image gives a scalar register of the slot, where it does (R83, R396). -/
def Code.constAt (c : Code) (r : Nat) : Option Word :=
  mfind c.g.words (0x1_2000 + 64 * c.ve + ((imageBind c.g c.x.slot).extractLsb' 16 6).toNat + r)

/-- A transfer at level T that nothing bounds: a BR or BRS backward, or a LOOP, that carries no `.trips`; a LOOP is bounded where its
count register has an initial value and its block writes the register through LOOP alone (R390). -/
def Code.unboundedAt (c : Code) (us : List Use) (u : Use) : Bool :=
  let b := c.blockOf u.l.at_
  let r := rawA u.raw
  let backward : Bool := match u.l.op.form with
    | .long _ _ w => decide ((b.map (fun x => x.base)).getD 0 + w.toNat ≤ u.l.at_)
    | _ => false
  !isNever u.l.op && (mfind c.x.trips u.l.at_).isNone
    && (((u.l.maj == 0x01 || u.l.maj == 0x02) && backward)
      || (u.l.maj == 0x05 && ((c.constAt r).isNone || us.any (fun y => y.l.maj != 0x05 && c.blockOf y.l.at_ == b
        && (lineWrites c.stoch y.qpos y.l.maj y.l.op y.raw).any (fun x => x.1 == .s r)))))

def Code.unbounded (c : Code) (us : List Use) : List Config.Report :=
  if c.level = .t then (us.filter (c.unboundedAt us)).map (fun u => c.at_ .unboundedPath u.l.at_) else []

/-! ## Rings -/

/-- Distances between the issues of a ring, over two periods (R70, R86). -/
def Code.ringDistances (c : Code) (us : List Use) : List Config.Report :=
  ((us ++ us).foldl (fun (a : Waits × List Config.Report) u =>
    let late := (tooEarly a.1 (lineReads c.pwsel c.stoch u.l.maj u.l.op u.raw)).toList.map (c.early u.l.at_)
    (afterLine a.1 u.l.at_ ((u.l.op.gap.toNat + 1) * c.wheel) (lineWrites c.stoch u.qpos u.l.maj u.l.op u.raw), a.2 ++ late)) ([], [])).2

/-- The pass of OPP in which a predicated instruction of a ring can first take its action: IC of that pass where an iteration window
decides it, and every pass otherwise (R27, R108). -/
def Code.firstPass (c : Code) (op : Op) : Option Nat :=
  if op.pred = 7 then some 0
  else if c.pwsel.getLsbD op.pred.toNat then
    let a := 0xE300 + 128 * c.ve + 16 * (c.x.slot % 8) + 2 * op.pred.toNat
    let lo := (imageWord c.g a).toNat
    let hi := (imageWord c.g (a + 1)).toNat
    if op.pinv then some (if 0 < lo ∨ hi < lo then 0 else hi + 1) else some lo
  else none

/-- A block of the quantiser that a DONE of a ring leaves open, at the pass in which the DONE can first take its action (R139). -/
def Code.openAtRingDone (c : Code) (us : List Use) : List Config.Report :=
  let p := us.length
  let all := (us.filter (fun u => u.l.maj == 0x88)).length
  let before (n : Nat) : Nat := (n / p) * all + ((us.take (n % p)).filter (fun u => u.l.maj == 0x88)).length
  us.filterMap (fun u =>
    if u.l.maj ≠ 0x06 ∨ isNever u.l.op then none
    else
      let bad := match c.firstPass u.l.op with
        | some k => before (k * c.x.rings.lo + u.l.at_ % c.x.rings.lo) % 33 != 0
        | none => (List.range 33).any (fun k => before (k * p + u.l.at_) % 33 != 0)
      if bad then some (c.at_ .qblkBlockIncomplete u.l.at_) else none)

/-! ## A slot -/

/-- The block of a use: the one that holds its address, in a ring the slot's. -/
def Code.blockAt (c : Code) (seq : Bool) (u : Use) : Option Config.BlockImg :=
  if seq then c.blockOf u.l.at_ else c.x.blocks.head?.map Prod.snd

/-- The uses that a slot makes of its instructions: on every path, or over 33 periods of its rings, after which a block of the
quantiser stands as at first. -/
def Code.uses (c : Code) : List Use :=
  if imageSeq c.g c.x.slot then c.seqUses c.paths
  else if c.ringShape.isEmpty then c.ringUses (33 * ringPeriod c.x.rings) else []

/-- The lines that a slot's code holds, on a path or not. -/
def Code.lines (c : Code) (us : List Use) : List Line :=
  if c.seq then c.x.blocks.flatMap (fun b => (blockLines c.mem b.2).filterMap (fun x => match x.2 with
    | .ok l => some l
    | .error _ => none))
  else us.map (fun u => u.l)

/-- What the loader finds in one slot: `helm` names the Helm graph, `alms` the Almanacs of the graph, `limit` the cycles by which the
waits of a block must end at level T. -/
def Code.slotReports (c : Code) (helm : Option Nat) (alms : List Nat) (limit : Config.BlockImg → Option Nat) : List Config.Report :=
  let each (us : List Use) : List Config.Report := us.flatMap (fun u =>
    let b := c.blockAt c.seq u
    c.opReports helm b u.l ++ c.wordReports helm alms b u ++ c.pathReports (b.bind limit) u)
  if c.seq then
    let w := c.paths
    let us := c.seqUses w
    let dead := c.deadLines w
    let off := deadUses dead
    c.badLines ++ c.badTargets ++ w.found ++ c.heldClash w ++ each us
      ++ dead.flatMap (fun l => c.opReports helm (c.blockOf l.at_) l)
      ++ off.flatMap (fun u => c.wordReports helm alms (c.blockOf u.l.at_) u)
      ++ c.linkWritten (us ++ off) ++ c.openAtDone us ++ c.unbounded (us ++ off)
  else
    let shape := c.ringShape
    if !shape.isEmpty then shape
    else
      let us := c.ringUses (33 * ringPeriod c.x.rings)
      let one := us.take (ringPeriod c.x.rings)
      c.badTriplets ++ each us ++ c.ringDistances one ++ c.openAtRingDone one

/-! ## An element -/

/-- The physical registers that some uses write: vector register r as 2·r, scalar register r as 2·r + 1, with the latency (R16). -/
def writtenBy (g : Config.TileImg) (n : Nat) (u : Use) : Option (Nat × Nat) :=
  let w := imageBind g n
  (windowDest u.l.maj u.l.op u.raw).map (fun d =>
    (if d.1 = 0 then 2 * ((w.extractLsb' 24 6).toNat + d.2) else 2 * ((w.extractLsb' 16 6).toNat + d.2) + 1, latencyOf u.l.maj u.l.op.var.toNat))

/-- The scalar registers that CALL and LOOP write without a destination class (R104, R105). -/
def linkBy (g : Config.TileImg) (n : Nat) (u : Use) : Option (Nat × Nat) :=
  let b := ((imageBind g n).extractLsb' 16 6).toNat
  if u.l.maj = 0x03 then some (2 * (b + 31) + 1, 1) else if u.l.maj = 0x05 then some (2 * (b + rawA u.raw) + 1, 1) else none

/-- A physical register lies in the window of a slot of an image. -/
def imageWindow (g : Config.TileImg) (n r : Nat) : Bool :=
  let w := imageBind g n
  let b := if r % 2 = 0 then (w.extractLsb' 24 6).toNat else (w.extractLsb' 16 6).toNat
  decide (b ≤ r / 2) && decide (r / 2 < b + 32)

/-- Two events that repeat every a and b cycles can fall d cycles apart, for some d below n and, where they are one, above 0. -/
def canMeet (a b ta tb n : Nat) (same : Bool) : Bool :=
  let g := Nat.gcd a b
  if same then decide (a < n) else decide ((tb + g - ta % g) % g < n)

/-- The places on the wheel at which the common start of an element's ring-mode slots may fall: on ticks the turn of slot 0 for a wheel
of 1, 2, 4 or 5, else any. -/
def startPlaces (lv : Level) (w : Nat) : List Nat := if lv = .t ∧ 2900 % w = 0 then [0] else List.range w

/-- The cycle of a slot's first turn at or after a start at place r, counted from that place's turn 0 (R17). -/
def turnAfter (w k r : Nat) : Nat := if k % w < r then k % w + w else k % w

/-- Two slots of one element in ring mode that write one physical register in one cycle (R17, R19), when both start in one cycle
(DEDUCED, log 201: the common repetition period is that of slots which start together). -/
def ringCollision (g : Config.TileImg) (c d : Code) (us ud : List (Nat × Use)) (pc pd : Nat) : List Config.Report :=
  us.flatMap (fun x => ud.filterMap (fun y =>
    match writtenBy g c.x.slot x.2, writtenBy g d.x.slot y.2 with
    | some (r, l), some (q, k) =>
      if r = q ∧ (startPlaces c.level c.wheel).any (fun p =>
          canMeet pc pd (turnAfter c.wheel (c.x.slot % 8) p + x.1 + l) (turnAfter c.wheel (d.x.slot % 8) p + y.1 + k) 1 false) then
        some (c.named .writeCollision .opRing x.2.l.at_ (y.2.l.at_ % d.x.rings.lo))
      else none
    | _, _ => none))

/-- Two issues of I-kind opcodes in ring mode that stand closer than the interval of the earlier (R87). -/
def ringIntervals (c d : Code) (us ud : List (Nat × Use)) (pc pd : Nat) : List Config.Report :=
  us.flatMap (fun x => ud.filterMap (fun y =>
    let same := c.x.slot == d.x.slot && x.1 == y.1
    if isIterative x.2.l.maj && isIterative y.2.l.maj
        && (startPlaces c.level c.wheel).any (fun p => canMeet pc pd (turnAfter c.wheel (c.x.slot % 8) p + x.1)
          (turnAfter c.wheel (d.x.slot % 8) p + y.1) (intervalOf x.2.l.maj) same) then
      some (c.named .iterativeInterval .opRing x.2.l.at_ (y.2.l.at_ % d.x.rings.lo))
    else none))

/-- The stage words and bindings of an element (R16, R27 to R29). -/
def elementShape (graph load : Nat) (g : Config.TileImg) (v : Nat) : List Config.Report :=
  let rep (k : Config.Check) (slot a : Nat) (w : Word) : Config.Report :=
    { check := k, graph := graph, spot := .number, load := load, lt := g.lt.toNat, ve := v, slot := slot, at_ := a, word := w, other := 0 }
  let s2 := imageStage g v 1
  let s5 := imageStage g v 4
  (if s2.toNat % 4 = 3 then [rep .stageField 0 2 s2] else [])
    ++ (if 6 ≤ s5.toNat % 8 then [rep .stageField 0 5 s5] else [])
    ++ ((List.range 8).filter (fun k => imageBound g (8 * v + k))).flatMap (fun k =>
      let b := imageBind g (8 * v + k)
      (if imageWheel g v ≤ k then [rep .slotBeyondWheel k 0 b] else [])
        ++ (if 32 < (b.extractLsb' 24 6).toNat ∨ 32 < (b.extractLsb' 16 6).toNat then [rep .windowBase k 0 b] else [])
        ++ (if b.getLsbD 30 ∧ (imageStage g v 6).toNat % 128 ≠ 0 then [rep .windowInSequencedMode k 0 (imageStage g v 6)] else []))

/-- The bytes of instruction memory that a slot takes (R25). -/
def codeBytes (g : Config.TileImg) (x : Config.SlotImg) : Nat :=
  if imageSeq g x.slot then x.blocks.foldl (fun n b => n + 4 * b.2.len) 0 else 4 * x.rings.lo + 2 * x.rings.lr + 2 * x.rings.la

/-- What the loader finds between the slots of one element. -/
def elementReports (g : Config.TileImg) (cs : List Code) : List Config.Report :=
  let us := cs.map (fun c => (c, c.uses))
  let pairs := us.flatMap (fun a => (us.filter (fun b => decide (a.1.x.slot < b.1.x.slot))).map (fun b => (a, b)))
  let timed (a : Code × List Use) : List (Nat × Use) := issueTimes a.1.wheel 0 (a.2.take (ringPeriod a.1.x.rings))
  let per (a : Code × List Use) : Nat := periodCycles a.1.wheel (a.2.take (ringPeriod a.1.x.rings))
  let ring (c : Code) : Bool := !imageSeq g c.x.slot
  let iter (a : Code × List Use) : Bool := (a.1.lines a.2).any (fun l => isIterative l.maj)
  let quant (a : Code × List Use) : Bool := (a.1.lines a.2).any (fun l => l.maj == 0x88)
  let overlap (a : Code × List Use) (other : Nat → Bool) : List Config.Report := a.2.flatMap (fun u =>
    ((writtenBy g a.1.x.slot u).toList ++ (linkBy g a.1.x.slot u).toList).filterMap (fun r =>
      if (List.range 8).any (fun k => let n := 8 * a.1.ve + k; n != a.1.x.slot && imageBound g n && other n && imageWindow g n r.1) then
        some (a.1.at_ .windowOverlap u.l.at_)
      else none))
  (match cs with
    | c :: _ => if 8192 < cs.foldl (fun n x => n + codeBytes g x.x) 0 then [c.report .instructionMemory .number 0 0 0] else []
    | [] => [])
    ++ cs.flatMap (fun c => cs.flatMap (fun d => c.x.blocks.flatMap (fun a => d.x.blocks.filterMap (fun b =>
        if imageSeq g c.x.slot && imageSeq g d.x.slot then
          (boundaryClash c.mem a.2 b.2).map (fun i => c.at_ .instructionBoundary i)
        else none))))
    ++ us.flatMap (fun a => overlap a (fun n => !ring a.1 || imageSeq g n))
    ++ pairs.flatMap (fun p =>
        (if ring p.1.1 ∧ ring p.2.1 then
          ringCollision g p.1.1 p.2.1 (timed p.1) (timed p.2) (per p.1) (per p.2)
            ++ ringIntervals p.1.1 p.2.1 (timed p.1) (timed p.2) (per p.1) (per p.2)
            ++ ringIntervals p.2.1 p.1.1 (timed p.2) (timed p.1) (per p.2) (per p.1)
        else if iter p.1 ∧ iter p.2 then [p.1.1.report .iterativeUnitShared .number 0 0 p.2.1.x.slot]
        else [])
          ++ (if quant p.1 ∧ quant p.2 then [p.1.1.report .quantiserShared .number 0 0 p.2.1.x.slot] else []))
    ++ us.flatMap (fun a => if ring a.1 then ringIntervals a.1 a.1 (timed a) (timed a) (per a) (per a) else [])

/-- What the loader finds in the code of one tile of a load (R84). -/
def codeReports (graph load : Nat) (lv : Level) (helm : Option Nat) (alms : List Nat) (g : Config.TileImg)
    (limit : Nat → Config.BlockImg → Option Nat) : List Config.Report :=
  (List.range 8).flatMap (fun v =>
    let cs := (g.slots.filter (fun x => x.slot / 8 == v && imageBound g x.slot)).map (codeOf graph load lv g)
    elementShape graph load g v ++ cs.flatMap (fun c => c.slotReports helm alms (limit c.x.slot)) ++ elementReports g cs)

/-! ## Relocation (R100) -/

/-- The literals of a tile image that hold block-relative targets, with the base that the loader adds. -/
def relocations (g : Config.TileImg) : List (Nat × Nat) :=
  ((g.slots.filter (fun x => imageSeq g x.slot)).flatMap (fun x => x.blocks.flatMap (fun b =>
    (blockLines (imemOf g (x.slot / 8)) b.2).filterMap (fun l => match l.2 with
      | .ok i => if needsLiteral i.maj && i.op.isLong then some (2048 * (x.slot / 8) + l.1 + 2, b.2.base) else none
      | .error _ => none)))).eraseDups

/-- The words of a tile image as the loader writes them: every transfer's target is made absolute (R100). -/
def relocated (g : Config.TileImg) : Map Word :=
  (relocations g).foldl (fun m r => mset m r.1 (mget 0 m r.1 + BitVec.ofNat 32 r.2)) g.words

end Sys2Proof.Machine
end

