-- ==== Sys2Proof/Machine/Translate.lean ====
section
/-! DEFINITION. Address translation (R286, R290 to R297): windows, escrows, the translation cache, walks of the radix
table, PREF, and the bytes that one token event gathers or scatters. -/

namespace Sys2Proof.Machine

/-! ## Token events (R242) -/

/-- Reads the bytes of a token event: each part stands at its offset, other bytes are zero. -/
def gather (s : State) : List Part → Nat
  | [] => 0
  | p :: r => gather s r ||| (s.read p.pa p.n <<< (8 * p.off))

/-- A part of the event is poisoned. -/
def partsPoisoned (s : State) (ps : List Part) : Bool := ps.any (fun p => isPoisoned s.poison p.pa p.n)

/-- The token that a read event delivers. -/
def gatherTok (s : State) (valid : Mask) (ps : List Part) : Token :=
  { data := BitVec.ofNat 512 (gather s ps), valid := valid, poison := partsPoisoned s ps }

/-- Memory with the parts of a token event written. -/
def storeParts (m : List Host.Cell) : List Part → List Host.Cell
  | [] => m
  | p :: r => storeParts (writeNat m p.pa p.val p.n) r

/-- The parts cover a protection word whole. -/
def coversWord (ps : List Part) (w : Nat) : Bool :=
  (List.range (protBytes (4 * w))).all (fun i => ps.any (fun p => decide (p.pa ≤ 4 * w + i) && decide (4 * w + i < p.pa + p.n)))

/-- Writes the parts of a token event at once: the protection words that they cover lose their poison, and a poisoned token
poisons the words that it writes (R326). -/
def scatter (s : State) (poison : Bool) (ps : List Part) : State :=
  let kept := s.poison.filter (fun w => !coversWord ps w)
  { s with mem := storeParts s.mem ps, poison := if poison then ps.foldl (fun a p => addPoison a p.pa p.n) kept else kept }

/-! ## The radix table (R292, R293) -/

/-- The lowest address bit of each level's index, and its width (R292). -/
def radixBits : List (Nat × Nat) := [(30, 10), (21, 9), (16, 5), (12, 4)]

/-- How a walk ends. -/
inductive WalkEnd where
  | page (base size pa ord : Nat) (ro : Bool)
  | trap (cause : Nat)
deriving DecidableEq, Repr

/-- What an entry says of an address: the walk ends, or goes on in the table that it names; `lo` is the lowest address bit of its level,
`last` says that the level is 3 (R292, R293). -/
def radixEntry (va lo : Nat) (last : Bool) (e : BitVec 64) : WalkEnd ⊕ Nat :=
  let adr := (e.extractLsb' 7 33).toNat * 128
  if !e.getLsbD 63 then .inl (.trap 0x04A)
  else if e.getLsbD 62 then
    let ord := (e.extractLsb' 60 2).toNat
    if adr % 2 ^ lo ≠ 0 ∨ ord = 3 then .inl (.trap 0x048)
    else .inl (.page (va / 2 ^ lo * 2 ^ lo) (2 ^ lo) adr ord (e.getLsbD 59))
  else if last then .inl (.trap 0x048)
  else .inr adr

/-- The address of a level's entry for an address: `f` is the level's lowest address bit and index width. -/
def entryAddr (va table : Nat) (f : Nat × Nat) : Nat := table + 8 * (va / 2 ^ f.1 % 2 ^ f.2)

/-- The walk of R293 from a table, as the loader makes it, and the table addresses it reads. -/
def radixWalk (s : State) (ctx va : Nat) : List (Nat × Nat) → Nat → List Nat × WalkEnd
  | [], _ => ([], .trap 0x048)
  | f :: rest, t =>
    let a := entryAddr va t f
    if !paAllowed s ctx a then ([], .trap 0x048)
    else
      match radixEntry va f.1 rest.isEmpty (s.read64 a) with
      | .inl e => ([a], e)
      | .inr t' =>
        let (l, r) := radixWalk s ctx va rest t'
        (a :: l, r)

/-- A valid escrow of the context covers an address in a direction (R296, R297). -/
def escrowCovers (s : State) (ctx va : Nat) (write : Bool) : Bool :=
  (s.ctx ctx).escrowOk.any (fun e =>
    let w := mget [] (s.ctx ctx).escrow e
    let vpn := ((w.getD 0 0).extractLsb' 0 28).toNat
    let npg := ((w.getD 1 0).extractLsb' 0 28).toNat
    decide (vpn ≤ va / 4096) && decide (va / 4096 < vpn + npg)
      && (w.getD 2 0).getLsbD (if write then 1 else 0))

/-- A hit in the windows of a stream port (R291, R293): physical address, ordering kind, read-only. -/
def windowHit (ws : List (List Word)) (va : Nat) : Option (Nat × Nat × Bool) :=
  ws.findSome? (fun w =>
    let w3 := w.getD 3 0
    let vpn := ((w.getD 0 0).extractLsb' 0 28).toNat
    let ppn := ((w.getD 1 0).extractLsb' 0 28).toNat
    let npg := ((w.getD 2 0).extractLsb' 0 28).toNat
    if w3.getLsbD 31 ∧ vpn ≤ va / 4096 ∧ va / 4096 < vpn + npg then
      some (ppn * 4096 + va - vpn * 4096, (w3.extractLsb' 29 2).toNat, w3.getLsbD 28)
    else none)

/-- A hit in the tile's translation cache at the current generation (R294). -/
def cacheHit (s : State) (t ctx va : Nat) : Option (Nat × Nat × Bool) :=
  ((s.tile t).tcache.find? (fun e => e.ctx == ctx && e.gen == s.genOn (dieOfTile t) ctx && decide (e.base ≤ va)
    && decide (va < e.base + e.size))).map (fun e => (e.pa + (va - e.base), e.ord, e.ro))

/-- What an address translates to. -/
inductive Trans where
  /-- A flat address, with the ordering kind of its page or object. -/
  | to (flat ord : Nat)
  | trap (cause : Nat)
  /-- A walk of the radix table from this level-0 table. -/
  | walk (table : Nat)
deriving DecidableEq, Repr

/-- The checks on a translated address (R246, R284, R286, R293). -/
def placePhys (s : State) (ctx pa ord : Nat) (ro write : Bool) : Trans :=
  if ord = 3 then .trap 0x048
  else if write ∧ ro then .trap 0x040
  else if !paAllowed s ctx pa then .trap 0x048
  else .to pa ord

/-- The translation of an address in an object (R290, R293): `ws` are the windows of the master. -/
def translate (s : State) (t ctx obj : Nat) (entry : Option Nat) (r : ObjRec) (ws : List (List Word)) (va : Nat)
    (write : Bool) : Trans :=
  match placeOf s t ctx obj entry r (va - r.vbase) with
  | .pad x me off => if r.ord = 3 then .trap 0x048 else .to (padAddr (8 * x + me) off) r.ord
  | .phys pa => placePhys s ctx pa r.ord false write
  | .outside => .trap 0x048
  | .radix table =>
    match windowHit ws va with
    | some (pa, ord, ro) => placePhys s ctx pa ord ro write
    | none =>
      if s.levelOf t = .t then .trap 0x083
      else if !escrowCovers s ctx va write then .trap 0x049
      else
        match cacheHit s t ctx va with
        | some (pa, ord, ro) => placePhys s ctx pa ord ro write
        | none => .walk table
  | _ => .trap 0x044

/-! ## Requests to Vault and DRAM -/

/-- The order in which requests of one cycle are taken at a Vault bank: level T first, then die, tile, port (R283). -/
def reqKey (s : State) (t port : Nat) : Nat :=
  (if s.levelOf t = .t then 0 else 1) * 2 ^ 20 + dieOfTile t * 2 ^ 16 + (t % 144) * 64 + port

/-- Sends a request to its Vault bank, or to the Teller of its DRAM address; a copy's token that leaves a Teller takes 16 cycles to the
link edge (R281, R285, R342). -/
def sendReq (s : State) (r : Req) : State :=
  let (id, s0) := s.fresh
  let s1 := { s0 with reqs := mset s0.reqs id r }
  let pa := (r.parts.headD ⟨0, 0, 0, 0⟩).pa
  let kind := if r.ctx < 8 then 2 else 3
  if isDram pa then
    let (lead, hops) := pathOf r.die r.tile portDie none
    s1.send { kind := kind, ctx := r.ctx, circ := 0, hops := hops, tok := poisonedToken, rank := rkArrive, extra := 16
              retried := false, act := .ev .tellerStreamAccess (Arg.of (pa / 2 ^ 32) id 0 0 0) } lead
  else
    let d := (pa - 2 ^ 39) / 2 ^ 25
    if d = r.die then s1.planN (s.mcnt + 10) rkPerform .vaultBankEvent id 0
    else
      let (lead, hops) := pathOf r.die r.tile d none
      let edge := match r.who with
        | .copy _ _ => if r.die = portDie then 16 else 0
        | _ => 0
      s1.send { kind := kind, ctx := r.ctx, circ := 0, hops := hops, tok := poisonedToken, rank := rkPerform, extra := 10
                retried := false, act := .ev .vaultBankEvent (Arg.of id 0 0 0 0) } (lead + edge)

/-! ## Walks of a tile, one at a time (R294) -/

/-- The walk at the head of a tile's queue reads its level's entry: one token read of the table; a table outside the context's memory ends
it (R284, R293, R294). -/
def readEntry (s : State) (t : Nat) : State :=
  match (s.tile t).walks with
  | [] => s
  | w :: rest =>
    let a := entryAddr w.va w.table (radixBits.getD w.level (12, 4))
    let s1 := s.modTile t (fun x => { x with walks := { w with busy := true } :: rest })
    if !paAllowed s w.ctx a then s1.planEv (s.mcnt + 2) rkComplete .translationWalkComplete (Arg.of t 2 w.id 0 0)
    else
      sendReq s1 { who := .table t w.id, ctx := w.ctx, die := dieOfTile t, tile := some t, lt := (s.tile t).ltid, key := reqKey s t (min w.who 8)
                   write := false, parts := [⟨a, 8, 0, 0⟩], valid := 0xFFFF#16, poison := false, tag := 0 }

/-- Walks wait in order of request; those of one cycle stand in ascending stream port, then load pipe (R294). -/
def insertWalk (w : WalkReq) : List WalkReq → List WalkReq
  | [] => [w]
  | x :: r => if !x.busy && x.at_ == w.at_ && decide (w.who < x.who) then w :: x :: r else x :: insertWalk w r

/-- Queues a walk; the tile performs one at a time, and begins at the end of the cycle of its request. -/
def queueWalk (s : State) (t who ctx va table : Nat) (write : Bool) : State :=
  let (id, s0) := s.fresh
  let w : WalkReq := { who := who, ctx := ctx, va := va, table := table, level := 0, write := write, id := id, at_ := s.mcnt, busy := false }
  let s1 := s0.modTile t (fun x => { x with walks := insertWalk w x.walks })
  if (s.tile t).walks.isEmpty then s1.planEv s.mcnt rkComplete .translationWalkComplete (Arg.of t 3 0 0 0) else s1

/-- Fills the translation cache; a full cache of 64 drops its oldest fill (R294). -/
def fillPage (s : State) (t : Nat) (e : PageEntry) : State :=
  s.modTile t (fun x => { x with tcache := (if x.tcache.length < 64 then x.tcache else x.tcache.tail) ++ [e] })

/-- PREF's translation of an address of an object that the tile's cache holds: of a radix object with the capability's version, where a
read escrow covers the address and no entry of the translation cache does. -/
def prefetchHit (s : State) (t ctx obj ver va : Nat) : State :=
  match s.objLook t ctx obj with
  | .hit r =>
    if r.ver = ver ∧ r.kind = 3 ∧ escrowCovers s ctx va false ∧ (cacheHit s t ctx va).isNone then
      queueWalk s t 9 ctx va (r.loc.extractLsb' 0 40).toNat false
    else s
  | _ => s

/-- PREF starts a translation at levels D and F for an address that would pass its checks, and never traps; an object-table entry that is
not cached is fetched first (R154, R288). DESIGN CHOICE, log 160: the checks are the right RD, the bounds of one byte, a valid entry of the
capability's version, kind 3, and a read escrow. -/
def prefetch (s : State) (o : Opnds) : State :=
  let ctx := s.ctxOfTile o.tile
  let va := eaOf 0xAD o
  if o.level = .t ∨ !hasRights o.cap rRD ∨ va < capLo o.cap ∨ capHi o.cap ≤ va then s
  else
    match s.objLook o.tile ctx (capObj o.cap) with
    | .miss => (s.fetchObject o.tile ctx (capObj o.cap)).planEv (s.mcnt + 24) rkHold .translationWalkComplete
        (Arg.of o.tile 1 va (capObj o.cap) (capVer o.cap))
    | _ => prefetchHit s o.tile ctx (capObj o.cap) (capVer o.cap) va

/-- R154. -/
def execPref (op : Op) (s : State) : Host.Outcome State Fault Refusal :=
  .next (actVE 0xAD op (fun o s1 => Issued.only (prefetch s1 o)) s)

end Sys2Proof.Machine
end

