-- ==== Sys2Proof/Machine/Walk.lean ====
section
/-! DEFINITION. The arithmetic of tensor maps (R161 to R163): the order of a walk, the address of each position, and the
stored form of block floating-point (R50, R51). -/

namespace Sys2Proof.Machine

/-- One dimension of a tensor map (R161). -/
structure Dim where
  win : Nat
  ext : Nat
  str : Int
  dil : Nat
  step : Nat
  out : Nat
  pad : Int
deriving DecidableEq, Repr

/-- The capability of a map. -/
def mapCap (ws : List Word) : BitVec 128 := capAt ws 0
/-- Word 4's fields: direction, ZF, FMT and the element size in bytes. -/
def mapWrite (ws : List Word) : Bool := (ws.getD 4 0).getLsbD 15
def mapZf (ws : List Word) : Bool := (ws.getD 4 0).getLsbD 14
def mapFmt (ws : List Word) : Nat := ((ws.getD 4 0).extractLsb' 8 4).toNat
def mapEsz (ws : List Word) : Nat := 2 ^ ((ws.getD 4 0).extractLsb' 6 2).toNat
def mapSoff (ws : List Word) : Nat := (ws.getD 21 0).toNat

/-- Dimension d; one above NDM1 acts as a single position (R161). -/
def mapDim (ws : List Word) (d : Nat) : Dim :=
  if d ≤ ((ws.getD 4 0).extractLsb' 12 2).toNat then
    let a := ws.getD (5 + 4 * d) 0
    let c := ws.getD (7 + 4 * d) 0
    { win := (a.extractLsb' 24 8).toNat + 1, ext := (a.extractLsb' 0 24).toNat, str := (ws.getD (6 + 4 * d) 0).toInt
      dil := (c.extractLsb' 24 8).toNat, step := (c.extractLsb' 16 8).toNat, out := (c.extractLsb' 0 16).toNat + 1
      pad := ((ws.getD (8 + 4 * d) 0).extractLsb' 0 16).toInt }
  else { win := 1, ext := 1, str := 0, dil := 1, step := 0, out := 1, pad := 0 }

/-- The dimensions that a walk visits: all four, or those above the members of a block (R163). -/
def mapDims (ws : List Word) : List Dim :=
  (if mapFmt ws = 0 then [0, 1, 2, 3] else [1, 2, 3]).map (mapDim ws)

/-- The positions of a walk: elements, or blocks. -/
def walkLength (ws : List Word) : Nat := (mapDims ws).foldl (fun n d => n * d.win * d.out) 1

/-- Splits a number by radices, the first fastest. -/
def digits : List Nat → Nat → List Nat
  | [], _ => []
  | r :: rs, n => n % r :: digits rs (n / r)

/-- The coordinates of a position: window offsets run inside window positions, dimension 0 innermost (R162). -/
def coords (ws : List Word) (pos : Nat) : List Int :=
  let ds := mapDims ws
  let w := digits (ds.map Dim.win) pos
  let o := digits (ds.map Dim.out) (pos / (ds.map Dim.win).foldl (fun a b => a * b) 1)
  (ds.zip (w.zip o)).map (fun p =>
    (p.2.2 * p.1.step : Int) + (p.2.1 * p.1.dil : Int) - p.1.pad)

/-- A position lies inside the tensor. -/
def insideExt (ws : List Word) (xs : List Int) : Bool :=
  ((mapDims ws).zip xs).all (fun p => decide (0 ≤ p.2) && decide (p.2 < (p.1.ext : Int)))

/-- Σ x_d · STR_d. -/
def strideSum (ws : List Word) (xs : List Int) : Int :=
  ((mapDims ws).zip xs).foldl (fun a p => a + p.2 * p.1.str) 0

/-- Where a position lies. -/
inductive Where where
  | addr (va : Nat)
  /-- Outside the tensor with ZF = 1. -/
  | zero
  | fault
deriving DecidableEq, Repr

/-- A run of `n` bytes at an integer address inside the capability (R162). -/
def inCap (c : BitVec 128) (a : Int) (n : Nat) : Where :=
  if (capLo c : Int) ≤ a ∧ a + n ≤ (capHi c : Int) then .addr a.toNat else .fault

/-- The place of a plain element (R162). -/
def elementAt (ws : List Word) (pos : Nat) : Where :=
  let xs := coords ws pos
  if insideExt ws xs then inCap (mapCap ws) ((capLo (mapCap ws) : Int) + strideSum ws xs) (mapEsz ws)
  else if mapZf ws then .zero else .fault

/-- The places of a block's mantissas and of its scale (R163). -/
def blockAt (ws : List Word) (b : Nat) : Where × Where :=
  let xs := coords ws b
  let n := 4 * mapFmt ws
  let lo := (capLo (mapCap ws) : Int)
  if insideExt ws xs then
    (inCap (mapCap ws) (lo + n * strideSum ws xs) n, inCap (mapCap ws) (lo + mapSoff ws + strideSum ws xs) 1)
  else if mapZf ws then (.zero, .zero) else (.fault, .fault)

/-- Tokens of a plain walk; groups of a BFP walk. -/
def walkTokens (ws : List Word) : Nat :=
  if mapFmt ws = 0 then (walkLength ws * mapEsz ws + 63) / 64 else (walkLength ws + 15) / 16

/-- Elements of a plain token that the walk has. -/
def tokenElems (ws : List Word) (ix : Nat) : List (Nat × Where) :=
  let e := mapEsz ws
  let per := 64 / e
  ((List.range per).filter (fun i => decide (per * ix + i < walkLength ws))).map (fun i =>
    (e * i, elementAt ws (per * ix + i)))

/-- The valid bits of a plain token: lanes that hold an element (R162). -/
def tokenValid (ws : List Word) (ix : Nat) : Mask :=
  ofMask (fun l => decide (64 * ix + 4 * l < walkLength ws * mapEsz ws))

/-! ## Stored form of a block (R51) -/

/-- Member k of a block's mantissa string, sign-extended to 32 bits. -/
def memberOf (m str k : Nat) : Word := BitVec.ofInt 32 (sextNat (str / 2 ^ (m * k)) m)

/-- The mantissa string of 32 members; a member whose lane was void keeps its old bits. -/
def joinMembers (m old : Nat) (vals : List (Bool × Word)) : Nat :=
  (vals.zip (List.range vals.length)).foldl (fun a p =>
    let v := if p.1.1 then p.1.2.toNat % 2 ^ m else old / 2 ^ (m * p.2) % 2 ^ m
    a + v * 2 ^ (m * p.2)) 0

end Sys2Proof.Machine
end

