-- ==== Sys2Proof/Machine/Stream.lean ====
section
/-! DEFINITION. Stream ports (R161 to R165, R291, R295): arming, the read and write walks, requests to the Vault and DRAM
(R281, R283, R285), and the ends of radix walks (R293, R294). -/

namespace Sys2Proof.Machine

/-! ## A port's object and addresses -/

/-- The object that a port's walk names. -/
def portObj (s : State) (m : Nat) : Option ObjRec :=
  s.objRead (m / 8) (s.ctxOfTile (m / 8)) (capObj (mapCap (s.sport m).mapw))

/-- Why a walk cannot go on. -/
inductive Halt where
  | fault (cause detail : Nat)
  | walk (table va : Nat)
  /-- An object whose entry the tile's cache does not hold (R288). -/
  | object (obj : Nat)
  /-- Tokens that a load pipe has yet to get from DRAM for a command (R281). -/
  | tokens (cmd : Nat) (addrs : List Nat)
deriving DecidableEq, Repr

/-- DETAIL of a stream-walk record: port and map (R321). -/
def walkDetail (s : State) (m : Nat) : Nat := m % 8 + 8 * (s.sport m).map

/-- The windows of a port in order. -/
def portWindows (p : SPort) : List (List Word) := (List.range 8).map (fun i => mget [] p.win i)

/-- One place of a walk as a part of a token event. -/
def portPart (s : State) (m : Nat) (write : Bool) (w : Where) (n off val : Nat) : Except Halt (Option (Part × Nat)) :=
  let p := s.sport m
  let t := m / 8
  let obj := capObj (mapCap p.mapw)
  match w with
  | .zero => .ok none
  | .fault => .error (.fault 0x047 (walkDetail s m))
  | .addr va =>
    match s.objLook t (s.ctxOfTile t) obj with
    | .absent => .error (.fault 0x043 obj)
    | .miss => .error (.object obj)
    | .hit r =>
      match translate s t (s.ctxOfTile t) obj (s.slot p.owner).entry r (portWindows p) va write with
      | .to a ord => .ok (some (⟨a, n, off, val⟩, ord))
      | .trap c => .error (.fault c (vaDetail va))
      | .walk table => .error (.walk table va)

/-- The parts of several places of a walk, each with the ordering kind of its page or object (R250). -/
def portParts (s : State) (m : Nat) (write : Bool) : List (Where × Nat × Nat × Nat) → Except Halt (List (Part × Nat))
  | [] => .ok []
  | (w, n, off, val) :: r =>
    match portPart s m write w n off val with
    | .error e => .error e
    | .ok x =>
      match portParts s m write r with
      | .error e => .error e
      | .ok ps => .ok (x.toList ++ ps)

/-- A part as the parts of the aligned 64-byte tokens that hold its bytes (R242). -/
def cutPart (p : Part) : List Part :=
  let k := 64 - p.pa % 64
  if p.n ≤ k then [p]
  else [{ p with n := k, val := p.val % 2 ^ (8 * k) }, { p with pa := p.pa + k, n := p.n - k, off := p.off + k, val := p.val / 2 ^ (8 * k) }]

/-- Parts by the aligned 64-byte token that holds them, in ascending address order: each is one token event (R242, R250). -/
def byToken (ps : List Part) : List (List Part) :=
  ((ps.flatMap cutPart).foldl (fun (m : Map (List Part)) p => mmod [] m (p.pa / 64) (fun l => l ++ [p])) []).map (fun e => e.2)

/-- The parts of a token without their ordering kinds; one of them lies on an SO page or object. -/
def plainParts (ps : List (Part × Nat)) : List Part := ps.map Prod.fst
def hasStrong (ps : List (Part × Nat)) : Bool := ps.any (fun p => p.2 == 0)

/-- A port stops at a fault, and the slot that is charged freezes (R162, R293): from the next cycle, as ports act after the issues of
a cycle. -/
def portFault (s : State) (m n cause detail : Nat) : State :=
  (s.modSport m (fun p => { p with state := 3 })).trapAt n cause detail (s.mcnt + 1)

/-- A walk of the radix table holds the port until it ends (R294). -/
def portWalk (s : State) (m table va : Nat) (write : Bool) : State :=
  queueWalk (s.modSport m (fun p => { p with walking := true })) (m / 8) (m % 8) (s.ctxOfTile (m / 8)) va table write

/-- Acts on what keeps a walk from going on; an object-table entry that is missing is a timing fault at level T, and is fetched at levels
D and F (R288). -/
def portHalt (s : State) (m : Nat) (write : Bool) : Halt → State
  | .fault c d => portFault s m (s.sport m).owner c d
  | .walk table va => portWalk s m table va write
  | .object o =>
    if s.levelOf (m / 8) = .t then portFault s m (s.sport m).owner 0x08C o else s.fetchObject (m / 8) (s.ctxOfTile (m / 8)) o
  | .tokens _ _ => s

/-- The walk stands still at what it met, and looks again. -/
def Halt.waits (s : State) (m : Nat) : Halt → Bool
  | .fault _ _ => false
  | .walk _ _ => true
  | .object _ => s.levelOf (m / 8) != .t
  | .tokens _ _ => true

/-! ## Read walks -/

/-- The plain token of a number: its parts, or why it cannot be read. -/
def readParts (s : State) (m ix : Nat) : Except Halt (List (Part × Nat)) :=
  let ws := (s.sport m).mapw
  portParts s m false ((tokenElems ws ix).map (fun e => (e.2, mapEsz ws, e.1, 0)))

/-- Presents the next token of a plain walk where it has come, one per cycle (R295). -/
def presentPlain (s : State) (m : Nat) : State :=
  let p := s.sport m
  if p.walking then s
  else
    match mfind p.got p.pos with
    | none => s
    | some tok =>
      if p.lastShown = s.mcnt + 1 then planOnce s (s.mcnt + 1) rkPort .readWalkTokenPresent m p.walk 2
      else
        let q := { p with present := p.present ++ [tok], got := mdel p.got p.pos, asked := p.asked - 1, pos := p.pos + 1
                          toks := (p.toks + 1) % 2 ^ 24, lastShown := s.mcnt + 1
                          state := if p.pos + 1 = walkTokens p.mapw then 2 else p.state }
        let s1 := s.setSport m q
        if (mfind q.got q.pos).isSome then planOnce s1 (s.mcnt + 1) rkPort .readWalkTokenPresent m p.walk 2 else s1

/-- A byte of the 64-byte tokens that a group has read. -/
def groupByte (g : BGroup) (a : Nat) : Nat := (mget (0 : Vec) g.data (a / 64 * 64)).toNat / 2 ^ (8 * (a % 64)) % 256

/-- The mantissa string of 4m bytes at an address. -/
def groupStr (g : BGroup) (a : Nat) : Nat → Nat
  | 0 => 0
  | n + 1 => groupByte g a + 256 * groupStr g (a + 1) n

/-- The blocks of a group by lane (R163). -/
def groupBlocks (ws : List Word) (g : Nat) : List (Nat × Where × Where) :=
  ((List.range 16).filter (fun l => decide (16 * g + l < walkLength ws))).map (fun l => (l, blockAt ws (16 * g + l)))

/-- Token p of a group in stream form: scales, then values (R51, R163). -/
def groupToken (ws : List Word) (g : BGroup) (p : Nat) : Token :=
  let bs := groupBlocks ws g.ix
  let m := mapFmt ws
  let val (l : Nat) : Word :=
    match bs.find? (fun b => b.1 == l) with
    | some (_, .addr ma, .addr sa) =>
      if p = 0 then BitVec.ofNat 32 (groupByte g sa) else memberOf m (groupStr g ma (4 * m)) (p - 1)
    | _ => 0
  { data := ofLanes val, valid := ofMask (fun l => bs.any (fun b => b.1 == l)), poison := g.poison }

/-- The aligned 64-byte addresses that hold runs of bytes, ascending and each once. -/
def tokenAddrs (runs : List (Nat × Nat)) : List Nat :=
  let all := runs.flatMap (fun r => (List.range ((r.1 + r.2 + 63) / 64 - r.1 / 64)).map (fun i => (r.1 / 64 + i) * 64))
  (all.foldl (fun (m : Map Unit) a => mset m a ()) []).map (fun p => p.1)

/-- Takes the next group of a BFP walk into a free buffer once every read of the previous group has been issued
(R295). -/
def loadGroup (s : State) (m c : Nat) : State :=
  let p := s.sport m
  if !p.reads.isEmpty ∨ 2 ≤ p.groups.length ∨ walkTokens p.mapw ≤ p.nextGrp then s
  else
    let bs := groupBlocks p.mapw p.nextGrp
    if bs.any (fun b => b.2.1 == .fault || b.2.2 == .fault) then planOnce s (s.mcnt + 1) rkPort .readWalkTokenPresent m p.walk 3
    else
      let runs (f : Nat × Where × Where → Where) (n : Nat) : List (Nat × Nat) :=
        bs.filterMap (fun b => match f b with
          | .addr a => some (a, n)
          | _ => none)
      let sc := (tokenAddrs (runs (fun b => b.2.2) 1)).map (fun a => (⟨p.nextGrp, true, a⟩ : BRead))
      let mt := (tokenAddrs (runs (fun b => b.2.1) (4 * mapFmt p.mapw))).map (fun a => (⟨p.nextGrp, false, a⟩ : BRead))
      let g : BGroup := { ix := p.nextGrp, scaleLeft := sc.length, mantLeft := mt.length, scaleAt := c, mantAt := c
                          data := [], poison := false }
      let s1 := s.setSport m { p with groups := p.groups ++ [g], reads := sc ++ mt, nextGrp := p.nextGrp + 1 }
      if (sc ++ mt).isEmpty then planOnce s1 c rkPort .readWalkTokenPresent m p.walk 2
      else s1.planEv (c + p.lat) rkPort .readWalkTokenPresent (Arg.of m p.walk 0 0 0)

/-- Presents the next token of a BFP walk when its cycle has come (R295). -/
def presentGroup (s : State) (m : Nat) : State :=
  let p := s.sport m
  let again (c : Nat) : State := planOnce s c rkPort .readWalkTokenPresent m p.walk 2
  match p.groups with
  | [] => s
  | g :: rest =>
    if p.walking ∨ 8 ≤ p.present.length then s
    else if p.lastShown = s.mcnt + 1 then again (s.mcnt + 1)
    else
      let l := max g.mantAt p.scaleShown
      if p.gpos = 0 ∧ 0 < g.scaleLeft then s
      else if 0 < p.gpos ∧ 0 < g.mantLeft then s
      else if 0 < p.gpos ∧ s.mcnt < l + p.gpos then again (l + p.gpos)
      else
        let last := p.gpos = 32
        let q := { p with present := p.present ++ [groupToken p.mapw g p.gpos], toks := (p.toks + 1) % 2 ^ 24
                          pos := p.pos + 1, lastShown := s.mcnt + 1
                          gpos := if last then 0 else p.gpos + 1
                          scaleShown := if p.gpos = 0 then s.mcnt else p.scaleShown
                          groups := if last then rest else p.groups
                          state := if last ∧ g.ix + 1 = walkTokens p.mapw then 2 else p.state }
        let s1 := planOnce (s.setSport m q) (s.mcnt + 1) rkPort .readWalkTokenPresent m p.walk 2
        if last then loadGroup s1 m (s.mcnt + 1) else s1

/-- The read of a BFP walk that a number stands for: group, plane, address. -/
def breadIx (b : BRead) : Nat := b.grp * 2 ^ 42 + b.scale.toNat * 2 ^ 41 + b.addr
def breadOf (ix : Nat) : BRead := ⟨ix / 2 ^ 42, ix / 2 ^ 41 % 2 = 1, ix % 2 ^ 41⟩

/-- A read of a BFP walk has returned. -/
def groupRead (s : State) (m ix : Nat) (tok : Token) : State :=
  let b := breadOf ix
  let upd (g : BGroup) : BGroup :=
    if g.ix ≠ b.grp then g
    else if b.scale then
      { g with scaleLeft := g.scaleLeft - 1, scaleAt := s.mcnt, data := mset g.data b.addr tok.data, poison := g.poison || tok.poison }
    else { g with mantLeft := g.mantLeft - 1, mantAt := s.mcnt, data := mset g.data b.addr tok.data, poison := g.poison || tok.poison }
  presentGroup (s.modSport m (fun p => { p with groups := p.groups.map upd })) m

/-- A token or read of a port has come back whole (R285, R295). -/
def portWhole (s : State) (m ix : Nat) (tok : Token) : State :=
  let p := s.sport m
  if p.bfp then groupRead s m ix tok
  else presentPlain (s.setSport m { p with got := mset p.got ix tok }) m

/-- An event of a token or read of a port has come back; the token is whole with its last (R242, R250). -/
def portReturn (s : State) (m walk ix : Nat) (tok : Token) : State :=
  let p := s.sport m
  if p.walk ≠ walk ∨ p.state ≠ 1 then s
  else match mfind p.parts ix with
    | none => portWhole s m ix tok
    | some (k, t) =>
      let all : Token := { data := t.data ||| tok.data, valid := tok.valid, poison := t.poison || tok.poison }
      if k ≤ 1 then portWhole (s.setSport m { p with parts := mdel p.parts ix }) m ix all
      else s.setSport m { p with parts := mset p.parts ix (k - 1, all) }

/-- An access that the arming slot issued before the ARM, and that is performed no sooner than the walk's first read would be, has not been
performed: an STRL that is held, or a token that it pushed (R256). -/
def armWaits (s : State) (n bound : Nat) : Bool :=
  s.accs.any (fun a => a.2.slot == n && decide (a.2.seq < bound) && a.2.held)
    || pushesUnder (s.elem (veOfSlot n)) n bound fanMe || s.sports.any (fun p => p.1 / 8 == tileOfSlot n && portOwes p.2 n bound true)

/-- The next read that a port asks for: its number, its parts, and the valid bits of what comes back. -/
def nextRead (s : State) (m : Nat) : Option (Nat × Except Halt (List (Part × Nat)) × Mask) :=
  let p := s.sport m
  if p.bfp then
    match p.reads with
    | b :: _ => some (breadIx b, portParts s m false [(.addr b.addr, 64, 0, 0)], 0xFFFF#16)
    | [] => none
  else some (p.reqIx, readParts s m p.reqIx, tokenValid p.mapw p.reqIx)

/-- The port has asked for its next read. -/
def readAsked (s : State) (m : Nat) : State :=
  let p := s.sport m
  if p.bfp then
    let s1 := s.setSport m { p with reads := p.reads.tail }
    if p.reads.tail.isEmpty then loadGroup s1 m (s.mcnt + 1 - p.lat)
    else s1.planEv (s.mcnt + 1) rkPort .readWalkTokenPresent (Arg.of m p.walk 0 0 0)
  else s.setSport m { p with reqIx := p.reqIx + 1 }

/-- A read of the walk has been asked of the Vault or DRAM and has not come back. -/
def walkReads (s : State) (m walk : Nat) : Bool :=
  s.reqs.any (fun r => match r.2.who with
    | .port k w _ => k == m && w == walk && !r.2.write
    | _ => false)

/-- Asks the Vault or DRAM for a token of a walk: one request for each aligned 64-byte token that holds bytes of it (R242, R250). -/
def askToken (s : State) (m ix : Nat) (ps : List Part) (valid : Mask) : State :=
  let p := s.sport m
  let ts := byToken ps
  let s1 := if ts.length ≤ 1 then s else s.setSport m { p with parts := mset p.parts ix (ts.length, { data := 0, valid := valid, poison := false }) }
  ts.foldl (fun a q => sendReq a
    { who := .port m p.walk ix, ctx := s.ctxOfTile (m / 8), die := dieOfTile (m / 8), tile := some (m / 8), lt := (s.tile (m / 8)).ltid
      key := reqKey s (m / 8) (m % 8), write := false, parts := q, valid := valid, poison := false, tag := 0 }) s1

/-- A read of a port's next token is requested: at the ME's banks as port 4, or by a request to the Vault or DRAM; a token that lies
wholly outside the tensor takes the cycles of the table without an access (R147, R285, R295). A read of an SO page waits for the walk's
reads before it (R247). -/
def requestRead (s : State) (m : Nat) : State :=
  let p := s.sport m
  let again : State := s.planEv (s.mcnt + 1) rkPort .readWalkTokenPresent (Arg.of m p.walk 0 0 0)
  if p.walking then again
  else if p.begin_ = p.walk ∧ armWaits s p.owner p.armed then
    (flushMerged s p.owner).planEv (s.mcnt + 1) rkPort .readWalkTokenPresent (Arg.of m p.walk 0 0 0)
  else
    match nextRead s m with
    | none => s
    | some (_, .error h, _) => portHalt (if h.waits s m then again else s) m false h
    | some (ix, .ok ps, valid) =>
      let started := s.modSport m (fun q => { q with begin_ := 0 })
      match plainParts ps with
      | [] =>
        (readAsked started m).planEv (s.mcnt + (if p.lat = 0 then 24 else 3)) rkPort .readWalkTokenPresent (Arg.of m p.walk 1 ix 0)
      | q :: _ =>
        if 2 ^ 40 ≤ q.pa then
          if bankTaken s m ≠ 0 then again
          else (readAsked (takeBanks started m 0xFFFF#16) m).planEv (s.mcnt + 3) rkPort .readWalkTokenPresent
            (Arg.of m p.walk 1 ix 0)
        else if hasStrong ps ∧ walkReads s m p.walk then again
        else askToken (readAsked started m) m ix (plainParts ps) valid

/-- A read from the port's own ME returns, at acceptance + 3. -/
def readOwn (s : State) (m ix : Nat) : State :=
  let p := s.sport m
  let r := if p.bfp then portParts s m false [(.addr (breadOf ix).addr, 64, 0, 0)] else readParts s m ix
  match r with
  | .error h =>
    portHalt (if h.waits s m then s.planEv (s.mcnt + 1) rkPort .readWalkTokenPresent (Arg.of m p.walk 1 ix 0) else s) m false h
  | .ok ps => portReturn s m p.walk ix (gatherTok s (if p.bfp then 0xFFFF#16 else tokenValid p.mapw ix) (plainParts ps))

/-- READ_WALK_TOKEN_PRESENT of port a: c = 0 a read is requested, 1 a read of the own ME returns, 2 the next token is presented, 3 a
group outside its object or tensor stops the walk. -/
def execReadWalkTokenPresent (s : State) : Host.Outcome State Fault Refusal :=
  let m := s.arg.a
  let p := s.sport m
  .next (if p.walk ≠ s.arg.b ∨ p.state ≠ 1 ∨ p.dir then s
    else match s.arg.c with
      | 0 => requestRead s m
      | 1 => readOwn s m s.arg.d
      | 3 => portFault s m p.owner 0x047 (walkDetail s m)
      | _ => if p.bfp then presentGroup s m else presentPlain s m)

/-! ## Write walks -/

/-- The parts that a plain token writes: its elements in lanes that are valid (R77, R162). -/
def writeParts (s : State) (m pos : Nat) (tok : Token) : Except Halt (List (Part × Nat)) :=
  let ws := (s.sport m).mapw
  let els := (tokenElems ws pos).filter (fun e => tok.valid.getLsbD (e.1 / 4))
  portParts s m true (els.map (fun e =>
    (e.2, mapEsz ws, e.1, tok.data.toNat / 2 ^ (8 * e.1) % 2 ^ (8 * mapEsz ws))))

/-- The bytes that a whole group of 33 tokens writes: mantissa strings and scales of its blocks, in ascending address
order; a void lane of a token writes nothing (R77, R163, R251, R295). -/
def groupWrites (s : State) (m g : Nat) (toks : List Token) : Except Halt (List Part) :=
  let ws := (s.sport m).mapw
  let f := mapFmt ws
  let sc := toks.getD 0 { data := 0, valid := 0, poison := false }
  let run (b : Nat × Where × Where) : List (Where × Nat × Nat × Nat) :=
    let vals := (toks.drop 1).map (fun t => (t.valid.getLsbD b.1, lane t.data b.1))
    let old := match portPart s m true b.2.1 (4 * f) 0 0 with
      | .ok (some (p, _)) => s.read p.pa p.n
      | _ => 0
    (if vals.any (fun v => v.1) then [(b.2.1, 4 * f, 0, joinMembers f old vals)] else [])
      ++ (if sc.valid.getLsbD b.1 then [(b.2.2, 1, 0, (lane sc.data b.1).toNat % 256)] else [])
  match portParts s m true ((groupBlocks ws g).flatMap run) with
  | .error h => .error h
  | .ok ps => .ok ((plainParts ps).foldl (fun l p => insertPart p l) [])
where
  /-- Inserts a part in ascending address order. -/
  insertPart (p : Part) : List Part → List Part
    | [] => [p]
    | q :: r => if p.pa < q.pa then p :: q :: r else q :: insertPart p r

/-- Tokens that a write walk takes in all. -/
def writeTotal (ws : List Word) : Nat := if mapFmt ws = 0 then walkTokens ws else 33 * walkTokens ws

/-- Room has come in a port's stream input: the waiting tokens of the VEs beside it leave. -/
def wakeInput (s : State) (m : Nat) : State :=
  (List.range 32).foldl (fun a i =>
    if meBeside (i / 4) (4 + i % 4) = some (m % 8) then drainOut a (8 * (m / 8) + i / 4) (i % 4) 8 else a) s

/-- Sends the writes of accepted tokens of one number to their destination: to the Vault or DRAM as one request for each aligned 64-byte
token, in ascending address order (R242, R250, R251, R295). -/
def sendWrite (s : State) (m id : Nat) (ps : List Part) (poison : Bool) : State :=
  match ps with
  | [] => s.planN (s.mcnt + 3) rkPerform .writeWalkTokenPerform m id
  | q :: _ =>
    if 2 ^ 40 ≤ q.pa then s.planN (s.mcnt + 3) rkPerform .writeWalkTokenPerform m id
    else
      (byToken ps).foldl (fun a g => sendReq a
        { who := .port m (s.sport m).walk 0, ctx := s.ctxOfTile (m / 8), die := dieOfTile (m / 8)
          tile := some (m / 8), lt := (s.tile (m / 8)).ltid, key := reqKey s (m / 8) (m % 8), write := true, parts := g, valid := 0xFFFF#16
          poison := poison, tag := id }) s

/-- The writes of the accepted tokens of one number, as their acceptance fixed them. -/
def writesOf (s : State) (m id : Nat) : List Part × Bool :=
  let ts := (s.sport m).accepted.filter (fun t => t.id == id)
  (ts.flatMap WToken.parts, ts.any (fun t => t.tok.poison))

/-- Writes of the accepted tokens of a number have been performed; with the last of them the tokens leave, and what their slots wait for
may hold. -/
def writeDone (s : State) (m id : Nat) (ps : List Part) : State :=
  s.modSport m (fun p =>
    let left := p.accepted.map (fun t => if t.id = id then { t with parts := t.parts.filter (fun q => !ps.contains q) } else t)
    { p with accepted := if left.all (fun t => t.id != id || t.parts.isEmpty) then left.filter (fun t => t.id != id) else left })

/-- The aligned 256-byte range of a token's first byte written (R295). -/
def rangeOf (ps : List Part) : Nat := (ps.headD ⟨0, 0, 0, 0⟩).pa / 256

/-- The range of the tokens that a port holds merged. -/
def mergedRange (s : State) (m : Nat) : Nat :=
  match (s.sport m).merge with
  | t :: _ => rangeOf t.parts
  | [] => 0

/-- Sends the merged UN tokens in order: to the Vault or DRAM at once, to the port's own ME at its banks one per cycle
(R147, R295). -/
def flushPort (s : State) (m : Nat) : State :=
  let ts := (s.sport m).merge
  let s1 := s.modSport m (fun p => { p with accepted := p.accepted ++ p.merge, merge := [] })
  (ts.zip (List.range ts.length)).foldl (fun a x =>
    if 2 ^ 40 ≤ (x.1.parts.headD ⟨0, 0, 0, 0⟩).pa then a.planN (a.mcnt + x.2) rkPort .writePortUnFlush m (x.1.id + 1)
    else sendWrite a m x.1.id x.1.parts x.1.tok.poison) s1

/-- Puts a token that has been taken from the stream input among the accepted ones; what it writes to UN pages is merged, and sent when
another range begins or four tokens are held; its writes to SO and RC pages are sent at once (R250, R295). -/
def acceptPlain (s : State) (m : Nat) (w : WToken) (ps : List (Part × Nat)) : State :=
  let un := (plainParts (ps.filter (fun p => p.2 == 2))).flatMap cutPart
  let now := (plainParts (ps.filter (fun p => p.2 != 2))).flatMap cutPart
  let s0 := if now.isEmpty ∧ !un.isEmpty then s
    else sendWrite (s.modSport m (fun p => { p with accepted := p.accepted ++ [{ w with parts := now }] })) m w.id now w.tok.poison
  if un.isEmpty then s0
  else
    let s1 := if !(s0.sport m).merge.isEmpty && mergedRange s0 m != rangeOf un then flushPort s0 m else s0
    let s2 := s1.modSport m (fun p => { p with merge := p.merge ++ [{ w with parts := un }] })
    if 4 ≤ (s2.sport m).merge.length then flushPort s2 m else s2

/-- A port whose own ME holds the map's object takes a token of a BFP group: a 64-byte access there (R147, R163, R295). -/
def groupAtBanks (s : State) (m : Nat) : Bool :=
  (s.sport m).bfp && (match portObj s m with
    | some r => r.kind == 0
    | none => false)

/-- A token of a BFP group is taken; the 33rd sends the group (R163, R295). -/
def acceptGroup (s : State) (m : Nat) (t : WToken) : State :=
  let p := s.sport m
  let all := p.merge ++ [t]
  if all.length < 33 then s.setSport m { p with merge := all }
  else
    match groupWrites s m (t.pos / 33) (all.map WToken.tok) with
    | .error h => portHalt (s.setSport m { p with merge := [] }) m true h
    | .ok ps =>
      let cut := ps.flatMap cutPart
      let mine := match all with
        | [] => []
        | x :: r => { x with parts := cut } :: r
      sendWrite (s.setSport m { p with merge := [], accepted := p.accepted ++ mine.map (fun x => { x with id := t.id }) })
        m t.id cut (all.any (fun x => x.tok.poison))

/-- What the 33rd token of a BFP group at the head of the stream input waits for: a walk, or an object-table entry (R288, R293, R294). -/
def groupWalk (s : State) (m : Nat) (t : WToken) : Option Halt :=
  let p := s.sport m
  if !p.bfp || p.merge.length != 32 then none
  else match groupWrites s m (p.pos / 33) ((p.merge ++ [t]).map WToken.tok) with
    | .error h => if h.waits s m then some h else none
    | .ok _ => none

/-- A token of a slot that writes an SO page waits for the slot's SO events before it: tokens that are accepted and not performed, and an
STRL that is held (R247); any token waits for an access of its slot to a byte that it writes (R245). -/
def writeWaits (s : State) (m : Nat) (t : WToken) (ps : List (Part × Nat)) : Bool :=
  let earlier (a : Access) : Bool := a.slot == t.slot && decide (a.seq < t.seq)
  (hasStrong ps && (s.sports.any (fun q => q.1 / 8 == m / 8 && (q.1 == m || q.2.ord == 0)
      && q.2.accepted.any (fun w => w.slot == t.slot && w.parts.any (fun x => decide (x.pa < 2 ^ 40))))
    || s.accs.any (fun a => earlier a.2 && a.2.held)))
  || s.accs.any (fun a => earlier a.2 && a.2.held && ps.any (fun p => decide (p.1.pa < a.2.addr + a.2.size) && decide (a.2.addr < p.1.pa + p.1.n)))

/-- The head of a port's stream input is acted on: accepted by the write walk, tried again, or discarded (R295). -/
def takeInput (s : State) (m : Nat) : State :=
  let p := s.sport m
  match p.input with
  | [] => s
  | t :: rest =>
    let again : State := s.planN (s.mcnt + 1) rkPort .meStreamInputToken m t.slot
    if p.state ≠ 1 ∨ !p.dir then
      wakeInput ((s.setSport m { p with input := rest }).trapAt t.slot 0x047 (walkDetail s m) (s.mcnt + 1)) m
    else if p.walking then again
    else
      let (id, s0) := s.fresh
      let w : WToken := { t with pos := p.pos, id := id }
      let step (a : State) : State := a.modSport m (fun q => { q with input := rest, pos := q.pos + 1
                                                                      toks := (q.toks + 1) % 2 ^ 24
                                                                      state := if q.pos + 1 = writeTotal q.mapw then 2 else q.state })
      if p.bfp then
        match groupWalk s m t with
        | some h => portHalt again m true h
        | none =>
          if groupAtBanks s m then
            if bankTaken s m ≠ 0 then again
            else wakeInput (acceptGroup (takeBanks (step s0) m 0xFFFF#16) m w) m
          else wakeInput (acceptGroup (step s0) m w) m
      else
        match writeParts s m p.pos t.tok with
        | .error h => if h.waits s m then portHalt again m true h else wakeInput (portHalt (step s0) m true h) m
        | .ok ps =>
          let own := 2 ^ 40 ≤ ((plainParts ps).headD ⟨0, 0, 0, 0⟩).pa
          if writeWaits s m t ps then again
          else if own ∧ !ps.any (fun p => p.2 == 2) then
            if bankTaken s m ≠ 0 then again
            else wakeInput (acceptPlain (takeBanks (step s0) m 0xFFFF#16) m w ps) m
          else wakeInput (acceptPlain (step s0) m w ps) m

/-- A pushed token arrives at a port's stream input: where no write walk takes it, it is discarded and its slot freezes at this
cycle (R295). -/
def arriveInput (s : State) (m : Nat) : State :=
  let p := s.sport m
  match p.input.find? (fun t => t.id == 0) with
  | none => s
  | some t =>
    let old := p.input.takeWhile (fun x => x.id != 0)
    let new := (p.input.dropWhile (fun x => x.id != 0)).tail
    if p.state ≠ 1 ∨ !p.dir then wakeInput ((s.setSport m { p with input := old ++ new }).trapAt t.slot 0x047 (walkDetail s m) s.mcnt) m
    else (s.setSport m { p with input := old ++ [{ t with id := 1 }] ++ new }).planN s.mcnt rkPort .meStreamInputToken m t.slot

/-- ME_STREAM_INPUT_TOKEN of port a: c = 1 a token arrives, c = 0 the oldest one is acted on. -/
def execMeStreamInputToken (s : State) : Host.Outcome State Fault Refusal :=
  .next (if s.arg.c = 1 then arriveInput s s.arg.a else takeInput s s.arg.a)

/-- WRITE_WALK_TOKEN_PERFORM: the writes of accepted tokens to the port's own ME are performed (R295). -/
def execWriteWalkTokenPerform (s : State) : Host.Outcome State Fault Refusal :=
  let (ps, poison) := writesOf s s.arg.a s.arg.b
  .next (writeDone (scatter s poison ps) s.arg.a s.arg.b ps)

/-- WRITE_PORT_UN_FLUSH: a port sends its merged tokens, or one of them takes the banks of the port's own ME (R249,
R295). -/
def execWritePortUnFlush (s : State) : Host.Outcome State Fault Refusal :=
  let m := s.arg.a
  .next (if s.arg.b = 0 then (if (s.sport m).bfp then s else flushPort s m)
    else if bankTaken s m ≠ 0 then s.planN (s.mcnt + 1) rkPort .writePortUnFlush m s.arg.b
    else (takeBanks s m 0xFFFF#16).planN (s.mcnt + 3) rkPerform .writeWalkTokenPerform m (s.arg.b - 1))

/-! ## Port instructions (R164, R165) -/

/-- The port that A names. -/
def portIx (o : Opnds) : Nat := 8 * o.tile + o.sa.toNat % 8

/-- R164. -/
def execTmsel (op : Op) (s : State) : Host.Outcome State Fault Refusal :=
  .next (actVE 0xA6 op (fun o s1 => Issued.only (s1.modSport (portIx o) (fun p => { p with sel := o.sb.toNat % 32 }))) s)

/-- The kind check of ARM (R164). -/
def armKind (s : State) (m : Nat) (r : ObjRec) : Bool :=
  let t := m / 8
  match r.kind with
  | 0 => (padHome r).2.1 == m % 8 && tileOfLogical s t (s.ctxOfTile t) (padHome r).1 == some t
  | 1 => true
  | 2 => s.levelOf t != .t
  | 3 => s.levelOf t != .t
  | _ => false

/-- Ends what a port's walk has under way: a read port discards, a write port sends what it has accepted and drops an
incomplete group (R164, R249). -/
def endWalk (s : State) (m : Nat) : State :=
  let p := s.sport m
  let (w, s1) := s.fresh
  let q := { p with walk := w, present := [], got := [], parts := [], asked := 0, left := 0, groups := [], reads := []
                    merge := if p.bfp then [] else p.merge, walking := false }
  let s2 := s1.setSport m q
  if q.merge.isEmpty then s2 else flushPort s2 m

/-- Starts a walk at position 0 (R164, R295). -/
def beginPort (s : State) (m : Nat) : State :=
  let p := s.sport m
  let own := match portObj s m with
    | some r => r.kind == 0
    | none => false
  let q := { p with state := 1, dir := mapWrite p.mapw, bfp := mapFmt p.mapw != 0, pos := 0, reqIx := 0
                    left := walkTokens p.mapw, lat := if own then 2 else 0, nextReq := s.mcnt, nextGrp := 0, gpos := 0
                    begin_ := p.walk, lastShown := 0, scaleShown := 0 }
  let s1 := s.setSport m q
  if q.dir then s1 else if q.bfp then loadGroup s1 m s.mcnt else kickRead s1 m 8

/-- R164: the checks of the bound map, then the walk. -/
def execSportArm (op : Op) (s : State) : Host.Outcome State Fault Refusal :=
  .next (actVE 0xA5 op (fun o s1 =>
    let m := portIx o
    let p := s1.sport m
    let ws := mget [] (s1.tile o.tile).tmaps p.sel
    let c := mapCap ws
    let ctx := s1.ctxOfTile o.tile
    if !hasRights c (rSP ||| (if mapWrite ws then rWR else rRD)) then Issued.ends s1 (.trap 0x040 (s.epcDetail o.slot))
    else
      match s1.objLook o.tile ctx (capObj c) with
      | .miss => Issued.ends s1 (if o.level = .t then .trap 0x08C (capObj c) else .fetch ctx (capObj c))
      | .absent => Issued.ends s1 (.trap 0x043 (capObj c))
      | .hit r =>
        if r.ver ≠ capVer c then Issued.ends s1 (.trap 0x043 (capObj c))
        else if !armKind s1 m r then Issued.ends s1 (.trap 0x044 (capObj c))
        else
          Issued.only (beginPort ((endWalk s1 m).modSport m (fun q =>
            { q with mapw := ws, map := p.sel, owner := o.slot, armed := o.seq, ord := r.ord, toks := 0 })) m)) s)

/-- R164. STATE reads 0 from the issue on; the tokens accepted before are performed in their turn (DESIGN CHOICE, log 207: the completion of
R256 has no other effect that the spec names). -/
def execSportStop (op : Op) (s : State) : Host.Outcome State Fault Refusal :=
  .next (actVE 0xA5 op (fun o s1 =>
    Issued.only ((endWalk s1 (portIx o)).modSport (portIx o) (fun p => { p with state := 0 }))) s)

/-- R164: a port that has never been armed has no walk to return. -/
def execSportRewind (op : Op) (s : State) : Host.Outcome State Fault Refusal :=
  .next (actVE 0xA5 op (fun o s1 =>
    let m := portIx o
    Issued.only (if (s1.sport m).state = 0 then s1
      else beginPort ((endWalk s1 m).modSport m (fun q => { q with armed := if q.owner = o.slot then o.seq else (s1.slot q.owner).seq })) m)) s)

/-- The status word of a port (R164). -/
def spstatWord (s : State) (m : Nat) : Word :=
  let p := s.sport m
  BitVec.ofNat 2 p.state ++ BitVec.ofBool (mapWrite (mget [] (s.tile (m / 8)).tmaps p.sel)) ++ BitVec.ofNat 5 p.sel
    ++ BitVec.ofNat 24 p.toks

/-- R164. -/
def execSpstat (op : Op) (s : State) : Host.Outcome State Fault Refusal :=
  .next (issueVE 0xA7 op (fun o s1 => Issued.value s1 2 (scalarOut o (spstatWord s1 (portIx o)))) s)

/-- R165: the target in A, the entry in lanes 0 to 3 of B; a port that is not idle traps. -/
def execSpwin (op : Op) (s : State) : Host.Outcome State Fault Refusal :=
  .next (actVE 0xAE op (fun o s1 =>
    let a := o.sa.toNat
    let t := tileAt (a / 2 ^ 14 % 4) (a / 64 % 16) (a / 1024 % 16)
    let m := 8 * t + a / 8 % 8
    if 2 ^ 16 ≤ a ∨ 11 < a / 64 % 16 ∨ 11 < a / 1024 % 16 then Issued.only s1
    else if (s1.sport m).state ≠ 0 then Issued.ends s1 (.trap 0x003 (a % 2 ^ 16))
    else Issued.only (s1.modSport m (fun p =>
      { p with win := mset p.win (a % 8) ((List.range 4).map (fun i => lane o.b i &&& windowMask i)) }))) s)

end Sys2Proof.Machine
end

