-- ==== Sys2Proof/Machine/Copy.lean ====
section
/-! DEFINITION. The block-transfer engine (R213 to R223, R255): templates, starts, the checks at begin, token reads and
writes, the posts of program runs for DRAM-side copies, completion and early ends. -/

namespace Sys2Proof.Machine

/-! ## Templates (R213) -/

def tmField (ws : List Word) (w hi lo : Nat) : Nat := bitsOf (ws.getD w 0).toNat hi lo
def tmScap (ws : List Word) : BitVec 128 := capAt ws 0
def tmDcap (ws : List Word) : BitVec 128 := capAt ws 4
def tmLen (ws : List Word) : Nat := (ws.getD 10 0).toNat
def tmCtr (ws : List Word) : Option Nat := if (ws.getD 11 0).getLsbD 27 then some (tmField ws 11 31 28) else none
def tmEvr (ws : List Word) : Bool := (ws.getD 11 0).getLsbD 26
def tmBar (ws : List Word) : Option Nat := if (ws.getD 11 0).getLsbD 25 then some (tmField ws 11 24 20) else none
def tmStart (ws : List Word) : Nat := tmField ws 11 19 0
def tmProg (ws : List Word) : Nat := tmField ws 12 31 24
def tmSlot (ws : List Word) : Nat := tmField ws 12 22 16
def tmRep (ws : List Word) : Nat := tmField ws 12 15 0 + 1
def tmRowinc (ws : List Word) : Nat := tmField ws 13 31 16
def tmColinc (ws : List Word) : Nat := tmField ws 13 15 0
def tmCtl (ws : List Word) : Option (BitVec 10) := if (ws.getD 14 0).getLsbD 31 then some ((ws.getD 14 0).setWidth 10) else none

/-- Capability and byte offset of the source (true) or destination. -/
def tmSide (ws : List Word) (src : Bool) : BitVec 128 × Nat :=
  if src then (tmScap ws, (ws.getD 8 0).toNat) else (tmDcap ws, (ws.getD 9 0).toNat)

/-- Tokens of a copy. -/
def tmTokens (ws : List Word) : Nat := tmLen ws / 64

/-! ## Teller programs (R200, R203) -/

/-- Owner kind and context of a slot of a wheel. -/
def slotOwner (x : Tel) (n : Nat) : Nat × Nat :=
  let w := (mget 0#32 x.owner (n % 64)).toNat
  (bitsOf w 15 14, if bitsOf w 15 14 = 1 then bitsOf w 13 11 else 0)

/-- Slots from one on that have its owner, at most `n` more. -/
def ownedFrom (x : Tel) (k : Nat) : Nat → Nat
  | 0 => 1
  | n + 1 => if slotOwner x (k + 1) = slotOwner x k then 1 + ownedFrom x (k + 1) n else 1

/-- A run starts at a slot: the slot is owned and the one before has another owner, or there is no other (R199). -/
def startsRun (x : Tel) (k : Nat) : Bool :=
  (slotOwner x k).1 != 0 && (slotOwner x (k + 63) != slotOwner x k || (k == 0 && ownedFrom x 0 63 == 64))

/-- Slots of the run that starts at a slot. -/
def runLength (x : Tel) (k : Nat) : Nat := ownedFrom x k 63

/-- Fields of a program-table entry. -/
def progBase (w : Word) : Nat := bitsOf w.toNat 31 20
def progCmds (w : Word) : Nat := bitsOf w.toNat 19 12
def progNs (w : Word) : Nat := bitsOf w.toNat 11 9 + 1
def progValid (w : Word) : Bool := w.getLsbD 8
def progCtx (w : Word) : Nat := bitsOf w.toNat 7 5

/-- Opcodes of a program up to its CEND. -/
def progOps (x : Tel) (p : Nat) : List Nat :=
  let w := mget 0#32 x.progs p
  ((List.range (progCmds w)).map (fun i => (mget 0#32 x.store (progBase w + i)).toNat / 2 ^ 27)).takeWhile (fun k => k != 0)

/-- Bursts of a program, and whether they are reads or writes. -/
def progBursts (x : Tel) (p : Nat) : Nat := ((progOps x p).filter (fun k => decide (2 ≤ k) && decide (k ≤ 5))).length
def progReads (x : Tel) (p : Nat) : Bool := (progOps x p).all (fun k => k != 4 && k != 5)
def progWrites (x : Tel) (p : Nat) : Bool := (progOps x p).all (fun k => k != 2 && k != 3)

/-! ## The two ends of a copy (R281, R290) -/

/-- Where a token lies. -/
inductive Site where
  | me (tile me addr : Nat)
  | vault (pa : Nat)
  | dram (pa : Nat)
deriving DecidableEq, Repr

def State.copyOf (s : State) (id : Nat) : Option Copy := mfind s.copies id
def State.setCopy (s : State) (id : Nat) (c : Copy) : State := { s with copies := mset s.copies id c }
def State.modCopy (s : State) (id : Nat) (f : Copy → Copy) : State :=
  match mfind s.copies id with
  | some c => s.setCopy id (f c)
  | none => s

/-- The object of one end at its capability's version. -/
def copyObj (s : State) (c : Copy) (src : Bool) : Option ObjRec :=
  let cap := (tmSide c.ws src).1
  match s.objRead c.tile (s.ctxOfTile c.tile) (capObj cap) with
  | some r => if r.ver = capVer cap then some r else none
  | none => none

/-- An object of the copy whose entry the tile's cache does not hold (R288). -/
def copyMiss (s : State) (c : Copy) : Option Nat :=
  [capObj (tmSide c.ws true).1, capObj (tmSide c.ws false).1].find? (fun o => s.objLook c.tile (s.ctxOfTile c.tile) o == .miss)

/-- Fetches what the tile's cache misses of a copy. -/
def copyFetch (s : State) (c : Copy) (o : Nat) : State := s.fetchObject c.tile (s.ctxOfTile c.tile) o

/-- The object offset at which one end begins. -/
def copyOff (c : Copy) (src : Bool) (r : ObjRec) : Nat := capLo (tmSide c.ws src).1 + (tmSide c.ws src).2 - r.vbase

/-- The place of byte `b` of a copy at one end, or the cause that stops it there (R223, R284). -/
def siteOf (s : State) (c : Copy) (src : Bool) (b : Nat) : Except Nat Site :=
  let ctx := s.ctxOfTile c.tile
  match copyObj s c src with
  | none => .error 0x043
  | some r =>
    match placeOf s c.tile ctx (capObj (tmSide c.ws src).1) (s.slot c.slot).entry r (copyOff c src r + b) with
    | .pad t me off =>
      if r.ord = 3 then .error 0x048 else if !meHas s t me (off + 64) then .error 0x043 else .ok (.me t me (padAddr (8 * t + me) off))
    | .phys pa => if r.ord = 3 ∨ !paAllowed s ctx pa then .error 0x048 else if isDram pa then .ok (.dram pa) else .ok (.vault pa)
    | _ => .error 0x048

/-- One end of a copy lies in DRAM. -/
def dramSide (c : Copy) (src : Bool) : Bool := if src then c.sdram else c.ddram

/-- A copy with what its objects are now: which ends lie in DRAM, the sub-channel, and the holder of a destination in scratchpad. They
stay so from its begin on, whatever becomes of the objects (R220, R223). -/
def withEnds (s : State) (c : Copy) : Copy :=
  let src := copyObj s c true
  let dst := copyObj s c false
  let inDram (r : Option ObjRec) : Bool := (r.map (fun x => x.kind == 4)).getD false
  { c with sdram := inDram src, ddram := inDram dst
           tl := ((if inDram src then src else dst).map (fun r => (r.loc.extractLsb' 0 6).toNat)).getD 0
           holder := (dst.filter (fun r => r.kind == 0)).map (fun r => (padHome r).1) }

/-! ## The checks at begin (R214) -/

/-- One end's object is of a kind that a copy reaches (R281). -/
def kindOk (r : ObjRec) : Bool := r.kind == 0 || r.kind == 1 || r.kind == 4

/-- Check 5: the DRAM side's program and run. -/
def programOk (s : State) (c : Copy) (read : Bool) : Bool :=
  let x := s.tel (c.tl)
  let p := tmProg c.ws
  let w := mget 0#32 x.progs p
  progValid w && progCtx w == s.ctxOfTile c.tile && (if read then progReads x p else progWrites x p)
    && tmRep c.ws * progBursts x p * 32 == tmLen c.ws
    && !x.upkeep.contains p
    && ((tmSlot c.ws == 0x7F && s.levelOf c.tile != .t
        && (List.range 64).any (fun k => startsRun x k && slotOwner x k == (1, s.ctxOfTile c.tile) && runLength x k == progNs w)) || (decide (tmSlot c.ws < 64) && startsRun x (tmSlot c.ws) && runLength x (tmSlot c.ws) == progNs w
      && slotOwner x (tmSlot c.ws) == (1, s.ctxOfTile c.tile)))

/-- The first check of R214 that fails: its cause and DETAIL; none where R321 leaves DETAIL open. -/
def copyChecks (s : State) (c : Copy) : Option (Nat × Option Nat) :=
  let (sc, so) := tmSide c.ws true
  let (dc, d) := tmSide c.ws false
  let n := tmLen c.ws
  if !hasRights sc (rRD ||| rCP) || !hasRights dc (rWR ||| rCP) then some (0x040, some c.tmpl)
  else if capHi sc < capLo sc + so + n ∨ capHi dc < capLo dc + d + n then some (0x042, some c.tmpl)
  else
    match copyObj s c true, copyObj s c false with
    | none, _ => some (0x043, some (capObj sc))
    | _, none => some (0x043, some (capObj dc))
    | some r, some q =>
      if n = 0 ∨ n % 64 ≠ 0 ∨ (r.kind = 4 ∧ q.kind = 4) then some (0x002, none)
      else if !kindOk r || !kindOk q || (r.kind == 4 && !programOk s c true) || (q.kind == 4 && !programOk s c false) then
        some (0x002, none)
      else if capObj sc = capObj dc ∧ capLo sc + so < capLo dc + d + n ∧ capLo dc + d < capLo sc + so + n then some (0x002, none)
      else none

/-! ## Ending (R220, R222, R223) -/

/-- Bytes written so far. -/
def bytesDone (c : Copy) : Nat := if dramSide c false then 32 * c.done else 64 * c.done

/-- A run of the copy has begun at its Teller and has not ended. -/
def runOpen (s : State) (id : Nat) (c : Copy) : Bool :=
  (s.tel (c.tl)).runs.any (fun r => r.kind == 1 && r.copy == id && decide (r.start ≤ s.mcnt * s.nck / 2900))

/-- Every token that is to be written has been performed. -/
def copyDone (s : State) (id : Nat) (c : Copy) : Bool :=
  if dramSide c false then (if c.stop.isSome then c.done == c.acc && !runOpen s id c else c.done == tmLen c.ws / 32)
  else decide (c.lim ≤ c.done)

/-- The home of the logical tile whose counter a copy credits: CTL, else the holder of a destination in scratchpad, else the tile that
started it (R220). -/
def creditHome (s : State) (c : Copy) : Nat :=
  let ctx := s.ctxOfTile c.tile
  let own := homeOf c.tile c.lt
  match tmCtl c.ws with
  | some l => (homeOfLogical s c.tile ctx l).getD own
  | none => (c.holder.bind (homeOfLogical s c.tile ctx)).getD own

/-- The completion of this copy, or of one with a later place. -/
def isCompletion (id : Nat) : Act → Bool
  | .ev .copyComplete a => a.a == id
  | _ => false
def laterCompletion (k : Nat) : Act → Bool
  | .ev .copyComplete a => decide (k < a.b)
  | _ => false

/-- Plans the completion of a copy that has nothing left to do. Copies that complete in one cycle do so by channel, and one whose credit
goes to another tile after those of that tile (R168, R171). -/
def checkCopy (s : State) (id : Nat) : State :=
  match s.copyOf id with
  | some c =>
    if c.running && copyDone s id c && !s.agenda.any (fun it => isCompletion id it.act) then
      let k := 16 * c.tile + c.chan
      let it : Item := { time := 16 * s.mcnt + (if creditHome s c / 1024 = c.tile then rkComplete else rkArrive)
                         act := .ev .copyComplete (Arg.of id k 0 0 0) }
      { s with agenda := insertBefore (laterCompletion k) it s.agenda }
    else s
  | none => s

/-- The tokens that are still written where a copy stops at the next token boundary (R223). -/
def stopAt (c : Copy) : Nat := min c.lim (if dramSide c false then (c.acc + 1) / 2 else c.wr)

/-- A channel freezes: the running copy takes no further token and ends early (R223, R324). -/
def freezeChan (s : State) (t ch cause : Nat) : State :=
  let s1 := s.modChan t ch (fun x => if x.frozen then x else { x with
    frozen := true, cause := cause
    blame := ((s.copies.filter (fun c => c.2.tile == t && c.2.chan == ch)).map (fun c => c.2.slot)).eraseDups })
  match (s.chan t ch).run with
  | some id =>
    checkCopy (s1.modCopy id (fun c => if c.stop.isSome then c else { c with stop := some (0x06, cause), lim := stopAt c })) id
  | none => s1

/-- A cause that a copy meets at its channel, charged to the copy's launch whether or not the copy still runs (R327). -/
def copyFault (s : State) (c : Copy) (cause detail : Nat) : State :=
  freezeChan (s.raiseFor (dieOfTile c.tile) cause (.channel c.tile c.chan) s.mcnt detail (launchesOn s [c.slot])) c.tile c.chan cause

/-- A copy ends early with its own status, and its channel freezes (R223); `lim` tokens are still to be written. -/
def stopCopy (s : State) (id status cause detail lim : Nat) : State :=
  match s.copyOf id with
  | none => s
  | some c =>
    if c.stop.isSome then s.raiseFor (dieOfTile c.tile) cause (.channel c.tile c.chan) s.mcnt detail (launchesOn s [c.slot])
    else checkCopy (copyFault (s.setCopy id { c with stop := some (status, cause), lim := min c.lim lim }) c cause detail) id

/-- The completion record (R222). -/
def copyRecord (s : State) (c : Copy) : BitVec 128 :=
  let (st, cause) := c.stop.getD (0, 0)
  recordOf (BitVec.ofNat 32 (bytesDone c))
    (c.lt ++ BitVec.ofNat 6 c.tmpl ++ BitVec.ofNat 4 c.chan ++ BitVec.ofNat 12 c.seq)
    (BitVec.ofNat 32 s.mcnt) (BitVec.ofNat 32 (0x01 * 2 ^ 24 + st * 2 ^ 16 + cause))

/-- The copies of a channel that have not begun, in order of begin cycle and then acceptance (R218). -/
def chanQueue (s : State) (t ch : Nat) : List (Nat × Copy) :=
  s.copies.filter (fun p => p.2.tile == t && p.2.chan == ch && !p.2.running)

def firstCopy (l : List (Nat × Copy)) : Option (Nat × Copy) :=
  l.foldl (fun (b : Option (Nat × Copy)) p => match b with
    | none => some p
    | some q => if p.2.begin_ < q.2.begin_ ∨ (p.2.begin_ = q.2.begin_ ∧ p.2.order < q.2.order) then some p else some q) none

/-- Plans the begin of a channel's next copy. -/
def kickChan (s : State) (t ch c : Nat) : State :=
  match firstCopy (chanQueue s t ch) with
  | some (id, x) => planOnce s (max c x.begin_) rkEngine .copyBegin id 0 0
  | none => s

/-- Copies that a tile's BTE holds (R217). -/
def copiesOn (s : State) (t : Nat) : Nat := (s.copies.filter (fun p => p.2.tile == t)).length

/-- A copy leaves the BTE: an aperture start that waits is accepted, and the channel goes on (R216, R218). -/
def dropCopy (s : State) (id : Nat) (c : Copy) : State :=
  let s1 := { s with copies := mdel s.copies id }.modChan c.tile c.chan (fun x => if x.run = some id then { x with run := none } else x)
  let s2 := s1.endCommand id c.slot
  let s3 := if (s2.bte c.tile).waiting.isEmpty then s2 else planOnce s2 (s.mcnt + 1) rkBte .bteDeferredAccept c.tile 0 0
  if (s3.chan c.tile c.chan).frozen then s3 else kickChan s3 c.tile c.chan (s.mcnt + 1)

/-- Gives back places of a copy in its Teller's buffer (R219). -/
def giveBack (s : State) (c : Copy) (n : Nat) : State :=
  s.modTel (c.tl) (fun x => if dramSide c true then { x with rbuf := x.rbuf - n } else { x with wbuf := x.wbuf - n })

/-- What completion does, in order: the credit, the barrier, the record (R220). -/
def finishCopy (s : State) (id : Nat) (c : Copy) : State :=
  let (s1, tooMany) := match tmCtr c.ws with
    | some k => s.creditLogical (creditHome s c) k (bytesDone c)
    | none => (s, false)
  let s2 := match tmBar c.ws with
    | some b => s1.modLogical (homeOf c.tile c.lt) (fun x => x.arrive s.mcnt b)
    | none => s1
  let s3 := if tmEvr c.ws || c.stop.isSome then s2.postLogical (homeOf c.tile c.lt) 2 (copyRecord s c) else s2
  let s4 := dropCopy (if c.resv = 0 then s3 else giveBack s3 c c.resv) id c
  if tooMany then copyFault s4 c 0x08B ((tmCtr c.ws).getD 0) else s4

/-- COPY_COMPLETE. -/
def execCopyComplete (s : State) : Host.Outcome State Fault Refusal :=
  .next (match s.copyOf s.arg.a with
    | some c => finishCopy s s.arg.a c
    | none => s)

/-- Discards the copies of a channel that have not begun, in order: each takes the channel's next number and posts STATUS 0x06 with no
bytes (R222, R223, R324). -/
def discardWaiting (s : State) (t ch : Nat) : Nat → State
  | 0 => s
  | n + 1 =>
    match firstCopy (chanQueue s t ch) with
    | none => s
    | some (id, c) =>
      let x := s.chan t ch
      discardWaiting (finishCopy (s.modChan t ch (fun y => { y with seq := (x.seq + 1) % 4096 })) id
        { c with seq := x.seq, stop := some (0x06, x.cause), done := 0 }) t ch n

/-- The walker or a task end releases a channel (R324). -/
def releaseChan (s : State) (t ch : Nat) : State :=
  (discardWaiting s t ch (chanQueue s t ch).length).modChan t ch (fun x => { x with frozen := false, cause := 0, blame := [] })

/-- The copies of a slot's block that have not begun, and the aperture starts of it that wait, leave the BTE and nothing is posted
(R108, R223). -/
def abandonCopies (s : State) (n : Nat) : State :=
  let s1 := (s.copies.filter (fun p => !p.2.running && sameBlock s p.2.slot n)).foldl (fun a p => dropCopy a p.1 p.2) s
  { s1 with btes := s1.btes.map (fun p => (p.1, { p.2 with waiting := p.2.waiting.filter (fun w => !sameBlock s w.2.2.1 n) })) }

/-- The aperture starts of a slot's block that wait. -/
def waitingStarts (s : State) (n : Nat) : Nat :=
  s.btes.foldl (fun k p => k + (p.2.waiting.filter (fun w => sameBlock s w.2.2.1 n)).length) 0

/-! ## Program runs (R219) -/

/-- Bursts of one repeat. -/
def burstsPer (s : State) (c : Copy) : Nat := progBursts (s.tel (c.tl)) (tmProg c.ws)

/-- The tokens that a repeat touches. -/
def repTokens (s : State) (c : Copy) (r : Nat) : List Nat :=
  let n := burstsPer s c
  (List.range (((r + 1) * n + 1) / 2 - r * n / 2)).map (fun i => r * n / 2 + i)

/-- The tokens whose first burst lies in a repeat: each takes one place in the read buffer. -/
def newTokens (s : State) (c : Copy) (r : Nat) : Nat :=
  let n := burstsPer s c
  ((r + 1) * n + 1) / 2 - (r * n + 1) / 2

/-- The next repeat may be posted: at level T at once; otherwise a write once its data is held, a read once the read
buffer of 8 KiB has room. -/
def mayPost (s : State) (c : Copy) : Bool :=
  let x := s.tel (c.tl)
  if s.levelOf c.tile = .t then true
  else if dramSide c true then decide (x.rbuf + newTokens s c c.posted ≤ 128)
  else (repTokens s c c.posted).all (fun k => (mfind c.at_ k).isSome)

/-- Posts the repeats that may be posted. -/
def postRuns (s : State) (id : Nat) : Nat → State
  | 0 => s
  | n + 1 =>
    match s.copyOf id with
    | none => s
    | some c =>
      if !c.running || c.stop.isSome || decide (tmRep c.ws ≤ c.posted) || !mayPost s c then s
      else
        let tl := c.tl
        let ctx := s.ctxOfTile c.tile
        let (lead, hops) := pathOf (dieOfTile c.tile) (some c.tile) portDie none
        let k := if dramSide c true then newTokens s c c.posted else 0
        let s1 := (s.setCopy id { c with posted := c.posted + 1, resv := c.resv + k }).modTel tl (fun x => { x with rbuf := x.rbuf + k })
        postRuns (s1.send { kind := if ctx < 8 then 2 else 3, ctx := ctx, circ := 0, hops := hops, tok := poisonedToken
                            rank := rkStart, extra := 16, retried := false
                            act := .ev .tellerRunPost (Arg.of tl id c.posted 0 0) } lead) id n

/-- A run of a copy has ended at its Teller; `status` 0x04 or 0x05 ends the copy early (R207, R208, R223). -/
def copyRunEnd (s : State) (id status : Nat) : State :=
  match s.copyOf id with
  | none => s
  | some c =>
    let s1 := if c.stop.isNone && status != 0 then s.setCopy id { c with stop := some (status, 0x086), lim := stopAt c } else s
    checkCopy (postRuns s1 id (tmRep c.ws)) id

/-! ## Tokens (R147, R218, R221, R242) -/

/-- Sends something between a tile and another die or tile for a copy, on its context's transfer pairs; from a Teller it takes 16 cycles
to the link edge (R342). -/
def copySend (s : State) (c : Copy) (d1 : Nat) (t1 : Option Nat) (d2 : Nat) (t2 : Option Nat) (rank extra : Nat) (i : Instr)
    (a : Arg) : State :=
  let (lead, hops) := pathOf d1 t1 d2 t2
  let ctx := s.ctxOfTile c.tile
  s.send { kind := if ctx < 8 then 2 else 3, ctx := ctx, circ := 0, hops := hops, tok := a.tok, rank := rank, extra := extra
           retried := false, act := .ev i a } (lead + (if d1 = portDie then 16 else 0))

/-- The BTE of a tile looks for a token read, or a token write, of a copy in a cycle. -/
def kickCopyRead (s : State) (id c : Nat) : State := planOnce s c rkBte .copyTokenRead id 0 0
def kickCopyWrite (s : State) (id c : Nat) : State := planOnce s c rkBte .copyTokenWrite id 0 0

/-- The copy's object of a side is strongly ordered and its times are not fixed at load: each event there is performed before the next
begins (R247). -/
def strongSide (s : State) (c : Copy) (src : Bool) : Bool :=
  s.levelOf c.tile != .t && (match copyObj s c src with
    | some r => r.ord == 0
    | none => false)

/-- The copy has a token read to begin. -/
def wantsRead (c : Copy) : Bool :=
  c.running && decide (c.read < c.lim) && !dramSide c true

/-- The copy has a token write to begin; a token for the Teller needs room in its write buffer (R219). -/
def wantsWrite (s : State) (c : Copy) : Bool :=
  c.running && decide (c.wr < c.lim) && (mfind c.held c.wr).isSome
    && !(dramSide c false && s.levelOf c.tile != .t && decide (128 ≤ (s.tel (c.tl)).wbuf))

/-- A lower channel of the tile has a token ready. -/
def lowerWants (s : State) (c : Copy) (w : Copy → Bool) : Bool :=
  s.copies.any (fun p => p.2.tile == c.tile && decide (p.2.chan < c.chan) && w p.2)

/-- A source token has come to the BTE (R218, R223). -/
def copyReturn (s : State) (id k : Nat) (tok : Token) : State :=
  match s.copyOf id with
  | none => s
  | some c =>
    if c.lim ≤ k then s
    else if tok.poison then stopCopy s id 0x01 0x0C1 c.seq k
    else kickCopyWrite (s.setCopy id { c with held := mset c.held k tok }) id (s.mcnt + 1)

/-- A request to the Vault for token k. -/
def copyReq (s : State) (id : Nat) (c : Copy) (k pa : Nat) (die : Nat) (tile : Option Nat) (w : Option Token) : State :=
  sendReq s { who := .copy id k, ctx := s.ctxOfTile c.tile, die := die, tile := tile, lt := c.lt, key := reqKey s c.tile 9, write := w.isSome
              parts := [⟨pa, 64, 0, (w.map (fun t => t.data.toNat)).getD 0⟩], valid := 0xFFFF#16
              poison := (w.map Token.poison).getD false, tag := k }

/-- The BTE begins the next token read of a copy, at most one per cycle, lowest channel first (R218). -/
def beginRead (s : State) (id : Nat) (c : Copy) : State :=
  let t := c.tile
  let again : State := kickCopyRead s id (s.mcnt + 1)
  if !wantsRead c then s
  else if strongSide s c true ∧ c.read ≠ c.wr + c.held.length then again
  else if s.levelOf t ≠ .t ∧ (copyMiss s c).isSome then copyFetch again c ((copyMiss s c).getD 0)
  else if s.mcnt < (s.bte t).rdAt ∨ lowerWants s c wantsRead ∨ s.recordHeld t 2 then again
  else
    match siteOf s c true (64 * c.read) with
    | .error x => stopCopy s id 0x03 x c.seq c.read
    | .ok (.me u m _) =>
      let me := 8 * u + m
      let k := c.read
      let s1 (a : State) : State :=
        kickCopyRead ((a.setCopy id { c with read := k + 1 }).modBte t (fun b => { b with rdAt := s.mcnt + 1 })) id (s.mcnt + 1)
      if u = t then
        if bankTaken s me ≠ 0 then again
        else (s1 (takeBanks s me 0xFFFF#16)).planEv (s.mcnt + 3) rkComplete .copyTokenRead (Arg.of id 2 k 0 0)
      else copySend (s1 s) c (dieOfTile t) (some t) (dieOfTile u) (some u) rkBte 3 .copyTokenRead (Arg.of id 1 k 0 0)
    | .ok (.vault pa) =>
      copyReq (kickCopyRead ((s.setCopy id { c with read := c.read + 1 }).modBte t (fun b => { b with rdAt := s.mcnt + 1 })) id (s.mcnt + 1))
        id c c.read pa (dieOfTile t) (some t) none
    | .ok (.dram _) => s

/-- A read request is at its ME, or its bank has been read. -/
def meRead (s : State) (id : Nat) (c : Copy) (step k : Nat) : State :=
  match siteOf s c true (64 * k) with
  | .ok (.me u m a) =>
    let me := 8 * u + m
    if step = 1 then
      if bankTaken s me ≠ 0 then s.planEv (s.mcnt + 1) rkBte .copyTokenRead (Arg.of id 1 k 0 0)
      else (takeBanks s me 0xFFFF#16).planEv (s.mcnt + 3) rkComplete .copyTokenRead (Arg.of id 2 k 0 0)
    else if u = c.tile then copyReturn s id k (s.tokAt a)
    else
      copySend s c (dieOfTile u) (some u) (dieOfTile c.tile) (some c.tile) rkArrive 2 .copyTokenRead
        { Arg.of id 3 k 0 0 with tok := s.tokAt a }
  | .error x => stopCopy s id 0x03 x c.seq k
  | _ => s

/-- COPY_TOKEN_READ: `b` 0 a token read begins, 1 its request is at an ME of another tile, 2 the bank of the ME has been
read, 3 the token has come back; `c` is the token. -/
def execCopyTokenRead (s : State) : Host.Outcome State Fault Refusal :=
  let id := s.arg.a
  .next (match s.copyOf id with
    | none => s
    | some c =>
      match s.arg.b with
      | 0 => beginRead s id c
      | 3 => copyReturn s id s.arg.c s.arg.tok
      | n => meRead s id c n s.arg.c)

/-- A token write begins at the BTE, or leaves the Teller that read it: it goes to its destination. -/
def sendToken (s : State) (id : Nat) (c : Copy) (k : Nat) (tok : Token) (die : Nat) (tile : Option Nat) : State :=
  match siteOf s c false (64 * k) with
  | .error x => stopCopy s id 0x03 x c.seq k
  | .ok (.me u _ _) =>
    let s1 := s.setCopy id { c with wr := k + 1, held := mdel c.held k }
    if tile = some u then s1.planEv s.mcnt rkBte .copyTokenWrite { Arg.of id 1 k 0 0 with tok := tok }
    else copySend s1 c die tile (dieOfTile u) (some u) rkBte 3 .copyTokenWrite { Arg.of id 1 k 0 0 with tok := tok }
  | .ok (.vault pa) => copyReq (s.setCopy id { c with wr := k + 1, held := mdel c.held k }) id c k pa die tile (some tok)
  | .ok (.dram _) =>
    let tl := c.tl
    copySend ((s.setCopy id { c with wr := k + 1, held := mdel c.held k, resv := c.resv + 1 }).modTel tl (fun x => { x with wbuf := x.wbuf + 1 })) c die tile
      portDie none rkArrive 16 .copyTokenWrite { Arg.of id 4 k 0 0 with tok := tok }

/-- A token that a Teller has read leaves it, in order where the destination is strongly ordered (R219, R247). -/
def leaveTeller (s : State) (id : Nat) (c : Copy) (k : Nat) (tok : Token) : State :=
  if c.lim ≤ k then s
  else if strongSide s c false ∧ c.done ≠ k then s.planEv (s.mcnt + 1) rkBte .copyTokenWrite { Arg.of id 5 k 0 0 with tok := tok }
  else sendToken s id c k tok portDie none

/-- The BTE begins the next token write of a copy, at most one per cycle, lowest channel first, in byte order (R218,
R221). -/
def beginWrite (s : State) (id : Nat) (c : Copy) : State :=
  let again : State := kickCopyWrite s id (s.mcnt + 1)
  if !wantsWrite s c then (if (mfind c.held c.wr).isSome && decide (c.wr < c.lim) then again else s)
  else if strongSide s c false ∧ !dramSide c false ∧ c.done ≠ c.wr then again
  else if s.levelOf c.tile ≠ .t ∧ (copyMiss s c).isSome then copyFetch again c ((copyMiss s c).getD 0)
  else if s.mcnt < (s.bte c.tile).wrAt ∨ lowerWants s c (wantsWrite s) ∨ s.recordHeld c.tile 2 then again
  else
    match mfind c.held c.wr with
    | none => s
    | some tok =>
      kickCopyWrite (sendToken (s.modBte c.tile (fun b => { b with wrAt := s.mcnt + 1 })) id c c.wr tok (dieOfTile c.tile) (some c.tile))
        id (s.mcnt + 1)

/-- A token at its ME's port 5 is accepted in byte order where its banks are free (R147, R221). -/
def meAccept (s : State) (id : Nat) (c : Copy) (k : Nat) (tok : Token) : State :=
  match siteOf s c false (64 * k) with
  | .ok (.me u m _) =>
    let me := 8 * u + m
    let a : Arg := { Arg.of id 1 k 0 0 with tok := tok }
    if c.acc ≠ k ∨ bankTaken s me ≠ 0 then s.planEv (s.mcnt + 1) rkBte .copyTokenWrite a
    else ((takeBanks s me 0xFFFF#16).setCopy id { c with acc := k + 1 }).planEv (s.mcnt + 3) rkPerform .copyTokenWrite { a with b := 2 }
  | .error x => stopCopy s id 0x03 x c.seq k
  | _ => s

/-- A token write has been performed. -/
def copyWrote (s : State) (id : Nat) : State := checkCopy (s.modCopy id (fun c => { c with done := c.done + 1 })) id

/-- COPY_TOKEN_WRITE: `b` 0 a token write begins, 1 it is at its ME, 2 it is performed there, 3 a write burst is performed
in DRAM (`c` its address, `v` its data), 4 the token is held at its Teller, 5 it is to leave the Teller that read it; `c` is the token. -/
def execCopyTokenWrite (s : State) : Host.Outcome State Fault Refusal :=
  let id := s.arg.a
  let k := s.arg.c
  .next (match s.copyOf id with
    | none => s
    | some c =>
      match s.arg.b with
      | 0 => beginWrite s id c
      | 1 => meAccept s id c k s.arg.tok
      | 2 =>
        match siteOf s c false (64 * k) with
        | .ok (.me _ _ a) => copyWrote (s.writeTok a s.arg.tok) id
        | .error x => stopCopy s id 0x03 x c.seq k
        | _ => s
      | 3 => copyWrote (s.write k (s.arg.v.toNat % 2 ^ 256) 32) id
      | 5 => leaveTeller s id c k s.arg.tok
      | _ => postRuns (s.setCopy id { c with at_ := mset c.at_ k s.arg.tok }) id (tmRep c.ws))

/-! ## Bursts at the Teller (R219) -/

/-- The 32 bytes of write burst g of a copy, where the Teller holds them. -/
def burstData (c : Copy) (g : Nat) : Option Nat :=
  (mfind c.at_ (g / 2)).map (fun t => t.data.toNat / 2 ^ (256 * (g % 2)) % 2 ^ 256)

/-- A write burst has been issued, `n` 0 where its data was discarded; after the second half of a token its place in the write buffer is
free. -/
def burstIssued (s : State) (id g n : Nat) : State :=
  match s.copyOf id with
  | none => s
  | some c =>
    let gone := g % 2 == 1 && (mfind c.at_ (g / 2)).isSome
    let s1 := s.setCopy id { c with acc := c.acc + n, at_ := if gone then mdel c.at_ (g / 2) else c.at_
                                    resv := if gone then c.resv - 1 else c.resv }
    if gone then giveBack s1 c 1 else s1

/-- The data of a burst is discarded: the copy has stopped before its token (R223). -/
def burstVoid (c : Copy) (g : Nat) : Bool := c.stop.isSome && decide (c.lim ≤ g / 2)

/-- Read burst g has reached the Teller: the second of a token sends it to its destination; poison stops the copy there
(R219, R223). -/
def burstRead (s : State) (id g : Nat) (data : Nat) (poison : Bool) : State :=
  match s.copyOf id with
  | none => s
  | some c =>
    let k := g / 2
    let h := mget (⟨0, 0xFFFF#16, false⟩ : Token) c.half k
    let tok : Token := { data := h.data ||| BitVec.ofNat 512 (data * 2 ^ (256 * (g % 2))), valid := 0xFFFF#16, poison := h.poison || poison }
    if g % 2 = 0 then s.setCopy id { c with half := mset c.half k tok }
    else
      let c1 := { c with half := mdel c.half k, resv := c.resv - 1 }
      let s1 := giveBack (s.setCopy id c1) c 1
      let s2 :=
        if c.lim ≤ k then s1
        else if tok.poison then stopCopy s1 id 0x01 0x0C1 c.seq k
        else leaveTeller s1 id c1 k tok
      postRuns s2 id (tmRep c.ws)

/-! ## Begin (R214, R217, R255) -/

/-- The copy begins: the checks of R214, then its reads or its runs. -/
def beginCopy (s : State) (id : Nat) (c : Copy) : State :=
  let t := c.tile
  let n := (s.chan t c.chan).seq
  let c0 := withEnds s c
  let m : Command := { slot := c.slot, offset := false, engine := 2, channel := c.chan, begun := true }
  let c1 := { c0 with running := true, seq := n }
  let s1 := ({ s with cmds := mset s.cmds id m }.setCopy id c1).modChan t c.chan (fun x => { x with seq := (n + 1) % 4096, run := some id })
  let s2 := s1.drainBlock c.slot
  match copyChecks s c0 with
  | some (x, d) =>
    let (w, s3) := match d with
      | some v => (v, s2)
      | none => let (w, a) := s2.drawWord; (w.toNat, a)
    stopCopy (s3.setCopy id { c1 with lim := 0 }) id 0x02 x w 0
  | none =>
    if dramSide c0 true then postRuns s2 id (tmRep c.ws)
    else
      let s3 := kickCopyRead s2 id s.mcnt
      if dramSide c0 false ∧ s.levelOf t = .t then postRuns s3 id (tmRep c.ws) else s3

/-- COPY_BEGIN: the first copy of its channel begins where the channel is free and the starting slot's earlier accesses
have been performed; at level T a busy channel is a timing fault (R217, R255). -/
def execCopyBegin (s : State) : Host.Outcome State Fault Refusal :=
  let id := s.arg.a
  .next (match s.copyOf id with
    | none => s
    | some c =>
      let x := s.chan c.tile c.chan
      if c.running ∨ s.mcnt < c.begin_ then s
      else if x.frozen then s
      else if x.run.isSome then
        if s.levelOf c.tile = .t then copyFault s c 0x081 x.seq else s
      else if (firstCopy (chanQueue s c.tile c.chan)).map (fun p => p.1) ≠ some id then kickChan s c.tile c.chan s.mcnt
      else if priorPending s c.slot c.bound then planOnce (flushMerged s c.slot) (s.mcnt + 1) rkEngine .copyBegin id 0 0
      else if s.recordHeld c.tile 2 then planOnce s (s.mcnt + 1) rkEngine .copyBegin id 0 0
      else match copyMiss s c with
        | some o =>
          if s.levelOf c.tile = .t then copyFault s c 0x08C o else copyFetch (planOnce s (s.mcnt + 1) rkEngine .copyBegin id 0 0) c o
        | none => beginCopy s id c)

/-! ## Starts (R215 to R217) -/

/-- The BTE accepts a start: the template is captured, and the begin cycle is fixed (R214, R215). -/
def acceptCopy (s : State) (t ch tm slot bound : Nat) (ws : List Word) (start : Nat) : State :=
  let (id, s1) := s.fresh
  let acc := max s.mcnt (s.bte t).free
  let offset := decide (start ≠ 0xFFFFF)
  let b := if offset then max acc ((s.slot slot).start + start) else acc
  let c : Copy := { tile := t, lt := (s.tile t).ltid, chan := ch, tmpl := tm, slot := slot, bound := bound, ws := ws, begin_ := b, order := id, seq := 0
                    running := false, read := 0, held := [], wr := 0, acc := 0, done := 0, lim := tmTokens ws, posted := 0
                    resv := 0, at_ := [], half := [], stop := none, sdram := false, ddram := false, tl := 0, holder := none }
  let m : Command := { slot := slot, offset := offset, engine := 2, channel := ch, begun := false }
  let s2 := { (s1.setCopy id c) with cmds := mset s1.cmds id m }.modBte t (fun x => { x with free := acc + 1 })
  planOnce s2 b rkEngine .copyBegin id 0 0

/-- A tile's template. -/
def State.tmpl (s : State) (t k : Nat) : List Word :=
  let ws := mget [] (s.tile t).tmpls k
  (List.range 16).map (fun i => ws.getD i 0)

/-- A start from an instruction: without room, or behind an aperture start that waits, it holds its slot (R216, R217). -/
def startCopy (o : Opnds) (ch tm : Nat) (ws : List Word) (start : Nat) (s : State) : Issued :=
  if 256 ≤ copiesOn s o.tile ∨ !(s.bte o.tile).waiting.isEmpty then Issued.ends s (.retry 0x08D)
  else Issued.only (acceptCopy s o.tile ch tm o.slot o.seq ws start)

/-- BTE_DEFERRED_ACCEPT: an aperture start (`e` 1: channel `b`, template `c`, slot `d`, the store's number in `i`) is accepted or waits, or one that
waits is accepted (R216). -/
def execBteDeferredAccept (s : State) : Host.Outcome State Fault Refusal :=
  let t := s.arg.a
  let take (a : State) (ch tm slot bound : Nat) : State := acceptCopy a t ch tm slot bound (a.tmpl t tm) (tmStart (a.tmpl t tm))
  .next (if s.arg.e = 1 then
      let b := ((s.arg.i.headD 0) : Int).toNat
      if 256 ≤ copiesOn s t ∨ !(s.bte t).waiting.isEmpty then
        s.modBte t (fun x => { x with waiting := x.waiting ++ [(s.arg.b, s.arg.c, s.arg.d, b)] })
      else
        match s.badWord t .template (fun i => i / 16 == s.arg.c) with
        | some u => s.failLoad t u.1 u.2
        | none => take s s.arg.b s.arg.c s.arg.d b
    else
      match (s.bte t).waiting with
      | (ch, tm, slot, b) :: rest =>
        if 256 ≤ copiesOn s t then s
        else
          let s1 := take (s.modBte t (fun x => { x with waiting := rest })) ch tm slot b
          if rest.isEmpty then s1 else planOnce s1 (s.mcnt + 1) rkBte .bteDeferredAccept t 0 0
      | [] => s)

/-- R215. -/
def execCpy (op : Op) (s : State) : Host.Outcome State Fault Refusal :=
  .next (actVE 0xE8 op (fun o s1 =>
    let tm := o.sb.toNat % 64
    startCopy o (o.sa.toNat % 16) tm (s1.tmpl o.tile tm) (tmStart (s1.tmpl o.tile tm)) s1) s)

/-- R215. -/
def execCpyat (op : Op) (s : State) : Host.Outcome State Fault Refusal :=
  .next (actVE 0xE9 op (fun o s1 =>
    let tm := o.sa.toNat / 16 % 64
    startCopy o (o.sa.toNat % 16) tm (s1.tmpl o.tile tm) (o.sb.toNat % 2 ^ 20) s1) s)

/-- The status word of a channel (R215). -/
def cpyqWord (s : State) (t ch : Nat) : Word :=
  let x := s.chan t ch
  let st := if x.frozen then 2 else if x.run.isSome then 1 else 0
  let n := (s.copies.filter (fun p => p.2.tile == t && p.2.chan == ch)).length
  BitVec.ofNat 2 st ++ 0#12 ++ BitVec.ofNat 9 (copiesOn s t) ++ BitVec.ofNat 9 n

/-- R215. -/
def execCpyq (op : Op) (s : State) : Host.Outcome State Fault Refusal :=
  .next (issueVE 0xEA op (fun o s1 => Issued.value s1 2 (scalarOut o (cpyqWord s1 o.tile (o.sa.toNat % 16)))) s)

/-- The template with SOFF, DOFF and LEN replaced by lanes 0 to 2 (R215). -/
def patched (ws : List Word) (b : Vec) : List Word := ws.take 8 ++ [lane b 0, lane b 1, lane b 2] ++ ws.drop 11

/-- R215. -/
def execCpyx (op : Op) (s : State) : Host.Outcome State Fault Refusal :=
  .next (actVE 0xEB op (fun o s1 =>
    let tm := o.sa.toNat / 16 % 64
    startCopy o (o.sa.toNat % 16) tm (patched (s1.tmpl o.tile tm) o.b) 0xFFFFF s1) s)

/-- R215: words 8 to 15 of a template. The command takes its place among those that the BTE accepts, one a cycle (R88); the words are
written at its issue, which is the order of acceptance. -/
def execTmplw (op : Op) (s : State) : Host.Outcome State Fault Refusal :=
  .next (actVE 0xEC op (fun o s1 =>
    let k := o.sa.toNat % 64
    let ws := (s1.tmpl o.tile k).take 8 ++ (List.range 8).map (fun i => lane o.b (8 + i) &&& tmplMask (8 + i))
    let s2 := ((List.range 8).foldl (fun a i => a.mendWord o.tile .template (16 * k + 8 + i)) s1).modTile o.tile (fun x =>
      { x with tmpls := mset x.tmpls k ws })
    Issued.only (s2.modBte o.tile (fun x => { x with free := max s1.mcnt x.free + 1 }))) s)

/-- A copy that the slot started on the channel has not completed (R215). -/
def cpybHeld (s : State) (o : Opnds) : Bool :=
  s.copies.any (fun p => p.2.slot == o.slot && p.2.chan == o.sa.toNat % 16)
    || (s.bte o.tile).waiting.any (fun w => w.1 == o.sa.toNat % 16 && w.2.2.1 == o.slot)

/-- R215. -/
def execCpyb (op : Op) (s : State) : Host.Outcome State Fault Refusal :=
  .next (actVE 0xED op (fun o s1 => if cpybHeld s1 o then Issued.ends s1 .hold else Issued.only s1) s)

end Sys2Proof.Machine
end

