-- ==== Sys2Proof/Machine/Load.lean ====
section
/-! DEFINITION. Fabric loads: placement (R277), the loader's checks that follow from the state (R287 to R290, R302, R320,
R366), configuring a tile (R262, R263, R282), circuits (R265), and which slots a kernel or block has (R28, R280). -/

namespace Sys2Proof.Machine

/-! ## Slots of a kernel and of a block -/

/-- The numbers under which the logical tiles of a context stand, and its physical tiles. -/
def homesOf (s : State) (c : Nat) : List Nat := (s.tiles.filter (fun p => p.2.ctx == some c && !isHelmTile p.1)).map (fun p => p.1)
def tilesOf (s : State) (c : Nat) : List Nat := (homesOf s c).filter (fun t => physTile t == t)

/-- The slots of a tile that meet a test, in ascending order. -/
def slotsOn (t : Nat) (p : Nat → Bool) : List Nat := ((List.range 64).map (fun k => 64 * t + k)).filter p

/-- The slots bound to a kernel of a context's resident load, those of logical tiles that wait for their quantum among them (R28, R278,
R311). -/
def kernSlots (s : State) (c k : Nat) : List Nat :=
  (homesOf s c).flatMap (fun t => slotsOn t (fun n => (s.binding n).getLsbD 31 && (s.binding n).toNat % 65536 == k))

/-- The slots that hold block b on some tiles that hold load n (R280). -/
def blockSlots (s : State) (ts : List Nat) (n b : Nat) : List Nat :=
  (ts.filter (fun t => (s.tile t).load == some n)).flatMap (fun t =>
    slotsOn t (fun m => (s.binding m).getLsbD 31 && (mfind (s.slot m).blocks b).isSome))

/-! ## Placement (R277) -/

/-- The key of a logical tile in the remap tables. -/
def remapKey (c : Nat) (l : BitVec 10) : Nat := 1024 * c + l.toNat

/-- The physical tile that a remap entry names, on the die of its virtual die. -/
def remapTile (s : State) (c : Nat) (l : BitVec 10) (w : Word) : Option Nat :=
  match dieOfVirtual s c (l.toNat / 256) with
  | some d => if w.getLsbD 31 then some (tileAt d (w.extractLsb' 16 4).toNat (w.extractLsb' 20 4).toNat) else none
  | none => none

/-- Where the remap table places a logical tile. -/
def placedAt (s : State) (c : Nat) (l : BitVec 10) : Option Nat := remapTile s c l (mget 0 s.remap (remapKey c l))

/-- A tile is another context's: it holds its load, a remap entry of it names the tile, or one that a REMAP brings does (R2, R241). -/
def ownedBeside (s : State) (c t : Nat) : Bool :=
  ((s.tile t).ctx != none && (s.tile t).ctx != some c)
    || s.remap.any (fun e => e.1 / 1024 != c && placedAt s (e.1 / 1024) (BitVec.ofNat 10 (e.1 % 1024)) == some t)
    || s.helm.any (fun r => r.2.kind == 5 && r.2.acted && bitsOf r.2.a.toNat 12 10 != c
        && remapTile s (bitsOf r.2.a.toNat 12 10) (BitVec.ofNat 10 (r.2.a.toNat % 1024)) (lane r.2.b 0) == some t)

/-- The tile may hold logical tiles of a context: on the device, not a Helm tile, not fused off, not failed, not another
context's. -/
def mayHold (s : State) (c t : Nat) : Bool :=
  decide (t < 576) && decide (xOfTile t ≤ 11) && !isHelmTile t && !Config.fusedOff t && !(s.tile t).failed
    && !ownedBeside s c t

/-- The tile that a load gives a logical tile: where it stands already, or the loader's choice. -/
def chosenTile (s : State) (c n : Nat) (l : BitVec 10) : Option Nat :=
  match placedAt s c l with
  | some t => some t
  | none => (dieOfVirtual s c (l.toNat / 256)).bind (fun d =>
      let p := Config.placeTile c n l.toNat
      if p < 144 then some (144 * d + p) else none)

/-- NQM1 + 1, QIDX and the quantum length of a remap entry (R277). -/
def sharers (w : Word) : Nat := (w.extractLsb' 28 3).toNat + 1
def shareIx (w : Word) : Nat := (w.extractLsb' 25 3).toNat
def quantumOf (w : Word) : Nat := 16 * (w.extractLsb' 0 14).toNat

/-- The valid remap entries of a context that name a tile. -/
def entriesOn (s : State) (c t : Nat) : List (Nat × Word) :=
  s.remap.filter (fun e => e.1 / 1024 == c && placedAt s c (BitVec.ofNat 10 (e.1 % 1024)) == some t)

/-- The entries that name a tile agree in NQM1 and QL16 and hold each index once, and those of a sliced tile give a quantum of 256
cycles or more (R277). -/
def slicedOk (s : State) (c t : Nat) : Bool :=
  match entriesOn s c t with
  | [] => false
  | e :: r =>
    let n := sharers e.2
    (n == 1 || decide (256 ≤ quantumOf e.2)) && (e :: r).length == n
      && (e :: r).all (fun x => sharers x.2 == n && quantumOf x.2 == quantumOf e.2)
      && (List.range n).all (fun i => (e :: r).any (fun x => shareIx x.2 == i))

/-- The remap entry of a tile, sliced as some bits say. -/
def remapWord (t : Nat) (w : Word) : Word := BitVec.ofNat 32 (2 ^ 31 + yOfTile t * 2 ^ 20 + xOfTile t * 2 ^ 16) ||| (w &&& 0x7E00_3FFF#32)

/-- The remap table with the entries that the loader writes for the logical tiles of a load that have none (R277). -/
def writeRemap (s : State) (c n : Nat) (ps : List (BitVec 10 × Nat)) : State :=
  { s with remap := ps.foldl (fun (m : Map Word) p =>
    if (placedAt s c p.1).isSome then m else mset m (remapKey c p.1) (remapWord p.2 (Config.placeSlice c n p.1.toNat))) s.remap }

/-- Every logical tile of a load has a tile that may hold it, of its own unless the tile is sliced, or the load is refused
("remap"). -/
def placement (s : State) (c n : Nat) (ls : List (BitVec 10)) : Option (List (BitVec 10 × Nat)) :=
  let ts := ls.filterMap (chosenTile s c n)
  if ts.length = ls.length ∧ ts.all (fun t => mayHold s c t && slicedOk (writeRemap s c n (ls.zip ts)) c t) then some (ls.zip ts) else none

/-! ## The loader's checks -/

/-- The power cap of a power state in W; STANDBY and DIAG admit no load (R365, R366). -/
def powerCap (p : Nat) : Nat :=
  match p with
  | 1 => 180
  | 2 => 260
  | 3 => 340
  | 4 => 420
  | 5 => 480
  | _ => 0

/-- The energy that the resident loads draw beside a context's own (R366). -/
def energyBeside (s : State) (c : Nat) : Nat := (s.ctxs.filter (fun p => p.1 != c && p.2.live)).foldl (fun a p => a + p.2.energy) 40

/-- The policy word is within the limits of R302. -/
def policyOk (w : Word) : Bool :=
  decide (1 ≤ (w.extractLsb' 28 4).toNat) && decide (4 ≤ (w.extractLsb' 4 4).toNat) && decide ((w.extractLsb' 4 4).toNat ≤ 12)

/-- Pre-emption latency: the largest distance that a class admits; class 3 admits any (R320). -/
def safeOk (w : Word) (g : Option Nat) : Bool :=
  match (w.extractLsb' 26 2).toNat, g with
  | 3, _ => true
  | k, some d => decide (d ≤ 4096 * 4 ^ k)
  | _, none => false

/-- The number of a determinism level (R32). -/
def levelNo (l : Level) : Nat :=
  match l with
  | .t => 0
  | .d => 1
  | .f => 2

/-- The dies of a context's virtual-die table. -/
def diesOf (s : State) (c : Nat) : List Nat := (List.range 4).filterMap (fun v => dieOfVirtual s c v)

/-- Copies the object table to the context's partition on every other die (R356). -/
def copyTable (s : State) (c : Nat) : State :=
  match diesOf s c with
  | [] => s
  | d :: rest =>
    let bs := readBytes s.mem (objEntryPa s d c 0) (32 * (s.ctx c).otlen)
    { s with mem := rest.foldl (fun m e => writeBytes m (objEntryPa s e c 0) bs) s.mem }

/-! ## Configuring a tile (R262, R263, R282) -/

/-- The scratchpad replicas on tile t, which holds a logical tile of the second copy of a twin, get the contents of their originals
on the first copy's tile (R331). -/
def writeReplicas (s : State) (c t : Nat) (g : Config.TileImg) : State :=
  match g.twin.bind (fun l => (placedAt s c l).map (fun o => (l, o))) with
  | none => s
  | some (l, o) =>
    (List.range (s.ctx c).otlen).foldl (fun a i =>
      let r := objRec (objWords s (dieOfTile t) c i)
      let (home, me, off) := padHome r
      let n := r.len + (if r.dbuf then r.hoff else 0)
      let src := padAddr (8 * o + me) off
      let dst := padAddr (8 * t + me) off
      if r.valid ∧ r.kind = 0 ∧ home = l then
        { a with mem := writeBytes a.mem dst (readBytes s.mem src n)
                 poison := (List.range (n / 4)).foldl (fun p k => if isPoisoned s.poison (src + 4 * k) 4 then addPoison p (dst + 4 * k) 4 else p)
                   (clearPoison a.poison dst n) }
      else a) s

/-- Makes the object-table entries of scratchpad objects that reach a fused-off upper half invalid, in every copy
(R282). -/
def dropObjects (s : State) (c t : Nat) (off : BitVec 8) : State :=
  (List.range (s.ctx c).otlen).foldl (fun a i =>
    (diesOf s c).foldl (fun b d =>
      let r := objRec (objWords b d c i)
      let (l, me, o) := padHome r
      if r.valid ∧ r.kind = 0 ∧ (placedAt s c l = some t ∨ (s.tile t).twinOf = some l) ∧ off.getLsbD me ∧ 0x1_8000 < o + r.len + (if r.dbuf then r.hoff else 0) then
        b.write32 (objEntryPa b d c i) ((b.read32 (objEntryPa b d c i)) &&& 0x7FFF_FFFF#32)
      else b) a) s

/-- Object caches hold the entries of a context's objects as its table has them now, where those are no longer valid. -/
def refreshCaches (s : State) (c : Nat) : State :=
  { s with tiles := s.tiles.map (fun p => (p.1, { p.2 with ocache := p.2.ocache.map (fun e =>
      let w := objWords s (dieOfTile p.1) c e.obj
      if e.ctx = c ∧ !(objRec w).valid then { e with words := w } else e) })) }

/-- Upper halves marked by the Helm region are fused off at a load boundary: the capabilities of the objects that reach them fail check 4
of R146 from then on (R282). -/
def applyFuses (s : State) (c t : Nat) : State :=
  let m := (s.tile t).upperMark
  if m = 0 then s
  else refreshCaches (dropObjects (s.modTile t (fun x => { x with upper := x.upper &&& ~~~m, upperMark := 0 })) c t m) c

/-- What the loader records of one slot beside its configuration words. -/
def loadSlot (s : State) (t : Nat) (g : Config.SlotImg) : State :=
  s.modSlot (64 * t + g.slot) (fun x => { x with
    blocks := g.blocks.map (fun b => (b.1, (b.2.base, b.2.assay.getD 0))), kernBlock := g.block, block := g.block, rings := g.rings, live := g.live
    holdEnd := g.holds })

/-- The port queues of the logical tile that runs on a tile, the walks and the channels hold nothing (R262). -/
def emptyTile (s : State) (t : Nat) : State :=
  { s with
    sports := s.sports.map (fun p => if p.1 / 8 = t then (p.1, { SPort.reset with walk := p.2.walk + 1 }) else p)
    inqs := s.inqs.filter (fun q => !(q.1 / 16384 == t || (q.1 % 2 ^ 24 / 16384 == t && q.1 / 2 ^ 24 == (s.tile t).ltid.toNat + 1)))
    chans := s.chans.filter (fun c => c.1 / 16 != t)
    btes := mdel s.btes t }

/-- Configures one tile for a logical tile of load n of the graph that the loader numbered `graph`, from its words as the loader
completes them: nothing of the outgoing load stays but scratchpad contents, the Lodestone state unless the tile held no load of the
graph since it was cleared and, where the image keeps it, the accumulator (R190, R262). -/
def loadTile (s : State) (t : Nat) (ctx : Option Nat) (graph : Option Nat) (seed : BitVec 64) (n : Nat) (keep : Bool) (g : Config.TileImg)
    (words : Map Word) : State :=
  let first := graph.isNone || (s.tile t).graph != graph
  let lode := s.lnode t
  let keepAcc := s.mnode t
  let s0 := emptyTile (clearTile s t) t
  let s1 := (if first then s0 else s0.setLode t { lode with lkey := 0, nb := [], colour := [], ncol := 1 }).setNode t
    { MNode.reset with acc := if keep then keepAcc.acc else [] }
  let s2 := s1.modTile t (fun x => { x with
    ctx := ctx, ltid := g.lt, twinOf := g.twin, load := some n, graph := graph, loadBad := false, evq := [], evWait := [], assay := [], ocache := [], ofetch := [], tcache := [] })
  let s3 := words.foldl (fun a p => match cfgLoc p.1 with
    | some l => cfgWrite a t l p.2
    | none => a) s2
  let s4 := g.slots.foldl (fun a x => loadSlot a t x) s3
  (sealTile (s4.modPort t (fun p => { p with seedLo := seed.setWidth 32, seedHi := seed.extractLsb' 32 32 })) t first).modPort t
    (fun p => { p with st := .placed })

/-- A port of a tile owes no write: nothing waits, is merged or is under way; tokens of a BFP group that is not whole are no event (R163,
R258). -/
def portQuiet (s : State) (m : Nat) : Bool :=
  let p := s.sport m
  p.input.isEmpty && p.accepted.isEmpty && (p.bfp || p.merge.isEmpty)

/-- The ports of a tile send the UN tokens that they hold merged (R249, R258); those of a logical tile that waits for its quantum do then. -/
def flushTile (s : State) (t : Nat) : State :=
  if t ≠ physTile t then s else (List.range 8).foldl (fun a k =>
    let p := s.sport (8 * t + k)
    if p.bfp || p.merge.isEmpty then a else a.planN (s.mcnt + 1) rkPort .writePortUnFlush (8 * t + k) 0) s

/-- Tile t holds nothing of a load that still runs: its slots are BOUND or UNBOUND, its commands and copies are complete,
its accesses performed, and its table does not run (R188, R263). -/
def tileDrained (s : State) (t : Nat) : Bool :=
  (List.range 64).all (fun k => let st := (s.slot (64 * t + k)).st; st == .unbound || st == .bound)
    && !(s.cmds.any (fun c => tileOfSlot c.2.slot == t)) && !(s.copies.any (fun c => c.2.tile == physTile t && c.2.lt == (s.tile t).ltid))
    && !(s.accs.any (fun a => tileOfSlot a.2.slot == t)) && !(s.reqs.any (fun r => r.2.tile == some (physTile t) && r.2.lt == (s.tile t).ltid))
    && (s.mnode t).counter.isNone && (List.range 8).all (fun k => portQuiet s (8 * t + k))

/-! ## Partial reconfiguration (R29, R263) -/

/-- The elements of tile t that a partial reconfiguration names hold nothing of a load that still runs, and what their slots have asked
of the memory through ports has been performed (R242, R263). -/
def partDrained (s : State) (t : Nat) (vs : List Nat) : Bool :=
  let mine (n : Nat) : Bool := n / 64 == t && vs.contains (n / 8 % 8)
  let owes (k : Nat) : Bool :=
    let p := s.sport (8 * t + k)
    (p.input ++ p.accepted ++ (if p.bfp then [] else p.merge)).any (fun w => mine w.slot)
      || (mine p.owner && s.reqs.any (fun r => match r.2.who with
        | .port m _ _ => m == 8 * physTile t + k && r.2.lt == (s.tile t).ltid
        | _ => false))
  !(List.range 8).any owes &&
  vs.all (fun v => (List.range 8).all (fun j => let st := (s.slot (64 * t + 8 * v + j)).st; st == .unbound || st == .bound))
    && !(s.cmds.any (fun c => mine c.2.slot)) && !(s.copies.any (fun c => mine c.2.slot)) && !(s.accs.any (fun a => mine a.2.slot))

/-- The words that a partial reconfiguration rewrites: stage words, bindings and switch tables of the named elements, and maps. -/
def partWord (vs : List Nat) (a : Nat) : Bool :=
  match cfgLoc a with
  | some (.stage v _) => vs.contains v
  | some (.bind v _) => vs.contains v
  | some (.switch v _ _) => vs.contains v
  | some (.tmap _ _) => true
  | _ => false

/-- A partial reconfiguration of a tile for load n: nothing else of the tile changes; a slot that it binds takes its seed and what the
loader records of it, and the coupled groups of the elements are formed again. -/
def patchTile (s : State) (t n : Nat) (g : Config.TileImg) (words : Map Word) (vs : List Nat) : State :=
  let s1 := (words.filter (fun p => partWord vs p.1)).foldl (fun a p => match cfgLoc p.1 with
    | some l => cfgWrite a t l p.2
    | none => a) s
  let s2 := (g.slots.filter (fun x => vs.contains (x.slot / 8))).foldl (fun a x =>
    let m := 64 * t + x.slot
    let a1 := loadSlot a t x
    if (s.slot m).st = .unbound then a1.modSlot m (fun y => { y with dthSeed := dthOf a1 t m, gseed := (s.cport t).seedHi ++ (s.cport t).seedLo }) else a1) s1
  (vs.foldl (fun a v => couple a (8 * t + v)) s2).modTile t (fun x => { x with load := some n, loadBad := false })

/-! ## Circuits (R265) -/

/-- The mark of a logical tile in the numbers of its queues and circuits: 0 on a tile that is not sliced (R68, R278). -/
def sliceTag (s : State) (c b : Nat) (l : BitVec 10) : Nat := if (entriesOn s c b).length ≤ 1 then 0 else l.toNat + 1

/-- The number of an input queue of a logical tile. -/
def queueFor (s : State) (c b : Nat) (l : BitVec 10) (ve circ : Nat) : Nat := inqKey (8 * b + ve) circ + 2 ^ 24 * sliceTag s c b l

/-- Builds a circuit of a load at the present placement: T without a link-slot wait is 2 and the tile boundaries. -/
def buildCircuit (s : State) (c : Nat) (g : Config.CircImg) : State :=
  match placedAt s c g.src, placedAt s c g.dst with
  | some a, some b =>
    let (lead, hops) := pathOf (dieOfTile a) (some a) (dieOfTile b) (some b)
    let k : Circuit := { dst := queueFor s c b g.dst g.dve g.dcirc, ctx := c, lead := 2 + lead, hops := hops, num := g.dcirc }
    { s with circuits := mset s.circuits (circKey (sliceTag s c a g.src) (4096 * (8 * a + g.sve) + 2048 * g.sport + g.scirc)) k }
  | _, _ => s

/-- The resident load of a context. -/
def residentLoad (s : State) (c : Nat) : Option Config.LoadImg :=
  (s.ctx c).image.bind (fun i => (s.ctx c).resident.bind (fun n => mfind i.loads n))

/-- The load that a logical tile of a context holds. -/
def loadHeld (s : State) (c : Nat) (l : BitVec 10) : Option Nat :=
  (placedAt s c l).bind (fun t => let x := s.logical (homeOf t l); if x.ltid = l then x.load else none)

/-- Builds the circuits of a context anew: those of each load that leave a logical tile which holds it. -/
def buildCircuits (s : State) (c : Nat) : State :=
  let kept := { s with circuits := s.circuits.filter (fun k => k.2.ctx != c) }
  match (s.ctx c).image with
  | some i =>
    i.loads.foldl (fun a ld => (ld.2.circuits.filter (fun g => loadHeld s c g.src == some ld.1)).foldl (fun b g => buildCircuit b c g) a) kept
  | none => kept

/-! ## Teller programs and owner words of a load (R199 to R203, R344) -/

/-- Slots of a Teller that a load claims, and its programs there. -/
def claimsOn (ld : Config.LoadImg) (tl : Nat) : List Nat := mget [] ld.owners tl
def progsOn (ld : Config.LoadImg) (tl : Nat) : Map Config.ProgImg := mget [] ld.progs tl

/-- A program-table entry (R203). -/
def progWord (base ncmd ns c : Nat) : Word := BitVec.ofNat 32 (base * 2 ^ 20 + ncmd * 2 ^ 12 + (ns - 1) * 2 ^ 9 + 2 ^ 8 + c * 2 ^ 5)

/-- The first place of the store where n commands stand clear of every loaded program. -/
def storeRoom (x : Tel) (n : Nat) : Option Nat :=
  (List.range 4096).find? (fun b => decide (b + n ≤ 4096)
    && x.progs.all (fun p => !progValid p.2 || decide (b + n ≤ progBase p.2) || decide (progBase p.2 + progCmds p.2 ≤ b)))

/-- The table entry of a Teller holds a program. -/
def progTaken (x : Tel) (p : Nat) : Bool := progValid (mget 0#32 x.progs p)

/-- A Teller without what a context holds there: its slots, and the entries of its programs that no load of `keep` has. -/
def tellerWithout (x : Tel) (c tl : Nat) (keep : List Config.LoadImg) : Tel :=
  { x with
    owner := x.owner.filter (fun p => slotOwner x p.1 != (1, c))
    progs := x.progs.filter (fun p => !(progValid p.2 && progCtx p.2 == c && !x.upkeep.contains p.1 && !keep.any (fun l => (mfind (progsOn l tl) p.1).isSome))) }

/-- A slot of a Teller becomes a context's. -/
def claimSlot (x : Tel) (c k : Nat) : Tel := { x with owner := mset x.owner k (BitVec.ofNat 32 (2 ^ 14 + c * 2 ^ 11)) }

/-- A program takes its entry and the first room in the store; one that finds the entry taken or no room is not placed, which the check
"Teller store" reports (R203). -/
def placeProg (x : Tel) (c p : Nat) (g : Config.ProgImg) : Tel :=
  match storeRoom x g.cmds.length with
  | some b =>
    if progTaken x p then x
    else { x with progs := mset x.progs p (progWord b g.cmds.length g.ns c)
                  store := ((List.range g.cmds.length).zip g.cmds).foldl (fun m w => mset m (b + w.1) w.2) x.store
                  storePoison := x.storePoison.filter (fun k => !(decide (b ≤ k) && decide (k < b + g.cmds.length))) }
  | none => x

/-- A Teller as it stands once a context holds the loads `held` beside a load that is written: the loader replaces what the context's
other loads and this load's earlier writing left, and nothing of another owner. -/
def tellerWith (x : Tel) (c tl : Nat) (held : List Config.LoadImg) (ld : Config.LoadImg) : Tel :=
  let y := tellerWithout x c tl (held.filter (fun l => l != ld))
  let z := (held.flatMap (fun l => claimsOn l tl) ++ claimsOn ld tl).foldl (fun a k => claimSlot a c k) y
  (progsOn ld tl).foldl (fun a p => placeProg a c p.1 p.2) z

/-- A Teller with the programs of the Helm upkeep graph, in the place of those that it held before (R203, R210). DESIGN CHOICE, log 205:
their CTX field is 0. -/
def withUpkeep (x : Tel) (ps : Map Config.ProgImg) : Tel :=
  ps.foldl (fun a p => let y := placeProg a 0 p.1 p.2; if progTaken a p.1 then a else { y with upkeep := p.1 :: y.upkeep })
    { x with progs := x.progs.filter (fun p => !x.upkeep.contains p.1), upkeep := [] }

/-- An owner word of a link as the loader writes it for a context. -/
def linkWord (c : Nat) (w : Word) : Word := (w &&& 0xC7FF_0000#32) ||| BitVec.ofNat 32 (c * 2 ^ 27)

/-- The link owner words of a context are those of the loads that it holds. -/
def linkOwnersWith (m : Map Word) (c l : Nat) (loads : List Config.LoadImg) : Map Word :=
  let mine (w : Word) : Bool := ((w.extractLsb' 30 2).toNat == 1 || (w.extractLsb' 30 2).toNat == 2) && (w.extractLsb' 27 3).toNat == c
  (loads.flatMap (fun ld => mget [] ld.links l)).foldl (fun a p => mset a p.1 (linkWord c p.2)) (m.filter (fun p => !mine p.2))

/-- The numbers of the loads that tiles of a context hold, and those loads of an image. -/
def heldNumbers (s : State) (c : Nat) : List Nat :=
  ((homesOf s c).filterMap (fun t => (s.tile t).load)).eraseDups
def heldLoads (s : State) (c : Nat) (i : Config.Image) : List Config.LoadImg := (heldNumbers s c).filterMap (fun n => mfind i.loads n)

/-- Writes the Teller programs and the owner words of a load of an image. -/
def loadTellers (s : State) (c : Nat) (i : Config.Image) (ld : Config.LoadImg) : State :=
  let held := heldLoads s c i
  let s1 := (List.range 64).foldl (fun a tl =>
    if (claimsOn ld tl).isEmpty && (progsOn ld tl).isEmpty && (a.tel tl).owner.isEmpty && (a.tel tl).progs.isEmpty then a
    else a.setTel tl (tellerWith (a.tel tl) c tl held ld)) s
  (List.range 6).foldl (fun a l => a.modLink l (fun k => { k with owner := linkOwnersWith k.owner c l (held ++ [ld]) })) s1

/-! ## Almanac entries (R269) -/

def entBlk (e : AlmEntry) : Nat := ((e.words.getD 0 0).extractLsb' 16 16).toNat
def entDrb (e : AlmEntry) : Nat := ((e.words.getD 0 0).extractLsb' 0 16).toNat
def entValid (e : AlmEntry) : Bool := (e.words.getD 1 0).getLsbD 31
def entTwin (e : AlmEntry) : Bool := (e.words.getD 1 0).getLsbD 30
def entAudit (e : AlmEntry) : Bool := (e.words.getD 1 0).getLsbD 29
def entReconf (e : AlmEntry) : Bool := (e.words.getD 1 0).getLsbD 28
def entStart (e : AlmEntry) : Nat := ((e.words.getD 1 0).extractLsb' 0 24).toNat
def entAgrp (e : AlmEntry) : BitVec 8 := (e.words.getD 2 0).extractLsb' 24 8
def entDln (e : AlmEntry) : Nat := ((e.words.getD 2 0).extractLsb' 0 24).toNat
def entRsv (e : AlmEntry) : Nat := ((e.words.getD 3 0).extractLsb' 16 16).toNat
def entCset (e : AlmEntry) : Nat := ((e.words.getD 3 0).extractLsb' 8 8).toNat
def hasDrb (e : AlmEntry) : Bool := entDrb e != 0xFFFF

/-- The intervals of the audits on a context's targets begin (R337, R339). -/
def watchAudits (s : State) (c : Nat) : State := s.planEv s.mcnt rkArrive .auditRun (Arg.of 0 0 c 4 0)

/-- The Almanacs of an image as the walkers hold them (R262, R269). -/
def entryOf (e : Config.EntryImg) : AlmEntry := { words := e.words, tiles := e.tiles, load := e.load }
def almanacsOf (i : Config.Image) : Map Almanac :=
  i.alms.map (fun p => (p.1, { frame := p.2.frame, waypoints := p.2.waypoints, role := p.2.role
                               entries := p.2.entries.map (fun e => (e.1, entryOf e.2)) }))

end Sys2Proof.Machine
end

