-- ==== Sys2Proof/Machine/Lodestone.lean ====
section
/-! DEFINITION. The Lodestone node (R59, R190 to R196): its queue, the sweeps with their draws from the mint, and the
instructions that load, sweep and read it. -/

namespace Sys2Proof.Machine

/-! ## The threshold table (R193)

Sixty-four entries of 16 bits to a number, the lowest index in the low bits: T[z] = 65536 · σ((z − 512) / 64), rounded
half up and clamped. -/

def threshPart0 : Nat :=
  0x003b003a003900380037003600360035003400330032003200310030002f002f002e002d002c002c002b002a002a00290028002800270027002600250025002400240023002300220022002100200020001f001f001f001e001e001d001d001c001c001b001b001b001a001a0019001900190018001800170017001700160016
def threshPart1 : Nat :=
  0x00a0009d009b0098009600940091008f008d008b00890086008400820080007e007c007a00780077007500730071006f006e006c006a006900670065006400620061005f005e005c005b005a0058005700550054005300520050004f004e004d004b004a0049004800470046004500440043004200410040003f003e003d003c
def threshPart2 : Nat :=
  0x01b001a901a3019c0196019001890183017d01780172016c01660161015b01560151014c01470141013d01380133012e012901250120011c01170113010f010b0107010300ff00fb00f700f300ef00ec00e800e400e100dd00da00d700d300d000cd00ca00c600c300c000bd00ba00b800b500b200af00ac00aa00a700a500a2
def threshPart3 : Nat :=
  0x04890477046604550444043304230412040303f303e303d403c503b703a8039a038c037e0370036303550348033b032f03220316030a02fe02f202e702db02d002c502ba02af02a5029a02900286027c02720269025f0256024d0244023b023202290221021902100208020001f801f101e901e101da01d301cc01c401bd01b7
def threshPart4 : Nat :=
  0x0bf60bc90b9c0b700b450b1a0af00ac60a9d0a750a4d0a2609ff09d909b3098e096a0946092208ff08dd08bb0899087808580838081807f907da07bc079e078107640748072c071006f506da06bf06a5068b0672065906410628061105f905e205cb05b5059e05890573055e054905350520050c04f904e504d204bf04ad049b
def threshPart5 : Nat :=
  0x1e191db01d471ce01c7a1c161bb21b501aef1a8f1a3119d31977191c18c21869181117ba1765171016bd166b161915c9157a152c14de1492144713fd13b4136b132412de12981254121011cd118c114b110b10cb108d105010130fd70f9c0f620f280ef00eb80e810e4a0e150de00dac0d780d460d140ce20cb20c820c530c24
def threshPart6 : Nat :=
  0x4411434a428441c040fd403c3f7c3ebe3e013d463c8c3bd43b1e3a6839b53903385237a336f6364a35a034f7345033aa3306326331c2312330842fe82f4d2eb32e1b2d852cf02c5d2bcb2b3a2aab2a1e29922907287e27f6277026ec266825e6256624e7246923ed237222f92281220a2195212120ae203c1fcc1f5e1ef01e84
def threshPart7 : Nat :=
  0x7f007e007d007c007b017a01790278037704760575077409730b720e711170156f196e1e6d236c296b306a37693f68476750665a65656470637c628a619860a75fb65ec75dd95cec5bff5b145a2a594158595772568c55a854c453e253015221514350664f8a4eaf4dd64cfe4c274b524a7e49ab48da480a473c466f45a344d9
def threshPart8 : Nat :=
  0xba5db991b8c4b7f6b726b655b582b4aeb3d9b302b22ab151b076af9aaebdaddfacffac1eab3caa58a974a88ea7a7a6bfa5d6a4eca401a314a227a139a04a9f599e689d769c849b909a9b99a698b097b996c195c994d093d792dd91e290e78feb8eef8df28cf58bf78af989fb88fc87fd86fe85ff84ff84008300820081008000
def threshPart9 : Nat :=
  0xe110e0a2e034dfc4df52dedfde6bddf6dd7fdd07dc8edc13db97db19da9ada1ad998d914d890d80ad782d6f9d66ed5e2d555d4c6d435d3a3d310d27bd1e5d14dd0b3d018cf7cceddce3ecd9dccfacc56cbb0cb09ca60c9b6c90ac85dc7aec6fdc64bc598c4e2c42cc374c2bac1ffc142c084bfc4bf03be40bd7cbcb6bbefbb27
def threshPart10 : Nat :=
  0xf3adf37ef34ef31ef2ecf2baf288f254f220f1ebf1b6f17ff148f110f0d8f09ef064f029efedefb0ef73ef35eef5eeb5ee74ee33edf0edaced68ed22ecdcec95ec4cec03ebb9eb6eeb22ead4ea86ea37e9e7e995e943e8f0e89be846e7efe797e73ee6e4e689e62de5cfe571e511e4b0e44ee3eae386e320e2b9e250e1e7e17c
def threshPart11 : Nat :=
  0xfb53fb41fb2efb1bfb07faf4fae0facbfab7faa2fa8dfa77fa62fa4bfa35fa1efa07f9eff9d8f9bff9a7f98ef975f95bf941f926f90bf8f0f8d4f8b8f89cf87ff862f844f826f807f7e8f7c8f7a8f788f767f745f723f701f6def6baf696f672f64df627f601f5daf5b3f58bf563f53af510f4e6f4bbf490f464f437f40af3dc
def threshPart12 : Nat :=
  0xfe43fe3cfe34fe2dfe26fe1ffe17fe0ffe08fe00fdf8fdf0fde7fddffdd7fdcefdc5fdbcfdb3fdaafda1fd97fd8efd84fd7afd70fd66fd5bfd51fd46fd3bfd30fd25fd19fd0efd02fcf6fceafcdefcd1fcc5fcb8fcabfc9dfc90fc82fc74fc66fc58fc49fc3bfc2cfc1dfc0dfbfdfbeefbddfbcdfbbcfbabfb9afb89fb77fb65
def threshPart13 : Nat :=
  0xff5bff59ff56ff54ff51ff4eff4bff48ff46ff43ff40ff3dff3aff36ff33ff30ff2dff29ff26ff23ff1fff1cff18ff14ff11ff0dff09ff05ff01fefdfef9fef5fef1feedfee9fee4fee0fedbfed7fed2fecdfec8fec3febffeb9feb4feaffeaafea5fe9ffe9afe94fe8efe88fe83fe7dfe77fe70fe6afe64fe5dfe57fe50fe49
def threshPart14 : Nat :=
  0xffc3ffc2ffc1ffc0ffbfffbeffbdffbcffbbffbaffb9ffb8ffb7ffb6ffb5ffb3ffb2ffb1ffb0ffaeffadffacffabffa9ffa8ffa6ffa5ffa4ffa2ffa1ff9fff9eff9cff9bff99ff97ff96ff94ff92ff91ff8fff8dff8bff89ff88ff86ff84ff82ff80ff7eff7cff7aff77ff75ff73ff71ff6fff6cff6aff68ff65ff63ff60ff5e
def threshPart15 : Nat :=
  0xffeaffe9ffe9ffe9ffe8ffe8ffe7ffe7ffe7ffe6ffe6ffe5ffe5ffe5ffe4ffe4ffe3ffe3ffe2ffe2ffe1ffe1ffe1ffe0ffe0ffdfffdeffdeffddffddffdcffdcffdbffdbffdaffd9ffd9ffd8ffd8ffd7ffd6ffd6ffd5ffd4ffd4ffd3ffd2ffd1ffd1ffd0ffcfffceffceffcdffccffcbffcaffcaffc9ffc8ffc7ffc6ffc5ffc4

def threshTable : List Nat :=
  [threshPart0, threshPart1, threshPart2, threshPart3, threshPart4, threshPart5, threshPart6, threshPart7]
    ++ [threshPart8, threshPart9, threshPart10, threshPart11, threshPart12, threshPart13, threshPart14, threshPart15]

/-- T[z]. -/
def thresh (z : Nat) : Nat := threshTable.getD (z / 64) 0 / 2 ^ (16 * (z % 64)) % 2 ^ 16

/-! ## Sweeps (R192, R194) -/

/-- The local field I of a p-bit from a snapshot of the states. -/
def fieldOf (x : LNode) (snap : BitVec 4096) (i : Nat) : Int :=
  (List.range 16).foldl (fun a n => match mfind x.nb (16 * i + n) with
    | some k => a + (mget (0 : BitVec 8) x.j (16 * i + n)).toInt * (if snap.getLsbD k then 1 else -1)
    | none => a) (mget (0 : BitVec 16) x.h i).toInt

/-- The index z of the table for a field. -/
def threshIx (beta : BitVec 16) (f : Int) : Nat := (min (max ((beta.toNat * f) / 4 + 512) 0) 1023).toNat

/-- The new state of a p-bit of colour k. -/
def updateBit (x : LNode) (k i : Nat) : Bool :=
  let u := (mint (x.seed.setWidth 32) (x.seed.extractLsb' 32 32) x.lkey (BitVec.ofNat 32 i) x.swn (BitVec.ofNat 32 k)
    0x4C4F_4453).word 0
  decide (u.toNat % 2 ^ 16 < thresh (threshIx x.beta (fieldOf x x.m i)))

def setBit (v : BitVec 4096) (i : Nat) (b : Bool) : BitVec 4096 :=
  (v &&& ~~~(1#4096 <<< i)) ||| (if b then 1#4096 <<< i else 0)

/-- The p-bits of a colour. -/
def ofColour (x : LNode) (k : Nat) : List Nat := (List.range 4096).filter (fun i => mget 0 x.colour i == k)

/-- Every update of colour k, from the state at its start (R192). -/
def updateColour (x : LNode) (k : Nat) : LNode :=
  { x with m := ((ofColour x k).filter (fun i => !x.clamp.getLsbD i)).foldl (fun v i => setBit v i (updateBit x k i)) x.m }

/-- A p-bit of colour k would use a poisoned coupling or bias. -/
def colourPoisoned (x : LNode) (k : Nat) : Bool :=
  !x.bad.isEmpty && (ofColour x k).any (fun i => !x.clamp.getLsbD i && (x.bad.contains (65536 + i)
    || (List.range 16).any (fun n => (mfind x.nb (16 * i + n)).isSome && x.bad.contains (16 * i + n))))

/-- Cycles of a colour (R194). -/
def colourCycles (x : LNode) (k : Nat) : Nat := ((ofColour x k).length + 255) / 256 + 4

/-! ## Commands (R195, R196) -/

def countOf (b : Word) : Nat := (b.extractLsb' 12 12).toNat + 1
def firstOf (b : Word) : Nat := (b.extractLsb' 0 12).toNat
def sweepsOf (c : LCmd) : Nat := (lane c.a 0).toNat % 2 ^ 16

/-- What the node has on the agenda. -/
def isLodeAct (t : Nat) : Act → Bool
  | .ev .lodestoneCommandBegin a => a.a == t
  | .ev .lodestoneColourUpdate a => a.a == t
  | .ev .lodestoneCommandComplete a => a.a == t
  | _ => false

/-- Freezes the node: it stops at once, and its queue is discarded; a command that has begun counts as outstanding until
the node is released (R196, R324). -/
def freezeLode (s : State) (t : Nat) : State :=
  let s1 := s.unplan (isLodeAct t)
  let x := s.lnode t
  let users := if x.frozen then x.blame else (x.queue ++ x.run.toList).map (fun c => c.slot)
  endEngine (s1.setLode t { x with queue := [], run := none, stopping := false, stopped := false, frozen := true, blame := users }) t 1 false

/-- The walker or a task end releases the node (R324). -/
def releaseLode (s : State) (t : Nat) : State :=
  endEngine ((freezeLode s t).modLode t (fun x => { x with frozen := false, blame := [] })) t 1 true

/-- Posts an engine-done record of the node (R187). -/
def lodeRecord (s : State) (t : Nat) (c : LCmd) (status count : Nat) : State :=
  s.postRecord t 1 (recordOf c.b (lane c.a 0) (BitVec.ofNat 32 (0x02 * 2 ^ 24 + c.maj * 2 ^ 16 + 0xFFFF))
    (BitVec.ofNat 32 (0x04 * 2 ^ 24 + status * 2 ^ 16 + count % 2 ^ 16)))

/-- The forms in which EVR and BARV act. -/
def reportsDone (maj : Nat) : Bool := maj == 0xE0 || maj == 0xE1 || maj == 0xE4 || maj == 0xE5 || maj == 0xE6

/-- The commands of the queue that have not been discarded. -/
def liveLode (s : State) (t : Nat) : List LCmd := (s.lnode t).queue.filter (fun c => (mfind s.cmds c.id).isSome)

/-- Plans the begin of the oldest command of an idle node. -/
def kickLode (s : State) (t : Nat) : State :=
  let x := s.lnode t
  match liveLode s t with
  | c :: _ => if x.run.isNone ∧ !x.stopped then planOnce s (max s.mcnt c.acc) rkEngine .lodestoneCommandBegin t 0 0 else s
  | [] => s

/-- Token k of LWGT: bytes from memory into couplings (R195). -/
def loadCouplings (s : State) (x : LNode) (c : LCmd) (k : Nat) : LNode :=
  (List.range (min 64 (16 * countOf c.b - 64 * k))).foldl (fun x i =>
    let q := 16 * firstOf c.b + (64 * k + i)
    let p := isPoisoned s.poison (c.addr + 64 * k + i) 1
    { x with j := mset x.j q (BitVec.ofNat 8 (s.read (c.addr + 64 * k + i) 1)), met := x.met || p
             bad := if p then q :: x.bad else x.bad.filter (fun r => r != q) }) x

/-- Token k of LBIAS: halfwords from memory into biases (R195). -/
def loadBiases (s : State) (x : LNode) (c : LCmd) (k : Nat) : LNode :=
  (List.range (min 32 (countOf c.b - 32 * k))).foldl (fun x i =>
    let q := firstOf c.b + (32 * k + i)
    let p := isPoisoned s.poison (c.addr + 64 * k + 2 * i) 2
    { x with h := mset x.h q (BitVec.ofNat 16 (s.read (c.addr + 64 * k + 2 * i) 2)), met := x.met || p
             bad := if p then (65536 + q) :: x.bad else x.bad.filter (fun r => r != 65536 + q) }) x

/-- LCLAMP and LFREE (R195). -/
def clampBits (x : LNode) (c : LCmd) (free : Bool) : LNode :=
  (List.range 256).foldl (fun x n =>
    let w := lane c.a (n / 16)
    let i := 256 * (c.b.toNat % 16) + n
    if w.getLsbD (16 + n % 16) then
      { x with clamp := setBit x.clamp i (!free), m := if free then x.m else setBit x.m i (w.getLsbD (n % 16)) }
    else x) x

/-- The state as words in the order of R59, and the counts two to a word. -/
def stateWord (x : LNode) (w : Nat) : Word := x.m.extractLsb' (32 * w) 32
def countWord (x : LNode) (w : Nat) : Word := BitVec.ofNat 32 (mget 0 x.count (2 * w) + mget 0 x.count (2 * w + 1) * 2 ^ 16)

/-- Token k of LREAD.ME: sixteen words of the state or of the counts (R195). -/
def storeLode (s : State) (x : LNode) (c : LCmd) (k : Nat) : State :=
  (List.range 16).foldl (fun a w =>
    a.write32 (c.addr + 64 * k + 4 * w) (if c.b.getLsbD 0 then countWord x (16 * k + w) else stateWord x (16 * k + w))) s

/-- The commands that go through ME port 5 (R195). -/
def usesPad (maj : Nat) : Bool := maj == 0xE0 || maj == 0xE1 || maj == 0xE6

/-- The 64-byte tokens of such a command, and the cycles that it takes beyond one a token (R195). -/
def lodeTokens (c : LCmd) : Nat :=
  match c.maj with
  | 0xE0 => (countOf c.b + 3) / 4
  | 0xE1 => (countOf c.b + 31) / 32
  | _ => if c.b.getLsbD 0 then 128 else 8
def lodeTail (maj : Nat) : Nat := if maj = 0xE6 then 4 else 8

/-- The ME that holds a flat address of scratchpad. -/
def meOfAddr (a : Nat) : Nat := (a - padAddr 0 0) / 0x3_0000

/-- LODESTONE_COMMAND_BEGIN: the oldest command of the queue begins where the node is idle. -/
def execLodestoneCommandBegin (s : State) : Host.Outcome State Fault Refusal :=
  let t := s.arg.a
  let x := s.lnode t
  .next (match liveLode s t with
    | c :: _ =>
      if x.run.isSome ∨ x.frozen ∨ x.stopped ∨ s.mcnt < c.acc then s
      else if s.recordHeld t 1 then planOnce s (s.mcnt + 1) rkEngine .lodestoneCommandBegin t 0 0
      else
        let cleared := if c.maj = 0xE5 ∧ c.b.getLsbD 0 then [] else x.count
        let s1 := s.setLode t { x with queue := x.queue.filter (fun d => d.id != c.id), run := some c, sweeps := 0, next := 0
                                       met := false, count := cleared }
        let m : Command := { slot := c.slot, offset := false, engine := 1, channel := 0, begun := true }
        let s2 := { s1 with cmds := mset s1.cmds c.id m }.drainBlock c.slot
        if c.maj = 0xE4 ∨ c.maj = 0xE5 then
          if sweepsOf c = 0 then s2.planN s.mcnt rkComplete .lodestoneCommandComplete t 0
          else s2.planN (s.mcnt + colourCycles x 0 - 1) rkPerform .lodestoneColourUpdate t 0
        else if usesPad c.maj then s2.planEv s.mcnt rkPerform .lodestoneCommandComplete (Arg.of t 1 0 0 0)
        else s2.planN s.mcnt rkComplete .lodestoneCommandComplete t 0
    | [] => s)

/-- The colour, or the end of the sweep, that follows. -/
def nextColour (s : State) (t k : Nat) (c : LCmd) : State :=
  let x := s.lnode t
  if k < x.ncol then s.planN (s.mcnt + colourCycles x k) rkPerform .lodestoneColourUpdate t k
  else s.planN (s.mcnt + 6 + (if c.maj = 0xE5 then 2 else 0)) rkPerform .lodestoneColourUpdate t k

/-- A sweep ends: SWN counts it, LMAG accumulates, and the next sweep or the completion follows (R192, R194, R195). A stop that came after
its last colour is taken here (R196). -/
def endSweep (s : State) (t : Nat) (c : LCmd) : State :=
  let x := s.lnode t
  let counts := if c.maj = 0xE5 then
      (List.range 4096).foldl (fun m i => if x.m.getLsbD i then mset m i (min (mget 0 m i + 1) 65535) else m) x.count
    else x.count
  let s1 := s.setLode t { x with swn := x.swn + 1, sweeps := x.sweeps + 1, next := 0, count := counts }
  if x.sweeps + 1 < sweepsOf c then
    (if x.stopping then s1.modLode t (fun y => { y with stopping := false, stopped := true }) else nextColour s1 t 0 c)
  else s1.planN s.mcnt rkComplete .lodestoneCommandComplete t 0

/-- LODESTONE_COLOUR_UPDATE: the updates of colour `b` take effect, or, past the last colour, the sweep ends. A stop that
is due is taken at the end of the colour (R196). -/
def execLodestoneColourUpdate (s : State) : Host.Outcome State Fault Refusal :=
  let t := s.arg.a
  let k := s.arg.b
  let x := s.lnode t
  .next (match x.run with
    | none => s
    | some c =>
      if x.ncol ≤ k then endSweep s t c
      else if colourPoisoned x k then
        let (w, s1) := s.drawWord
        freezeLode (s1.raise (dieOfTile t) 0x0C1 (.lodestone t) s.mcnt w.toNat) t
      else
        let s1 := s.setLode t { updateColour x k with next := k + 1 }
        if x.stopping then s1.modLode t (fun y => { y with stopping := false, stopped := true }) else nextColour s1 t (k + 1) c)

/-- A token comes to port 5 of its ME, after the BTE's tokens of the cycle. Where no access has taken a bank there it is accepted,
its bank works three cycles later, and the next token or the completion follows; otherwise it comes again in the next cycle
(R147, R195). -/
def lodeToken (s : State) (t k : Nat) (c : LCmd) : State :=
  let m := meOfAddr c.addr
  if bankTaken s m ≠ 0 then s.planEv (s.mcnt + 1) rkPerform .lodestoneCommandComplete (Arg.of t 1 k 0 0)
  else
    let s1 := (takeBanks s m 0xFFFF#16).planEv (s.mcnt + 3) (if c.maj = 0xE6 then rkPerform else rkComplete)
      .lodestoneCommandComplete (Arg.of t 2 k 0 0)
    if k + 1 < lodeTokens c then s1.planEv (s.mcnt + 1) rkPerform .lodestoneCommandComplete (Arg.of t 1 (k + 1) 0 0)
    else s1.planN (s.mcnt + lodeTail c.maj) rkComplete .lodestoneCommandComplete t 0

/-- The bank of a token works: bytes are read, or written (R147). -/
def lodeBank (s : State) (t k : Nat) (c : LCmd) : State :=
  if c.maj = 0xE0 then s.setLode t (loadCouplings s (s.lnode t) c k)
  else if c.maj = 0xE1 then s.setLode t (loadBiases s (s.lnode t) c k)
  else storeLode s (s.lnode t) c k

/-- What a command does at its completion. -/
def lodeEffect (s : State) (t : Nat) (c : LCmd) : State :=
  let x := s.lnode t
  match c.maj, c.var with
  | 0xE2, 0 => s.setLode t { x with beta := (lane c.a 0).setWidth 16 }
  | 0xE2, _ => s.setLode t { x with seed := c.b ++ lane c.a 0, swn := 0 }
  | 0xE3, 0 => s.setLode t (clampBits x c false)
  | 0xE3, _ => s.setLode t (clampBits x c true)
  | _, _ => s

/-- The running command completes: its effect, its record and arrival, and the next command (R187, R195, R196). -/
def lodeComplete (s : State) (t : Nat) (c : LCmd) : State :=
  let s1 := lodeEffect s t c
  let x := s1.lnode t
  let done := x.sweeps
  let s2 := s1.setLode t { x with run := none }
  let s3 := if reportsDone c.maj && c.b.getLsbD 31 then lodeRecord s2 t c x.met.toNat done else s2
  let s4 := if reportsDone c.maj && c.b.getLsbD 30 then s3.arrive t (c.b.extractLsb' 24 5).toNat else s3
  let s5 := s4.endCommand c.id c.slot
  match liveLode s5 t with
  | d :: _ => if x.stopping then s5.modLode t (fun y => { y with stopping := false, stopped := true })
              else planOnce s5 (max (s.mcnt + 1) d.acc) rkEngine .lodestoneCommandBegin t 0 0
  | [] => if x.stopping then s5.modLode t (fun y => { y with stopping := false, stopped := true }) else s5

/-- LODESTONE_COMMAND_COMPLETE: `b` 0 the running command completes, 1 its token `c` comes to the ME, 2 the bank of its token
`c` works. -/
def execLodestoneCommandComplete (s : State) : Host.Outcome State Fault Refusal :=
  let t := s.arg.a
  .next (match (s.lnode t).run with
    | none => s
    | some c =>
      match s.arg.b with
      | 0 => lodeComplete s t c
      | 1 => lodeToken s t s.arg.c c
      | _ => lodeBank s t s.arg.c c)

/-- A stop of the node at the end of its colour, or at once where none is in progress (R196). -/
def stopLode (s : State) (t : Nat) : State :=
  let x := s.lnode t
  if x.frozen ∨ x.stopped then s
  else if x.run.isSome then s.modLode t (fun y => { y with stopping := true })
  else s.modLode t (fun y => { y with stopped := true })

/-- The node goes on after a stop, at its next colour. -/
def resumeLode (s : State) (t : Nat) : State :=
  let x := s.lnode t
  let s1 := s.modLode t (fun y => { y with stopping := false, stopped := false })
  match x.run with
  | some c => if x.stopped then nextColour s1 t x.next c else s1
  | none => kickLode s1 t

/-! ## Instructions (R195, R196) -/

/-- Hands a command to the node (R88, R196). -/
def queueLode (o : Opnds) (maj addr : Nat) (s : State) : Issued :=
  let t := o.tile
  let x := s.lnode t
  let (id, s1) := s.fresh
  let acc := max s.mcnt x.free
  let c : LCmd := { maj := maj, var := o.op.var.toNat, a := o.a, b := o.sb, addr := addr, slot := o.slot, id := id, acc := acc }
  if x.frozen then
    Issued.only (if reportsDone maj && o.sb.getLsbD 31 then lodeRecord s t c 2 0 else s)
  else if 8 ≤ (liveLode s t).length then Issued.ends s (.retry 0x08D)
  else
    let m : Command := { slot := o.slot, offset := false, engine := 1, channel := 0, begun := false }
    let s2 := { s1 with cmds := mset s1.cmds id m }.modLode t (fun y => { y with queue := y.queue ++ [c], free := acc + 1 })
    Issued.only (kickLode s2 t)

/-- Checks 1 to 5 of R146 over the whole extent of a capability operand: its flat address, or what stops it. -/
def lodeExtent (o : Opnds) (need : BitVec 8) (align size : Nat) (s : State) : Except Verdict Nat :=
  let ea := eaOf 0xE0 o
  let d := s.epcDetail o.slot
  if !hasRights o.cap need then .error (.trap 0x040 d)
  else if ea % align ≠ 0 then .error (.trap 0x041 d)
  else if capHi o.cap < ea + size then .error (.trap 0x042 d)
  else
    match checkObj s o.tile o.cap with
    | .error (.fetch c x) => .error (if o.level = .t then .trap 0x08C x else .fetch c x)
    | .error (.trap c x) => .error (.trap c x)
    | .error _ => .error (.trap 0x044 (capObj o.cap))
    | .ok r =>
      match placeOf s o.tile (s.ctxOfTile o.tile) (capObj o.cap) (s.slot o.slot).entry r (ea - r.vbase) with
      | .pad t me off =>
        if t ≠ o.tile then .error (.trap 0x044 (capObj o.cap))
        else if !meHas s t me (off + size) then .error (.trap 0x043 (capObj o.cap))
        else .ok (padAddr (8 * t + me) off)
      | _ => .error (.trap 0x044 (capObj o.cap))

/-- A command with a capability operand. -/
def withExtent (maj : Nat) (need : BitVec 8) (align size : Opnds → Nat) (o : Opnds) (s : State) : Issued :=
  match lodeExtent o need (align o) (size o) s with
  | .error v => Issued.ends s v
  | .ok a => queueLode { o with a := splat (BitVec.ofNat 32 (eaOf maj o)) } maj a s

/-- LWGT and LBIAS name p-bits f to f + c − 1 below 4,096 (R195). -/
def loadLode (maj unit align : Nat) (o : Opnds) (s : State) : Issued :=
  if 4096 < firstOf o.sb + countOf o.sb then Issued.ends s (.trap 0x002 (o.sb.toNat % 2 ^ 24))
  else withExtent maj rRD (fun _ => align) (fun o => unit * countOf o.sb) o s

/-- R195. -/
def execLwgt (op : Op) (s : State) : Host.Outcome State Fault Refusal := .next (actVE 0xE0 op (loadLode 0xE0 16 1) s)
/-- R195. -/
def execLbias (op : Op) (s : State) : Host.Outcome State Fault Refusal := .next (actVE 0xE1 op (loadLode 0xE1 2 2) s)
/-- R195. -/
def execLbeta (op : Op) (s : State) : Host.Outcome State Fault Refusal := .next (actVE 0xE2 op (fun o s1 => queueLode o 0xE2 0 s1) s)
/-- R195. -/
def execLseed (op : Op) (s : State) : Host.Outcome State Fault Refusal := .next (actVE 0xE2 op (fun o s1 => queueLode o 0xE2 0 s1) s)
/-- R195. -/
def execLclamp (op : Op) (s : State) : Host.Outcome State Fault Refusal := .next (actVE 0xE3 op (fun o s1 => queueLode o 0xE3 0 s1) s)
/-- R195. -/
def execLfree (op : Op) (s : State) : Host.Outcome State Fault Refusal := .next (actVE 0xE3 op (fun o s1 => queueLode o 0xE3 0 s1) s)
/-- R195. -/
def execLsweep (op : Op) (s : State) : Host.Outcome State Fault Refusal := .next (actVE 0xE4 op (fun o s1 => queueLode o 0xE4 0 s1) s)
/-- R195. -/
def execLmag (op : Op) (s : State) : Host.Outcome State Fault Refusal := .next (actVE 0xE5 op (fun o s1 => queueLode o 0xE5 0 s1) s)

/-- A token of the state or of the counts (R195). -/
def lreadValue (x : LNode) (a : Word) : Vec :=
  if a.getLsbD 7 then ofLanes (fun l => countWord x (16 * (a.toNat % 128) + l))
  else ofLanes (fun l => stateWord x (16 * (a.toNat % 8) + l))

/-- R195, R196: served only by an idle node with an empty queue. At a frozen node it is retried as at a busy one (DESIGN CHOICE, log 164:
R182 discards commands there, and this form is none of the queue). -/
def execLread (op : Op) (s : State) : Host.Outcome State Fault Refusal :=
  .next (issueVE 0xE6 op (fun o s1 =>
    let x := s1.lnode o.tile
    if o.on && (x.run.isSome || !(liveLode s1 o.tile).isEmpty || x.frozen) then Issued.ends s1 (.retry 0x080)
    else Issued.value s1 4 (perLane o (fun l => (lane (lreadValue x o.sa) l, noFlags)))) s)

/-- R195. -/
def execLreadMe (op : Op) (s : State) : Host.Outcome State Fault Refusal :=
  .next (actVE 0xE6 op (withExtent 0xE6 rWR (fun _ => 64) (fun o => if o.sb.getLsbD 0 then 8192 else 512)) s)

/-- The status word (R195). -/
def lstatWord (s : State) (t : Nat) : Word :=
  let x := s.lnode t
  let st := if x.frozen then 2 else if x.run.isSome || !(liveLode s t).isEmpty then 1 else 0
  BitVec.ofNat 2 st ++ BitVec.ofNat 4 (liveLode s t).length ++ 0#10 ++ x.swn.setWidth 16

/-- R195. -/
def execLstat (op : Op) (s : State) : Host.Outcome State Fault Refusal :=
  .next (issueVE 0xE7 op (fun o s1 => Issued.value s1 2 (scalarOut o (lstatWord s1 o.tile))) s)

end Sys2Proof.Machine
end

