-- ==== Sys2Proof/Machine/Matrix.lean ====
section
/-! DEFINITION. The matrix node (R53 to R58, R175 to R188): commands and the modulo table, the weight banks, ACT and QUAD,
the drains, the normaliser, missing operands and row progress. -/

namespace Sys2Proof.Machine

/-! ## Command words (R178) -/

/-- Bits [hi:lo] of a command word. -/
def cmdBits (w : BitVec 64) (hi lo : Nat) : Nat := bitsOf w.toNat hi lo

def cmdKind (w : BitVec 64) : Nat := cmdBits w 63 60
def cmdStart (w : BitVec 64) : Nat := cmdBits w 59 40
def cmdEvr (w : BitVec 64) : Bool := w.getLsbD 7
def cmdBarv (w : BitVec 64) : Bool := w.getLsbD 6
def cmdBar (w : BitVec 64) : Nat := cmdBits w 4 0
/-- WLD, ACT and QUAD: descriptor, bank, and mantissa width mw or ma. -/
def cmdOpd (w : BitVec 64) : Nat := cmdBits w 39 36
def cmdBank (w : BitVec 64) : Nat := cmdBits w 35 35
def cmdWidth (w : BitVec 64) : Nat := cmdBits w 34 32 + 2
def wldTile (w : BitVec 64) : Nat := cmdBits w 31 12
/-- ACT and QUAD: groups, first accumulator group, first activation group. -/
def actGroups (w : BitVec 64) : Nat := cmdBits w 31 29 + 1
def actAccg (w : BitVec 64) : Nat := cmdBits w 28 26
def actInit (w : BitVec 64) : Bool := w.getLsbD 25
def actGoff (w : BitVec 64) : Nat := cmdBits w 24 8
/-- DRN: groups, first group, raw destination and its descriptor, clear. -/
def drnGroups (w : BitVec 64) : Nat := cmdBits w 39 37 + 1
def drnAccg (w : BitVec 64) : Nat := cmdBits w 36 34
def drnRaw (w : BitVec 64) : Bool := w.getLsbD 33
def drnOpd (w : BitVec 64) : Nat := cmdBits w 32 29
def drnClr (w : BitVec 64) : Bool := w.getLsbD 28

/-- The fields of a command are ones that R178 admits. -/
def cmdFieldsOk (w : BitVec 64) : Bool :=
  !w.getLsbD 5 && (match cmdKind w with
    | 1 => cmdBits w 34 32 != 7 && cmdBits w 11 8 == 0
    | 2 => cmdBits w 34 32 != 7 && decide (actAccg w + actGroups w ≤ 8)
    | 3 => decide (drnAccg w + drnGroups w ≤ 8) && cmdBits w 27 8 == 0
    | 4 => decide (cmdBits w 39 37 ≤ 4) && cmdBits w 35 8 == 0
    | 5 => cmdBits w 34 32 != 7 && decide (actAccg w + actGroups w ≤ 8)
    | _ => false)

/-- A node takes a command: its fields are admitted, and a raw drain names a memory descriptor (R178). -/
def cmdOk (x : MNode) (w : BitVec 64) : Bool :=
  cmdFieldsOk w && !(cmdKind w == 3 && drnRaw w && ((mget [] x.opd (drnOpd w)).getD 4 0).getLsbD 31)

/-! ## Quads (R184) -/

/-- The member number of a tile, from its logical coordinates. -/
def memberOfTile (s : State) (t : Nat) : Nat := (s.tile t).ltid.toNat % 2 + 2 * ((s.tile t).ltid.toNat / 16 % 2)

/-- The tile of member k of a tile's quad. -/
def memberTile (s : State) (t k : Nat) : Nat :=
  let l := (s.tile t).ltid
  let base : BitVec 10 := l &&& 0x3EE#10
  (tileOfLogical s t (s.ctxOfTile t) (base ||| BitVec.ofNat 10 (k % 2 + 16 * (k / 2)))).getD t

/-- A joint operation runs on the node. -/
def isJoint (x : MNode) : Bool := match x.act with
  | some r => cmdKind r.cmd.word == 5
  | none => false

/-- The nodes of a tile's matrix region (R182). -/
def regionOf (s : State) (t : Nat) : List Nat := if isJoint (s.mnode t) then (List.range 4).map (memberTile s t) else [t]

/-- The member number in a record: 0 outside a joint operation (R322). -/
def regionMember (s : State) (t : Nat) : Nat := if isJoint (s.mnode t) then memberOfTile s t else 0

/-! ## The node's agenda -/

/-- What a node has on the agenda; the pops from stream ports, which its clock does not gate, are left out. -/
def isNodeAct (t : Nat) : Act → Bool
  | .ev .matrixTableFire a => a.a == t
  | .ev .matrixWld a => a.a == t
  | .ev .matrixWeightTokenWrite a => a.a == t && a.c == 1
  | .ev .matrixAct a => a.a == t
  | .ev .matrixQuad a => a.a == t
  | .ev .matrixActivationPop a => a.a == t && a.b == 1
  | .ev .matrixGroupApply a => a.a == t
  | .ev .matrixDrnMx a => a.a == t
  | .ev .matrixDrnRowPush a => a.a == t
  | .ev .matrixDrnRaw a => a.a == t
  | .ev .matrixNorm a => a.a == t
  | .ev .matrixCommandComplete a => a.a == t
  | _ => false

/-- The pops of a node, and its watch on missing operands. -/
def isPopAct (t : Nat) : Act → Bool
  | .ev .matrixWeightTokenWrite a => a.a == t && a.c == 0
  | .ev .matrixActivationPop a => a.a == t && a.b == 0
  | .ev .matrixOperandLate a => a.a == t
  | .ev .matrixOperandArrived a => a.a == t
  | _ => false

/-- Moves everything that a node has still to do by one cycle: its clock is gated (R182). -/
def shiftNode (s : State) (t : Nat) : State :=
  let moved := s.agenda.map (fun it =>
    if isNodeAct t it.act ∧ 16 * s.mcnt ≤ it.time then { it with time := it.time + 16 } else it)
  ({ s with agenda := moved.foldl (fun l it => insertItem it l) [] }).modNode t
    (fun x => { x with counter := x.counter.map (fun c => c + 1), fed := x.fed + 1
                       feed := x.feed.map (fun (f : Feed) => if f.id.isNone then { f with at_ := f.at_ + 1 } else f) })

/-! ## Faults of the region (R182, R324) -/

/-- The slots whose commands a node holds, and the owner of its table. -/
def nodeUsers (x : MNode) : List Nat :=
  (if x.counter.isSome then [x.owner] else []) ++ x.queue.map (fun c => c.slot)
    ++ (x.wld ++ x.act.toList ++ x.drn.toList ++ x.norm).map (fun r => r.cmd.slot)

/-- One node freezes: its queue and application pipeline are discarded and its table stops. A command that has begun
counts as outstanding until the node is released. -/
def freezeNode (s : State) (t : Nat) : State :=
  let x := s.mnode t
  let s1 := (stopTable s t).unplan (fun a => isNodeAct t a || isPopAct t a)
  let s2 := s1.setNode t { x with counter := none, queue := [], wld := [], act := none, drn := none, norm := [], pipe := []
                                  feed := [], gated := false, stopping := false, frozen := true
                                  blame := if x.frozen then x.blame else nodeUsers x }
  endEngine s2 t 0 false

/-- A cause against the region: its record, and every node of the region freezes. -/
def regionFault (s : State) (t cause detail : Nat) : State :=
  (regionOf s t).foldl freezeNode (s.raise (dieOfTile t) cause (.region t (regionMember s t)) s.mcnt detail)

/-- The walker or a task end releases the node, idle and with its banks and accumulator as they stand (R324). -/
def releaseNode (s : State) (t : Nat) : State :=
  endEngine ((freezeNode s t).modNode t (fun x => { x with frozen := false, blame := [] })) t 0 true

/-- Poisoned data met by the region, which runs on (R182, R321). -/
def regionPoison (s : State) (t detail : Nat) : State :=
  s.raise (dieOfTile t) 0x0C1 (.region t (regionMember s t)) s.mcnt detail

/-! ## Load pipes (R176, R177, R182) -/

/-- Fields of an operand descriptor (R176). -/
def opdOf (s : State) (t k : Nat) : List Word := mget [] (s.mnode t).opd k
def opdPorts (d : List Word) : Bool := (d.getD 4 0).getLsbD 31
def opdPort (d : List Word) : Nat := ((d.getD 4 0).extractLsb' 28 3).toNat
def opdNp (d : List Word) : Nat := 2 ^ ((d.getD 4 0).extractLsb' 26 2).toNat
def opdBase (d : List Word) : Nat := (d.getD 5 0).toNat
def opdStride (d : List Word) : Int := (d.getD 6 0).toInt
def opdScale (d : List Word) : Nat := (d.getD 7 0).toNat

/-- The windows of a tile's load pipes: ports 0 to 7, entries 0 to 7 (R293). -/
def pipeWindows (s : State) (t : Nat) : List (List Word) := (List.range 8).flatMap (fun p => portWindows (s.sport (8 * t + p)))

/-- The flat address of a run of bytes that a load pipe reads or writes, or why it cannot. -/
def pipeAddr (s : State) (t slot : Nat) (c : BitVec 128) (write : Bool) (off : Int) (n : Nat) : Except Halt Nat :=
  let ctx := s.ctxOfTile t
  let need := rMX ||| rRD ||| (if write then rWR else 0)
  if !hasRights c need then .error (.fault 0x040 (capObj c))
  else
    match inCap c ((capLo c : Int) + off) n with
    | .addr va =>
      match s.objLook t ctx (capObj c) with
      | .absent => .error (.fault 0x043 (capObj c))
      | .miss => .error (.object (capObj c))
      | .hit r =>
        if r.ver ≠ capVer c then .error (.fault 0x043 (capObj c))
        else
          match translate s t ctx (capObj c) (s.slot slot).entry r (pipeWindows s t) va write with
          | .to a _ => .ok a
          | .trap x => .error (.fault x (vaDetail va))
          | .walk table => .error (.walk table va)
    | _ => .error (.fault 0x042 (capObj c))

/-- The pieces of memory, address and length, of a run of bytes that a load pipe reads or writes: one, or two where the run
goes on in another page (R177, R287). -/
def pipeRun (s : State) (t slot : Nat) (c : BitVec 128) (write : Bool) (off : Int) (n : Nat) : Except Halt (List (Nat × Nat)) :=
  match pipeAddr s t slot c write off n with
  | .error h => .error h
  | .ok a =>
    let k := 4096 - ((capLo c : Int) + off).toNat % 4096
    if n ≤ k then .ok [(a, n)]
    else
      match pipeAddr s t slot c write (off + (k : Int)) (n - k) with
      | .error h => .error h
      | .ok b => .ok [(a, k), (b, n - k)]

/-- The bytes of pieces of memory as one number. -/
def readPieces (s : State) : List (Nat × Nat) → Nat
  | [] => 0
  | p :: r => s.read p.1 p.2 + readPieces s r * 2 ^ (8 * p.2)

/-- Writes a number into pieces of memory. -/
def writePieces (s : State) : List (Nat × Nat) → Nat → State
  | [], _ => s
  | p :: r, v => writePieces (s.write p.1 (v % 2 ^ (8 * p.2)) p.2) r (v / 2 ^ (8 * p.2))

/-- A block at its mantissa and scale offsets, and whether it is poisoned; poisoned memory makes it a block of E = 0xFF (R182). -/
def pipeBlock (s : State) (t slot : Nat) (c : BitVec 128) (m : Nat) (mant scale : Int) : Except Halt (Blk × Bool) :=
  match pipeRun s t slot c false mant (4 * m) with
  | .error h => .error h
  | .ok ps =>
    match pipeAddr s t slot c false scale 1 with
    | .error h => .error h
    | .ok b =>
      if ps.any (fun p => isPoisoned s.poison p.1 p.2) || isPoisoned s.poison b 1 then .ok (⟨0xFF, 0⟩, true)
      else .ok (⟨s.read b 1, readPieces s ps⟩, false)

/-- Blocks of one tile or group, and how many of their reads met poison. -/
def pipeBlocks (s : State) (t slot : Nat) (c : BitVec 128) (m : Nat) : List (Int × Int) → Except Halt (List Blk × Nat)
  | [] => .ok ([], 0)
  | (a, b) :: r =>
    match pipeBlock s t slot c m a b with
    | .error h => .error h
    | .ok (x, p) =>
      match pipeBlocks s t slot c m r with
      | .error h => .error h
      | .ok (l, q) => .ok (x :: l, p.toNat + q)

/-- The 64-byte DRAM tokens in which blocks lie (R281). -/
def pipeNeeds (s : State) (t slot : Nat) (c : BitVec 128) (m : Nat) : List (Int × Int) → Except Halt (List (Nat × Nat))
  | [] => .ok []
  | (a, b) :: r =>
    match pipeRun s t slot c false a (4 * m), pipeAddr s t slot c false b 1, pipeNeeds s t slot c m r with
    | .ok ps, .ok x, .ok l => .ok ((ps ++ [(x, 1)]).filter (fun p => isDram p.1) ++ l)
    | .error h, _, _ => .error h
    | _, .error h, _ => .error h
    | _, _, .error h => .error h

/-- Memory as the load pipe of a command has it: the DRAM tokens that have come to it as they were read. -/
def pipeView (s : State) (r : MRun) : State :=
  r.toks.foldl (fun a e => a.writeTok e.1 { e.2 with valid := 0xFFFF#16 }) s

/-- The blocks that a running command reads, or what it waits for: a DRAM token is served by its Teller first (R281). -/
def runBlocks (s : State) (t : Nat) (r : MRun) (c : BitVec 128) (m : Nat) (offs : List (Int × Int)) : Except Halt (List Blk × Nat) :=
  match pipeNeeds s t r.cmd.slot c m offs with
  | .error h => .error h
  | .ok l =>
    let need := (tokenAddrs l).filter (fun a => (mfind r.toks a).isNone)
    if need.isEmpty then pipeBlocks (pipeView s r) t r.cmd.slot c m offs else .error (.tokens r.cmd.id need)

/-- A token has come from DRAM to the load pipe of a running command; `ix` is the command's number and the address (R281). -/
def pipeReturn (s : State) (t ix : Nat) (tok : Token) : State :=
  let put (r : MRun) : MRun := if r.cmd.id = ix / 2 ^ 41 then { r with toks := mset r.toks (ix % 2 ^ 41) tok } else r
  s.modNode t (fun x => { x with wld := x.wld.map put, act := x.act.map put })

/-- The load pipe asks for DRAM tokens that it has not asked for. -/
def askTokens (s : State) (t cmd : Nat) (l : List Nat) : State :=
  l.foldl (fun a p =>
    let who : Who := .pipe t (2 ^ 41 * cmd + p)
    if a.reqs.any (fun q => q.2.who == who) then a
    else sendReq a { who := who, ctx := s.ctxOfTile t, die := dieOfTile t, tile := some t, lt := (s.tile t).ltid, key := reqKey s t 8, write := false
                     parts := [⟨p, 64, 0, 0⟩], valid := 0xFFFF#16, poison := false, tag := 0 }) s

/-- Mantissa and scale offsets of block b of weight tile or group `ix`, which has `n` blocks (R177). -/
def planeOffs (d : List Word) (m n ix b : Nat) : Int × Int :=
  ((opdBase d : Int) + ix * opdStride d + 4 * m * b, ((opdScale d + n * ix + b : Nat) : Int))

/-- A load pipe cannot go on: a fault freezes the region, a walk is made while the command waits (R182). -/
def pipeHalt (s : State) (t : Nat) : Halt → State
  | .fault c d => regionFault s t c d
  | .walk table va =>
    if (s.tile t).walks.any (fun w => w.who == 8 && w.va == va) then s else queueWalk s t 8 (s.ctxOfTile t) va table false
  | .object o => if s.levelOf t = .t then regionFault s t 0x08C o else s.fetchObject t (s.ctxOfTile t) o
  | .tokens cmd l => askTokens s t cmd l

/-- The region's clock is gated until what it needs is there; a walk makes its command begin again (R182). -/
def pipeWaits (s : State) (t : Nat) : Halt → Bool
  | .fault _ _ => false
  | .object _ => s.levelOf t != .t
  | _ => true
def Halt.isWalk : Halt → Bool
  | .walk _ _ => true
  | _ => false

/-! ## Completion (R107, R187) -/

/-- Posts an engine-done record of the matrix node (R187). -/
def matrixRecord (s : State) (t : Nat) (w : BitVec 64) (entry status count : Nat) : State :=
  s.postRecord t 0 (recordOf (w.setWidth 32) (w.extractLsb' 32 32)
    (BitVec.ofNat 32 (0x01 * 2 ^ 24 + cmdKind w * 2 ^ 16 + entry)) (BitVec.ofNat 32 (0x04 * 2 ^ 24 + status * 2 ^ 16 + count)))

/-- A command completes: its record, its barrier arrival, and its place among the commands of its block. -/
def finishMatrix (s : State) (t : Nat) (r : MRun) : State :=
  let w := r.cmd.word
  let s1 := if cmdEvr w then matrixRecord s t w r.cmd.entry r.pois.toNat r.next else s
  let s2 := if cmdBarv w then s1.arrive t (cmdBar w) else s1
  s2.endCommand r.cmd.id r.cmd.slot

/-! ## The queue (R179, R180) -/

/-- Commands of the queue that have not been discarded. -/
def liveQueue (s : State) (t : Nat) : List MCmd := (s.mnode t).queue.filter (fun c => (mfind s.cmds c.id).isSome)

/-- The first command in order of begin cycle, then acceptance. -/
def headOf (s : State) (t : Nat) : Option MCmd :=
  (liveQueue s t).foldl (fun (b : Option MCmd) c => match b with
    | none => some c
    | some d => if c.begin_ < d.begin_ ∨ (c.begin_ = d.begin_ ∧ c.order < d.order) then some c else some d) none

/-- The event that begins a command. -/
def beginEvent (w : BitVec 64) : Instr :=
  match cmdKind w with
  | 1 => .matrixWld
  | 2 => .matrixAct
  | 3 => if drnRaw w then .matrixDrnRaw else .matrixDrnMx
  | 4 => .matrixNorm
  | _ => .matrixQuad

/-- Plans the begin of the first command of the queue. -/
def kickQueue (s : State) (t : Nat) : State :=
  match headOf s t with
  | some c => planOnce s (max s.mcnt c.begin_) rkEngine (beginEvent c.word) t 0 0
  | none => s

/-- The activation buffer looks at what it can pop, once a cycle. -/
def kickFeed (s : State) (t : Nat) : State := planOnce s (max s.mcnt (s.mnode t).popAt) rkPort .matrixActivationPop t 0 0

/-- Cycles from one cycle on to the next firing of a START. -/
def untilFire (c0 period start c : Nat) : Nat := if c < c0 then c0 + start - c else (start + period - (c - c0) % period) % period

/-- A table entry can fire (R178, R179). -/
def fires (x : MNode) (w : BitVec 64) : Bool := cmdOk x w && decide (cmdStart w < x.period)

/-- The entries that fire in a cycle. -/
def firing (x : MNode) (now : Nat) : List (Nat × BitVec 64) :=
  match x.counter with
  | none => []
  | some c0 => x.table.filter (fun e => fires x e.2 && untilFire c0 x.period (cmdStart e.2) now == 0)

/-- The first of n cycles from c on in which no table entry fires. -/
def quietFrom (x : MNode) : Nat → Nat → Option Nat
  | 0, _ => none
  | n + 1, c => if (firing x c).isEmpty then some c else quietFrom x n (c + 1)

/-- The cycle in which the node accepts what a VE hands to it now: it takes one command a cycle, in the order of the VEs, and a
firing of the table takes its cycle first (R88, R179). The cycle is fixed by the table as it stands at issue. Where the table
fires in every cycle there is none. -/
def acceptAt (s : State) (t : Nat) : Option Nat := quietFrom (s.mnode t) 257 (max s.mcnt (s.mnode t).free)

/-- The node accepts a command in a cycle (R88, R179); `start` is the block start for a command with an offset. -/
def acceptMatrix (s : State) (t : Nat) (w : BitVec 64) (entry slot acc : Nat) : State :=
  let (id, s1) := s.fresh
  let table := decide (entry < 256)
  let offset := !table && decide (cmdStart w ≠ 0xFFFFF)
  let b := if offset then max acc ((s.slot slot).start + cmdStart w) else acc
  let c : MCmd := { word := w, entry := entry, slot := slot, id := id, begin_ := b, order := id }
  let s2 := { s1 with cmds := mset s1.cmds id { slot := slot, offset := offset, engine := 0, channel := 0, begun := false } }
  let name (l : List Feed) : List Feed :=
    match l.findIdx? (fun f => table && f.id.isNone && f.at_ == acc && f.word == w) with
    | some i => l.modify i (fun f => { f with id := some id })
    | none => l
  kickFeed (kickQueue (s2.modNode t (fun x => { x with queue := x.queue ++ [c], free := max x.free (acc + 1), feed := name x.feed })) t) t

/-- The command of a run uses a bank. -/
def usesBank (k : Nat) (r : Option MRun) : Bool := match r with
  | some x => cmdBank x.cmd.word == k
  | none => false

/-- An activation in progress has still to apply to a group that a DRN names. -/
def pendingGroup (w : BitVec 64) (r : Option MRun) : Bool := match r with
  | some x =>
    let a := x.cmd.word
    (List.range (actGroups a)).any (fun g => decide (x.next ≤ g) && decide (drnAccg w ≤ actAccg a + g)
      && decide (actAccg a + g < drnAccg w + drnGroups w))
  | none => false

/-- A WLD or a raw DRN of the node waits for a walk, or the node is to stop: it takes no group (R182, R185). -/
def heldUp (x : MNode) : Bool := x.stopping || x.wld.any MRun.wait || x.drn.any MRun.wait

/-- The resource of a command is free on one node, and the node need not stop (R180, R185). -/
def resourceFree (x : MNode) (w : BitVec 64) : Bool :=
  !x.gated && !x.frozen && !heldUp x && !x.act.any MRun.wait && (match cmdKind w with
    | 1 => !(x.wld.any (fun r => cmdBank r.cmd.word == cmdBank w)) && !usesBank (cmdBank w) x.act
    | 3 => x.drn.isNone && !pendingGroup w x.act
    | 4 => true
    | _ => x.act.isNone && !(x.wld.any (fun r => cmdBank r.cmd.word == cmdBank w)))

/-- The uncorrectable word of the descriptor that a command uses, if any (R176, R326). -/
def badDesc (s : State) (t : Nat) (w : BitVec 64) : Option (CfgPart × Nat) :=
  s.badWord t .descriptor (fun i => match cmdKind w with
    | 3 => drnRaw w && i / 8 == drnOpd w
    | 4 => false
    | _ => i / 8 == cmdOpd w)

/-- A QUAD begins on its four members together, once each of them has its command first, may take it and holds no record (R184). -/
def mayBegin (s : State) (t : Nat) (w : BitVec 64) : Bool :=
  if cmdKind w = 5 then
    (List.range 4).all (fun k =>
      let m := memberTile s t k
      ((s.mnode m).act.any (fun r => cmdKind r.cmd.word == 5 && decide (r.cmd.begin_ = s.mcnt)))
        || (match headOf s m with
          | some c => cmdKind c.word == 5 && decide (c.begin_ ≤ s.mcnt) && resourceFree (s.mnode m) c.word && !s.recordHeld m 0
            && (badDesc s m c.word).isNone
          | none => false)) && resourceFree (s.mnode t) w && !s.recordHeld t 0
  else resourceFree (s.mnode t) w && !s.recordHeld t 0

/-- Begins the first command of the queue where it is of the kind of the event, its cycle has come and its resource is
free; otherwise it looks again in the next cycle. -/
def beginWith (s : State) (t : Nat) (i : Instr) (start : State → MRun → State) : State :=
  match headOf s t with
  | some c =>
    if beginEvent c.word = i ∧ c.begin_ ≤ s.mcnt then
      match badDesc s t c.word with
      | some u => s.failLoad t u.1 u.2
      | none =>
      if mayBegin s t c.word then
        let c' := { c with begin_ := s.mcnt }
        let s1 := s.modNode t (fun x => { x with queue := x.queue.filter (fun d => d.id != c.id) })
        let m : Command := { slot := c.slot, offset := false, engine := 0, channel := 0, begun := true }
        let s2 := { s1 with cmds := mset s1.cmds c.id m }
        kickQueue (start (s2.drainBlock c.slot) { cmd := c', next := 0, take := 0, buf := [], pois := false, wait := false, toks := [] }) t
      else if (s.mnode t).frozen then s
      else planOnce s (s.mcnt + 1) rkEngine i t 0 0
    else s
  | none => s

/-! ## The modulo table (R179, R188) -/

/-- The earliest firing of an entry that a test admits, from a cycle on: cycle and entry. -/
def nextFire (x : MNode) (c : Nat) (p : BitVec 64 → Bool) : Option (Nat × Nat) :=
  match x.counter with
  | none => none
  | some c0 =>
    x.table.foldl (fun (b : Option (Nat × Nat)) e =>
      if !fires x e.2 ∨ !p e.2 then b
      else
        let d := c + untilFire c0 x.period (cmdStart e.2) c
        match b with
        | some q => if d < q.1 then some (d, e.1) else b
        | none => some (d, e.1)) none

/-- Plans the table's next firing, from a cycle on. -/
def planTable (s : State) (t c : Nat) : State :=
  let s1 := s.unplan (isTableFire t)
  match nextFire (s.mnode t) c (fun _ => true) with
  | some (d, _) => s1.planN d rkHold .matrixTableFire t 0
  | none => s1

/-! ## The activation buffer (R181) -/

/-- The groups that a command reads from the stream ports of a tile (R184). -/
def feedGroups (s : State) (t : Nat) (w : BitVec 64) : List Nat :=
  (List.range (actGroups w)).filter (fun g => cmdKind w == 2 || g % 2 == memberOfTile s t % 2)

/-- A command takes its activations from stream ports. -/
def streamed (s : State) (t : Nat) (w : BitVec 64) : Bool :=
  (cmdKind w == 2 || cmdKind w == 5) && opdPorts (opdOf s t (cmdOpd w))

/-- A buffer entry whose every group has all its tokens. -/
def Feed.full (f : Feed) : Bool := f.todo.isEmpty && f.groups.all (fun g => decide (33 ≤ g.2.length))

/-- The next command for which the buffer fills: the oldest of the queue or the next table entry to fire. -/
def nextFeed (s : State) (t : Nat) : Option Feed :=
  let x := s.mnode t
  let new (id : Option Nat) (at_ : Nat) (w : BitVec 64) : Feed :=
    { id := id, at_ := at_, word := w, todo := feedGroups s t w, groups := [] }
  let now := match x.act with
    | some r => if streamed s t r.cmd.word ∧ r.take = 0 then [r.cmd] else []
    | none => []
  let q := (now ++ liveQueue s t).find? (fun c => streamed s t c.word && !(x.feed.any (fun f => f.id == some c.id)))
  let e := nextFire x (max s.mcnt (x.fed + 1)) (streamed s t)
  match q, e with
  | some c, some (d, k) => if c.begin_ ≤ d then some (new (some c.id) c.begin_ c.word) else some (new none d (mget 0 x.table k))
  | some c, none => some (new (some c.id) c.begin_ c.word)
  | none, some (d, k) => some (new none d (mget 0 x.table k))
  | none, none => none

/-- Adds the next command to the buffer's list once every listed one has been popped. -/
def extendFeed (s : State) (t : Nat) : State :=
  if (s.mnode t).feed.all Feed.full then
    match nextFeed s t with
    | some f => s.modNode t (fun x => { x with feed := x.feed ++ [f], fed := if f.id.isNone then f.at_ else x.fed })
    | none => s
  else s

/-- The group of a buffer entry that takes the next token of port p: the one begun, or the next to begin where the buffer
has room. -/
def groupFor (f : Feed) (np p held : Nat) : Option Nat :=
  match f.groups.find? (fun g => g.1 % np == p && decide (g.2.length < 33)) with
  | some g => some g.1
  | none => if held < 2 then f.todo.find? (fun g => g % np == p) else none

/-- The tokens that a port presents to the node: those presented by the end of the cycle before (R181, R295). -/
def shownTokens (s : State) (m : Nat) : List Token :=
  let p := s.sport m
  if p.lastShown = s.mcnt + 1 then p.present.dropLast else p.present

/-- Takes one token from a port of the tile. -/
def takePort (s : State) (m : Nat) : State := kickRead (s.modSport m (fun p => { p with present := p.present.tail })) m 8

/-- Pops at most one token from a port for the command that the buffer fills. -/
def popFeed (s : State) (t p : Nat) : State :=
  let x := s.mnode t
  match x.feed.findIdx? (fun f => !f.full) with
  | none => s
  | some i =>
    match x.feed[i]? with
    | none => s
    | some f =>
      let d := opdOf s t (cmdOpd f.word)
      let m := 8 * t + opdPort d + p
      match groupFor f (opdNp d) p (x.feed.foldl (fun n g => n + g.groups.length) 0), (shownTokens s m).head? with
      | some g, some tok =>
        takePort (s.setNode t { x with feed := x.feed.modify i (fun f =>
          { f with todo := f.todo.filter (fun h => h != g), groups := mset f.groups g (mget [] f.groups g ++ [tok]) }) }) m
      | _, _ => s

/-- The entries of the buffer whose command has been discarded, or whose table entry has not fired after all, go (R186, R188). -/
def pruneFeed (s : State) (t : Nat) : State :=
  s.modNode t (fun x => { x with feed := x.feed.filter (fun f => match f.id with
    | some i => (mfind s.cmds i).isSome
    | none => decide (s.mcnt ≤ f.at_)) })

/-- MATRIX_ACTIVATION_POP: the buffer pops one token from each port (`b` 0), or the space of a group is free (`b` 1). -/
def execMatrixActivationPop (s : State) : Host.Outcome State Fault Refusal :=
  let t := s.arg.a
  .next (if s.arg.b = 1 then
      let free (f : Feed) : Feed := if f.id = some s.arg.d then { f with groups := mdel f.groups s.arg.c } else f
      kickFeed (s.modNode t (fun x =>
        { x with feed := (x.feed.map free).filter (fun f => !(f.todo.isEmpty && f.groups.isEmpty)), popAt := s.mcnt + 1 })) t
    else if (s.mnode t).frozen then s
    else
      let s1 := (List.range 4).foldl (fun a p => popFeed a t p)
        (extendFeed (pruneFeed (s.modNode t (fun x => { x with popAt := s.mcnt + 1 })) t) t)
      if (s1.mnode t).feed.all Feed.full && (nextFeed s1 t).isNone then s1
      else planOnce s1 (s.mcnt + 1) rkPort .matrixActivationPop t 0 0)

/-! ## WLD (R177, R181) -/

/-- Writes a weight block. -/
def putWeight (s : State) (t bank b : Nat) (x : Blk) : State := s.modNode t (fun y => { y with wts := mset y.wts (128 * bank + b) x })

/-- Blocks from b of a bank have been loaded anew (`fresh`), or more of them has been; poisoned data makes them poisoned entries (R182). -/
def markWeights (s : State) (t bank b n : Nat) (fresh pois : Bool) : State :=
  let mine (i : Nat) : Bool := decide (128 * bank + b ≤ i) && decide (i < 128 * bank + b + n)
  s.modNode t (fun y => { y with badw := y.badw.filter (fun i => !mine i || (!fresh && !pois))
    ++ (if pois then (List.range n).map (fun i => 128 * bank + b + i) else []) })

/-- The run of a WLD on a bank. -/
def wldRun (s : State) (t bank : Nat) : Option MRun := (s.mnode t).wld.find? (fun r => cmdBank r.cmd.word == bank)
def modWld (s : State) (t bank : Nat) (f : MRun → MRun) : State :=
  s.modNode t (fun x => { x with wld := x.wld.map (fun r => if cmdBank r.cmd.word = bank then f r else r) })

/-- A WLD begins: the bank takes its format, and blocks or tokens follow, one per cycle. -/
def beginWld (s : State) (r : MRun) : State :=
  let t := tileOfSlot r.cmd.slot
  let w := r.cmd.word
  let s1 := s.modNode t (fun x => { x with wld := x.wld ++ [r], mw0 := if cmdBank w = 0 then cmdWidth w else x.mw0
                                           mw1 := if cmdBank w = 1 then cmdWidth w else x.mw1 })
  if opdPorts (opdOf s t (cmdOpd w)) then
    (s1.planEv s.mcnt rkPort .matrixWeightTokenWrite (Arg.of t 0 0 (cmdBank w) 0)).planEv (s.mcnt + 7) rkPerform
      .matrixWeightTokenWrite (Arg.of t 0 1 (cmdBank w) 0)
  else s1.planEv (s.mcnt + 8) rkPerform .matrixWld (Arg.of t 1 (cmdBank w) 0 0)

/-- Block k of a WLD from memory is written to its bank. While a walk is made the WLD stands still; after it the WLD starts again
with block 0 (R182). -/
def loadWeight (s : State) (t k bank : Nat) : State :=
  match wldRun s t bank with
  | none => s
  | some r =>
    let w := r.cmd.word
    let d := opdOf s t (cmdOpd w)
    let o := planeOffs d (cmdWidth w) 128 (wldTile w) k
    let next (c k' : Nat) (a : State) : State := a.planEv c rkPerform .matrixWld (Arg.of t (k' + 1) bank 0 0)
    match runBlocks s t r (capAt d 0) (cmdWidth w) [o] with
    | .error h =>
      if !pipeWaits s t h then pipeHalt s t h
      else next (s.mcnt + 1) k (modWld (pipeHalt s t h) t bank (fun r => { r with wait := r.wait || h.isWalk }))
    | .ok (bs, n) =>
      let b := bs.headD Blk.zero
      let p := decide (0 < n)
      let s1 := if p then let (w, a) := s.drawWord; regionPoison a t w.toNat else s
      let s2 := modWld (markWeights (putWeight s1 t bank k b) t bank k 1 true p) t bank
        (fun r => { r with next := k + 1, pois := r.pois || p })
      if r.wait then kickQueue (next (s.mcnt + 8) 0 (modWld s t bank (fun r => { r with next := 0, wait := false }))) t
      else if k = 127 then s2.planEv s.mcnt rkComplete .matrixCommandComplete (Arg.of t 1 bank 0 0) else next (s.mcnt + 1) (k + 1) s2

/-- MATRIX_WLD: a WLD begins (`b` 0), or its block `b` − 1 is written. -/
def execMatrixWld (s : State) : Host.Outcome State Fault Refusal :=
  .next (if s.arg.b = 0 then beginWith s s.arg.a .matrixWld beginWld else loadWeight s s.arg.a (s.arg.b - 1) s.arg.c)

/-- The port of weight token k or of group g of a descriptor. -/
def opdMe (t : Nat) (d : List Word) (g : Nat) : Nat := 8 * t + opdPort d + g % opdNp d

/-- A token's member p, or its scale for p = 0, added to a block; poison makes it a block of E = 0xFF. -/
def addMember (m p : Nat) (tok : Token) (l : Nat) (b : Blk) : Blk :=
  let w := if tok.valid.getLsbD l then (lane tok.data l).toNat else 0
  if p = 0 then ⟨if tok.poison then 0xFF else w % 256, 0⟩
  else if tok.poison then ⟨0xFF, 0⟩
  else { b with str := b.str + w % 2 ^ m * 2 ^ (m * (p - 1)) }

/-- Token k of a WLD is written to its bank. -/
def writeWeights (s : State) (t k bank : Nat) (r : MRun) (tok : Token) : State :=
  let m := cmdWidth r.cmd.word
  let s1 := if tok.poison then regionPoison s t (opdPort (opdOf s t (cmdOpd r.cmd.word))) else s
  let s2 := (List.range 16).foldl (fun a l =>
    let b := 16 * (k / 33) + l
    putWeight a t bank b (addMember m (k % 33) tok l (mget Blk.zero (a.mnode t).wts (128 * bank + b)))) s1
  modWld (markWeights s2 t bank (16 * (k / 33)) 16 (k % 33 == 0) tok.poison) t bank (fun r => { r with next := 16 * ((k + 1) / 33), buf := r.buf.tail, pois := r.pois || tok.poison })

/-- MATRIX_WEIGHT_TOKEN_WRITE: token `b` of a streamed WLD on bank `d` is popped (`c` 0), or written to the bank (`c` 1)
where the node holds it. -/
def execMatrixWeightTokenWrite (s : State) : Host.Outcome State Fault Refusal :=
  let t := s.arg.a
  let k := s.arg.b
  let bank := s.arg.d
  .next (match wldRun s t bank with
    | none => s
    | some r =>
      if s.arg.c = 0 then
        let m := opdMe t (opdOf s t (cmdOpd r.cmd.word)) (k / 33)
        match (shownTokens s m).head? with
        | some tok =>
          let s1 := takePort (modWld s t bank (fun r => { r with buf := r.buf ++ [tok] })) m
          if k < 263 then s1.planEv (s.mcnt + 1) rkPort .matrixWeightTokenWrite (Arg.of t (k + 1) 0 bank 0) else s1
        | none => s.planEv (s.mcnt + 1) rkPort .matrixWeightTokenWrite (Arg.of t k 0 bank 0)
      else
        match r.buf with
        | tok :: _ =>
          let s1 := writeWeights s t k bank r tok
          if k < 263 then s1.planEv (s.mcnt + 1) rkPerform .matrixWeightTokenWrite (Arg.of t (k + 1) 1 bank 0)
          else s1.planEv (s.mcnt + 1) rkComplete .matrixCommandComplete (Arg.of t 1 bank 0 0)
        | [] => s.planEv s.mcnt rkPerform .matrixOperandLate (Arg.of t 1 k bank 0))

/-! ## ACT and QUAD (R54, R55, R175, R181, R184) -/

/-- The members of a QUAD that read group g's halves: the K 0 to 63 half, then the K 64 to 127 half. -/
def readerOf (g half : Nat) : Nat := 2 * half + g % 2

/-- The node itself reads group g of its command. -/
def readsGroup (s : State) (t g : Nat) (w : BitVec 64) : Bool := cmdKind w == 2 || g % 2 == memberOfTile s t % 2

/-- The blocks of a group of 33 tokens in stream form. -/
def groupOfTokens (m : Nat) (toks : List Token) : List Blk :=
  (List.range 16).map (fun l => (toks.zip (List.range 33)).foldl (fun b p => addMember m p.2 p.1 l b) Blk.zero)

/-- The tokens of group g of a command in the buffer. -/
def bufferedGroup (s : State) (t id g : Nat) : List Token :=
  match (s.mnode t).feed.find? (fun f => f.id == some id) with
  | some f => mget [] f.groups g
  | none => []

/-- Group g's blocks are held in the node, as blocks with the number of reads that met poison, or why they are not. -/
inductive GroupRes where
  | held (bs : List Blk) (pois : Nat)
  | missing
  | halt (h : Halt)

def GroupRes.isMissing : GroupRes → Bool
  | .missing => true
  | _ => false
def GroupRes.isHalt : GroupRes → Bool
  | .halt _ => true
  | _ => false
def GroupRes.poisoned : GroupRes → Bool
  | .held _ p => decide (0 < p)
  | _ => false

/-- The blocks of group g that this node reads. -/
def groupBlksOf (s : State) (t g : Nat) (r : MRun) : GroupRes :=
  let w := r.cmd.word
  let d := opdOf s t (cmdOpd w)
  let m := cmdWidth w
  if !readsGroup s t g w then .held [] 0
  else if opdPorts d then
    let toks := bufferedGroup s t r.cmd.id g
    if toks.length < 33 then .missing else .held (groupOfTokens m toks) (toks.countP Token.poison)
  else
    match runBlocks s t r (capAt d 0) m ((List.range 16).map (planeOffs d m 16 (actGoff w + g))) with
    | .ok (bs, p) => .held bs p
    | .error h => .halt h

/-- The event of an activation command's groups. -/
def groupEvent (w : BitVec 64) : Instr := if cmdKind w = 5 then .matrixQuad else .matrixAct

/-- An ACT or QUAD begins; group 0 computes at once. -/
def beginAct (s : State) (r : MRun) : State :=
  let t := tileOfSlot r.cmd.slot
  let s1 := s.modNode t (fun x => { x with act := some r, pipe := [] })
  kickFeed (s1.planEv s.mcnt rkEngine (groupEvent r.cmd.word) (Arg.of t 1 0 0 0)) t

/-- The other members of a joint operation (R184). -/
def partners (s : State) (t : Nat) (w : BitVec 64) : List Nat :=
  if cmdKind w = 5 then ((List.range 4).map (memberTile s t)).filter (fun m => m != t) else []

/-- What a member of a joint operation has of group g. -/
def memberGroup (s : State) (m g : Nat) : GroupRes := match (s.mnode m).act with
  | some r => groupBlksOf s m g r
  | none => .held [] 0

/-- A bank of a node holds poisoned entries. -/
def badBank (s : State) (m bank : Nat) : Bool := (s.mnode m).badw.any (fun i => i / 128 == bank)

/-- The partials that a node computes or applies for group g rest on poisoned data, of its own or of a partner (R182, R184). -/
def metPoison (s : State) (t g : Nat) (w : BitVec 64) : Bool :=
  let bank := cmdBank w
  if cmdKind w = 5 then
    let m := memberOfTile s t
    let half (h : Nat) : Bool := (memberGroup s (memberTile s t (readerOf g h)) g).poisoned
    badBank s t bank || half (m / 2) || (decide (2 ≤ m) && (half 0 || badBank s (memberTile s t (m % 2)) bank))
  else (memberGroup s t g).poisoned || badBank s t bank

/-- A class 3 record for every poisoned entry of the bank that a group uses (R182). -/
def bankPoison (s : State) (t bank : Nat) : State :=
  ((s.mnode t).badw.filter (fun i => i / 128 == bank)).foldl (fun a _ => let (x, b) := a.drawWord; regionPoison b t x.toNat) s

/-- A class 3 record for each read of a group that met poison: of a port, or of a place that no rule gives a DETAIL (R182, R321). -/
def readPoison (s : State) (t : Nat) (port : Option Nat) : Nat → State
  | 0 => s
  | n + 1 => readPoison (match port with
    | some p => regionPoison s t p
    | none => let (x, a) := s.drawWord; regionPoison a t x.toNat) t port n

/-- Group g is taken: it computes from this cycle, and what follows stands on the agenda (R181). -/
def takeGroup (s : State) (t g : Nat) (r : MRun) (bs : List Blk) (p : Nat) : State :=
  let w := r.cmd.word
  let ma := cmdWidth w
  let c := s.mcnt
  let port := opdPorts (opdOf s t (cmdOpd w)) && readsGroup s t g w
  let s1 := readPoison s t (if port then some (opdMe t (opdOf s t (cmdOpd w)) g % 8) else none) p
  let met := metPoison s t g w
  let s2 := (bankPoison s1 t (cmdBank w)).modNode t (fun x =>
    { x with pipe := mset x.pipe g bs, act := x.act.map (fun r => { r with take := g + 1, pois := r.pois || met, wait := false }) })
  let s3 := s2.planEv (c + 8 * ma + 5) rkPerform .matrixGroupApply (Arg.of t g 0 0 0)
  let s4 := if port then s3.planEv (c + 8 * ma - 1) rkComplete .matrixActivationPop (Arg.of t 1 g r.cmd.id 0) else s3
  if g + 1 < actGroups w then s4.planEv (c + 8 * ma) rkEngine (groupEvent w) (Arg.of t (g + 2) 0 0 0) else s4

/-- Group g's cycle c_g has come. It is taken where its blocks are held, by every member of a joint operation, and no node of them
need stop. A node whose blocks are missing raises that for the region; while a walk is made, or a partner stops, the group comes
again in the next cycle (R181, R182, R184, R185). -/
def groupTurn (s : State) (t g : Nat) : State :=
  match (s.mnode t).act with
  | none => s
  | some r =>
    let again (a : State) : State := a.planEv (s.mcnt + 1) rkEngine (groupEvent r.cmd.word) (Arg.of t (g + 1) 0 0 0)
    let ps := partners s t r.cmd.word
    if (s.mnode t).stopping then s
    else if heldUp (s.mnode t) ∨ ps.any (fun m => heldUp (s.mnode m)) then again s
    else
      match groupBlksOf s t g r with
      | .missing => s.planEv s.mcnt rkEngine .matrixOperandLate (Arg.of t 0 g 0 0)
      | .halt h => if !pipeWaits s t h then pipeHalt s t h else again ((pipeHalt s t h).modNode t (fun x => { x with act := x.act.map (fun r => { r with wait := true }) }))
      | .held bs p =>
        let others := ps.map (fun m => memberGroup s m g)
        if others.any GroupRes.isMissing then s
        else if others.any GroupRes.isHalt then again s
        else takeGroup s t g r bs p

/-- MATRIX_ACT: an ACT begins (`b` 0), or its group `b` − 1 is to compute. -/
def execMatrixAct (s : State) : Host.Outcome State Fault Refusal :=
  .next (if s.arg.b = 0 then beginWith s s.arg.a .matrixAct beginAct else groupTurn s s.arg.a (s.arg.b - 1))

/-- MATRIX_QUAD: a QUAD begins (`b` 0), or its group `b` − 1 is to compute. -/
def execMatrixQuad (s : State) : Host.Outcome State Fault Refusal :=
  .next (if s.arg.b = 0 then beginWith s s.arg.a .matrixQuad beginAct else groupTurn s s.arg.a (s.arg.b - 1))

/-- Σ W_k · A_k over the 32 members of two blocks. -/
def dotBlocks (mw ma : Nat) (w a : Blk) : Nat → Int
  | 0 => 0
  | k + 1 => dotBlocks mw ma w a k + (memberOf mw w.str k).toInt * (memberOf ma a.str k).toInt

/-- The partial of a K-block: its poison, P and Xp (R54). -/
def partialOf (mw ma : Nat) (w a : Blk) : Bool × Int × Nat :=
  if w.e = 0xFF ∨ a.e = 0xFF then (true, 0, 0)
  else if w.e = 0 ∨ a.e = 0 then (false, 0, 0)
  else (false, dotBlocks mw ma w a 32, w.e + a.e + 261 - mw - ma)

/-- Carry-save addition of a partial to a token (R55). -/
def csaAdd (k : CsTok) (pois : Bool) (p : Int) (xp : Nat) : CsTok :=
  let xn := max k.x xp
  let s := k.s.sshiftRight (min (xn - k.x) 63)
  let c := k.c.sshiftRight (min (xn - k.x) 63)
  let sp := (BitVec.ofInt 64 (p * 2 ^ 16)).sshiftRight (min (xn - xp) 63)
  { s := s ^^^ c ^^^ sp, c := ((s &&& c) ||| (s &&& sp) ||| (c &&& sp)) <<< 1, x := xn, pois := k.pois || pois }

/-- The format of a bank. -/
def bankWidth (x : MNode) (k : Nat) : Nat := if k = 0 then x.mw0 else x.mw1

/-- Adds K-blocks 0 and 1 of a row and column to a token (R175). -/
def addRow (x : MNode) (bank ma n : Nat) (bs : List Blk) (j : Nat) (k : CsTok) : CsTok :=
  (List.range 2).foldl (fun k kb =>
    let (p, v, e) := partialOf (bankWidth x bank) ma (mget Blk.zero x.wts (128 * bank + 2 * n + kb)) (bs.getD (2 * j + kb) Blk.zero)
    csaAdd k p v e) k

/-- The nodes and activation blocks that a group's application adds, in order (R184). -/
def sources (s : State) (t g : Nat) (w : BitVec 64) : List (Nat × List Blk) :=
  if cmdKind w = 2 then [(t, mget [] (s.mnode t).pipe g)]
  else
    let m := memberOfTile s t
    if m < 2 then []
    else
      (List.range 2).map (fun h =>
        (memberTile s t (m % 2 + 2 * h), mget [] (s.mnode (memberTile s t (readerOf g h))).pipe g))

/-- Applies group g to its accumulator group (R175, R181, R184). -/
def applyGroup (s : State) (t g : Nat) (w : BitVec 64) : State :=
  let src := sources s t g w
  let base := 8 * (actAccg w + g)
  let acc := (List.range 512).foldl (fun m i =>
    let row := base + i / 64
    let n := i % 64
    let k0 := if actInit w then mget CsTok.empty m (64 * row + n) else CsTok.empty
    mset m (64 * row + n) (src.foldl (fun k q => addRow (s.mnode q.1) (cmdBank w) (cmdWidth w) n q.2 (i / 64) k) k0)) (s.mnode t).acc
  if src.isEmpty then s else s.modNode t (fun x => { x with acc := acc })

/-- MATRIX_GROUP_APPLY: the partials of group `b` are applied; the last group completes the command. -/
def execMatrixGroupApply (s : State) : Host.Outcome State Fault Refusal :=
  let t := s.arg.a
  .next (match (s.mnode t).act with
    | none => s
    | some r =>
      let s1 := (applyGroup s t s.arg.b r.cmd.word).modNode t (fun x => { x with act := some { r with next := s.arg.b + 1 } })
      if s.arg.b + 1 = actGroups r.cmd.word then
        s1.planEv s.mcnt rkComplete .matrixCommandComplete (Arg.of t (cmdKind r.cmd.word) 0 0 0)
      else s1)

/-! ## DRN and NORM (R56, R181, R183) -/

/-- The normaliser: FP32 and flags of a token (R56, R183). -/
def normalise (mode : Nat) (k : CsTok) : Word × Flags :=
  if k.pois then (0x7FC0_0000, fNV)
  else
    let v : Int := k.s.toInt + k.c.toInt
    let (b, f) := roundTo fp32 (rmodeOf mode) false 0#32 (decide (v < 0)) v.natAbs ((k.x : Int) - 527)
    (BitVec.ofNat 32 b, f &&& (fNV ||| fOF ||| fUF ||| fNX))

/-- The tokens of a row as four MX tokens and the flags of the row. -/
def normRow (x : MNode) (row : Nat) : List Vec × Flags :=
  let f (n : Nat) : Word × Flags := normalise x.nmode (mget CsTok.empty x.acc (64 * row + n))
  ((List.range 4).map (fun q => ofLanes (fun l => (f (16 * q + l)).1)), (List.range 64).foldl (fun a n => a ||| (f n).2) noFlags)

/-- A drained row becomes the empty token. -/
def clearRow (x : MNode) (row : Nat) : MNode :=
  { x with acc := (List.range 64).foldl (fun m n => mset m (64 * row + n) CsTok.empty) x.acc }

/-- A DRN through the normaliser begins. -/
def beginDrnMx (s : State) (r : MRun) : State :=
  let t := tileOfSlot r.cmd.slot
  (s.modNode t (fun x => { x with drn := some r })).planN (s.mcnt + 12) rkComplete .matrixDrnRowPush t 0

/-- MATRIX_DRN_MX. -/
def execMatrixDrnMx (s : State) : Host.Outcome State Fault Refusal := .next (beginWith s s.arg.a .matrixDrnMx beginDrnMx)

/-- Pushes row r of a drain into the MX queues of VEs 4 to 7. -/
def pushRow (s : State) (t row : Nat) : State :=
  let (vs, _) := normRow (s.mnode t) row
  (List.range 4).foldl (fun a q => a.modElem (8 * t + 4 + q) (fun e =>
    { e with mx := e.mx ++ [{ data := vs.getD q 0, valid := 0xFFFF#16, poison := false }] })) s

/-- The MX queue of a VE takes a token: it is not full, and the VE is not blocked (R30, R96, R181). -/
def takesRow (s : State) (v : Nat) : Bool := decide ((s.elem v).mx.length < 64) && !(s.elem v).blocked

/-- MATRIX_DRN_ROW_PUSH: row `b`; a full MX queue, or a blocked VE, holds the drain. -/
def execMatrixDrnRowPush (s : State) : Host.Outcome State Fault Refusal :=
  let t := s.arg.a
  let r := s.arg.b
  .next (match (s.mnode t).drn with
    | none => s
    | some d =>
      if (List.range 4).any (fun q => !takesRow s (8 * t + 4 + q)) then
        s.planN (s.mcnt + 1) rkComplete .matrixDrnRowPush t r
      else
        let row := 8 * drnAccg d.cmd.word + r
        let f := (normRow (s.mnode t) row).2
        let s1 := (pushRow s t row).modNode t (fun x =>
          { (if drnClr d.cmd.word then clearRow x row else x) with nflags := x.nflags ||| f, drn := some { d with next := r + 1 } })
        if r + 1 < 8 * drnGroups d.cmd.word then s1.planN (s.mcnt + 1) rkComplete .matrixDrnRowPush t (r + 1)
        else s1.planEv s.mcnt rkComplete .matrixCommandComplete (Arg.of t 3 0 0 0))

/-- A token as its 32 bytes (R53). -/
def csBytes (k : CsTok) : Nat := k.s.toNat + k.c.toNat * 2 ^ 64 + k.x % 1024 * 2 ^ 128 + k.pois.toNat * 2 ^ 138

/-- A raw DRN begins. -/
def beginDrnRaw (s : State) (r : MRun) : State :=
  let t := tileOfSlot r.cmd.slot
  (s.modNode t (fun x => { x with drn := some r })).planN (s.mcnt + 32) rkPerform .matrixDrnRaw t 1

/-- The pieces of a run of bytes as parts with their values. -/
def pieceParts : List (Nat × Nat) → Nat → List Part
  | [], _ => []
  | p :: r, v => ⟨p.1, p.2, 0, v % 2 ^ (8 * p.2)⟩ :: pieceParts r (v / 2 ^ (8 * p.2))

/-- Writes pieces of memory from a node: to DRAM through its Teller (R281). -/
def drainPieces (s : State) (t cmd : Nat) (ps : List (Nat × Nat)) (v : Nat) : State :=
  let parts := pieceParts ps v
  let s1 := (parts.filter (fun p => !isDram p.pa)).foldl (fun a p => a.write p.pa p.val p.n) s
  (byToken (parts.filter (fun p => isDram p.pa))).foldl (fun a g => sendReq a
    { who := .drain t cmd, ctx := s.ctxOfTile t, die := dieOfTile t, tile := some t, lt := (s.tile t).ltid, key := reqKey s t 8, write := true
      parts := g, valid := 0xFFFF#16, poison := false, tag := 0 }) s1

/-- Writes of a raw drain to DRAM have not been performed yet. -/
def drainOwes (s : State) (t cmd : Nat) : Bool := s.reqs.any (fun q => q.2.who == .drain t cmd)

/-- The 64 bytes i of a raw drain are written: two tokens of a row. While a walk is made it stands still, and goes on with the
tokens not yet written; it completes once its writes to DRAM have been performed. -/
def drainRaw (s : State) (t i : Nat) : State :=
  match (s.mnode t).drn with
  | none => s
  | some r =>
    let w := r.cmd.word
    let d := opdOf s t (drnOpd w)
    let row := 8 * drnAccg w + i / 32
    let n := 2 * (i % 32)
    let tok (k : Nat) : CsTok := mget CsTok.empty (s.mnode t).acc (64 * row + k)
    if 256 * drnGroups w ≤ i then
      (if drainOwes s t r.cmd.id then s.planN (s.mcnt + 1) rkPerform .matrixDrnRaw t (i + 1)
        else s.planEv s.mcnt rkComplete .matrixCommandComplete (Arg.of t 3 0 0 0))
    else
    match pipeRun s t r.cmd.slot (capAt d 0) true ((opdBase d + 2048 * row + 32 * n : Nat) : Int) 64 with
    | .error h =>
      if !pipeWaits s t h then pipeHalt s t h
      else ((pipeHalt s t h).modNode t (fun x => { x with drn := some { r with wait := true } })).planN (s.mcnt + 1) rkPerform
        .matrixDrnRaw t (i + 1)
    | .ok ps =>
      let s1 := drainPieces s t r.cmd.id ps (csBytes (tok n) + csBytes (tok (n + 1)) * 2 ^ 256)
      let s2 := s1.modNode t (fun x =>
        { (if drnClr w ∧ n = 62 then clearRow x row else x) with drn := some { r with next := 2 * (i + 1), wait := false } })
      if i + 1 < 256 * drnGroups w ∨ drainOwes s2 t r.cmd.id then s2.planN (s.mcnt + 1) rkPerform .matrixDrnRaw t (i + 2)
      else s2.planEv s.mcnt rkComplete .matrixCommandComplete (Arg.of t 3 0 0 0)

/-- MATRIX_DRN_RAW: a raw DRN begins (`b` 0), or its 64 bytes `b` − 1 are written. -/
def execMatrixDrnRaw (s : State) : Host.Outcome State Fault Refusal :=
  .next (if s.arg.b = 0 then beginWith s s.arg.a .matrixDrnRaw beginDrnRaw else drainRaw s s.arg.a (s.arg.b - 1))

/-- A NORM begins; it applies from the next cycle. -/
def beginNorm (s : State) (r : MRun) : State :=
  let t := tileOfSlot r.cmd.slot
  (s.modNode t (fun x => { x with norm := x.norm ++ [r] })).planEv s.mcnt rkArrive .matrixCommandComplete (Arg.of t 4 0 0 0)

/-- MATRIX_NORM. -/
def execMatrixNorm (s : State) : Host.Outcome State Fault Refusal := .next (beginWith s s.arg.a .matrixNorm beginNorm)

/-- The mode and flags after a NORM (R183). -/
def applyNorm (x : MNode) (w : BitVec 64) : MNode :=
  { x with nmode := cmdBits w 39 37, nflags := if w.getLsbD 36 then noFlags else x.nflags }

/-- The run of a kind of command that completes, and the node without it. -/
def takeRun (x : MNode) (kind bank : Nat) : Option MRun × MNode :=
  match kind with
  | 1 => (x.wld.find? (fun r => cmdBank r.cmd.word == bank), { x with wld := x.wld.filter (fun r => cmdBank r.cmd.word != bank) })
  | 3 => (x.drn, { x with drn := none })
  | 4 =>
    match x.norm with
    | r :: l => (some r, applyNorm { x with norm := l } r.cmd.word)
    | [] => (none, x)
  | _ => (x.act, { x with act := none })

/-- MATRIX_COMMAND_COMPLETE: the command of kind `b` (a WLD on bank `c`) completes. -/
def execMatrixCommandComplete (s : State) : Host.Outcome State Fault Refusal :=
  let t := s.arg.a
  let (r, x) := takeRun (s.mnode t) s.arg.b s.arg.c
  .next (match r with
    | some r => finishMatrix (s.setNode t x) t r
    | none => s)

/-! ## Missing operands and row progress (R182, R185) -/

/-- What was missing is held: group g of the activation command, by every node of the region, or weight token g of a bank, which also
counts where its port presents it, since it is popped in this cycle (R181, R182). -/
def arrived (s : State) (t what g bank : Nat) : Bool :=
  if what = 0 then (regionOf s t).all (fun m => !(memberGroup s m g).isMissing)
  else match wldRun s t bank with
    | some r => !r.buf.isEmpty || !(shownTokens s (opdMe t (opdOf s t (cmdOpd r.cmd.word)) (g / 33))).isEmpty
    | none => true

/-- The turn of a group on a node. -/
def isGroupTurn (t : Nat) : Act → Bool
  | .ev .matrixAct a => a.a == t && a.b != 0
  | .ev .matrixQuad a => a.a == t && a.b != 0
  | _ => false

/-- Group g of a node's activation command has its turn in this cycle, and no other turn is planned. -/
def retakeGroup (s : State) (m g : Nat) : State := match (s.mnode m).act with
  | some r => (s.unplan (isGroupTurn m)).planEv s.mcnt rkEngine (groupEvent r.cmd.word) (Arg.of m (g + 1) 0 0 0)
  | none => s

/-- What was late comes up again as the region's clock stands: a group on every node of it, or a weight token. -/
def retake (s : State) (a : Arg) (c : Nat) : State :=
  if a.b = 0 then (regionOf s a.a).foldl (fun u m => retakeGroup u m a.c) s
  else s.planEv c rkPerform .matrixWeightTokenWrite (Arg.of a.a a.c 1 a.d 0)

/-- MATRIX_OPERAND_LATE: group (`b` 0) or weight token `c` is not held when it must be. At level T the region freezes, otherwise
its clock is gated, unless it is gated already in this cycle. -/
def execMatrixOperandLate (s : State) : Host.Outcome State Fault Refusal :=
  let t := s.arg.a
  .next (if s.levelOf t = .t then regionFault s t 0x081 s.arg.c
    else if (s.mnode t).gated then (if s.arg.b = 0 then s else retake s s.arg (s.mcnt + 1))
    else
      let s1 := (regionOf s t).foldl (fun a m => shiftNode (a.modNode m (fun x => { x with gated := true })) m) (retake s s.arg s.mcnt)
      s1.planEv (s.mcnt + 1) rkHold .matrixOperandArrived s.arg)

/-- MATRIX_OPERAND_ARRIVED: the region's clock runs again once the operands are held. -/
def execMatrixOperandArrived (s : State) : Host.Outcome State Fault Refusal :=
  let t := s.arg.a
  .next (if arrived s t s.arg.b s.arg.c s.arg.d then
      (regionOf s t).foldl (fun a m => kickQueue (a.modNode m (fun x => { x with gated := false })) m) s
    else
      ((regionOf s t).foldl shiftNode s).planEv (s.mcnt + 1) rkHold .matrixOperandArrived s.arg)

/-- MATRIX_ROW_PROGRESS_STOP: the node takes no further group (R185). -/
def execMatrixRowProgressStop (s : State) : Host.Outcome State Fault Refusal :=
  .next (s.modNode s.arg.a (fun x => { x with stopping := true }))

/-- The node goes on after a stop, from its next group (R185). -/
def resumeNode (s : State) (t : Nat) : State :=
  let s1 := s.modNode t (fun x => { x with stopping := false })
  let s2 := match (s.mnode t).act with
    | some r =>
      if (s.mnode t).stopping ∧ r.take < actGroups r.cmd.word then
        s1.planEv s.mcnt rkEngine (groupEvent r.cmd.word) (Arg.of t (r.take + 1) 0 0 0)
      else s1
    | none => s1
  kickQueue s2 t

/-! ## VE-side instructions (R186) -/

/-- A command that reaches a frozen node is discarded: it counts as complete (R182). -/
def discardAtNode (s : State) (t : Nat) (w : BitVec 64) : State :=
  if cmdEvr w then matrixRecord s t w 0xFFFF 2 0 else s

/-- Hands the command {B, A} to the node. -/
def handMatrix (kind : Nat) (o : Opnds) (s : State) : Issued :=
  let w : BitVec 64 := o.sb ++ o.sa
  let t := o.tile
  let x := s.mnode t
  if cmdKind w ≠ kind ∨ !cmdOk x w then Issued.ends s (.trap 0x002 (o.sa.toNat % 2 ^ 24))
  else if x.frozen then Issued.only (discardAtNode s t w)
  else
    match acceptAt s t with
    | some c => if 16 ≤ (liveQueue s t).length then Issued.ends s (.retry 0x08D) else Issued.only (acceptMatrix s t w 0xFFFF o.slot c)
    | none => Issued.ends s (.retry 0x08D)

/-- R186. -/
def execMxwld (op : Op) (s : State) : Host.Outcome State Fault Refusal := .next (actVE 0xD1 op (handMatrix 1) s)
/-- R186. -/
def execMxact (op : Op) (s : State) : Host.Outcome State Fault Refusal := .next (actVE 0xD2 op (handMatrix 2) s)
/-- R186. -/
def execMxdrn (op : Op) (s : State) : Host.Outcome State Fault Refusal := .next (actVE 0xD3 op (handMatrix 3) s)
/-- R186. -/
def execMxnorm (op : Op) (s : State) : Host.Outcome State Fault Refusal := .next (actVE 0xD4 op (handMatrix 4) s)
/-- R186. -/
def execMxquad (op : Op) (s : State) : Host.Outcome State Fault Refusal := .next (actVE 0xD5 op (handMatrix 5) s)

/-- The queued commands that have not begun are discarded, but for those that a VE hands over from number `n` on, which the node accepts
after the MXSTOP (R88, R186). -/
def discardQueue (s : State) (t n : Nat) : State :=
  let later (c : MCmd) : Bool := decide (256 ≤ c.entry) && decide (n ≤ c.id)
  kickFeed (((s.mnode t).queue.filter (fun c => !later c)).foldl (fun a c => a.endCommand c.id c.slot)
    (s.modNode t (fun x => { x with queue := x.queue.filter later }))) t

/-- The table is armed in this cycle for a slot: the counter is 0 at cycle c. A counter that ran is restarted at once, also where
c lies ahead: its old count fires no further entry (DESIGN CHOICE, log 165). -/
def startTable (s : State) (t slot period c : Nat) : State :=
  let s1 := s.modNode t (fun y => { y with period := period, counter := some c, owner := slot, fed := 0
                                           feed := y.feed.filter (fun f => f.id.isSome) })
  let s2 := planTable s1 t (s.mcnt + 1)
  let s3 := if (firing (s2.mnode t) s.mcnt).isEmpty then s2 else s2.planN s.mcnt rkEngine .matrixTableFire t 0
  kickFeed s3 t

/-- What MXARM (1), MXTAB (2) and MXSTOP (3) do when the node accepts them, with the slot and the values A and B of the instruction,
for MXSTOP the number from which commands come after it (R186). An entry fires under its new value from its first match after this cycle. -/
def tableCommand (s : State) (t kind slot a b : Nat) : State :=
  match kind with
  | 1 => startTable s t slot (a % 2 ^ 16 + 1) (if b % 2 ^ 20 = 0xFFFFF then s.mcnt else max s.mcnt ((s.slot slot).start + b % 2 ^ 20))
  | 2 => planTable (((s.mendWord t .table (2 * (a % 256))).mendWord t .table (2 * (a % 256) + 1)).modNode t (fun x =>
      { x with table := mset x.table (a % 256) (BitVec.ofNat 64 b) })) t (s.mcnt + 1)
  | _ => discardQueue (stopTable s t) t b

/-- MATRIX_TABLE_FIRE: the entries of this cycle fire (`b` 0), or what a VE has handed over is accepted; a frozen node discards it
(R182). -/
def execMatrixTableFire (s : State) : Host.Outcome State Fault Refusal :=
  let t := s.arg.a
  let x := s.mnode t
  .next (if s.arg.b = 0 then
      let s1 := (firing x s.mcnt).foldl (fun a e =>
        match a.badWord t .table (fun i => i / 2 == e.1) with
        | some u => a.failLoad t u.1 u.2
        | none => (acceptMatrix a t e.2 e.1 x.owner s.mcnt).modNode t (fun y => { y with last := e.1 })) s
      planTable s1 t (s.mcnt + 1)
    else if x.frozen then s
    else tableCommand s t s.arg.b s.arg.c s.arg.d s.arg.e)

/-- MXARM, MXTAB and MXSTOP take a cycle of the node as a command does; where the table fires in every cycle they take this one. A frozen
node discards them (R88, R179, R182, R186). -/
def handTable (kind : Nat) (o : Opnds) (b : Nat) (s : State) : Issued :=
  let t := o.tile
  let c := (acceptAt s t).getD s.mcnt
  let s1 := s.modNode t (fun x => { x with free := max x.free (c + 1) })
  Issued.only (if (s.mnode t).frozen then s else if c = s.mcnt then tableCommand s1 t kind o.slot o.sa.toNat b
    else s1.planEv c rkHold .matrixTableFire (Arg.of t kind o.slot o.sa.toNat b))

/-- R186, R188: arms the table; another block's armed table traps. -/
def armTable (o : Opnds) (s : State) : Issued :=
  let x := s.mnode o.tile
  if x.counter.isSome ∧ !sameBlock s x.owner o.slot then Issued.ends s (.trap 0x002 (o.sa.toNat % 2 ^ 24))
  else if x.frozen then Issued.only s
  else handTable 1 o o.sb.toNat s

/-- R186. -/
def execMxarm (op : Op) (s : State) : Host.Outcome State Fault Refusal :=
  .next (actVE 0xD0 op armTable s)

/-- The status word (R186). -/
def mxstatWord (s : State) (t : Nat) : Word :=
  let x := s.mnode t
  let runs := x.act.isSome || x.drn.isSome || !x.wld.isEmpty || !x.norm.isEmpty
  let st := if x.frozen then 3 else if x.gated then 2 else if runs then 1 else 0
  let fl := x.nflags
  let f4 : BitVec 4 := BitVec.ofBool (fl.getLsbD 4) ++ BitVec.ofBool (fl.getLsbD 2) ++ BitVec.ofBool (fl.getLsbD 1) ++ BitVec.ofBool (fl.getLsbD 0)
  BitVec.ofNat 2 st ++ BitVec.ofBool (isJoint x) ++ 0#1 ++ f4 ++ BitVec.ofNat 5 (min 16 (liveQueue s t).length)
    ++ BitVec.ofNat 3 x.nmode ++ BitVec.ofNat 8 x.last ++ 0#8

/-- R186. -/
def execMxstat (op : Op) (s : State) : Host.Outcome State Fault Refusal :=
  .next (issueVE 0xD6 op (fun o s1 => Issued.value s1 2 (scalarOut o (mxstatWord s1 o.tile))) s)

/-- The row-progress word (R186). -/
def mxrprWord (x : MNode) : Word :=
  match x.act with
  | some r => 1#1 ++ BitVec.ofNat 3 (cmdKind r.cmd.word) ++ BitVec.ofNat 4 r.next ++ BitVec.ofNat 4 (actGroups r.cmd.word) ++ 0#20
  | none => 0

/-- R186. -/
def execMxrpr (op : Op) (s : State) : Host.Outcome State Fault Refusal :=
  .next (issueVE 0xD7 op (fun o s1 => Issued.value s1 2 (scalarOut o (mxrprWord (s1.mnode o.tile)))) s)

/-- R178, R186: a word that the node does not take, other than the empty entry, traps. -/
def execMxtab (op : Op) (s : State) : Host.Outcome State Fault Refusal :=
  .next (actVE 0xD8 op (fun o s1 =>
    let w : BitVec 64 := lane o.b 1 ++ lane o.b 0
    if cmdKind w = 0 ∨ cmdOk (s1.mnode o.tile) w then handTable 2 o w.toNat s1
    else Issued.ends s1 (.trap 0x002 ((lane o.b 0).toNat % 2 ^ 24))) s)

/-- R186. -/
def execMxstop (op : Op) (s : State) : Host.Outcome State Fault Refusal :=
  .next (actVE 0xD9 op (fun o s1 => handTable 3 o s1.nextId s1) s)

end Sys2Proof.Machine
end

