-- ==== Sys2Proof/Machine/TileChecks.lean ====
section
/-! DEFINITION. The loader's checks of a tile's maps, ports, barriers, engines and capabilities (R47, R161 to R167, R176 to R184, R188,
R191, R195, R214, R281, R287, R288), and the words that it completes from the object table (R166, R225) and the radix table
(R291). -/

namespace Sys2Proof.Machine

/-! ## What a load is checked against -/

/-- A load as it stands before the loader's checks: its context and number, the level it is checked for, its image, and the tiles
that it is to have. -/
structure Loading where
  s : State
  c : Nat
  n : Nat
  lv : Level
  img : Config.Image
  ld : Config.LoadImg
  place : List (BitVec 10 × Nat)

/-- A report of a load. -/
def Loading.report (k : Loading) (x : Config.Check) (lt a other : Nat) : Config.Report :=
  { check := x, graph := k.c, spot := .number, load := k.n, lt := lt, ve := 0, slot := 0, at_ := a, word := 0, other := other }

/-- The entry of the context's object table, none where the index is beyond it or the entry is not valid. -/
def Loading.obj (k : Loading) (o : Nat) : Option ObjRec :=
  if (k.s.ctx k.c).otlen ≤ o then none
  else
    let r := objRec (objWords k.s ((dieOfVirtual k.s k.c 0).getD 0) k.c o)
    if r.valid then some r else none

/-- The object that a capability names. -/
def Loading.capOf (k : Loading) (c : BitVec 128) : Option ObjRec := k.obj (capObj c)

/-- The logical tile of the first copy that a tile stands for (R331). -/
def homeTile (g : Config.TileImg) : BitVec 10 := g.twin.getD g.lt

/-! ## The words of a tile's tables -/

/-- A tensor map, a copy template, an operand descriptor of an image as a list of words; none where every word is zero. -/
def wordsAt (g : Config.TileImg) (a n : Nat) : Option (List Word) :=
  let ws := (List.range n).map (fun i => imageWord g (a + i))
  if ws.all (fun w => w == 0) then none else some ws

/-- The tensor maps of a tile image, by number. -/
def imageMaps (g : Config.TileImg) : List (Nat × List Word) :=
  (List.range 32).filterMap (fun m => (wordsAt g (0x4580 + 24 * m) 24).map (fun w => (m, w)))

/-- The copy templates. -/
def imageTmpls (g : Config.TileImg) : List (Nat × List Word) :=
  (List.range 64).filterMap (fun m => (wordsAt g (0x4880 + 16 * m) 16).map (fun w => (m, w)))

/-- The operand descriptors of the matrix node. -/
def imageDescs (g : Config.TileImg) : List (Nat × List Word) :=
  (List.range 16).filterMap (fun d => (wordsAt g (0x4E80 + 8 * d) 8).map (fun w => (d, w)))

/-- The windows of the stream ports, by 8·port + entry. -/
def imageWindows (g : Config.TileImg) : List (Nat × List Word) :=
  (List.range 64).filterMap (fun e => (wordsAt g (0xE100 + 4 * e) 4).map (fun w => (e, w)))

/-- The entries of the modulo table that are not empty. -/
def imageTable (g : Config.TileImg) : List (Nat × BitVec 64) :=
  ((List.range 256).map (fun e => (e, imageWord g (0x4C80 + 2 * e + 1) ++ imageWord g (0x4C80 + 2 * e)))).filter (fun e => cmdKind e.2 != 0)

/-- The capabilities of a tile image, each by the address of its first word: of slots, tensor maps, templates and descriptors. -/
def imageCaps (g : Config.TileImg) : List (Nat × BitVec 128) :=
  ((List.range 1024).map (fun i => 0x1_3000 + 4 * i) ++ (List.range 32).map (fun m => 0x4580 + 24 * m)
    ++ (List.range 64).flatMap (fun t => [0x4880 + 16 * t, 0x4880 + 16 * t + 4]) ++ (List.range 16).map (fun d => 0x4E80 + 8 * d)).filterMap
      (fun a => (wordsAt g a 4).map (fun w => (a, capAt w 0)))

/-! ## Uses -/

/-- The instructions of a tile image as its slots issue them, each with its slot's code. -/
def tileUses (graph load : Nat) (lv : Level) (g : Config.TileImg) : List (Code × Use) :=
  (g.slots.filter (fun x => imageBound g x.slot)).flatMap (fun x =>
    let c := codeOf graph load lv g x
    c.uses.map (fun u => (c, u)))

/-- A class 5 operand A or B of an instruction. -/
def litA (p : Code × Use) : Option Word := if p.2.l.op.acls = 5 then some (p.1.constOf p.2.l.op (rawA p.2.raw)) else none
def litB (p : Code × Use) : Option Word := if p.2.l.op.bcls = 5 then some (p.1.constOf p.2.l.op (rawB p.2.raw)) else none

/-- The matrix commands that instructions hand over in class 5 operands (R186). -/
def litCommands (us : List (Code × Use)) : List ((Code × Use) × BitVec 64) :=
  us.filterMap (fun p => match litA p, litB p with
    | some a, some b => if 0xD1 ≤ p.2.l.maj ∧ p.2.l.maj ≤ 0xD5 then some (p, b ++ a) else none
    | _, _ => none)

/-! ## Tensor maps and stream ports (R161, R163, R164, R281) -/

/-- The fields of a tensor map are ones that R161 admits. -/
def mapFieldsOk (ws : List Word) : Bool :=
  (mapFmt ws == 0 || (decide (2 ≤ mapFmt ws) && decide (mapFmt ws ≤ 8))) && (ws.getD 4 0).extractLsb' 6 2 != 3
    && (List.range 4).all (fun d => (mapDim ws d).ext != 0 && (mapDim ws d).dil != 0)

/-- Dimension 0 of a BFP map indexes the members of a block (R163). -/
def bfpShapeOk (ws : List Word) : Bool :=
  let d := mapDim ws 0
  mapFmt ws == 0 || (d.ext == 32 && d.win == 32 && d.out == 1 && d.dil == 1 && d.step == 0 && d.pad == 0)

/-- The kind check of ARM on a port for an object (R164, R290). -/
def Loading.portKindOk (k : Loading) (g : Config.TileImg) (port : Nat) (r : ObjRec) : Bool :=
  match r.kind with
  | 0 => (padHome r).2.1 == port && (padHome r).1 == homeTile g
  | 1 => true
  | 2 => k.lv != .t
  | 3 => k.lv != .t
  | _ => false

/-- A stream port or load pipe would reach DRAM through an object (R281): a DRAM extent or a Teller-layout object. -/
def inDram (r : ObjRec) : Bool := r.kind == 2 || r.kind == 4

/-- What the loader finds in a tile's tensor maps, windows and their ports. -/
def Loading.mapReports (k : Loading) (g : Config.TileImg) (us : List (Code × Use)) : List Config.Report :=
  let t := g.lt.toNat
  (imageMaps g).flatMap (fun m =>
      (if mapFieldsOk m.2 then [] else [k.report .tensorMap t m.1 0]) ++ (if bfpShapeOk m.2 then [] else [k.report .bfpMapShape t m.1 0])
        ++ (if k.lv = .t ∧ (k.capOf (mapCap m.2)).any inDram then [k.report .dramStreamAtLevelT t m.1 0] else []))
    ++ us.filterMap (fun p => match litA p, litB p with
        | some a, some b =>
          let m := b.toNat % 32
          let bad : Bool := match wordsAt g (0x4580 + 24 * m) 24 with
            | some ws => (k.capOf (mapCap ws)).any (fun r => !k.portKindOk g (a.toNat % 8) r)
            | none => false
          if p.2.l.maj == 0xA6 && bad then some (p.1.named .streamPortObject .opRing p.2.l.at_ m) else none
        | _, _ => none)
    ++ (imageWindows g).filterMap (fun w =>
        if k.lv = .t ∧ (w.2.getD 3 0).getLsbD 31 ∧ isDram (4096 * ((w.2.getD 1 0).extractLsb' 0 28).toNat) then
          some (k.report .dramStreamAtLevelT t (64 + w.1) 0)
        else none)

/-! ## Barriers (R167, R386) -/

/-- The barrier that an instruction names by a class 5 operand: that of a barrier instruction, or the BAR of a Lodestone command. -/
def barrierOf (p : Code × Use) : Option Nat :=
  if 0xC0 = p.2.l.maj then (litA p).map (fun a => a.toNat % 32)
  else if reportsDone p.2.l.maj ∧ ¬ (p.2.l.maj = 0xE6 ∧ p.2.l.op.var = 0) then
    (litB p).bind (fun b => if b.getLsbD 30 then some (b.extractLsb' 24 5).toNat else none)
  else none

/-- The barriers that the code and the engine commands of a tile name. -/
def barriersNamed (g : Config.TileImg) (us : List (Code × Use)) : List Nat :=
  (us.filterMap barrierOf ++ (((imageTable g).map Prod.snd) ++ (litCommands us).map Prod.snd).filterMap (fun w =>
      if cmdBarv w then some (cmdBar w) else none)
    ++ (imageTmpls g).filterMap (fun t => tmBar t.2)).eraseDups

/-- A barrier that is named and has no participants. -/
def Loading.barrierReports (k : Loading) (g : Config.TileImg) (us : List (Code × Use)) : List Config.Report :=
  (barriersNamed g us ++ (List.range 32).filter (fun b => (mfind g.words (0xE200 + b)).isSome)).eraseDups.filterMap (fun b =>
    if (imageWord g (0xE200 + b)).toNat % 64 = 0 then some (k.report .barrierCount g.lt.toNat b 0) else none)

/-! ## The matrix node (R47, R176 to R181, R184, R188) -/

/-- The periods to which class 5 operands arm the table. -/
def tablePeriods (us : List (Code × Use)) : List Nat :=
  us.filterMap (fun p => match litA p with
    | some a => if p.2.l.maj = 0xD0 then some (a.toNat % 65536 + 1) else none
    | none => none)

/-- The raw drains of a command go to a KIND 0 descriptor (R178). -/
def drainTargetOk (g : Config.TileImg) (w : BitVec 64) : Bool :=
  cmdKind w != 3 || !drnRaw w || !(imageWord g (0x4E80 + 8 * drnOpd w + 4)).getLsbD 31

/-- The activations of a command enter fast enough from its ports (R181). -/
def rateOk (g : Config.TileImg) (w : BitVec 64) : Bool :=
  let d4 := imageWord g (0x4E80 + 8 * cmdOpd w + 4)
  (cmdKind w != 2 && cmdKind w != 5) || !d4.getLsbD 31 || decide (33 ≤ 8 * cmdWidth w * 2 ^ (d4.extractLsb' 26 2).toNat)

/-- Two commands of a table, the first at its START `a`, the second at `b`, its START `later` cycles on (R180, R181): the second begins on
a resource that the first holds, writes a bank that the first uses, or reads a group that the first has not applied. -/
def resourceClash (g : Config.TileImg) (later : Nat) (x y : BitVec 64) : Bool :=
  let a := cmdStart x
  let b := cmdStart y + later
  let ports (w : BitVec 64) : Bool := (imageWord g (0x4E80 + 8 * cmdOpd w + 4)).getLsbD 31
  let loaded := a + (if ports x then 271 else 135)
  let applied (i : Nat) : Nat := a + 8 * cmdWidth x * i + 8 * cmdWidth x + 5
  let array (w : BitVec 64) : Bool := cmdKind w == 2 || cmdKind w == 5
  if b < a then false
  else if cmdKind x = 1 then (cmdKind y == 1 || array y) && cmdBank x == cmdBank y && decide (b ≤ loaded)
  else if array x then
    (array y && decide (b ≤ applied (actGroups x - 1))) || (cmdKind y == 1 && cmdBank x == cmdBank y && decide (b ≤ applied (actGroups x - 1)))
      || (cmdKind y == 3 && (List.range (actGroups x)).any (fun i => decide (drnAccg y ≤ actAccg x + i)
        && decide (actAccg x + i < drnAccg y + drnGroups y) && decide (b ≤ applied i)))
  else if cmdKind x = 3 then cmdKind y == 3 && decide (b ≤ a + (if drnRaw x then 31 + 256 * drnGroups x else 11 + 8 * drnGroups x))
  else false

/-- What the loader finds in the descriptors, the table and the class 5 commands of a matrix node. -/
def Loading.matrixReports (k : Loading) (g : Config.TileImg) (us : List (Code × Use)) : List Config.Report :=
  let t := g.lt.toNat
  let tab := imageTable g
  let lits := litCommands us
  (imageDescs g).flatMap (fun d =>
      let w4 := d.2.getD 4 0
      let np := (w4.extractLsb' 26 2).toNat
      (if w4.getLsbD 31 ∧ (np = 3 ∨ 8 < (w4.extractLsb' 28 3).toNat + 2 ^ np) then [k.report .matrixDescriptor t d.1 0] else [])
        ++ (if !w4.getLsbD 31 ∧ (k.capOf (capAt d.2 0)).any (fun r => r.kind == 0) then [k.report .matrixOperandKind t d.1 0] else [])
        ++ (if k.lv = .t ∧ !w4.getLsbD 31 ∧ (k.capOf (capAt d.2 0)).any inDram then [k.report .dramStreamAtLevelT t (128 + d.1) 0] else []))
    ++ tab.flatMap (fun e =>
      (if cmdFieldsOk e.2 && drainTargetOk g e.2 then [] else [k.report .matrixCommand t e.1 0])
        ++ (if rateOk g e.2 then [] else [k.report .activationRate t e.1 0])
        ++ (if (tablePeriods us).any (fun p => decide (p ≤ cmdStart e.2)) || decide (65536 ≤ cmdStart e.2) then [k.report .matrixSchedule t e.1 0] else [])
        ++ tab.flatMap (fun f =>
          (if e.1 < f.1 ∧ cmdStart e.2 = cmdStart f.2 then [k.report .matrixSchedule t e.1 f.1] else [])
            ++ (if k.lv = .t ∧ ((e.1 ≠ f.1 ∧ resourceClash g 0 e.2 f.2) ∨ (tablePeriods us).any (fun p => resourceClash g p e.2 f.2)) then [k.report .matrixResource t e.1 f.1] else [])))
    ++ lits.flatMap (fun p =>
      let l := p.1
      (if cmdKind p.2 = l.2.l.maj - 0xD0 && cmdFieldsOk p.2 && drainTargetOk g p.2 then [] else [l.1.at_ .matrixCommand l.2.l.at_])
        ++ (if rateOk g p.2 then [] else [l.1.at_ .activationRate l.2.l.at_])
        ++ (if k.lv = .t ∧ cmdStart p.2 = 0xFFFFF then [l.1.at_ .matrixSchedule l.2.l.at_] else []))

/-- Some path from these points comes to a DONE with no MXSTOP on its way that always acts. -/
def Code.leavesArmed (c : Code) : Nat → List Point → List Point → Bool
  | 0, _, _ => false
  | _, [], _ => false
  | n + 1, p :: rest, seen =>
    if seen.contains p then c.leavesArmed n rest seen
    else match lineAt c.mem p.ia with
      | .error _ => c.leavesArmed n rest (p :: seen)
      | .ok l =>
        if l.maj = 0xD9 ∧ isAlways l.op then c.leavesArmed n rest (p :: seen)
        else (l.maj == 0x06 && !isNever l.op) || c.leavesArmed n ((c.next p l).1 ++ rest) (p :: seen)

/-- The points of a slot's paths that follow an instruction. -/
def Code.after (c : Code) (a : Nat) (l : Line) : List Point :=
  (c.paths.seen.filter (fun p => p.1.ia == a)).flatMap (fun p => (c.next p.1 l).1)

/-- The blocks of a tile whose code arms the table and leaves it armed at a DONE on some path of the slot, while no other slot of the
block stops it; of a ring, the blocks none of whose instructions stops it (R188). -/
def Loading.armedReports (k : Loading) (g : Config.TileImg) (us : List (Code × Use)) : List Config.Report :=
  let blocks (p : Code × Use) : List Nat := p.1.x.blocks.filterMap (fun b =>
    if !imageSeq g p.1.x.slot ∨ (b.2.base ≤ p.2.l.at_ ∧ p.2.l.at_ < b.2.base + b.2.len) then some b.1 else none)
  let named (m : Nat) : List (Code × Use) := us.filter (fun p => p.2.l.maj == m && !isNever p.2.l.op)
  if k.lv ≠ .t then []
  else ((named 0xD0).flatMap (fun p => (blocks p).filter (fun b =>
      let stops := (named 0xD9).filter (fun q => (blocks q).contains b)
      stops.isEmpty || (stops.all (fun q => q.1.x.slot == p.1.x.slot) && p.1.seq
        && p.1.leavesArmed (2 ^ 16) (p.1.after p.2.l.at_ p.2.l) [])))).eraseDups.map (fun b => k.report .matrixTableLeftArmed g.lt.toNat b 0)

/-- The other members of a tile's quad (R184). -/
def quadOthers (l : BitVec 10) : List (BitVec 10) :=
  ((List.range 4).map (fun i => (l &&& 0x3EE#10) ||| BitVec.ofNat 10 (i % 2 + 16 * (i / 2)))).filter (fun m => m != l)

/-- START and ARGS of a command but for OPD and GOFF (R184). -/
def quadKey (w : BitVec 64) : Nat × Nat := (cmdStart w, cmdBits w 35 25)

/-- The members' QUAD entries agree, their physical tiles form a 2 × 2 block of one die, and none is under a quantum (R184, R277). -/
def Loading.quadReports (k : Loading) (g : Config.TileImg) : List Config.Report :=
  let at_ (l : BitVec 10) : Option Nat := (k.place.find? (fun p => p.1 == l)).map Prod.snd
  let sliced (l : BitVec 10) : Bool := (mget 0 k.s.remap (remapKey k.c l)).extractLsb' 28 3 != 0 && (mget 0 k.s.remap (remapKey k.c l)).getLsbD 31
  let quads := (imageTable g).filter (fun e => cmdKind e.2 == 5)
  let homes := (g.lt :: quadOthers g.lt).filterMap at_
  let spread (f : Nat → Nat) : Nat := (homes.map f).foldl max 0 - (homes.map f).foldl min 143
  let square : Bool := homes.eraseDups.length == 4 && (homes.map dieOfTile).eraseDups.length == 1 && spread xOfTile == 1 && spread yOfTile == 1
  if quads.isEmpty then []
  else
    ((quadOthers g.lt).flatMap (fun m =>
        let tab : List (Nat × BitVec 64) := match k.ld.tiles.find? (fun x => x.lt == m) with
          | some x => (imageTable x).filter (fun e => cmdKind e.2 == 5)
          | none => []
        quads.filterMap (fun e =>
          if tab.any (fun f => quadKey f.2 == quadKey e.2) then none else some (k.report .quadMismatch g.lt.toNat e.1 m.toNat))))
      ++ (if square then [] else [k.report .quadMismatch g.lt.toNat 256 0])
      ++ (if sliced g.lt then [k.report .quadMismatch g.lt.toNat 257 0] else [])

/-! ## The Lodestone node (R191, R195) -/

/-- The neighbours and the colour that an image gives a p-bit of an explicit topology. -/
def imageNeighbours (g : Config.TileImg) (i : Nat) : List Nat :=
  (List.range 8).flatMap (fun n =>
    let w := imageWord g (0x5F00 + 8 * i + n)
    [w.setWidth 16, w.extractLsb' 16 16].filterMap (fun (h : BitVec 16) => if h.getLsbD 12 then some (h.toNat % 4096) else none))
def imageColour (g : Config.TileImg) (i : Nat) : Nat := ((imageWord g (0xDF00 + i / 8)).extractLsb' (4 * (i % 8)) 3).toNat

/-- The p-bits of an explicit topology that the image describes. -/
def pbitsListed (g : Config.TileImg) : List Nat :=
  ((g.words.filter (fun p => decide (0x5F00 ≤ p.1) && decide (p.1 < 0xDF00))).map (fun p => (p.1 - 0x5F00) / 8)).eraseDups

/-- What the loader finds in a topology, and the Lodestone commands with class 5 operands that name p-bits past the last one. -/
def Loading.lodeReports (k : Loading) (g : Config.TileImg) (us : List (Code × Use)) : List Config.Report :=
  let t := g.lt.toNat
  let ncol := ((imageWord g 0xE701).extractLsb' 4 3).toNat + 1
  (if (imageWord g 0xE701).getLsbD 0 then []
    else (pbitsListed g).flatMap (fun i =>
        let nb := imageNeighbours g i
        (if nb.contains i ∨ nb.eraseDups.length < nb.length then [k.report .lodestoneTopology t i i] else [])
          ++ nb.filterMap (fun j => if imageColour g i = imageColour g j then some (k.report .lodestoneTopology t i j) else none))
      ++ ((List.range 4096).filter (fun i => decide (ncol ≤ imageColour g i))).map (fun i => k.report .lodestoneTopology t i i))
    ++ us.filterMap (fun p => match litB p with
        | some b =>
          if (p.2.l.maj = 0xE0 ∨ p.2.l.maj = 0xE1) ∧ 4096 < firstOf b + countOf b then some (p.1.at_ .lodestoneExtent p.2.l.at_) else none
        | none => none)

/-! ## Capabilities and copy templates (R214, R287, R288) -/

/-- A capability lies in its object and sets no reserved bit. -/
def Loading.capOk (k : Loading) (c : BitVec 128) : Bool :=
  c.extractLsb' 80 16 == 0 && (match k.capOf c with
    | some r => decide (r.vbase ≤ capLo c) && decide (capLo c ≤ capHi c) && decide (capHi c ≤ r.vbase + r.len)
    | none => false)

/-- What the loader finds in the capabilities of a tile: R287, and at level T more than 64 objects. -/
def Loading.capReports (k : Loading) (g : Config.TileImg) : List Config.Report :=
  let cs := imageCaps g
  cs.filterMap (fun c => if k.capOk c.2 then none else some (k.report .capability g.lt.toNat c.1 (capObj c.2)))
    ++ (if k.lv = .t ∧ 64 < ((cs.map (fun c => capObj c.2)).eraseDups).length then [k.report .objectCache g.lt.toNat 0 0] else [])

/-- The Teller of a sub-channel as it stands when the load's programs and owners are in it. -/
def Loading.teller (k : Loading) (tl : Nat) : Tel := tellerWith (k.s.tel tl) k.c tl (heldLoads k.s k.c k.img) k.ld

/-- Check 5 of R214 for a template, before it runs: the DRAM side's program and run. -/
def Loading.tmplProgramOk (k : Loading) (ws : List Word) (r : ObjRec) (read : Bool) : Bool :=
  let x := k.teller (r.loc.extractLsb' 0 6).toNat
  let p := tmProg ws
  let w := mget 0#32 x.progs p
  r.kind == 4 && progValid w && progCtx w == k.c && (if read then progReads x p else progWrites x p)
    && tmRep ws * progBursts x p * 32 == tmLen ws
    && decide (tmSlot ws < 64) && startsRun x (tmSlot ws) && runLength x (tmSlot ws) == progNs w && slotOwner x (tmSlot ws) == (1, k.c)

/-- A template passes R214's checks, whose operands the load gives whole at level T, where no TMPLW writes a template. -/
def Loading.tmplOk (k : Loading) (ws : List Word) : Bool :=
  let (sc, so) := tmSide ws true
  let (dc, d) := tmSide ws false
  let n := tmLen ws
  hasRights sc (rRD ||| rCP) && hasRights dc (rWR ||| rCP) && decide (capLo sc + so + n ≤ capHi sc) && decide (capLo dc + d + n ≤ capHi dc)
    && (match k.capOf sc, k.capOf dc with
      | some r, some q =>
        n != 0 && n % 64 == 0 && !(r.kind == 4 && q.kind == 4) && kindOk r && kindOk q
          && (r.kind != 4 || k.tmplProgramOk ws r true) && (q.kind != 4 || k.tmplProgramOk ws q false)
          && !(capObj sc == capObj dc && decide (capLo sc + so < capLo dc + d + n) && decide (capLo dc + d < capLo sc + so + n))
      | _, _ => false)

def Loading.tmplReports (k : Loading) (g : Config.TileImg) : List Config.Report :=
  if k.lv ≠ .t then []
  else (imageTmpls g).filterMap (fun t => if k.tmplOk t.2 then none else some (k.report .copyTemplate g.lt.toNat t.1 0))

/-! ## The radix windows of a load (R291) -/

/-- The coordinates of a dimension that a map reaches inside the tensor, first and last. -/
def Dim.reach (d : Dim) : Option (Int × Int) :=
  let lo := max 0 (-d.pad)
  let hi := min ((d.ext : Int) - 1) (((d.out - 1) * d.step + (d.win - 1) * d.dil : Nat) - d.pad)
  if lo ≤ hi then some (lo, hi) else none

/-- The runs of addresses, from CAP.LO on, that a map reaches: its elements, or its mantissas and its scales (R162, R163). -/
def mapReach (ws : List Word) : List (Int × Int) :=
  match (mapDims ws).mapM (fun d => d.reach.map (fun x => (min (x.1 * d.str) (x.2 * d.str), max (x.1 * d.str) (x.2 * d.str)))) with
  | none => []
  | some xs =>
    let lo := xs.foldl (fun a x => a + x.1) 0
    let hi := xs.foldl (fun a x => a + x.2) 0
    let n : Int := 4 * mapFmt ws
    if mapFmt ws = 0 then [(lo, hi + mapEsz ws)] else [(n * lo, n * hi + n), (mapSoff ws + lo, mapSoff ws + hi + 1)]

/-- The runs of addresses, from CAP.LO on, that a command reaches through descriptor `i` (R177, R178). -/
def commandReach (i : Nat) (d : List Word) (w : BitVec 64) : List (Int × Int) :=
  let plane (m t n : Nat) : List (Int × Int) :=
    let a : Int := opdBase d + t * opdStride d
    [(a, a + 4 * m * n), ((opdScale d + n * t : Nat), (opdScale d + n * t + n : Nat))]
  match cmdKind w with
  | 1 => if cmdOpd w = i then plane (cmdWidth w) (wldTile w) 128 else []
  | 3 =>
    let a := opdBase d + 2048 * (8 * drnAccg w)
    if drnRaw w ∧ drnOpd w = i then [((a : Int), ((a + 2048 * (8 * drnGroups w) : Nat) : Int))] else []
  | 2 | 5 => if cmdOpd w = i then (List.range (actGroups w)).flatMap (fun g => plane (cmdWidth w) (actGoff w + g) 16) else []
  | _ => []

/-- The matrix commands that the loader knows of a tile, and whether others may come from registers. -/
def commandsKnown (g : Config.TileImg) (us : List (Code × Use)) : List (BitVec 64) × Bool :=
  (((imageTable g).map Prod.snd) ++ (litCommands us).map Prod.snd,
    us.any (fun p => p.2.l.maj = 0xD8 || (decide (0xD1 ≤ p.2.l.maj) && decide (p.2.l.maj ≤ 0xD5) && ((litA p).isNone || (litB p).isNone))))

/-- The pages in which the runs of addresses from CAP.LO on lie, as the capability bounds them, in ascending order. -/
def reachedPages (c : BitVec 128) (runs : List (Int × Int)) : List Nat :=
  let pages (r : Int × Int) : List Nat :=
    let lo := max ((capLo c : Int) + r.1) (capLo c)
    let hi := min ((capLo c : Int) + r.2) (capHi c)
    if lo < hi then (List.range ((hi.toNat + 4095) / 4096 - lo.toNat / 4096)).map (fun i => lo.toNat / 4096 + i) else []
  (((runs.flatMap pages).foldl (fun (m : Map Unit) p => mset m p ()) [])).map (fun p => p.1)

/-- The runs that the tile's commands reach through a descriptor: all that its capability bounds where commands may come from registers. -/
def descReach (g : Config.TileImg) (us : List (Code × Use)) (d : Nat × List Word) : List (Int × Int) :=
  let (ws, more) := commandsKnown g us
  let c := capAt d.2 0
  if more then [(0, (capHi c : Int) - capLo c)] else ws.flatMap (commandReach d.1 d.2)

/-- What the pages translate to, of those that do. -/
def Loading.pagesOf (k : Loading) (r : ObjRec) (ps : List Nat) : List (Nat × Nat × Nat × Bool) :=
  ps.filterMap (fun p =>
    match (radixWalk k.s k.c (4096 * p) radixBits (r.loc.extractLsb' 0 40).toNat).2 with
    | .page base _ pa ord ro => some (p, (pa + (4096 * p - base)) / 4096, ord, ro)
    | .trap _ => none)

/-- The walk of a page ends at a leaf whose ordering kind is 0b11 (R246). -/
def Loading.leafKindless (k : Loading) (r : ObjRec) (p : Nat) : Bool :=
  match (radixWalk k.s k.c (4096 * p) radixBits (r.loc.extractLsb' 0 40).toNat).1.getLast? with
  | some a => let e := k.s.read64 a; e.getLsbD 63 && e.getLsbD 62 && e.extractLsb' 60 2 == 3
  | none => false

/-- A run of pages: first virtual page, first physical page, pages, ordering kind, read-only. -/
structure PageRun where
  vpn : Nat
  ppn : Nat
  npg : Nat
  ord : Nat
  ro : Bool
deriving DecidableEq, Repr

/-- The largest runs of pages that are contiguous in both addresses and alike in their attributes. -/
def joinPages : List (Nat × Nat × Nat × Bool) → List PageRun
  | [] => []
  | (v, p, o, w) :: rest =>
    match joinPages rest with
    | q :: qs => if q.vpn = v + 1 ∧ q.ppn = p + 1 ∧ q.ord = o ∧ q.ro = w then { q with vpn := v, ppn := p, npg := q.npg + 1 } :: qs
                 else ⟨v, p, 1, o, w⟩ :: q :: qs
    | [] => [⟨v, p, 1, o, w⟩]

/-- A run as the words of a window (R291). -/
def PageRun.words (p : PageRun) : List Word :=
  [BitVec.ofNat 32 p.vpn, BitVec.ofNat 32 p.ppn, BitVec.ofNat 32 p.npg, BitVec.ofNat 32 (2 ^ 31 + p.ord * 2 ^ 29 + p.ro.toNat * 2 ^ 28)]

/-- The ports to which the tile's code binds a map by class 5 operands, and for map 0 those that it arms and never binds (R164). What a
register names is not known at load (DESIGN CHOICE, log 209). -/
def boundPorts (us : List (Code × Use)) (m : Nat) : List Nat :=
  let binds (q : Nat) (p : Code × Use) : Bool := p.2.l.maj == 0xA6 && ((litA p).map (fun a => a.toNat % 8 == q)).getD true
  ((us.filterMap (fun p => match litA p, litB p with
      | some a, some b => if p.2.l.maj = 0xA6 ∧ b.toNat % 32 = m then some (a.toNat % 8) else none
      | _, _ => none))
    ++ (if m = 0 then (List.range 8).filter (fun q => !us.any (binds q)
          && us.any (fun p => p.2.l.maj == 0xA5 && p.2.l.op.var == 0 && ((litA p).map (fun a => a.toNat % 8 == q)).getD true)) else [])).eraseDups

/-- The capabilities of maps and descriptors that name a radix object, with the object and the runs of addresses reached. -/
def Loading.radixNamed (k : Loading) (g : Config.TileImg) (us : List (Code × Use)) : List (BitVec 128 × ObjRec × List (Int × Int)) :=
  let radix (c : BitVec 128) (x : List (Int × Int)) : Option (BitVec 128 × ObjRec × List (Int × Int)) :=
    (k.capOf c).bind (fun r => if r.kind = 3 then some (c, r, x) else none)
  (imageMaps g).filterMap (fun m => radix (mapCap m.2) (mapReach m.2))
    ++ (imageDescs g).filterMap (fun d => if (d.2.getD 4 0).getLsbD 31 then none else radix (capAt d.2 0) (descReach g us d))

/-- Places runs in the free window entries of ports from one on, in order; what finds none is left over. -/
def placeRuns (free : List Nat) (rs : List PageRun) : List (Nat × List Word) × List PageRun :=
  ((free.zip rs).map (fun p => (p.1, p.2.words)), rs.drop free.length)

/-- The windows that the loader fills for a tile, by 8·port + entry, and the runs left over (R291). -/
def Loading.windowsOf (k : Loading) (g : Config.TileImg) (us : List (Code × Use)) : List (Nat × List Word) × List PageRun :=
  let used := (imageWindows g).map Prod.fst
  let runs (c : BitVec 128) (r : ObjRec) (x : List (Int × Int)) : List PageRun := joinPages (k.pagesOf r (reachedPages c x))
  let maps : List (Option Nat × List PageRun) := (imageMaps g).flatMap (fun m => match k.capOf (mapCap m.2) with
    | some r => if r.kind = 3 then (boundPorts us m.1).map (fun p => (some p, runs (mapCap m.2) r (mapReach m.2))) else []
    | none => [])
  let descs : List (Option Nat × List PageRun) := (imageDescs g).filterMap (fun d => match k.capOf (capAt d.2 0) with
    | some r => if r.kind = 3 ∧ !(d.2.getD 4 0).getLsbD 31 then some (none, runs (capAt d.2 0) r (descReach g us d)) else none
    | none => none)
  (maps ++ descs).foldl (fun (a : List (Nat × List Word) × List PageRun) x =>
    let mine (e : Nat) : Bool := match x.1 with
      | some p => e / 8 == p
      | none => true
    let free := (List.range 64).filter (fun e => mine e && !used.contains e && !a.1.any (fun w => w.1 == e))
    let r := placeRuns free x.2
    (a.1 ++ r.1, a.2 ++ r.2)) ([], [])

/-- A window lies in a valid escrow of the context. -/
def Loading.windowOk (k : Loading) (w : List Word) : Bool :=
  let vpn := ((w.getD 0 0).extractLsb' 0 28).toNat
  let npg := ((w.getD 2 0).extractLsb' 0 28).toNat
  !(w.getD 3 0).getLsbD 31 || (k.s.ctx k.c).escrowOk.any (fun e =>
    let x := mget [] (k.s.ctx k.c).escrow e
    let v := ((x.getD 0 0).extractLsb' 0 28).toNat
    decide (v ≤ vpn) && decide (vpn + npg ≤ v + ((x.getD 1 0).extractLsb' 0 28).toNat))

def Loading.windowReports (k : Loading) (g : Config.TileImg) (us : List (Code × Use)) : List Config.Report :=
  let (ws, left) := k.windowsOf g us
  let t := g.lt.toNat
  (if k.lv = .t ∧ !left.isEmpty then [k.report .windowCount t left.length 0] else [])
    ++ ((imageWindows g ++ ws).filter (fun w => !k.windowOk w.2)).map (fun w => k.report .windowRange t w.1 0)
    ++ (if k.lv = .t ∧ ws.any (fun w => isDram (4096 * ((w.2.getD 1 0).extractLsb' 0 28).toNat)) then [k.report .dramStreamAtLevelT t 192 0] else [])

/-! ## A tile -/

/-- What the loader finds in one tile of a load beside its code. -/
def Loading.tileReports (k : Loading) (g : Config.TileImg) : List Config.Report :=
  let us := tileUses k.c k.n k.lv g
  k.mapReports g us ++ k.barrierReports g us ++ k.matrixReports g us ++ k.armedReports g us ++ k.quadReports g ++ k.lodeReports g us
    ++ k.capReports g ++ k.tmplReports g ++ k.windowReports g us

/-! ## What the loader completes (R100, R166, R192, R225, R291, R386) -/

/-- The object-cache entries that the loader preloads at level T: those of the image, and every other object that a capability of the tile
names (R288, R396). -/
def Loading.preloads (k : Loading) (g : Config.TileImg) (m : Map Word) : Map Word :=
  if k.lv ≠ .t then m
  else
    let at_ (e : Nat) : Word := mget 0 m (0xE280 + e)
    let named := ((List.range 64).filter (fun e => (at_ e).getLsbD 31)).map (fun e => (at_ e).toNat % 2 ^ 20)
    let free := (List.range 64).filter (fun e => !(at_ e).getLsbD 31)
    let objs := (((imageCaps g).map (fun c => capObj c.2)).eraseDups).filter (fun o => !named.contains o)
    (free.zip objs).foldl (fun a x => mset a (0xE280 + x.1) (BitVec.ofNat 32 (2 ^ 31 + x.2))) m

/-- The words of a tile as the loader writes them: targets made absolute, the version of every capability taken from the object table,
LKEY, the preloads of the object cache, and the windows of the radix objects. -/
def Loading.completed (k : Loading) (g : Config.TileImg) : Map Word :=
  let vers := (imageCaps g).foldl (fun m c => match k.capOf c.2 with
    | some r => mset m (c.1 + 3) ((mget 0 m (c.1 + 3) &&& 0xFFFF_FFF0#32) ||| BitVec.ofNat 32 r.ver)
    | none => m) (relocated g)
  let keyed := k.preloads g (mset vers 0xE700 ((homeTile g).setWidth 32))
  (k.windowsOf g (tileUses k.c k.n k.lv g)).1.foldl (fun m w => (w.2.zip (List.range 4)).foldl (fun a x => mset a (0xE100 + 4 * w.1 + x.2) x.1) m) keyed

end Sys2Proof.Machine
end

