-- ==== Sys2Proof/Machine/PathChecks.lean ====
section
/-! DEFINITION. The loader's checks of what the issues of one slot bring about one after another, along its paths or around its rings: engine
queues (R196, R216, R217), announced totals (R168), the length of a reduction (R55), the orders of copies and of releases (R247, R255), the
rate of Helm requests (R346). -/

namespace Sys2Proof.Machine

/-! ## Along a path -/

/-- How often at most a transfer is taken: as `.trips` says, and for a LOOP without one by the initial value of its count register (R390). -/
def Code.tripsOf (c : Code) (l : Line) (r : Nat) : Option Nat :=
  match mfind c.x.trips l.at_ with
  | some n => some n
  | none => if l.maj = 0x05 then (c.constAt r).map (fun w => (w.toNat + 2 ^ 32 - 1) % 2 ^ 32) else none

/-- What a check follows along the issues of a slot: what stands at the first, what an issue finds and leaves, what cycles that go by leave,
and what a hold of unknown length leaves. -/
structure Watch (σ : Type) where
  start : σ
  act : Use → σ → Bool × σ
  pass : Nat → σ → σ
  hold : σ → σ

/-- A hold stands there whose length the loader does not know. -/
def Code.openHold (c : Code) (p : Point) (l : Line) : Bool :=
  c.canHold l && !isNever l.op && (c.heldAt p l).2.isNone

/-- The address of the first issue on some path of `n` issues from a point at which a watch finds something; `used` counts how often each
bounded transfer has been taken, and one without a bound is taken `free` times where that is given. -/
def Code.along {σ : Type} (c : Code) (w : Watch σ) (free : Option Nat) : Nat → Point → Map Nat → σ → Option Nat
  | 0, _, _, _ => none
  | n + 1, p, used, x =>
    match lineAt c.mem p.ia with
    | .error _ => none
    | .ok l =>
      let h := p.held l.op
      let r := w.act { l := l, rtw := h.1, raw := h.2, qpos := p.qpos, qvar := p.qvar }
        (if c.openHold p l then w.hold x else w.pass (c.heldAt p l).1 x)
      let bound := (c.tripsOf l (rawA h.2)).orElse (fun _ => if needsLiteral l.maj && decide (c.target l ≤ p.ia) then free else none)
      let after (q : Point) (m : Map Nat) : Option Nat := c.along w free n q m (w.pass ((l.op.gap.toNat + 1) * c.wheel) r.2)
      if r.1 then some p.ia
      else (c.next p l).1.findSome? (fun q => match bound with
        | some b =>
          if q.ia = p.ia + l.len then after q used
          else if mget 0 used p.ia < b then after q (mset used p.ia (mget 0 used p.ia + 1)) else none
        | none => after q used)

/-- The issue of a ring at which a watch finds something. -/
def Code.around {σ : Type} (c : Code) (w : Watch σ) : List Use → σ → Option Nat
  | [], _ => none
  | u :: us, x =>
    let r := w.act u (if (isWait u.l.maj u.l.op.var.toNat || u.l.maj == 0xA2) && !isNever u.l.op then w.hold x else x)
    if r.1 then some u.l.at_ else c.around w us (w.pass ((u.l.op.gap.toNat + 1) * c.wheel) r.2)

/-- The issues of a ring up to its first DONE that may take its action, two periods of a ring that has none whose pass is known (R27). -/
def Code.ringIssues (c : Code) : Nat :=
  let us := c.ringUses (ringPeriod c.x.rings)
  let ends := (us.filter (fun u => u.l.maj == 0x06 && !isNever u.l.op)).map (fun u => (c.firstPass u.l.op).map (fun k => k * c.x.rings.lo + u.l.at_ % c.x.rings.lo + 1))
  match ends.mapM id with
  | some (e :: r) => r.foldl min e
  | _ => 2 * ringPeriod c.x.rings

/-- Where a watch finds something: on a path from the start of a block, or in a ring up to its DONE. -/
def Code.found {σ : Type} (c : Code) (w : Watch σ) (free : Option Nat) : List Nat :=
  if c.seq then (c.x.blocks.filterMap (fun b => c.along w free (2 ^ 24) (c.entry b.2) [] w.start)).eraseDups
  else if c.ringShape.isEmpty then (c.around w (c.ringUses c.ringIssues) w.start).toList
  else []

/-- Where a watch finds something within `n` issues of any point of a slot's paths, or around a ring. -/
def Code.foundNear {σ : Type} (c : Code) (w : Watch σ) (n : Nat) : List Nat :=
  if c.seq then (c.paths.seen.filterMap (fun p => c.along w none n p.1 [] w.start)).eraseDups
  else if c.ringShape.isEmpty then (c.around w (c.ringUses (2 * ringPeriod c.x.rings)) w.start).toList
  else []

/-! ## The Lodestone node (R194 to R196) -/

/-- The cycles of a sweep by the topology of an image (R194). -/
def sweepCycles (g : Config.TileImg) : Nat :=
  let w := imageWord g 0xE701
  if w.getLsbD 0 then 38
  else
    let n := (w.extractLsb' 4 3).toNat + 1
    (List.range n).foldl (fun a k => a + (((List.range 4096).filter (fun i => imageColour g i == k)).length + 255) / 256) (4 * n + 6)

/-- The fewest cycles for which the command that a use queues keeps the node, none for a use that queues none (R194, R195). -/
def Code.lodeTime (c : Code) (u : Use) : Option Nat :=
  let n : Nat := match litA (c, u) with
    | some a => a.toNat % 65536
    | none => 0
  let b : Word := (litB (c, u)).getD 0
  match u.l.maj with
  | 0xE0 => some ((countOf b + 3) / 4 + 8)
  | 0xE1 => some ((countOf b + 31) / 32 + 8)
  | 0xE2 => some 1
  | 0xE3 => some 1
  | 0xE4 => some (n * sweepCycles c.g)
  | 0xE5 => some (n * (sweepCycles c.g + 2))
  | 0xE6 => if u.l.op.var = 1 then some (if b.getLsbD 0 then 132 else 12) else none
  | _ => none

/-- The commands that the slot's own issues keep in the node, by the cycles that each still takes, the one that runs first; `busy` asks for
an LREAD that meets one, else for a command that finds the running one and eight more (R196). -/
def Code.lodeWatch (c : Code) (busy : Bool) : Watch (List Nat) :=
  { start := [], hold := fun _ => []
    act := fun u x =>
      if !isAlways u.l.op then (false, x)
      else match c.lodeTime u with
        | some d => if 9 ≤ x.length then (!busy, x) else (false, if d = 0 then x else x ++ [d])
        | none => (busy && u.l.maj == 0xE6 && !x.isEmpty, x)
    pass := fun d x => (x.foldl (fun (a : Nat × List Nat) k => if k ≤ a.1 then (a.1 - k, a.2) else (0, a.2 ++ [k - a.1])) (d, [])).2 }

/-! ## Copies (R215 to R217, R255) -/

/-- The channel on which a use starts a copy, its template and whether it begins at acceptance, where the operands name them. -/
def Code.copyOf (c : Code) (u : Use) : Option (Nat × List Word × Bool) :=
  let tmpl (k : Nat) : List Word := (List.range 16).map (fun i => imageWord c.g (0x4880 + 16 * (k % 64) + i))
  match u.l.maj, litA (c, u), litB (c, u) with
  | 0xE8, some a, some b => let ws := tmpl b.toNat; some (a.toNat % 16, ws, (ws.getD 11 0).toNat % 2 ^ 20 == 0xFFFFF)
  | 0xE9, some a, some b => some (a.toNat % 16, tmpl (a.toNat / 16), b.toNat % 2 ^ 20 == 0xFFFFF)
  | _, _, _ => none

/-- The fewest cycles of a copy: the BTE begins a token write a cycle, but for tokens that a Teller sends (R218, R219). -/
def Loading.copyTime (k : Loading) (ws : List Word) : Nat :=
  if (k.capOf (tmSide ws true).1).any (fun r => r.kind == 4) then 1 else tmTokens ws

/-- The copies that the slot's own starts keep in the BTE, each with its channel and the cycles before which it cannot be complete: a start
finds 256 of them, or its channel at work in the cycle in which it begins (R216, R217). -/
def Loading.copyWatch (k : Loading) (c : Code) : Watch (List (Nat × Nat)) :=
  { start := [], hold := fun _ => []
    act := fun u x =>
      if !isAlways u.l.op then (false, x)
      else match c.copyOf u with
        | some (ch, ws, now) =>
          let e := ((x.filter (fun y => y.1 == ch)).map Prod.snd).foldl max 0
          (decide (256 ≤ x.length) || (now && decide (0 < e)), x ++ [(ch, e + k.copyTime ws)])
        | none => (false, x)
    pass := fun d x => x.filterMap (fun y => if y.2 ≤ d then none else some (y.1, y.2 - d)) }

/-- The cycles from its issue at whose end what a use does to memory is performed at the soonest: an access 3, a push to an ME 3 after its
result (R147, R295); none for a use that does nothing there. -/
def performedIn (u : Use) : Option Nat :=
  let fan := (Trip.fan { rtw := u.rtw, raw := u.raw, lit := none })
  let pushed := pushes u.l.op && fanMe fan && u.l.maj != 0x88
  if !isAlways u.l.op then none
  else if pushed then some (latencyOf u.l.maj u.l.op.var.toNat + 3)
  else if isAccess u.l.maj then some 3
  else none

/-- The slot's accesses under way, by the cycles at whose end each is performed at the soonest: a copy that begins at acceptance meets one
(R255). -/
def Code.copyOrderWatch (c : Code) : Watch (List Nat) :=
  { start := [], hold := fun _ => []
    act := fun u x =>
      ((match c.copyOf u with
        | some (_, _, now) => now && isAlways u.l.op && !x.isEmpty
        | none => false), x ++ (performedIn u).toList)
    pass := fun d x => x.filterMap (fun r => if d ≤ r then some (r - d) else none) }

/-! ## Releases (R151, R247) -/

/-- The slot's code never writes a capability: its capabilities are those of the image. -/
def Code.capsFixed (c : Code) : Bool := !c.uses.any (fun u => isCapWrite u.l.maj)

/-- An access names an SO object by a capability of the image. -/
def Loading.strongAccess (k : Loading) (c : Code) (u : Use) : Bool :=
  isAccess u.l.maj && u.l.op.acls == 6
    && (k.capOf (capAt ((List.range 4).map (fun i => imageWord c.g (0x1_3000 + 64 * c.x.slot + 4 * rawA u.raw + i))) 0)).any (fun r => r.ord == 0)

/-- The slot's pushes under way, and of its last STRL the cycles until its ME can hold it and until it is performed: an access to an SO
object comes while it is held (R247). -/
def Loading.releaseWatch (k : Loading) (c : Code) : Watch (List Nat × Nat × Nat) :=
  { start := ([], 0, 0), hold := fun _ => ([], 0, 0)
    act := fun u x =>
      let late := x.1.foldl max 0
      (isAlways u.l.op && k.strongAccess c u && x.2.1 == 0 && decide (0 < x.2.2),
        if u.l.maj = 0xA3 ∧ isAlways u.l.op then (x.1, if 3 < late then (3, late) else (x.2.1, x.2.2))
        else (x.1 ++ (if isAccess u.l.maj then none else performedIn u).toList, x.2))
    pass := fun d x => (x.1.filterMap (fun r => if d ≤ r then some (r - d) else none), x.2.1 - d, x.2.2 - d) }

/-! ## Announced totals (R168) -/

/-- What a path announces to each counter that its operands name, since a wait for the counter: a total beyond 2^47. -/
def Code.totalWatch (c : Code) : Watch (Map Nat) :=
  { start := [], hold := id, pass := fun _ x => x
    act := fun u x => match litA (c, u), litB (c, u) with
      | some a, some b =>
        if u.l.maj = 0xC1 ∧ u.l.op.var = 1 ∧ isAlways u.l.op then
          let n := mget 0 x (a.toNat % 16) + b.toNat
          (decide (2 ^ 47 < n), mset x (a.toNat % 16) n)
        else if u.l.maj = 0xC1 ∧ u.l.op.var = 2 then (false, mdel x (a.toNat % 16))
        else (false, x)
      | some a, none => (false, if u.l.maj = 0xC1 ∧ u.l.op.var = 2 then mdel x (a.toNat % 16) else x)
      | _, _ => (false, x) }

/-! ## Reductions (R55, R175, R184) -/

/-- The K-blocks that a row of an accumulator group has taken since it was empty, by group; the cycles since the block's start, and the period
of the table with the cycle from which it has run since the rows were last emptied. All are the least that they can be. -/
structure Reduction where
  rows : Map Nat
  t : Nat
  armed : Option (Nat × Nat)
deriving DecidableEq, Repr

/-- The accumulator groups of a command. -/
def addsTo (w : BitVec 64) : List Nat := (List.range (actGroups w)).map (fun i => actAccg w + i)

/-- The K-blocks that a command adds to each of its rows on logical tile l: a QUAD four on members 2 and 3 of its quad and none on the others
(R184). -/
def blocksAdded (l : BitVec 10) (w : BitVec 64) : Nat :=
  if cmdKind w = 2 then 2 else if cmdKind w = 5 ∧ l.getLsbD 4 then 4 else 0

/-- A command may empty rows: an ACT or QUAD with INIT 0, a DRN with CLR (R178). -/
def empties (w : BitVec 64) : Bool := ((cmdKind w == 2 || cmdKind w == 5) && !actInit w) || (cmdKind w == 3 && drnClr w)

/-- The rows after a command. -/
def rowsAfter (l : BitVec 10) (m : Map Nat) (w : BitVec 64) : Map Nat :=
  if cmdKind w = 2 ∨ cmdKind w = 5 then
    (addsTo w).foldl (fun m g => mset m g ((if actInit w then mget 0 m g else 0) + blocksAdded l w)) m
  else if empties w then (List.range (drnGroups w)).foldl (fun m i => mdel m (drnAccg w + i)) m
  else m

/-- What one period of a table adds to a row of a group, where no entry of it may empty the row. -/
def addedByTable (l : BitVec 10) (tab : List (BitVec 64)) (g : Nat) : Nat :=
  let acts := tab.filter (fun w => (cmdKind w == 2 || cmdKind w == 5) && (addsTo w).contains g)
  if tab.any empties then 0 else acts.foldl (fun n w => n + blocksAdded l w) 0

/-- The rows with what the whole periods of the table have added. -/
def Reduction.total (r : Reduction) (l : BitVec 10) (tab : List (BitVec 64)) : Map Nat :=
  match r.armed with
  | some (p, t0) => (List.range 8).foldl (fun m g => mset m g (mget 0 m g + (r.t - t0) / p * addedByTable l tab g)) r.rows
  | none => r.rows

/-- A use on the rows: MXSTOP stops the table, MXARM starts it, a command acts; one that the operands do not name may empty every row. -/
def Code.reduce (c : Code) (tab : List (BitVec 64)) (u : Use) (r : Reduction) : Reduction :=
  let now := r.total c.g.lt tab
  let again : Option (Nat × Nat) := r.armed.map (fun x => (x.1, max x.2 r.t))
  match u.l.maj, litA (c, u), litB (c, u) with
  | 0xD0, some a, some b =>
    let from_ := if b.toNat % 2 ^ 20 = 0xFFFFF then r.t else max r.t (b.toNat % 2 ^ 20)
    { r with rows := now, armed := if isAlways u.l.op then some (a.toNat % 65536 + 1, from_) else none }
  | 0xD0, _, _ => { r with rows := now, armed := none }
  | 0xD8, _, _ => { r with rows := now, armed := none }
  | 0xD9, _, _ => if isNever u.l.op then r else { r with rows := now, armed := none }
  | m, some a, some b =>
    if m < 0xD1 ∨ 0xD5 < m ∨ isNever u.l.op then r
    else if empties (b ++ a) then { r with rows := rowsAfter c.g.lt now (b ++ a), armed := again }
    else if isAlways u.l.op then { r with rows := rowsAfter c.g.lt r.rows (b ++ a) }
    else r
  | m, _, _ => if m < 0xD1 ∨ 0xD5 < m ∨ isNever u.l.op then r else { r with rows := [], armed := again }

/-- The reductions that a slot's own commands and the table that it arms build up: one of more than 65,536 K-blocks (R55). -/
def Code.reductionWatch (c : Code) : Watch Reduction :=
  let tab := (imageTable c.g).map Prod.snd
  { start := ⟨[], 0, none⟩, hold := id
    pass := fun d r => { r with t := r.t + d }
    act := fun u r => ((r.total c.g.lt tab).any (fun x => decide (65536 < x.2)) || (c.reduce tab u r).rows.any (fun x => decide (65536 < x.2)), c.reduce tab u r) }

/-- No other slot of the tile hands commands to the node. -/
def Code.nodeAlone (c : Code) : Bool :=
  c.g.slots.all (fun x => x.slot == c.x.slot || !imageBound c.g x.slot
    || !(codeOf c.graph c.load c.level c.g x).uses.any (fun u => decide (0xD0 ≤ u.l.maj) && decide (u.l.maj ≤ 0xD9) && u.l.maj != 0xD6 && u.l.maj != 0xD7))

/-! ## The rate of Helm requests (R231, R346) -/

/-- The cycles until a slot may send its next Helm request: more than one in 4 cycles (R346). -/
def rateWatch : Watch Nat :=
  { start := 0, hold := fun _ => 0, pass := fun d x => x - d
    act := fun u x =>
      if (u.l.maj = 0x0F ∨ u.l.maj = 0x18 ∨ u.l.maj = 0x19 ∨ u.l.maj = 0x1A) ∧ isAlways u.l.op then (decide (0 < x), 4) else (false, x) }

/-- Helm requests of one slot of a Helm graph that follow one another within 4 cycles (R346). -/
def rateReports (c : Code) : List Config.Report := (c.foundNear rateWatch 2).map (c.at_ .controlRate)

/-! ## A slot -/

/-- What the loader finds along the issues of one slot, at level T also what the engines make of them. -/
def Loading.issueReports (k : Loading) (c : Code) : List Config.Report :=
  (c.found c.totalWatch (some 1)).map (c.at_ .counterTotal)
    ++ (if c.nodeAlone then (c.found c.reductionWatch (some 1)).map (c.at_ .reductionLength) else [])
    ++ (if c.level ≠ .t then []
      else (c.found (c.lodeWatch false) none).map (c.at_ .lodestoneQueue) ++ (c.found (c.lodeWatch true) none).map (c.at_ .lodestoneBusy)
        ++ (c.found (k.copyWatch c) none).map (c.at_ .bteFull) ++ (c.found c.copyOrderWatch none).map (c.at_ .copyOrder)
        ++ (if c.capsFixed then (c.found (k.releaseWatch c) none).map (c.at_ .releaseOrder) else []))

end Sys2Proof.Machine
end

