-- ==== Sys2Proof/Machine/FlowChecks.lean ====
section
/-! DEFINITION. The loader's checks of times and tokens that a load's own code decides: the last issue of a block (R270, R390),
occupancy of output queues (R316), order among queues (R317), pushes to ports that no walk takes from (R295). -/

namespace Sys2Proof.Machine

/-! ## The last issue of a block (R270, R390) -/

/-- The later of two times, where there is one. -/
def later : Option Nat → Option Nat → Option Nat
  | some a, some b => some (max a b)
  | some a, none => some a
  | none, b => b

/-- The cycles from a matrix command's begin to its completion; `fed` says that a WLD takes its weights from stream ports (R181). -/
def commandTime (w : BitVec 64) (fed : Bool) : Nat := match cmdKind w with
  | 1 => if fed then 271 else 135
  | 3 => if drnRaw w then 31 + 256 * drnGroups w else 11 + 8 * drnGroups w
  | 4 => 0
  | _ => 8 * cmdWidth w * actGroups w + 5

/-- The cycle from the block's start before which the matrix command that a use hands over at cycle t does not complete, where its operands
name the command; 0 for every other use (R107, R181, R186). -/
def Code.commandEnd (c : Code) (u : Use) (t : Nat) : Nat := match litA (c, u), litB (c, u) with
  | some a, some b =>
    if 0xD1 ≤ u.l.maj ∧ u.l.maj ≤ 0xD5 ∧ !isNever u.l.op then
      let w : BitVec 64 := b ++ a
      (if cmdStart w = 0xFFFFF then t else max t (cmdStart w)) + commandTime w ((imageWord c.g (0x4E80 + 8 * cmdOpd w + 4)).getLsbD 31)
    else 0
  | _, _ => 0

/-- The latest cycle from the block's start at which a DONE that may take its action issues on a path, or a result or matrix command that
the path leaves completes; the point stands at its issue `t` cycles after the start, with results complete by `done`; `used` counts how often each
bounded transfer has been taken; none where no path ends. Holds count where the loader knows their end (R153, R232). -/
def Code.longest (c : Code) : Nat → Point → Map Nat → Nat → Nat → Option Nat
  | 0, _, _, _, _ => none
  | n + 1, p, used, t, done =>
    match lineAt c.mem p.ia with
    | .error _ => none
    | .ok l =>
      let held := match c.holdEnd l (p.held l.op).2 with
        | some e => if c.canHold l && !isNever l.op then c.holdFrom e t else 0
        | none => 0
      let now := t + held
      let u : Use := { l := l, rtw := (p.held l.op).1, raw := (p.held l.op).2, qpos := p.qpos, qvar := p.qvar }
      let done' := max (max done (now + latencyOf l.maj l.op.var.toNat - 1)) (c.commandEnd u now)
      let ends : Option Nat := if l.maj = 0x06 && !isNever l.op then some (max now done) else none
      let after (q : Point) (m : Map Nat) : Option Nat := c.longest n q m (now + (l.op.gap.toNat + 1) * c.wheel) done'
      (c.next p l).1.foldl (fun m q => later m (match c.tripsOf l (rawA (p.held l.op).2) with
        | some b =>
          if q.ia = p.ia + l.len then after q used
          else if mget 0 used p.ia < b then after q (mset used p.ia (mget 0 used p.ia + 1)) else none
        | none => after q used)) ends

/-- The cycle from the block's start of issue n of a ring, and the cycle by which the results and matrix commands of the issues before it
are complete: a WAITT holds where its end has not come (R232). -/
def Code.ringTime (c : Code) (us : List Use) (n : Nat) : Nat × Nat :=
  let at_ (u : Use) (t : Nat) : Nat := match c.holdEnd u.l u.raw with
    | some e => if u.l.maj = 0x10 && isAlways u.l.op then t + c.holdFrom e t else t
    | none => t
  (List.range n).foldl (fun a i => match us[i % us.length]? with
    | some u => let t := at_ u a.1; (t + (u.l.op.gap.toNat + 1) * c.wheel, max (max a.2 (t + latencyOf u.l.maj u.l.op.var.toNat - 1)) (c.commandEnd u t))
    | none => a) (c.firstTurn, 0)

/-- The cycle by which a ring's DONE can first have taken its action and what it has handed out is complete: the least over those whose pass is
known (R27). -/
def Code.ringEnd (c : Code) : Option Nat :=
  let us := c.ringUses (ringPeriod c.x.rings)
  ((us.filter (fun u => u.l.maj == 0x06 && !isNever u.l.op)).filterMap (fun u => (c.firstPass u.l.op).map (fun k =>
    let t := c.ringTime us (k * c.x.rings.lo + u.l.at_); max t.1 t.2))).foldl (fun m t => match m with
      | some x => some (min x t)
      | none => some t) none

/-- The time from a block's start by which its part on a slot can have retired at the earliest on its longest path, as far as the slot's
own code fixes it: its last issue, its results and the matrix commands that it hands over. -/
def Code.lastIssue (c : Code) (b : Config.BlockImg) : Option Nat :=
  if c.seq then c.longest (2 ^ 24) (c.entry b) [] c.firstTurn 0
  else if c.ringShape.isEmpty then c.ringEnd else none

/-! ## Output queues (R316) -/

/-- The entries of an output queue of a slot's element: QDEPTH + 1 (R29). -/
def Code.queueSize (c : Code) : Nat := ((imageStage c.g c.ve 5).extractLsb' 0 3).toNat + 1

/-- The targets that an instruction pushes to; a block of the quantiser releases its tokens by a schedule of its own (R138). -/
def targetsOf (op : Op) (maj : Nat) (rtw : BitVec 16) : List Nat :=
  if maj = 0x88 then [] else (List.range 6).filter (fun g => pushes op && (Trip.fan { rtw := rtw, raw := 0, lit := none }).getLsbD g)

/-- Reserved entries of the output queues, each with its target and the cycles until its result completes, whatever becomes of the tokens: an
issue finds a queue full (R316). -/
def Code.queueWatch (c : Code) : Watch (List (Nat × Nat)) :=
  { start := [], hold := fun _ => []
    act := fun u q =>
      let gs := targetsOf u.l.op u.l.maj u.rtw
      (gs.any (fun g => decide (c.queueSize ≤ (q.filter (fun e => e.1 == g)).length)), q ++ gs.map (fun g => (g, latencyOf u.l.maj u.l.op.var.toNat)))
    pass := fun d q => q.filterMap (fun e => if d < e.2 then some (e.1, e.2 - d) else none) }

/-- Reservations that fail on a path, or in a ring over two periods (R316). -/
def Code.queueReports (c : Code) : List Config.Report :=
  (if c.seq then c.found c.queueWatch none else c.foundNear c.queueWatch 0).map (c.at_ .queueDepth)

/-! ## Order among queues (R317) -/

/-- What one issue of a slot takes and gives: the circuits that it pops and pushes, by their place in the load's list. -/
structure Flow where
  pops : List Nat
  pushes : List Nat
deriving DecidableEq, Repr

/-- The circuits of a load that end at an input number of a VE, and those that begin at a port's number. -/
def circuitsInto (ld : Config.LoadImg) (lt : BitVec 10) (ve k : Nat) : List Nat :=
  (List.range ld.circuits.length).filter (fun i => (ld.circuits[i]?).any (fun g => g.dst == lt && g.dve == ve && g.dcirc == k))
def circuitsFrom (ld : Config.LoadImg) (lt : BitVec 10) (ve port k : Nat) : List Nat :=
  (List.range ld.circuits.length).filter (fun i => (ld.circuits[i]?).any (fun g => g.src == lt && g.sve == ve && g.sport == port && g.scirc == k))

/-- The circuits that one use pops and pushes (R68). -/
def Code.flowOf (c : Code) (ld : Config.LoadImg) (u : Use) : Flow :=
  let t : Trip := { rtw := u.rtw, raw := u.raw, lit := none }
  let w (port : Nat) : Word := c.switchWord port t.phase
  { pops := ((popList u.l.op t).filter (fun p => decide (p ≤ 1) && (w p).getLsbD 31)).flatMap (fun p =>
      circuitsInto ld c.g.lt c.ve ((w p).extractLsb' 20 11).toNat)
    pushes := ((List.range 6).filter (fun g => decide (4 ≤ g) && pushes u.l.op && t.fan.getLsbD g && (w (g - 4)).getLsbD 19)).flatMap (fun g =>
      circuitsFrom ld c.g.lt c.ve (g - 4) ((w (g - 4)).extractLsb' 8 11).toNat) }

/-- A slot issues its instructions in one order: a ring, or code without a transfer. -/
def Code.oneOrder (c : Code) : Bool :=
  if imageSeq c.g c.x.slot then !c.uses.any (fun u => decide (1 ≤ u.l.maj) && decide (u.l.maj ≤ 5)) else c.ringShape.isEmpty

/-- The issues of a slot over `t` cycles of the load's repetition, as what they take and give. -/
def Code.flows (c : Code) (ld : Config.LoadImg) (t : Nat) : List Flow :=
  if imageSeq c.g c.x.slot then
    (c.uses.mergeSort (fun a b => decide (a.l.at_ ≤ b.l.at_))).map (c.flowOf ld)
  else
    let us := c.ringUses (ringPeriod c.x.rings)
    (List.replicate (t / max 1 (periodCycles c.wheel us)) (us.map (c.flowOf ld))).flatten

/-- How often the first issues of the slots, `n` of each in order, pop and push a circuit. -/
def poppedIn (fs : List (List Flow)) (n : List Nat) (a : Nat) : Nat :=
  ((fs.zip n).map (fun x => ((x.1.take x.2).filter (fun f => f.pops.contains a)).length)).foldl (fun x y => x + y) 0
def pushedIn (fs : List (List Flow)) (n : List Nat) (a : Nat) : Nat :=
  ((fs.zip n).map (fun x => ((x.1.take x.2).filter (fun f => f.pushes.contains a)).length)).foldl (fun x y => x + y) 0

/-- An issue waits for nothing more: push k of each circuit that it pops, and pop k − cap of each that it pushes, where there are such, lie
before it (R317). -/
def issueFree (fs : List (List Flow)) (all n : List Nat) (cap : Nat → Nat) (f : Flow) : Bool :=
  f.pops.all (fun a =>
      let k := poppedIn fs n a + 1
      decide (pushedIn fs all a < k) || decide (k ≤ pushedIn fs n a))
    && f.pushes.all (fun a =>
      let k := pushedIn fs n a + 1
      decide (k ≤ cap a) || decide (poppedIn fs all a < k - cap a) || decide (k - cap a ≤ poppedIn fs n a))

/-- Takes issues that wait for nothing more, one after another; the graph has a cycle exactly where some remain. -/
def runFlows (fs : List (List Flow)) (cap : Nat → Nat) : Nat → List Nat → List Nat
  | 0, n => n
  | k + 1, n =>
    let all := fs.map List.length
    match (List.range fs.length).find? (fun i => ((fs.getD i [])[n.getD i 0]?).any (issueFree fs all n cap)) with
    | some i => runFlows fs cap k (n.set i (n.getD i 0 + 1))
    | none => n

/-- Slots of the load whose issues stand in a cycle of the wait graph, over the slots that issue in one order and the circuits between two
of them (R317). -/
def Loading.orderOfQueues (k : Loading) : List Config.Report :=
  let cs := k.ld.tiles.flatMap (fun g => (g.slots.filter (fun x => imageBound g x.slot)).map (codeOf k.c k.n k.lv g))
  let ones := cs.filter Code.oneOrder
  let rings := ones.filter (fun c => !imageSeq c.g c.x.slot)
  let t := rings.foldl (fun m c => Nat.lcm m (max 1 (periodCycles c.wheel (c.ringUses (ringPeriod c.x.rings))))) 1
  let touches (c : Code) (a : Nat) : Bool := c.uses.any (fun u => (c.flowOf k.ld u).pops.contains a || (c.flowOf k.ld u).pushes.contains a)
  let live := (List.range k.ld.circuits.length).filter (fun a => (ones.filter (fun c => touches c a)).length == 2
    && (cs.filter (fun c => touches c a)).length == 2)
  let fs := ones.map (fun c => (c.flows k.ld t).map (fun f =>
    ({ pops := f.pops.filter live.contains, pushes := f.pushes.filter live.contains } : Flow)))
  let cap (a : Nat) : Nat := ((ones.find? (fun c => c.uses.any (fun u => (c.flowOf k.ld u).pushes.contains a))).map (fun c => c.queueSize)).getD 4 + 4
  let n := runFlows fs cap (fs.foldl (fun m f => m + f.length) 0) (fs.map (fun _ => 0))
  ((ones.zip (fs.zip n)).filter (fun x => decide (x.2.2 < x.2.1.length))).map (fun x => x.1.report .queueOrder .number x.2.2 0 0)

/-! ## Latencies that span elements (R73, R86, R265) -/

/-- The issues of sequenced code from a point on, each with its cycle from the block's start, up to the first transfer or hold of unknown
length. -/
def Code.straight (c : Code) : Nat → Point → List (Nat × Use)
  | 0, _ => []
  | n + 1, p =>
    match lineAt c.mem p.ia with
    | .error _ => []
    | .ok l =>
      match (c.heldAt p l).2 with
      | none => []
      | some t =>
        let h := p.held l.op
        (t, { l := l, rtw := h.1, raw := h.2, qpos := p.qpos, qvar := p.qvar }) :: (match (c.next p l).1 with
          | [q] => c.straight n q
          | _ => [])

/-- The issues of a slot that runs one block in one order, with their cycles from its start. -/
def Code.timed (c : Code) : List (Nat × Use) :=
  match c.x.blocks with
  | [b] =>
    if c.seq then c.straight 2048 (c.entry b.2)
    else
      let us := c.ringUses (ringPeriod c.x.rings)
      let known := us.all (fun u => (!isWait u.l.maj u.l.op.var.toNat && u.l.maj != 0xA2) || (c.holdEnd u.l u.raw).isSome)
      if known then (List.range c.ringIssues).filterMap (fun i => us[i % us.length]?.map (fun u => ((c.ringTime us i).1, u))) else []
  | _ => []

/-- Two slots start together: an entry of an Almanac names both. -/
def Loading.startTogether (k : Loading) (a b : BitVec 10 × Nat) : Bool :=
  k.img.alms.any (fun x => x.2.entries.any (fun e => e.2.slots.contains a && e.2.slots.contains b))

/-- Pops at level T of a circuit between two slots that start together, each of one order and on a wheel that fits a tick, that come before their token can have: the
token that an issue pushes is there its latency and the transit after it (R86, R265). -/
def Loading.transitReports (k : Loading) : List Config.Report :=
  let cs := k.ld.tiles.flatMap (fun g => (g.slots.filter (fun x => imageBound g x.slot)).map (codeOf k.c k.n k.lv g))
  let place (l : BitVec 10) : Option Nat := (k.place.find? (fun p => p.1 == l)).map Prod.snd
  if k.lv ≠ .t then []
  else (List.range k.ld.circuits.length).flatMap (fun a =>
    let pushers := cs.filter (fun c => c.uses.any (fun u => (c.flowOf k.ld u).pushes.contains a))
    let poppers := cs.filter (fun c => c.uses.any (fun u => (c.flowOf k.ld u).pops.contains a))
    match pushers, poppers, k.ld.circuits[a]? with
    | [c], [d], some g =>
      match place g.src, place g.dst with
      | some t, some u =>
        let trip := controlTransit (dieOfTile t) (some t) (dieOfTile u) (some u)
        let from_ := (c.timed.filter (fun x => (c.flowOf k.ld x.2).pushes.contains a)).map (fun x => (x.1 + latencyOf x.2.l.maj x.2.l.op.var.toNat + trip, x.2))
        let to_ := d.timed.flatMap (fun x => ((d.flowOf k.ld x.2).pops.filter (fun b => b == a)).map (fun _ => x))
        if !c.oneOrder || !d.oneOrder || 2900 % c.wheel != 0 || 2900 % d.wheel != 0 || from_.any (fun x => x.2.l.maj == 0x88) || !k.startTogether (c.g.lt, c.x.slot) (d.g.lt, d.x.slot) then []
        else (from_.zip to_).filterMap (fun p => if p.2.1 < p.1.1 then some (d.named .latency .opRing p.2.2.l.at_ p.1.2.l.at_) else none)
      | _, _ => []
    | _, _, _ => [])

/-! ## Pushes to ports (R295) -/

/-- A write walk can run on port m of a tile: some ARM names the port, or names it by a value that the code does not fix, and a map that writes
can be bound to it (R164). -/
def writeWalkOn (g : Config.TileImg) (us : List (Code × Use)) (m : Nat) : Bool :=
  let writes (i : Nat) : Bool := mapWrite ((List.range 24).map (fun j => imageWord g (0x4580 + 24 * i + j)))
  us.any (fun p => p.2.l.maj == 0xA5 && p.2.l.op.var == 0 && ((litA p).map (fun a => a.toNat % 8 == m)).getD true)
    && (writes 0 || us.any (fun p => p.2.l.maj == 0xA6 && ((litA p).map (fun a => a.toNat % 8 == m)).getD true
      && ((litB p).map (fun b => writes (b.toNat % 32))).getD true))

/-- Instructions at level T that push to a stream port of their tile on which no write walk can run; a tile of which the load brings some
elements alone says nothing of the others (R263). -/
def Loading.unarmedReports (k : Loading) (g : Config.TileImg) (us : List (Code × Use)) : List Config.Report :=
  if k.lv ≠ .t ∨ g.named.isSome then []
  else us.filterMap (fun p =>
    if (List.range 4).any (fun i => pushes p.2.l.op && (Trip.fan { rtw := p.2.rtw, raw := p.2.raw, lit := none }).getLsbD i
        && ((meBeside p.1.ve (4 + i)).map (fun m => !writeWalkOn g us m)).getD false) then
      some (p.1.named .pushToUnarmedPort .rtRing p.2.l.at_ 0)
    else none)

end Sys2Proof.Machine
end

