-- ==== Sys2Proof/Machine/Control.lean ====
section
/-! DEFINITION. Control transfers, block end, safe points and predicates (R99 to R112). -/

namespace Sys2Proof.Machine

/-- A transfer's target: the low 11 bits of the literal (R100). -/
def target (o : Opnds) : BitVec 11 := (o.trip.lit.getD 0).setWidth 11

/-- A transfer taken or not (R101). -/
def transfer (s : State) (taken : Bool) (t : BitVec 11) : Issued :=
  { Issued.only s with jump := if taken then some t else none }

/-- A scalar written at the end of the issue cycle without a last-result shift (R104, R105). -/
def linkWrite (w : Word) : DestKind × Nat × Delivery :=
  (.link, 1, { value := splat w, lanes := 0xFFFF#16, valid := 0, flags := noFlags })

/-- R106. -/
def execNop (op : Op) (s : State) : Host.Outcome State Fault Refusal :=
  .next (issueVE 0x00 op (fun _ s1 => Issued.only s1) s)

/-- R102: .ANY on any lane, .ALL on all 16. -/
def execBr (op : Op) (s : State) : Host.Outcome State Fault Refusal :=
  .next (issueVE 0x01 op (fun o s1 =>
    transfer s1 (if op.var = 0 then o.on else o.mask == 0xFFFF#16) (target o)) s)

/-- The conditions of BRS (R103). -/
def brsHolds (var : BitVec 3) (w : Word) : Bool :=
  match var.toNat with
  | 0 => w == 0
  | 1 => w != 0
  | 2 => w.msb
  | _ => !w.msb

/-- R103. -/
def execBrs (op : Op) (s : State) : Host.Outcome State Fault Refusal :=
  .next (issueVE 0x02 op (fun o s1 => transfer s1 (o.on && brsHolds op.var o.sa) (target o)) s)

/-- R104: s31 takes the address of the instruction after the CALL. -/
def execCallI (op : Op) (s : State) : Host.Outcome State Fault Refusal :=
  .next (actVE 0x03 op (fun o s1 =>
    { transfer s1 true (target o) with res := some (linkWrite (((s.slot o.slot).ia + 3).setWidth 32)) }) s)

/-- R104: to the address in s31[10:0]. -/
def execRetI (op : Op) (s : State) : Host.Outcome State Fault Refusal :=
  .next (actVE 0x04 op (fun o s1 => transfer s1 true ((s.sreg o.slot 31).setWidth 11)) s)

/-- R105. -/
def execLoopI (op : Op) (s : State) : Host.Outcome State Fault Refusal :=
  .next (actVE 0x05 op (fun o s1 =>
    let cnt := o.sa - 1
    { transfer s1 (cnt != 0) (target o) with res := some (linkWrite cnt) }) s)

/-- The slot ends its part of the block and drains (R107). -/
def endBlock (s : State) (n : Nat) : Issued :=
  { Issued.only (s.modSlot n (fun x => { x with st := .draining, ended := true })) with stop := true }

/-- R107. -/
def execDoneI (op : Op) (s : State) : Host.Outcome State Fault Refusal :=
  .next ((actVE 0x06 op (fun o s1 => endBlock s1 o.slot) s).drainCheck s.cur)

/-- The block's commands that have not begun are discarded and counted, the modulo tables that it armed stop, and its draining slots
look again at what they wait for (R107, R108, R188). -/
def abandon (s : State) (n : Nat) : State :=
  let k := (s.cmds.filter (fun c => !c.2.begun && sameBlock s c.2.slot n)).length + waitingStarts s n
  let s0 := abandonCopies s n
  let s1 := { s0 with cmds := s0.cmds.filter (fun c => !(!c.2.begun && sameBlock s c.2.slot n)) }.modSlot n
    (fun x => { x with abandoned := x.abandoned + k })
  let mine := s.mnodes.filter (fun p => p.2.counter.isSome && sameBlock s p.2.owner n)
  (mine.foldl (fun a p => stopTable a p.1) s1).drainBlock n

/-- R108: at level T it behaves as DONE. -/
def execDoneAbandon (op : Op) (s : State) : Host.Outcome State Fault Refusal :=
  .next ((actVE 0x06 op (fun o s1 =>
    endBlock (if o.level = .t then s1 else abandon s1 o.slot) o.slot) s).drainCheck s.cur)

/-- A standing pre-emption request takes safe points now (R318). -/
def preemptDue (s : State) (n : Nat) : Bool :=
  match (s.slot n).preempt with
  | some m => decide (m ≤ s.mcnt)
  | none => false

/-- The slot stands at a safe point: its next instruction is one, or a W-kind instruction holds it (R109, R153). -/
def standsSafe (s : State) (n : Nat) : Bool := atSafePoint s n || (s.slot n).heldSince.isSome

/-- Every slot of the group stands at a safe point or does not run (R18). -/
def groupSafe (s : State) (n : Nat) : Bool :=
  (coupledWith s n).all (fun m => m == n || (s.slot m).st != .running || standsSafe s m)

/-- A slot that a W-kind instruction holds is saved now: a request is due, and its group can be saved (R18, R153). -/
def savedHeld (s : State) (n : Nat) : Bool :=
  (s.slot n).heldSince.isSome && !atSafePoint s n && preemptDue s n && groupSafe s n

/-- The registers that a save keeps: at SAFE those of its live map, at YIELD and in a hold every one of the windows and files; a SAFE without a live map keeps the windows (R109). -/
def keepAll : Nat × Nat × Nat := (2 ^ 32 - 1, 2 ^ 32 - 1, 2 ^ 12 - 1)
def keepAt (x : Slot) (maj : Nat) : Nat × Nat × Nat :=
  if maj = 0x08 then (mfind x.live x.ia.toNat).getD (2 ^ 32 - 1, 2 ^ 32 - 1, 0) else keepAll

/-- The slot stops for a save, which takes the 34 cycles of its results in flight (R109, R320). -/
def saveSlot (s : State) (n : Nat) (k : Nat × Nat × Nat) : State :=
  (s.modSlot n (fun x => { x with st := .saved, keep := k })).planN (s.mcnt + 35) rkStart .launchSaved
    (s.ctxOfTile (tileOfSlot n)) (((s.slot n).launch).getD 0)

/-- A safe point: where a request stands at levels D and F the slot saves once its group can; its results in flight
complete normally and it resumes at the next instruction (R18, R109). -/
def safePoint (o : Opnds) (s : State) : Issued :=
  if o.level ≠ .t ∧ preemptDue s o.slot then
    if groupSafe s o.slot then
      { Issued.only (saveSlot s o.slot (keepAt (s.slot o.slot) o.maj)) with stop := true }
    else Issued.ends s .hold
  else Issued.only s

/-- R109. -/
def execYieldI (op : Op) (s : State) : Host.Outcome State Fault Refusal := .next (actVE 0x07 op safePoint s)

/-- R109. -/
def execSafeI (op : Op) (s : State) : Host.Outcome State Fault Refusal := .next (actVE 0x08 op safePoint s)

/-- The mask of PSET (R110). -/
def psetBit (o : Opnds) (l : Nat) : Bool :=
  if o.op.acls = 1 ∨ o.op.acls = 5 then o.sa.getLsbD l else lane o.a l != 0

/-- R110. -/
def execPset (op : Op) (s : State) : Host.Outcome State Fault Refusal :=
  .next (cmpVE 0x09 op (fun _ o l => (psetBit o l, noFlags)) s)

/-- The mask of PLOG by VAR (R111). -/
def plogMask (var : BitVec 3) (a b : Mask) : Mask :=
  match var.toNat with
  | 0 => a &&& b
  | 1 => a ||| b
  | 2 => a ^^^ b
  | 3 => a &&& ~~~b
  | 4 => ~~~a
  | _ => a

/-- R111. -/
def execPlog (op : Op) (s : State) : Host.Outcome State Fault Refusal :=
  .next (cmpVE 0x0A op (fun s0 o l =>
    let x := s0.slot o.slot
    ((plogMask op.var (namedPred x (rawA o.trip.raw)) (namedPred x (rawB o.trip.raw))).getLsbD l, noFlags)) s)

/-- The number of set bits among the first n. -/
def countBits (m : Mask) : Nat → Nat
  | 0 => 0
  | n + 1 => countBits m n + (if m.getLsbD n then 1 else 0)

/-- The lowest set index from i on, or 16 (R112). -/
def lowestBit (m : Mask) (i : Nat) : Nat → Nat
  | 0 => 16
  | n + 1 => if m.getLsbD i then i else lowestBit m (i + 1) n

/-- The word of PCNT (R112). -/
def pcntWord (m : Mask) : Word := BitVec.ofNat 32 (256 * lowestBit m 0 16 + countBits m 16)

/-- R112. -/
def execPcnt (op : Op) (s : State) : Host.Outcome State Fault Refusal :=
  .next (aluVE 0x0B 2 op (fun s0 o _ => (pcntWord (namedPred (s0.slot o.slot) (rawA o.trip.raw)), noFlags)) s)

end Sys2Proof.Machine
end

