-- ==== Sys2Proof/Machine/Vault.lean ====
section
/-! DEFINITION. The Vault's banks (R283, R285), what comes back to the master of a request, and the ends of radix walks
(R293, R294). -/

namespace Sys2Proof.Machine

/-! ## What a request's master receives -/

/-- The save area of the logical tile that a request is for, while another logical tile runs there (R278). -/
def parkedAt (s : State) (r : Req) : Option TileSave :=
  match r.who, r.tile with
  | .port _ _ _, some t | .pipe _ _, some t | .drain _ _, some t | .table _ _, some t => mfind s.saved (1024 * t + r.lt.toNat)
  | _, _ => none

/-- What has come back waits until the logical tile runs; `w` is 1 for performed writes (R278). -/
def park (s : State) (x : TileSave) (r : Req) (w : Nat) (tok : Token) : State :=
  let (id, s1) := s.fresh
  let it : Item := { time := rkArrive, act := .ev .vaultReadReply { Arg.of id w 0 0 0 with tok := tok } }
  { s1 with reqs := mset s1.reqs id r, saved := mset s1.saved (1024 * r.tile.getD 0 + r.lt.toNat) { x with due := x.due ++ [it] } }

/-- Read data has come back to its master (R285). -/
def replyRead (s : State) (r : Req) (tok : Token) : State :=
  match parkedAt s r with
  | some x => park s x r 0 tok
  | none =>
  match r.who with
  | .port m walk ix => portReturn s m walk ix tok
  | .copy id k => copyReturn s id k tok
  | .host fn tag => { s with hostOut := s.hostOut ++ [{ fn := fn, tag := tag, status := 0, data := tok.data, poison := tok.poison }] }
  | .pipe t ix => pipeReturn s t ix tok
  | .table t id => s.planEv (s.mcnt + 2) rkComplete .translationWalkComplete { Arg.of t 0 id 0 0 with tok := tok }
  | .drain _ _ => s

/-- The writes of a request have been performed. -/
def replyWrite (s : State) (r : Req) : State :=
  match parkedAt s r with
  | some x => park s x r 1 (gatherTok s 0 [])
  | none =>
  match r.who with
  | .port m _ _ => writeDone s m r.tag r.parts
  | .copy id _ => copyWrote s id
  | .host fn tag => { s with hostOut := s.hostOut ++ [{ fn := fn, tag := tag, status := 0, data := 0, poison := false }] }
  | _ => s

/-- Sends read data from a die back to the master of a request, `extra` cycles after the end of its path; from a Teller it takes 16 cycles
to the link edge (R342). -/
def sendReply (s : State) (id : Nat) (r : Req) (die extra : Nat) (tok : Token) : State :=
  let (edge, hops) := pathOf die none r.die r.tile
  let lead := edge + (if die = portDie then 16 else 0)
  s.send { kind := if r.ctx < 8 then 2 else 3, ctx := r.ctx, circ := 0, hops := hops, tok := tok, rank := rkArrive, extra := extra
           retried := false, act := .ev .vaultReadReply { Arg.of id 0 0 0 0 with tok := tok } } lead

/-! ## The Vault (R283, R285) -/

/-- The bank of a request: 32 · die + offset bits [10:6]. -/
def reqBank (r : Req) : Nat :=
  let v := (r.parts.headD ⟨0, 0, 0, 0⟩).pa - 2 ^ 39
  32 * (v / 2 ^ 25) + v % 2 ^ 25 / 64 % 32

/-- Another request reaches the bank in this cycle and is taken first. -/
def outranked (s : State) (id : Nat) (r : Req) : Bool :=
  s.agenda.any (fun it => decide (it.time = 16 * s.mcnt + rkPerform) && (match it.act with
    | .ev .vaultBankEvent a =>
      match mfind s.reqs a.a with
      | some q => reqBank q == reqBank r && (decide (q.key < r.key) || (q.key == r.key && decide (a.a < id)))
      | none => false
    | _ => false))

/-- A write of a copy waits for the copy's earlier tokens (R221). -/
def behindToken (s : State) (r : Req) : Bool :=
  match r.who with
  | .copy id k => r.write && s.reqs.any (fun q => q.2.write && (match q.2.who with
    | .copy i j => i == id && decide (j < k)
    | _ => false))
  | _ => false

/-- VAULT_BANK_EVENT: a request is performed at its bank, one per bank and cycle; tokens of one copy are written in ascending byte order
(R221, R283). -/
def execVaultBankEvent (s : State) : Host.Outcome State Fault Refusal :=
  let id := s.arg.a
  .next (match mfind s.reqs id with
    | none => s
    | some r =>
      if mfind s.banks (reqBank r) = some s.mcnt ∨ behindToken s r then s.planN (s.mcnt + 1) rkPerform .vaultBankEvent id 0
      else if outranked s id r then s.planN s.mcnt rkPerform .vaultBankEvent id 0
      else
        let s1 := { s with banks := mset s.banks (reqBank r) s.mcnt }
        if r.write then replyWrite (scatter { s1 with reqs := mdel s1.reqs id } r.poison r.parts) r
        else sendReply s1 id r (reqBank r / 32) 14 (gatherTok s r.valid r.parts))

/-- VAULT_READ_REPLY: the token of a read (b = 0) or the end of a write (b = 1) reaches its master. -/
def execVaultReadReply (s : State) : Host.Outcome State Fault Refusal :=
  let id := s.arg.a
  .next (match mfind s.reqs id with
    | none => s
    | some r =>
      let s1 := { s with reqs := mdel s.reqs id }
      if s.arg.b = 1 then replyWrite s1 r else replyRead s1 r s.arg.tok)

/-! ## Walks of the radix table (R293, R294) -/

/-- A walk ends in a cause: charged to the slot that armed the port, or to the matrix region; PREF never traps (R154,
R293). -/
def walkFault (s : State) (t : Nat) (w : WalkReq) (cause : Nat) : State :=
  if w.who < 8 then portFault s (8 * t + w.who) (s.sport (8 * t + w.who)).owner cause (vaDetail w.va)
  else if w.who = 8 then regionFault s t cause (vaDetail w.va)
  else s

/-- The walk at the head of a tile's queue ends: its page enters the translation cache or its cause is raised, its port goes on, and the
tile's next walk begins (R293, R294). -/
def walkEnds (s : State) (t : Nat) (w : WalkReq) (rest : List WalkReq) (e : WalkEnd) : State :=
  let s1 := s.modTile t (fun x => { x with walks := rest })
  let s2 := match e with
    | .page base size pa ord ro =>
      fillPage s1 t { ctx := w.ctx, gen := s.genOn (dieOfTile t) w.ctx, base := base, size := size, pa := pa, ord := ord, ro := ro }
    | .trap c => walkFault s1 t w c
  let s3 := if w.who < 8 then
      let m := 8 * t + w.who
      planOnce (s2.modSport m (fun p => { p with walking := false })) (s.mcnt + 1) rkPort .readWalkTokenPresent m (s2.sport m).walk 2
    else s2
  readEntry s3 t

/-- TRANSLATION_WALK_COMPLETE: the entry that a tile's walk has read says that it ends, or the table in which it goes on (`b` 0), its table
lies outside the context's memory (`b` 2), a queued walk begins (`b` 3), or the object-table entry that a PREF waited for has come, and its
translation starts (`b` 1; R154, R293, R294). -/
def execTranslationWalkComplete (s : State) : Host.Outcome State Fault Refusal :=
  let t := s.arg.a
  .next (if s.arg.b = 1 then prefetchHit s t (s.ctxOfTile t) s.arg.d s.arg.e s.arg.c
    else match (s.tile t).walks with
    | [] => s
    | w :: rest =>
      if s.arg.b = 3 then (if w.busy then s else readEntry s t)
      else if w.id ≠ s.arg.c then s
      else if s.arg.b = 2 then walkEnds s t w rest (.trap 0x048)
      else
        match radixEntry w.va (radixBits.getD w.level (12, 4)).1 (decide (3 ≤ w.level)) (s.arg.tok.data.setWidth 64) with
        | .inl e => walkEnds s t w rest e
        | .inr table => readEntry (s.modTile t (fun x => { x with walks := { w with table := table, level := w.level + 1 } :: rest })) t)

end Sys2Proof.Machine
end

