-- ==== Sys2Proof/Machine/Quanta.lean ====
section
/-! DEFINITION. Logical quanta (R278, R279): what moves at a boundary, the shift of logical time, deferral, rotation. -/

namespace Sys2Proof.Machine

/-! ## Logical time (R264) -/

/-- Everything of a slot that is a cycle moves by d cycles. -/
def shiftSlot (d : Nat) (x : Slot) : Slot :=
  { x with start := x.start + d, heldSince := x.heldSince.map (fun c => c + d), flgAt := x.flgAt + d, preempt := x.preempt.map (fun c => c + d) }

def shiftElem (d : Nat) (e : Elem) : Elem :=
  { e with flight := e.flight.map (fun r => { r with due := r.due + d }), iterUntil := e.iterUntil + d
           quant := e.quant.map (fun q => { q with times := q.times.map (fun c => c + d) })
           outq := e.outq.map (fun q => (q.1, q.2.map (fun t => { t with leave := t.leave.map (fun c => c + d) }))) }

def shiftPort (d : Nat) (p : SPort) : SPort :=
  { p with nextReq := p.nextReq + d, begin_ := p.begin_ + d, scaleShown := p.scaleShown + d, lastShown := p.lastShown + d
           groups := p.groups.map (fun g => { g with scaleAt := g.scaleAt + d, mantAt := g.mantAt + d }) }

/-! ## What belongs to the logical tile that runs -/

/-- The item acts on the logical tile that runs on tile t. -/
def itemOn (s : State) (t : Nat) : Act → Bool
  | .issue n => tileOfSlot n == t
  | .teller _ => false
  | .ev i a =>
    if [.resultCompletion, .wKindHoldRelease, .holdOverrun, .slotStart, .slotDrainComplete, .deviceLaunchArrival].contains i then tileOfSlot a.a == t
    else if [.qblkTokenRelease, .meStreamInputToken, .readWalkTokenPresent, .writeWalkTokenPerform, .writePortUnFlush].contains i then a.a / 8 == t
    else if [.lodestoneCommandBegin, .lodestoneColourUpdate, .lodestoneCommandComplete, .assayEarlyCompare, .translationWalkComplete].contains i then a.a == t
    else if [.bankAccessPerform, .strlHeldPerform].contains i then ((mfind s.accs a.a).map (fun x => tileOfSlot x.slot)) == some t
    else if i = .eventRecordDeferredEnqueue then a.b == 1 && tileOfSlot a.a == t
    else if i = .copyBegin then ((mfind s.copies a.a).map (fun c => c.tile == t && c.lt == (s.tile t).ltid && !c.running)) == some true
    else isNodeAct t (.ev i a) || isPopAct t (.ev i a)

/-- Slots that a logical tile's state names take other numbers: in an element, an ME, a matrix node and a Lodestone node. -/
def renameElem (f : Nat → Nat) (e : Elem) : Elem :=
  { e with
    flight := e.flight.map (fun r => { r with slot := f r.slot })
    record := e.record.map (fun h => { h with res := { h.res with slot := f h.res.slot } })
    quant := e.quant.map (fun q => { q with slot := f q.slot }), outq := e.outq.map (fun q => (q.1, q.2.map (fun t => { t with slot := f t.slot }))) }
def renamePort (f : Nat → Nat) (p : SPort) : SPort :=
  let g (l : List WToken) : List WToken := l.map (fun t => { t with slot := f t.slot })
  { p with owner := f p.owner, input := g p.input, accepted := g p.accepted, merge := g p.merge }
def renameNode (f : Nat → Nat) (x : MNode) : MNode :=
  let g (r : MRun) : MRun := { r with cmd := { r.cmd with slot := f r.cmd.slot } }
  { x with
    owner := f x.owner, queue := x.queue.map (fun c => { c with slot := f c.slot }), wld := x.wld.map g, act := x.act.map g, drn := x.drn.map g
    norm := x.norm.map g, blame := x.blame.map f }
def renameLode (f : Nat → Nat) (x : LNode) : LNode :=
  let g (c : LCmd) : LCmd := { c with slot := f c.slot }
  { x with queue := x.queue.map g, run := x.run.map g, blame := x.blame.map f }

/-- Slots take other numbers in what a launch holds. -/
def renameLaunch (f : Nat → Nat) (l : Launch) : Launch :=
  let tile (t : Nat) : Nat := tileOfSlot (f (64 * t))
  { l with
    slots := l.slots.map f, done := l.done.map f, ledger := l.ledger.map (fun c => (c.1, { c.2 with slot := f c.2.slot }))
    saves := l.saves.map (fun x => { x with
      slot := f x.slot, record := x.record.map (fun h => { h with res := { h.res with slot := f h.res.slot } })
      quant := x.quant.map (fun q => { q with slot := f q.slot }) })
    mcmds := l.mcmds.map (fun c => { c with slot := f c.slot }), lcmds := l.lcmds.map (fun c => { c with slot := f c.slot })
    copies := l.copies.map (fun c => { c with slot := f c.slot })
    nodes := l.nodes.map (fun x => (tile x.1, renameNode f x.2)), lodes := l.lodes.map (fun x => (tile x.1, renameLode f x.2)) }

/-- Slots take other numbers in commands, accesses, copies and launches, and in the waiting device launches. -/
def renameSlots (s : State) (f : Nat → Nat) : State :=
  { s with cmds := s.cmds.map (fun c => (c.1, { c.2 with slot := f c.2.slot })), accs := s.accs.map (fun a => (a.1, { a.2 with slot := f a.2.slot }))
           copies := s.copies.map (fun c => (c.1, { c.2 with slot := f c.2.slot })), launches := s.launches.map (fun l => (l.1, renameLaunch f l.2)) }

/-- The entries of tile number a, `w` to a tile, come to stand under tile number b. -/
def rekey {α : Type} (w a b : Nat) (g : α → α) (m : Map α) : Map α :=
  m.foldl (fun x p => if p.1 / w = a then mset (mdel x p.1) (w * b + p.1 % w) (g p.2) else x) m

/-- The state of a logical tile comes to stand under tile number b, not a; its cycles move by d. -/
def moveState (s : State) (a b d : Nat) : State :=
  let f (n : Nat) : Nat := if tileOfSlot n = a then 64 * b + n % 64 else n
  renameSlots { s with
    slots := rekey 64 a b (shiftSlot d) s.slots, elems := rekey 8 a b (fun e => renameElem f (shiftElem d e)) s.elems
    sports := rekey 8 a b (fun p => renamePort f (shiftPort d p)) s.sports
    tiles := mset s.tiles b { s.tile a with qoff := (s.tile a).qoff + d, upper := (s.tile b).upper, upperMark := (s.tile b).upperMark, failed := (s.tile b).failed }
    mnodes := rekey 1 a b (fun x => renameNode f (shiftMat d x)) s.mnodes, lnodes := rekey 1 a b (fun x => renameLode f (shiftLode d x)) s.lnodes } f

/-- Moves the input queues of a tile between the running and the waiting place of a logical tile. -/
def moveQueues (s : State) (t : Nat) (l : BitVec 10) (out : Bool) : State :=
  let tag := 2 ^ 24 * (l.toNat + 1)
  s.inqs.foldl (fun a q =>
    let base := q.1 % 2 ^ 24
    if base / 16384 ≠ t then a
    else if out ∧ q.1 = base then { a with inqs := mset (mdel a.inqs base) (base + tag) q.2 }
    else if !out ∧ q.1 = base + tag then { a with inqs := mset (mdel a.inqs q.1) base q.2 }
    else a) s

/-! ## Swapping (R278) -/

/-- What a boundary writes to the save area of tile t: what is due is kept in logical time, counted from `base`. -/
def saveTile (s : State) (t base : Nat) : TileSave :=
  { base := base, due := (s.agenda.filter (fun it => itemOn s t it.act)).map (fun it => { it with time := it.time - 16 * base }) }

/-- The running logical tile of tile t goes to its save area; its time stands at cycle `base`. -/
def swapOut (s : State) (t base : Nat) : State :=
  let l := (s.tile t).ltid
  let s1 := { s with saved := mset s.saved (homeOf t l) (saveTile s t base), agenda := s.agenda.filter (fun it => !itemOn s t it.act) }
  moveQueues (moveState s1 t (parkedTile t l) 0) t l true

/-- What is due on a logical tile that comes back, less what no longer has a subject: issues of slots that stopped while it waited, and
acts of a node that was released then. -/
def stillDue (s : State) (t : Nat) (it : Item) : Bool :=
  let x := s.mnode t
  match it.act with
  | .issue n => (s.slot n).st == .running
  | a => !isNodeAct t a || x.counter.isSome || x.act.isSome || x.drn.isSome || !(x.wld.isEmpty && x.norm.isEmpty && x.queue.isEmpty)

/-- A logical tile comes back from its save area, and its time goes on from cycle `base`; one that never ran begins its time then: its
cycle count ℓ starts at MCNT (DESIGN CHOICE, log 206: R264 gives it no start value). -/
def swapIn (s : State) (t : Nat) (l : BitVec 10) (base : Nat) : State :=
  match mfind s.saved (homeOf t l) with
  | none => s.setTile t { Tile.reset with
      ctx := (s.tile t).ctx, ltid := l, upper := (s.tile t).upper, upperMark := (s.tile t).upperMark, failed := (s.tile t).failed }
  | some x =>
    let d := base - x.base
    let s1 := moveState { s with saved := mdel s.saved (homeOf t l) } (parkedTile t l) t d
    let s2 := moveQueues { s1 with
      tiles := mdel s1.tiles (parkedTile t l)
      copies := s1.copies.map (fun c => if c.2.tile = t ∧ c.2.lt = l ∧ !c.2.running then (c.1, { c.2 with begin_ := c.2.begin_ + d }) else c) } t l false
    let s3 := (x.due.filter (stillDue s2 t)).foldl (fun a it => { a with agenda := insertItem { it with time := it.time + 16 * base } a.agenda }) s2
    let s4 := (List.range 8).foldl (fun a k => (List.range 6).foldl (fun b g => drainOut b (8 * t + k) g 8) a) s3
    (List.range 64).foldl (fun a k => a.drainCheck (64 * t + k)) s4

/-- An event of a logical tile that waits for its quantum is due at the beginning of that quantum. -/
def State.defer (s : State) (h : Nat) (i : Instr) (g : Arg) : State :=
  match mfind s.saved h with
  | some x => { s with saved := mset s.saved h { x with due := x.due ++ [{ time := rkHold, act := .ev i g }] } }
  | none => s

/-! ## Slots by their logical tile -/

/-- The number by which a slot stays known through the quanta of its tile: that of its parked state where the tile is sliced. -/
def lastingName (s : State) (n : Nat) : Nat :=
  let t := tileOfSlot n
  if t = physTile t ∧ (mfind s.rots t).isSome then 64 * parkedTile t (s.tile t).ltid + n % 64 else n

/-- The number of such a slot now. -/
def presentName (s : State) (n : Nat) : Nat :=
  let t := tileOfSlot n
  if t ≠ physTile t ∧ s.runsOn (physTile t) (BitVec.ofNat 10 (t / 2 ^ 14 - 1)) then 64 * physTile t + n % 64 else n

/-- The logical tile of a slot that waits for its quantum. -/
def parkedHome (n : Nat) : Option Nat :=
  let t := tileOfSlot n
  if t = physTile t then none else some (homeOf t (BitVec.ofNat 10 (t / 2 ^ 14 - 1)))

/-! ## Rotation (R279) -/

/-- The logical tile at a place of the rotation of tile t, and its remap entry. -/
def placeIx (s : State) (t ix : Nat) : Option (BitVec 10 × Word) :=
  match (s.tile t).ctx with
  | some c => ((entriesOn s c t).find? (fun e => shareIx e.2 == ix && decide (1 < sharers e.2))).map (fun e => (BitVec.ofNat 10 (e.1 % 1024), e.2))
  | none => none

/-- The next place of the rotation that is occupied. -/
def nextPlace (s : State) (t ix : Nat) : Option Nat :=
  ((List.range 8).map (fun k => (ix + k + 1) % 8)).find? (fun j => (placeIx s t j).isSome)

/-- Makes logical tile l the one whose state stands on tile t, outside any quantum. -/
def bringIn (s : State) (t : Nat) (l : BitVec 10) : State :=
  let cur := (s.tile t).ltid
  if s.runsOn t l then s
  else swapIn (if s.runsOn t cur ∧ (s.tile t).load.isSome then swapOut s t s.mcnt else s) t l s.mcnt

/-- The rotation of a sliced tile begins with place 0 in this cycle; the boundary acts at the end of the quantum's last cycle. -/
def startRotation (s : State) (t : Nat) : State :=
  match placeIx s t 0 with
  | some (l, w) =>
    let s1 := bringIn s t l
    { s1.unplan (fun a => match a with
        | .ev .quantumBoundary g => g.a == t
        | _ => false) with rots := mset s1.rots t { ix := 0, since := s.mcnt, owed := [] } }.planEv (s.mcnt + quantumOf w - 1) rkArrive .quantumBoundary (Arg.of t 0 0 0 0)
  | none => { s with rots := mdel s.rots t }

/-- The cycle to which a boundary at levels D and F is deferred: the application of the last group taken, the end of the colour in
progress, the later of the two (R185, R279). -/
def deferTo (s : State) (t : Nat) : Option Nat :=
  let at_ (i : Instr) : List Nat := (s.agenda.filter (fun it => match it.act with
    | .ev j a => j == i && a.a == t
    | _ => false)).map (fun it => it.time / 16)
  let last (l : List Nat) : Option Nat := l.foldl (fun b c => some (max c (b.getD 0))) none
  if s.levelOf t = .t then none
  else
    match last (if (s.mnode t).act.isSome then at_ .matrixGroupApply else []), last (at_ .lodestoneColourUpdate) with
    | some a, some b => some (max a b)
    | some a, none => some a
    | none, some b => some b
    | none, none => none

/-- What the deferred boundary waits for happens at the end of the cycle before it. -/
def settleBefore (s : State) (t x : Nat) : State :=
  let moved := s.agenda.map (fun it => match it.act with
    | .ev i a =>
      if (i == .matrixGroupApply || i == .lodestoneColourUpdate) && a.a == t && decide (it.time / 16 ≤ x) then { it with time := 16 * (x - 1) + rkArrive } else it
    | _ => it)
  { s with agenda := moved.foldl (fun l it => insertItem it l) [] }

/-- QUANTUM_BOUNDARY: the end of a quantum (b = 0, or 1 once deferred), and 96 cycles later the start of the next one (b = 2). A
deferred boundary stops the matrix node, which takes no further group, and goes on from its next group in the tile's next quantum
(R185). -/
def execQuantumBoundary (s : State) : Host.Outcome State Fault Refusal :=
  let t := s.arg.a
  .next (match mfind s.rots t with
    | none => s
    | some r =>
      if s.arg.b = 2 then
        match placeIx s t r.ix with
        | some (l, w) =>
          let s0 := swapIn s t l s.mcnt
          let saving := s0.launches.any (fun q => q.2.st == .saving && q.2.slots.any (fun n => tileOfSlot n == t))
          let s1 := if (s0.mnode t).stopping && !saving then resumeNode s0 t else s0
          { s1 with rots := mset s1.rots t { r with since := s.mcnt, owed := mdel r.owed r.ix } }.planEv
            (s.mcnt + quantumOf w - mget 0 r.owed r.ix - 1) rkArrive .quantumBoundary (Arg.of t 0 0 0 0)
        | none => startRotation s t
      else
        match (if s.arg.b = 0 then deferTo s t else none) with
        | some x =>
          { settleBefore (s.modNode t (fun y => { y with stopping := y.stopping || y.act.isSome })) t x with rots := mset s.rots t { r with owed := mset r.owed r.ix (x - (s.mcnt + 1)) } }.planEv (x - 1) rkArrive
            .quantumBoundary (Arg.of t 1 0 0 0)
        | none =>
          match nextPlace s t r.ix with
          | some j =>
            let s1 := if s.runsOn t (s.tile t).ltid then swapOut s t (s.mcnt + 1) else s
            { s1 with rots := mset s1.rots t { r with ix := j } }.planEv (s.mcnt + 1 + 96) rkStart .quantumBoundary (Arg.of t 2 0 0 0)
          | none => { s with rots := mdel s.rots t })

end Sys2Proof.Machine
end

