-- ==== Sys2Proof/Machine/Sched.lean ====
section
/-! DEFINITION. From launch to retirement (R302 to R320): completion entries and records, arming and starting slots, saving
and restoring, retirement and task end, the scheduler's scan and its choice. Both copies of the scheduler read the same
queues, so the model lets them act as one (R310). -/

namespace Sys2Proof.Machine

/-! ## Functions and interrupts (R355, R362) -/

/-- The function that owns a context (R355). -/
def fnOfCtx (s : State) (c : Nat) : Nat :=
  let w := mget 0#32 s.port.ctxfn c
  if w.getLsbD 31 then w.toNat % 8 else 0

/-- A request of a host function to the register page or the flash window: where the function is frozen it completes with Completer
Abort and does nothing (R324). -/
def State.byHost (s : State) (f : Nat) (t : State) : State :=
  if s.fnFrozen.contains f then { s with port := { s.port with aborts := s.port.aborts + 1 } } else t

/-- A posted write of the function to the Vault or DRAM has not been performed yet; of those to sub-channel `tl` alone no more is asked
where `tl` is given, as their Teller serves them in order (R212, R244). -/
def postedBy (s : State) (f : Nat) (tl : Option Nat) : Bool :=
  s.reqs.any (fun r => r.2.write && (match r.2.who with
    | .host g _ => g == f
    | _ => false) && (r.2.parts.any (fun p => !isDram p.pa || tl != some (p.pa / 2 ^ 32))))

/-- An item is a request of the function that waits for the writes before it. -/
def hostWaiter (s : State) (f : Nat) (it : Item) : Bool :=
  match it.act with
  | .ev i a => !a.i.isEmpty && (match i with
      | .hostVaultAccess | .hostDramAccess => a.a % 8 == f
      | .doorbellWrite => fnOfCtx s (a.a % 8) == f
      | _ => false)
  | _ => false

/-- A host access or doorbell write may act: the function's posted writes before it have been performed at package scope, and it overtakes
none that waits (R244, R252). The rest of an access that reaches into a second 64-byte unit (`i` 2) waits for the first (R360). -/
def hostTurn (s : State) (f : Nat) (tl : Option Nat) : Bool :=
  s.fnFrozen.contains f
    || (!postedBy s f tl
      && (match s.arg.i with
        | [] => !s.agenda.any (hostWaiter s f)
        | i :: _ => i != 2 || !s.reqs.any (fun r => r.2.who == .host f s.arg.e)))

/-- It tries again in the next cycle, in arrival order. -/
def hostAgain (s : State) (i : Instr) : State :=
  s.planEv (s.mcnt + 1) rkHold i { s.arg with i := if s.arg.i.isEmpty then [1] else s.arg.i }

/-- What is left of an access after its first k bytes of n. -/
def hostRest (s : State) (i : Instr) (k n : Nat) : State :=
  if n ≤ k then s
  else s.planEv (s.mcnt + 1) rkHold i { s.arg with b := s.arg.b + k, d := n - k, v := s.arg.v >>> (8 * k), i := [2] }

/-- The context slot of a context among those of its function (R355). -/
def ctxSlotOf (s : State) (c : Nat) : Nat := ((List.range c).filter (fun d => fnOfCtx s d == fnOfCtx s c)).length

/-- Sends an MSI-X message (R362). -/
def fireMsix (s : State) (fn v : Nat) : State := { s with port := { s.port with msix := s.port.msix ++ [(fn, v)] } }

/-! ## The queue in the Vault (R302) -/

/-- The number of queue entries. -/
def queueSize (w : Word) : Nat := 2 ^ (w.extractLsb' 4 4).toNat

/-- The address of byte `off` of a context's queue. -/
def queueAt (s : State) (c off : Nat) : Nat :=
  let d := (dieOfVirtual s c 0).getD 0
  vaultAddr d ((partition s d c).2.1 + ((s.ctx c).policy.extractLsb' 8 12).toNat * 4096 + off)

/-- A completion entry or launch record (R314). -/
def completion (w0 : Word) (kern abnd mcnt status cause : Nat) : BitVec 128 :=
  recordOf (w0 &&& 0xFF00_FFFF#32) (BitVec.ofNat 32 (kern % 65536 * 65536 + min abnd 0xFFFF)) (BitVec.ofNat 32 mcnt)
    (BitVec.ofNat 32 (5 * 2 ^ 24 + status * 2 ^ 16 + cause))

/-- A packet completes: its entry where CMPL asks for one or the status is not 0, then the interrupt (R304, R312,
R362). -/
def completePacket (s : State) (c : Nat) (w0 : Word) (kern abnd status cause : Nat) : State :=
  let x := s.ctx c
  let s1 := s.modCtx c (fun y => { y with outst := y.outst - 1 })
  if w0.getLsbD 23 ∨ status ≠ 0 then
    let n := queueSize x.policy
    let s2 := s1.write (queueAt s c (64 * n + 16 * x.cidx)) (completion w0 kern abnd s.mcnt status cause).toNat 16
    fireMsix (s2.modCtx c (fun y => { y with cidx := (x.cidx + 1) % n })) (fnOfCtx s c) (1 + ctxSlotOf s c)
  else s1

/-- The barrier packet of a context completes. -/
def completeBarrier (s : State) (c : Nat) (status cause : Nat) : State :=
  match (s.ctx c).barrier with
  | some v => (completePacket s c (lane v 0) 0 0 status cause).modCtx c (fun y => { y with barrier := none, begun := false })
  | none => s

/-! ## Arming (R15, R311) -/

/-- A slot is armed for one of its blocks with the values of R15; `arg` goes to `s0` (R311). -/
def armSlot (s : State) (n b : Nat) (arg : Option Word) (caps : List (BitVec 128)) (launch entry : Option Nat) : State :=
  let s1 := s.modSlot n (fun x => { x with
    st := .armed, q0 := 0, q1 := 0, q2 := 0, q3 := 0, p := []
    c := if caps.isEmpty then x.loadedC else (List.range caps.length).zip caps
    ic := 0, dth := x.dthSeed, flg := 0, flgNow := 0, opp := 0, rtp := 0, rap := 0, ia := BitVec.ofNat 11 (x.blockAt b).1, block := b, hrw := 0, haw := 0, cause := 0
    epc := 0, shadow := none, mk0 := x.gseed.setWidth 32, mk1 := x.gseed.extractLsb' 32 32, mtid := 0, mcz := 0, qpos := 0
    launch := launch, entry := entry, arvw := none, heldSince := none, preempt := none, ended := false, abandoned := 0 })
  match arg with
  | some w => s1.setSreg n 0 w
  | none => s1

/-- An armed slot starts: start offsets count from `base` (R107, R311). A slot of a logical tile that waits for its quantum starts at the
beginning of it, the cycle of its time at which that time stands (R264, R278). -/
def startSlot (s : State) (n base : Nat) : State :=
  if (s.slot n).st = .armed then
    match parkedHome n with
    | some h => s.defer h .slotStart (Arg.of (64 * physTile (tileOfSlot n) + n % 64) 0 2 0 0)
    | none => (s.modSlot n (fun x => { x with st := .running, start := base })).planIssue n s.mcnt
  else s

/-- An armed slot goes back to BOUND. -/
def disarm (s : State) (n : Nat) : State :=
  if (s.slot n).st = .armed then s.modSlot n (fun x => { x with st := .bound }) else s

def State.setLaunch (s : State) (id : Nat) (l : Launch) : State := { s with launches := mset s.launches id l }
def State.dropLaunch (s : State) (id : Nat) : State := { s with launches := mdel s.launches id }

/-- Sends the arm request of a launch: it reaches each slot from both scheduler copies, and the slots start at M, 256
cycles after its issue (R310, R311). -/
def dispatch (s : State) (id : Nat) (l : Launch) : State :=
  let ns := kernSlots s l.ctx l.kern
  let m := s.mcnt + 256
  let s1 := s.setLaunch id { l with st := .armed, slots := ns, done := [], start := m, passed := 0 }
  let s2 := ns.foldl (fun a n =>
    (a.planN (s.mcnt + schedTransit s (physTile (tileOfSlot n))) rkArrive .armRequestArrival (lastingName s n) id).planN
      (if lastingName s n = n ∧ (parkedHome n).isNone then s.turnOf n m else m) rkHold .slotStart (lastingName s n) id) s1
  s2.planEv m rkStart .armRequestArrival (Arg.of 0 id 1 0 0)

/-! ## Saving and restoring (R109, R318, R319) -/

/-- The registers of a file that a mask names, from a window base. -/
def pick {α : Type} (d : α) (m : Map α) (base n mask : Nat) : Map α :=
  ((List.range n).filter (fun i => mask.testBit i)).map (fun i => (i, mget d m (base + i)))

/-- What the context save area takes of a slot; its start offset goes there as the cycles that have passed. -/
def savedOf (s : State) (n : Nat) : SavedSlot :=
  let x := s.slot n
  let e := s.elem (veOfSlot n)
  let k := if x.st = .frozen then keepAll else x.keep
  { slot := n, own := { x with o := pick 0 x.o 0 8 k.2.2, start := s.mcnt - x.start }, v := pick 0 e.pv (s.vbase n) 32 k.1, s := pick 0 e.ps (s.sbase n) 32 k.2.1
    record := e.record.filter (fun h => h.res.slot == n), quant := e.quant.filter (fun q => q.slot == n) }

/-- A slot leaves its state in the save area and its element goes to others. -/
def vacate (s : State) (n : Nat) : State :=
  ((s.modElem (veOfSlot n) (fun e => { e with
      record := e.record.filter (fun h => h.res.slot != n), quant := e.quant.filter (fun q => q.slot != n) })).unplan (isTurnOf n)).modSlot n
    (fun x => { x with st := .bound, preempt := none, heldSince := none })

/-- A saved slot comes back: the registers that were kept, the others as they stand; a slot saved FROZEN stays so (R319). -/
def restoreSlot (s : State) (id base : Nat) (g : SavedSlot) : State :=
  let n := g.slot
  let cur := s.slot n
  let files := g.own.o.foldl (fun m p => mset m p.1 p.2) cur.o
  let q (i : Nat) (a b : Vec) : Vec := if g.own.keep.2.2.testBit (8 + i) ∨ g.own.st = .frozen then a else b
  let s1 := s.modElem (veOfSlot n) (fun e => { e with
    pv := g.v.foldl (fun m p => mset m (s.vbase n + p.1) p.2) e.pv, ps := g.s.foldl (fun m p => mset m (s.sbase n + p.1) p.2) e.ps
    record := e.record ++ g.record, quant := e.quant ++ g.quant })
  let back := { g.own with
    o := files, q0 := q 0 g.own.q0 cur.q0, q1 := q 1 g.own.q1 cur.q1, q2 := q 2 g.own.q2 cur.q2, q3 := q 3 g.own.q3 cur.q3
    launch := some id, start := base, preempt := none }
  if g.own.st = .frozen then (s1.setSlot n { back with st := .frozen }).holdGroup n s.mcnt
  else (s1.setSlot n { back with st := .running }).planIssue n s.mcnt

/-- The tiles of a launch on which no other launch has slots that run: the save takes their nodes with it (R185, R196, R319;
DESIGN CHOICE, log 21). -/
def ownNodes (s : State) (id : Nat) (l : Launch) : List Nat :=
  let live (q : Launch) (t : Nat) : Bool :=
    q.st != .pending && q.st != .sent && q.slots.any (fun n => tileOfSlot n == t && !q.done.contains n)
  ((l.slots.map tileOfSlot).eraseDups).filter (fun t => !(s.launches.any (fun q => q.1 != id && live q.2 t)))

/-- A begun command stands still: an ACT or QUAD at a row-progress point, a sweep at the end of a colour (R185, R196). -/
def parked (s : State) (ts : List Nat) (k : Nat) : Bool := ts.any (fun t =>
  ((s.mnode t).stopping && (s.mnode t).act.any (fun r => r.cmd.id == k && r.take == r.next))
    || ((s.lnode t).stopped && (s.lnode t).run.any (fun c => c.id == k)))

/-- The nodes of some tiles are to stop, the matrix node at its next row-progress point, the Lodestone node at the end of its colour. -/
def haltNodes (s : State) (ts : List Nat) : State :=
  ts.foldl (fun a t => stopLode (planOnce a s.mcnt rkStart .matrixRowProgressStop t 0 0) t) s

/-- The nodes of some tiles go into the save, and stand idle. A frozen node stays as it is. -/
def saveNodes (s : State) (ts : List Nat) (l : Launch) : State × Launch :=
  let ms := ts.filter (fun t => !(s.mnode t).frozen)
  let ls := ts.filter (fun t => !(s.lnode t).frozen)
  let s1 := ms.foldl (fun a t => (a.unplan (fun q => isNodeAct t q || isPopAct t q)).modNode t (fun x =>
    { x with counter := none, queue := [], wld := [], act := none, drn := none, norm := [], pipe := [], feed := [], gated := false
             stopping := false })) s
  let s2 := ls.foldl (fun a t => (a.unplan (isLodeAct t)).modLode t (fun x =>
    { x with queue := [], run := none, stopping := false, stopped := false })) s1
  (s2, { l with savedAt := s.mcnt, nodes := ms.map (fun t => (t, { s.mnode t with queue := [], gated := false, stopping := true }))
                lodes := ls.map (fun t => (t, { s.lnode t with queue := [], stopping := false, stopped := true })) })

/-- The saved nodes come back, and what stood still goes on: an activation command with its next group, a sweep with its next
colour (R185, R196). -/
def restoreNodes (s : State) (id : Nat) (l : Launch) : State :=
  let ts := ownNodes s id l
  let d := s.mcnt - l.savedAt
  let s1 := (l.nodes.filter (fun p => ts.contains p.1 || p.2.act.isSome)).foldl (fun a p =>
    kickFeed (planTable (resumeNode (a.setNode p.1 (shiftMat d p.2)) p.1) p.1 s.mcnt) p.1) s
  (l.lodes.filter (fun p => ts.contains p.1 || p.2.run.isSome)).foldl (fun a p => resumeLode (a.setLode p.1 (shiftLode d p.2)) p.1) s1

/-- The commands of some slots that have not begun, or stand still, leave their engines with what they have to wait yet. -/
def takeCommands (s : State) (ts : List Nat) (l : Launch) : State × Launch :=
  let mine (n : Nat) : Bool := l.slots.contains n
  let all_ := (l.slots.map tileOfSlot).eraseDups
  let idle (c : Nat × Command) : Bool := mine c.2.slot && (!c.2.begun || parked s ts c.1)
  let mc := all_.flatMap (fun t => (s.mnode t).queue.filter (fun c => mine c.slot))
  let lc := all_.flatMap (fun t => (s.lnode t).queue.filter (fun c => mine c.slot))
  let cp := s.copies.filter (fun c => mine c.2.slot && !c.2.running)
  let s1 := all_.foldl (fun a t =>
    (a.modNode t (fun x => { x with queue := x.queue.filter (fun c => !mine c.slot) })).modLode t (fun x =>
      { x with queue := x.queue.filter (fun c => !mine c.slot) })) s
  ({ s1 with copies := s1.copies.filter (fun c => !(mine c.2.slot && !c.2.running))
             cmds := s1.cmds.filter (fun c => !idle c) },
    { l with ledger := s.cmds.filter idle, mcmds := mc.map (fun c => { c with begin_ := c.begin_ - s.mcnt }), lcmds := lc
             copies := cp.map (fun c => { c.2 with begin_ := c.2.begin_ - s.mcnt, order := c.1 }) })

/-- The saved commands are posted again; offsets count on from the new start cycle (R319). -/
def postCommands (s : State) (l : Launch) : State :=
  let s0 := { s with cmds := l.ledger.foldl (fun m p => mset m p.1 p.2) s.cmds }
  let s1 := l.mcmds.foldl (fun a c =>
    let t := tileOfSlot c.slot
    kickQueue (a.modNode t (fun x => { x with queue := x.queue ++ [{ c with begin_ := c.begin_ + s.mcnt }] })) t) s0
  let s2 := l.lcmds.foldl (fun a c =>
    let t := tileOfSlot c.slot
    kickLode (a.modLode t (fun x => { x with queue := x.queue ++ [c] })) t) s1
  l.copies.foldl (fun a c => kickChan (a.setCopy c.order { c with begin_ := c.begin_ + s.mcnt }) c.tile c.chan s.mcnt) s2

/-- The launches that are saved together with some launches: those whose slots are timed with theirs in a coupled group (R18). -/
def savedTogether (s : State) : Nat → List Nat → List Nat
  | 0, ids => ids
  | k + 1, ids =>
    let ns := ids.flatMap (fun id => ((mfind s.launches id).map (fun l => l.slots)).getD [])
    let more := (launchesOn s (ns.flatMap (coupledWith s))).filter (fun i => !ids.contains i)
    if more.isEmpty then ids else savedTogether s k (ids ++ more)

/-- Asks a running launch to save: its slots take safe points from M, 128 cycles on (R318); a coupled group is asked as a whole (R18). -/
def requestSave (s : State) (id : Nat) (l : Launch) : State :=
  if l.st = .running ∧ (s.ctx l.ctx).policy.extractLsb' 26 2 ≠ 3 then
    (savedTogether s s.launches.length [id]).foldl (fun a i => match mfind a.launches i with
      | some x => if x.st = .running then (a.setLaunch i { x with st := .saving }).planN (s.mcnt + 128) rkStart .preemptRequest x.ctx i else a
      | none => a) s
  else s

/-- PREEMPT_REQUEST: at M every running slot of the launch has the request, and a slot held by a W-kind instruction is
saved as held (R153, R318). -/
def execPreemptRequest (s : State) : Host.Outcome State Fault Refusal :=
  let id := s.arg.b
  .next (match mfind s.launches id with
    | some l =>
      let s1 := l.slots.foldl (fun a n =>
        let x := a.slot n
        if x.st = .running then
          let b := a.modSlot n (fun y => { y with preempt := some s.mcnt })
          if savedHeld b n then saveSlot (b.unplan (isTurnOf n)) n keepAll else b
        else a) s
      s1.planN (s.mcnt + 35) rkStart .launchSaved l.ctx id
    | none => s)

/-- A slot of a launch that is to be saved has stopped for good or for the save, with no result of it in flight (R109). -/
def savedHere (s : State) (l : Launch) (n : Nat) : Bool :=
  l.done.contains n || (s.slot n).st == .frozen
    || ((s.slot n).st == .saved && !(s.elem (veOfSlot n)).flight.any (fun r => r.slot == n)
      && !(s.elem (veOfSlot n)).quant.any (fun q => q.slot == n && q.times.length == 33))

/-- LAUNCH_SAVED: once every slot is SAVED, retired or frozen the launch's nodes are to stop; once every command and copy that it has
begun has completed or stands still, the launch goes back to the pending set (R185, R196, R319). -/
def execLaunchSaved (s : State) : Host.Outcome State Fault Refusal :=
  let id := s.arg.b
  .next (match mfind s.launches id with
    | some l =>
      if l.st ≠ .saving ∨ !l.slots.all (savedHere s l) ∨ l.done.length = l.slots.length then s
      else
      let ts := ownNodes s id l
      if s.cmds.any (fun c => l.slots.contains c.2.slot && c.2.begun && !parked s ts c.1) then
        planOnce (haltNodes s ts) (s.mcnt + 1) rkStart .launchSaved l.ctx id 0
      else
        let left := l.slots.filter (fun n => !l.done.contains n)
        let (s0, l0) := takeCommands s ts l
        let (s1, l1) := saveNodes s0 ts l0
        let l2 := { l1 with st := .pending, saves := left.map (savedOf s) }
        (left.foldl vacate s1).setLaunch id l2
    | none => s)

/-! ## Retirement (R107, R312) -/

/-- A launch's slot has retired, or counts as retired (R107, R328). -/
def slotRetired (s : State) (n : Nat) : State :=
  let x := s.slot n
  match x.launch.bind (fun id => (mfind s.launches id).map (fun l => (id, l))) with
  | some (id, l) =>
    if !l.slots.contains n ∨ l.done.contains n then s
    else
      let l1 := { l with done := n :: l.done, abnd := l.abnd + x.abandoned }
      let s1 := s.setLaunch id l1
      if l1.done.length = l1.slots.length then s1.planN s.mcnt rkArrive .launchRetire l.ctx id
      else if l.st = .saving then s1.planN s.mcnt rkArrive .launchSaved l.ctx id
      else s1
  | none => s

/-- SLOT_DRAIN_COMPLETE: nothing of the slot is outstanding, and its part of the block retires (R107). -/
def execSlotDrainComplete (s : State) : Host.Outcome State Fault Refusal :=
  let n := s.arg.a
  .next (if (s.slot n).st = .draining ∧ drained s n then
      slotRetired (s.modSlot n (fun x => { x with st := .bound, preempt := none })) n
    else s)

/-- A running update that replaces the scheduler keeps it from acting (R377). -/
def schedDown (s : State) : Bool :=
  match s.port.update with
  | some u => decide (2 ≤ u.stage) && u.w1.getLsbD 1
  | none => false

/-- A launch has ended: its record goes to the completion ring, or to the parent's tile where EVR asks for it or the
status is not 0; then its slots are free (R234, R312, R314). -/
def endLaunch (s : State) (id : Nat) (l : Launch) (kern status cause : Nat) : State :=
  let s1 := s.dropLaunch id
  if l.host then completePacket s1 l.ctx l.w0 kern l.abnd status cause
  else if l.w0.getLsbD 23 ∨ status ≠ 0 then
    s1.postLogical l.parent 3 (completion (l.w0 &&& 0xFF00_0000#32) kern l.abnd s.mcnt status cause)
  else s1

/-- A modulo table that a slot of the launch armed still runs, or a command that it fired has not completed (R188). -/
def tableLeft (s : State) (l : Launch) : Bool :=
  l.slots.any (fun n => let x := s.mnode (tileOfSlot n); x.counter.isSome && l.slots.contains x.owner)
    || s.cmds.any (fun c => l.slots.contains c.2.slot)

/-- The credit of w5's counter at retirement (R306). -/
def creditLaunch (s : State) (l : Launch) : State :=
  match l.credit with
  | some (h, k) =>
    let (s1, tooMany) := s.creditLogical h k 1
    if tooMany then s1.raise (dieOfTile (h / 1024)) 0x08B (.nobody l.ctx (h / 1024)) s.mcnt k else s1
  | none => s

/-- LAUNCH_RETIRE: the credit, the record, the release, in this order; a record that finds the parent's event queue full
waits at the scheduler (R312). The retirement releases the writes of its slots, which have been performed by then (R252, R259). -/
def execLaunchRetire (s : State) : Host.Outcome State Fault Refusal :=
  let id := s.arg.b
  .next (match mfind s.launches id with
    | some l =>
      if l.done.length ≠ l.slots.length then s
      else if schedDown s then { s with port := { s.port with heldRetires := s.port.heldRetires ++ [(l.ctx, id)] } }
      else if tableLeft s l ∨ l.slots.any (fun n => releasePending s n (s.slot n).seq) ∨ (!l.host ∧ l.w0.getLsbD 23 ∧ 64 ≤ (s.logical l.parent).evq.length) then
        planOnce s (s.mcnt + 1) rkArrive .launchRetire l.ctx id 0
      else
        let (st, cause) := l.mark.getD (0, 0)
        endLaunch (creditLaunch s l) id l l.kern st cause
    | none => s)

/-! ## Task end (R313, R327) -/

/-- A slot stops and is discarded. -/
def killSlot (s : State) (n : Nat) : State :=
  let st := (s.slot n).st
  if st = .unbound ∨ st = .bound then s else s.discardSlot n

/-- An engine froze on account of some slots: it held a command or copy of one of them then, or of none. -/
def blames (blame ns : List Nat) : Bool := blame.isEmpty || blame.any (fun n => ns.contains n)

/-- The engines of some slots are released: what they have not begun is dropped, their tables stop, a node that is frozen
or runs one of their commands is idle, frozen channels are released (R188, R324). -/
def releaseEngines (s : State) (ns : List Nat) : State :=
  let mine (n : Nat) : Bool := ns.contains n
  ((ns.map tileOfSlot).eraseDups).foldl (fun a t =>
    let x := a.mnode t
    let runs := (x.wld.map (fun r => r.cmd.slot) ++ x.act.toList.map (fun r => r.cmd.slot) ++ x.drn.toList.map (fun r => r.cmd.slot)
      ++ x.norm.map (fun r => r.cmd.slot)).any mine
    let a1 := if (x.frozen ∧ blames x.blame ns) ∨ runs ∨ (x.counter.isSome ∧ mine x.owner) then releaseNode a t else a
    let a2 := (a1.mnode t).queue.foldl (fun b c =>
      if mine c.slot then (b.modNode t (fun y => { y with queue := y.queue.filter (fun d => d.id != c.id) })).endCommand c.id c.slot else b) a1
    let y := a2.lnode t
    let a3 := if (y.frozen ∧ blames y.blame ns) ∨ y.run.toList.any (fun c => mine c.slot) then releaseLode a2 t else a2
    let a4 := (a3.lnode t).queue.foldl (fun b c =>
      if mine c.slot then (b.modLode t (fun z => { z with queue := z.queue.filter (fun d => d.id != c.id) })).endCommand c.id c.slot else b) a3
    let u := physTile t
    let a5 := (List.range 16).foldl (fun b ch => if (b.chan u ch).frozen ∧ blames (b.chan u ch).blame ns then releaseChan b u ch else b) a4
    (a5.copies.filter (fun c => mine c.2.slot && !c.2.running)).foldl (fun b c => dropCopy b c.1 c.2) a5) s

/-- A launch ends without retiring: its slots are discarded, its engines released, and it completes with a failure status
(R313). `where_` stands for the kernel with STATUS 0x06. -/
def endTask (s : State) (id : Nat) (l : Launch) (status cause where_ : Nat) : State :=
  let s1 := l.slots.foldl killSlot (releaseEngines s l.slots)
  let s2 := s1.unplan (fun a => match a with
    | .ev .slotStart g => g.b == id && g.c == 0
    | .ev .armRequestArrival g => g.b == id
    | _ => false)
  let again := cause / 64 = 3 ∧ status = 5 ∧ !l.again ∧ ((s.ctx l.ctx).image.map (fun i => i.restart.contains l.kern)).getD false
  let fresh := { l with
    st := .pending, again := true, done := [], saves := [], ledger := [], mcmds := [], lcmds := [], copies := [], nodes := [], lodes := [] }
  if again then s2.setLaunch id fresh
  else endLaunch s2 id l (if status = 6 then where_ else l.kern) status cause

/-- TASK_END: c is 512·status + cause, d the coordinates of a failed element. -/
def execTaskEnd (s : State) : Host.Outcome State Fault Refusal :=
  .next (match mfind s.launches s.arg.b with
    | some l => endTask s s.arg.b l (s.arg.c / 512) (s.arg.c % 512) s.arg.d
    | none => s)

/-- The coordinates of an element as a completion entry gives them (R314). -/
def elemCoords (v : Nat) : Nat :=
  let t := tileOfVe v
  let (i, j) := veSite (v % 8)
  dieOfTile t * 2 ^ 14 + yOfTile t * 2 ^ 10 + xOfTile t * 2 ^ 6 + i * 16 + j * 4

/-! ## Arm requests and starts (R310, R311) -/

/-- ARM_REQUEST_ARRIVAL: the request reaches a slot (c = 0), or at M the launch is looked at as a whole (c = 1): where a
slot had left BOUND no slot of it is armed, and it returns to the pending set; a blocked element ends it (R96, R311), with CAUSE 0x001
whatever blocked the element (DESIGN CHOICE, log 168: no rule gives the cause). -/
def execArmRequestArrival (s : State) : Host.Outcome State Fault Refusal :=
  let g := s.arg
  .next (match mfind s.launches g.b with
    | none => s
    | some l =>
      if g.c = 0 then
        let n := presentName s g.a
        if (s.slot n).st = .bound then armSlot s n (s.slot n).kernBlock (if l.saves.isEmpty then some l.arg else none) l.caps (some g.b) none else s
      else match l.slots.find? (fun n => (s.elem (veOfSlot n)).blocked) with
        | some n => endTask s g.b l 6 0x001 (elemCoords (veOfSlot n))
        | none =>
          if l.slots.all (fun n => (s.slot n).st == .armed && (s.slot n).launch == some g.b) then
            let now := { l with st := .running, ledger := [], mcmds := [], lcmds := [], copies := [], nodes := [], lodes := [] }
            postCommands (restoreNodes (s.setLaunch g.b now) g.b l) l
          else
            (l.slots.foldl (fun a n => if (a.slot n).launch == some g.b then disarm a n else a) s).setLaunch g.b { l with st := .pending }
              |>.unplan (fun a => match a with
                | .ev .slotStart x => x.b == g.b && x.c == 0
                | _ => false))

/-- SLOT_START: an armed slot of a launch starts or is restored at its first wheel cycle from M (c = 0), or, where its logical tile waits
then, from the beginning of the next quantum (c = 3); a slot of an Almanac entry starts with its block's start cycle d (c = 1) or at the
beginning of its quantum (c = 2). -/
def execSlotStart (s : State) : Host.Outcome State Fault Refusal :=
  let g := s.arg
  let n := presentName s g.a
  .next (if g.c = 1 ∨ g.c = 2 then startSlot s n (if g.c = 1 then g.d else s.mcnt)
    else match mfind s.launches g.b with
      | none => s
      | some l =>
        let m := if g.c = 3 then s.mcnt else l.start
        if (s.slot n).st ≠ .armed then s
        else match parkedHome n, l.saves.find? (fun x => x.slot == n) with
          | some h, _ => s.defer h .slotStart (Arg.of (64 * physTile (tileOfSlot n) + n % 64) g.b 3 0 0)
          | none, some x =>
            (restoreSlot s g.b (m - x.own.start) x).setLaunch g.b { l with saves := l.saves.filter (fun y => y.slot != n) }
          | none, none => startSlot s n m)

end Sys2Proof.Machine
end

