-- ==== Sys2Proof/Machine/Scan.lean ====
section
/-! DEFINITION. The doorbell and the scheduler's scan (R302 to R310): the latch, reading packets and their checks, the
launch packet, device launches, the choice of what runs, pre-emption by priority, and the fence. -/

namespace Sys2Proof.Machine

/-- STAGE of BOOTSTAT (R372). -/
def bootStage (s : State) : Nat := (s.port.boot.extractLsb' 28 4).toNat

/-- The scheduler acts: the device is ready, its clocks run, and a copy is in service (R332, R335, R372, R377). -/
def schedUp (s : State) : Bool := bootStage s == 5 && !s.port.stopped && !schedDown s && !(alive s schedTiles).isEmpty

/-- DOORBELL_WRITE: NTAIL waits in the context's latch; the page of a context that does not exist ignores it (R303,
R359). It releases the function's posted writes before it (R252); a frozen function does nothing (R324). -/
def execDoorbellWrite (s : State) : Host.Outcome State Fault Refusal :=
  let c := s.arg.a % 8
  .next (if !(s.ctx c).live then s
    else if !hostTurn s (fnOfCtx s c) none then hostAgain s .doorbellWrite
    else s.byHost (fnOfCtx s c) (s.modCtx c (fun x => { x with latch := s.arg.b % 4096, pend := true })))

/-! ## Packets (R304, R305) -/

/-- The bits of word i that the packet type names. -/
def packetBits (type i : Nat) : Word :=
  match type, i with
  | _, 0 => 0xFF80_FFFF
  | 1, 1 => 0xFFFF_FFFF
  | 1, 2 => 0xFFFF_FFFF
  | 1, 3 => 0xFF
  | 2, 1 => 0xFF
  | 2, 2 => 0xFFFF_FFFF
  | 2, 3 => 0xFFFF_FFFF
  | 3, 1 => 0xFF
  | 4, 1 => 0x0003_FFFF
  | 4, 2 => 0xFFFF_FFFF
  | 4, 3 => 0xFFFF_E000
  | 4, 4 => 0xFFFF_E000
  | 4, 5 => 0xFFFE_0000
  | 4, 6 => 0xFFFF_FFFF
  | 4, 7 => 0xF
  | 5, 1 => 3
  | 6, 1 => 1
  | 7, 1 => 7
  | 8, 1 => 0x3FF
  | 9, 1 => 0xF
  | 9, k => if 2 ≤ k ∧ k ≤ 13 then 0xFFFF_FFFF else 0
  | 10, 1 => 0x1FF
  | 10, 2 => 0x0FFF_FFFF
  | 10, 3 => 0x0FFF_FFFF
  | 10, 4 => 3
  | _, _ => 0

/-- The fields are within their ranges; power-state and image-update packets come from a queue of the physical function
(R305). -/
def fieldsOk (s : State) (c type : Nat) (v : Vec) : Bool :=
  match type with
  | 1 => (lane v 1).toNat % 64 == 0
  | 5 => lane v 1 != 3
  | 7 => fnOfCtx s c == 0
  | 9 => fnOfCtx s c == 0
  | 10 => (lane v 1).getLsbD 8 || lane v 3 != 0
  | _ => true

/-- The checks of R304 on a packet. -/
def packetOk (s : State) (c : Nat) (v : Vec) : Bool :=
  let type := ((lane v 0).extractLsb' 24 8).toNat
  decide (1 ≤ type) && decide (type ≤ 10) && (List.range 16).all (fun i => lane v i &&& ~~~packetBits type i == 0)
    && fieldsOk s c type v

/-- The event of a packet. -/
def packetEvent (type : Nat) : Instr :=
  match type with
  | 1 => .loadGraphPacket
  | 2 => .armAlmanacPacket
  | 3 => .courseChangePacket
  | 4 => .launchPacket
  | 5 => .determinismLevelPacket
  | 6 => .fencePacket
  | 7 => .powerStatePacket
  | 8 => .auditRequestPacket
  | 9 => .imageUpdatePacket
  | _ => .escrowDeclarationPacket

def isBarrier (type : Nat) : Bool := type == 1 || type == 5 || type == 6 || type == 7 || type == 9
def packetType (v : Vec) : Nat := ((lane v 0).extractLsb' 24 8).toNat
/-- A fence with PRE = 1. -/
def isPreFence (v : Vec) : Bool := packetType v == 6 && (lane v 1).getLsbD 0

/-- A packet is handed on within the scan. -/
def planPacket (s : State) (c : Nat) (v : Vec) : State :=
  s.planEv s.mcnt rkArrive (packetEvent (packetType v)) { Arg.of c 0 0 0 0 with v := v }

/-- The launches of a context that are pending and came from its queue, and the device launches that wait (R307). -/
def pendingOf (s : State) (c : Nat) (host : Bool) : List (Nat × Launch) :=
  s.launches.filter (fun l => l.2.ctx == c && l.2.host == host && l.2.st == .pending)

/-- Reading goes on: no barrier packet waits, the pending set and the completion ring have room, the queue holds a packet
(R305, R307). -/
def mayRead (s : State) (c : Nat) : Bool :=
  let x := s.ctx c
  let n := queueSize x.policy
  x.barrier.isNone && x.head != x.tail && decide ((pendingOf s c true).length < 64)
    && decide (x.outst + 1 + (x.cidx + n - x.chead % n) % n < n)

/-- Reads the next packet (R304, R305). -/
def readPacket (s : State) (c : Nat) : State :=
  let x := s.ctx c
  let v := BitVec.ofNat 512 (s.read (queueAt s c (64 * x.head)) 64)
  let s1 := s.modCtx c (fun y => { y with head := (x.head + 1) % queueSize x.policy, outst := y.outst + 1 })
  if !packetOk s c v then completePacket s1 c (lane v 0) 0 0 7 0
  else if isBarrier (packetType v) then s1.modCtx c (fun y => { y with barrier := some v, begun := false })
  else planPacket s1 c v

/-- A launch of the context that is not saved is between its read and its end (R320). -/
def launchesLive (s : State) (c : Nat) : Bool :=
  s.launches.any (fun l => l.2.ctx == c && l.2.st != .sent && (l.2.st != .pending || l.2.saves.isEmpty))

/-- A launch of the context has slots. -/
def launchesRun (s : State) (c : Nat) : Bool :=
  s.launches.any (fun l => l.2.ctx == c && (l.2.st == .armed || l.2.st == .running || l.2.st == .saving))

/-- The barrier packet may be taken: at once for a fence with PRE = 1; else when every earlier packet has completed and
nothing of the context runs, for a load also no Almanac; saved launches
may wait for a level change (R305, R307, R320). -/
def barrierDue (s : State) (c : Nat) (v : Vec) : Bool :=
  isPreFence v || ((if packetType v = 5 then (s.ctx c).outst == 1 + (pendingOf s c true).length else (s.ctx c).outst == 1 && (pendingOf s c false).isEmpty) && !launchesLive s c && (packetType v != 1 || (s.ctx c).active.isNone))

/-- Takes the barrier packet when it is due; a fence with PRE = 1 that stands asks again and completes once no launch of the
context has slots. -/
def stepBarrier (s : State) (c : Nat) : State :=
  match (s.ctx c).barrier with
  | none => s
  | some v =>
    if (s.ctx c).begun then
      if isPreFence v then planPacket s c v else s
    else if barrierDue s c v then planPacket (s.modCtx c (fun x => { x with begun := true })) c v
    else s

/-! ## Launches (R306, R308) -/

/-- The logical tile names a tile of the context. -/
def tileNamed (s : State) (c : Nat) (l : BitVec 10) : Bool := (placedAt s c l).isSome

/-- The dependence in a word: home, counter, PH. -/
def depOf (s : State) (c : Nat) (w : Word) : Option (Nat × Nat × Bool) :=
  if w.getLsbD 31 then (placedAt s c (w.extractLsb' 18 10)).map (fun t => (homeOf t (w.extractLsb' 18 10), (w.extractLsb' 14 4).toNat, w.getLsbD 13)) else none

/-- A dependence word is refused: another context's counter, or no tile of this one (R308). -/
def depBad (s : State) (c : Nat) (w : Word) : Bool :=
  w.getLsbD 31 && ((w.extractLsb' 28 3).toNat != c || !tileNamed s c (w.extractLsb' 18 10))

/-- LAUNCH_PACKET: the checks at reading, then the pending set (R306, R308). -/
def execLaunchPacket (s : State) : Host.Outcome State Fault Refusal :=
  let c := s.arg.a
  let w (i : Nat) : Word := lane s.arg.v i
  let kern := (w 1).toNat % 65536
  let x := s.ctx c
  let cl := (w 5).extractLsb' 21 10
  .next (if x.level = .t ∨ ((w 5).getLsbD 31 ∧ !tileNamed s c cl) then completePacket s c (w 0) kern 0 7 0
    else if depBad s c (w 3) || depBad s c (w 4) then completePacket s c (w 0) kern 0 4 0
    else if (kernSlots s c kern).isEmpty then completePacket s c (w 0) kern 0 3 0
    else
      let (id, s1) := s.fresh
      let l := { Launch.blank c (w 0) true kern ((w 1).extractLsb' 16 2).toNat (w 2) with
        deps := [depOf s c (w 3), depOf s c (w 4)].filterMap (fun d => d)
        credit := if (w 5).getLsbD 31 then (placedAt s c cl).map (fun t => (homeOf t cl, ((w 5).extractLsb' 17 4).toNat)) else none
        esc := (List.range 4).filterMap (fun k => if (w 7).getLsbD k then some (((w 6).extractLsb' (24 - 8 * k) 8).toNat) else none)
        order := id }
      s1.setLaunch id l)

/-- Device launches that wait at the scheduler: at most 32 of a context (R307, R377). -/
def deviceQueue (s : State) (c : Nat) : Nat :=
  (pendingOf s c false).length + (s.port.heldLaunches.filter (fun id => ((mfind s.launches id).map (fun l => l.ctx)) == some c)).length

/-- DEVICE_LAUNCH_ARRIVAL: it leaves once the prior accesses of its slot have been performed (b = 0), and reaches both
scheduler copies (b = 1) (R234, R307, R377). -/
def execDeviceLaunchArrival (s : State) : Host.Outcome State Fault Refusal :=
  let g := s.arg
  .next (match mfind s.launches g.a with
    | none => s
    | some l =>
      if g.b = 0 then
        if priorPending s g.c g.d then
          (flushMerged s g.c).planEv (s.mcnt + 1) rkArrive .deviceLaunchArrival g
        else s.planEv (s.mcnt + schedTransit s g.e) rkArrive .deviceLaunchArrival { g with b := 1 }
      else if 32 ≤ deviceQueue s l.ctx then endLaunch s g.a l l.kern 1 0
      else if schedDown s then { s with port := { s.port with heldLaunches := s.port.heldLaunches ++ [g.a] } }
      else
        let (k, s1) := s.fresh
        s1.setLaunch g.a { l with st := .pending, order := k })

/-! ## Choosing what runs (R308, R309) -/

/-- The class of an audit's targets: 0 tiles, 1 dies, 2 sub-channels, 3 links, 4 the port die (R336, R338). -/
def auditClass (n : Nat) : Nat :=
  if [3, 4, 7, 20, 22, 24].contains n then 1
  else if [15, 16, 17].contains n then 2
  else if [18, 19].contains n then 3
  else if [21, 25].contains n then 4
  else 0

/-- The key of an audit on a target. -/
def auditKey (no target : Nat) : Nat := 4096 * no + target

/-- The cycles of the audits of the catalogue (R338). -/
def auditCycles (no : Nat) : Nat :=
  [7168, 1536, 256, 2048, 7168, 2064, 40, 1200, 38400, 512, 4200, 1030, 9216, 640, 700, 464, 116, 232, 2900, 64, 200, 2900, 300, 400,
   100, 1000].getD no 0

/-- Their smallest windows in ticks. -/
def auditTicks (no : Nat) : Nat := (auditCycles no + 2899) / 2900

/-- The interval in ms. -/
def auditMs (no : Nat) : Nat :=
  [10, 5, 20, 5, 20, 10, 10, 10, 100, 100, 50, 50, 100, 50, 50, 20, 100, 100, 100, 20, 10, 1000, 20, 50, 10, 100].getD no 0

/-- An audit holds the admission of launches to a tile (R339). -/
def auditHolds (s : State) (t : Nat) : Bool := s.audits.any (fun j => auditClass j.2.no == 0 && j.2.target == t)

/-- Every escrow entry of the launch is valid, and not drained unless the launch was admitted before (R239, R308). -/
def escrowsOk (s : State) (l : Launch) : Bool :=
  l.esc.all (fun e => (s.ctx l.ctx).escrowOk.contains e && (!(s.ctx l.ctx).drained.contains e || !l.saves.isEmpty))

/-- Admissible but for its slots: dependences and escrows (R306, R308). -/
def conditionsMet (s : State) (l : Launch) : Bool :=
  l.st == .pending && (s.ctx l.ctx).level != .t && l.deps.all (fun d => ((s.ctrOf d.1 d.2.1).seen s.mcnt).phase != d.2.2) && escrowsOk s l

/-- A slot is free for an admission: it is BOUND, and the launch that ran on it has been recorded (R308, R312). -/
def slotFree (s : State) (n : Nat) : Bool :=
  (s.slot n).st == .bound
    && !(s.launches.any (fun l => (l.2.st == .armed || l.2.st == .running || l.2.st == .saving) && l.2.slots.contains n))

/-- A pending launch is admissible (R308, R339). -/
def admissible (s : State) (l : Launch) : Bool :=
  conditionsMet s l && (kernSlots s l.ctx l.kern).all (fun n => slotFree s n && !auditHolds s (tileOfSlot n))

/-- Effective priority (R309). -/
def effective (l : Launch) : Nat := if 16 ≤ l.passed then 3 else l.prio

/-- The launch that is dispatched next: the highest effective priority, then the earliest. -/
def bestOf : List (Nat × Launch) → Option (Nat × Launch)
  | [] => none
  | l :: r =>
    match bestOf r with
    | none => some l
    | some b =>
      if effective b.2 < effective l.2 ∨ (effective b.2 = effective l.2 ∧ l.2.order < b.2.order) then some l else some b

/-- A pending launch that cannot run completes: no such kernel, a blocked element, slots FROZEN or SAVED under another
launch (R96, R308). -/
def dropBad (s : State) (p : Nat × Launch) : State :=
  let ns := kernSlots s p.2.ctx p.2.kern
  if ns.isEmpty then endLaunch s p.1 p.2 p.2.kern 3 0
  else match ns.find? (fun n => (s.elem (veOfSlot n)).blocked) with
    | some n => endLaunch s p.1 p.2 (elemCoords (veOfSlot n)) 6 0x001
    | none =>
      if p.2.saves.isEmpty ∧ ns.any (fun n => (s.slot n).st == .frozen || (s.slot n).st == .saved) then endLaunch s p.1 p.2 p.2.kern 2 0
      else s

/-- One dispatch from a context; those passed over age (R309). -/
def dispatchBest (s : State) (c : Nat) : State :=
  let cand := s.launches.filter (fun l => l.2.ctx == c && admissible s l.2)
  match bestOf cand with
  | none => s
  | some b =>
    let aged := (cand.filter (fun l => l.1 != b.1)).foldl (fun a l => a.setLaunch l.1 { l.2 with passed := l.2.passed + 1 }) s
    dispatch aged b.1 b.2

/-- Pre-emption by priority: a launch of PRIO 3 that waits only for slots of running launches of PRIO 0 or 1 has them
saved (R318). -/
def preemptFor (s : State) (c : Nat) : State :=
  let high := s.launches.filter (fun l => l.2.ctx == c && l.2.prio == 3 && conditionsMet s l.2)
  high.foldl (fun a l =>
    let busy := (kernSlots a c l.2.kern).filter (fun n => !slotFree a n)
    let owners := (busy.map (fun n => (a.slot n).launch.getD 0)).eraseDups
    let low (id : Nat) : Bool := match mfind a.launches id with
      | some m => m.st == .running && decide (m.prio ≤ 1)
      | none => false
    if !busy.isEmpty ∧ owners.all low then
      owners.foldl (fun b id => match mfind b.launches id with
        | some m => requestSave b id m
        | none => b) a
    else a) s

/-- The dispatches of a scan slot: at most WGT; none while a fence with PRE = 1 stands (R307, R309, R318). -/
def scanDispatch (s : State) (c : Nat) : State :=
  let x := s.ctx c
  let held := match x.barrier with
    | some v => isPreFence v
    | none => false
  if held then s
  else
    let s1 := (s.launches.filter (fun l => l.2.ctx == c && l.2.st == .pending)).foldl dropBad s
    let s2 := (List.range (x.policy.extractLsb' 28 4).toNat).foldl (fun a _ => dispatchBest a c) s1
    if x.policy.getLsbD 25 then preemptFor s2 c else s2

/-! ## The scan (R303, R309) -/

/-- Takes the doorbell latch; a value that would pass HEAD is dropped (R303). -/
def takeLatch (s : State) (c : Nat) : State :=
  let x := s.ctx c
  let n := queueSize x.policy
  let v := x.latch % n
  if !x.pend then s
  else
    let s1 := s.modCtx c (fun y => { y with pend := false })
    if (v + n - x.tail) % n ≤ (x.head + n - x.tail + n - 1) % n then s1.modCtx c (fun y => { y with tail := v })
    else (s1.modCtx c (fun y => { y with ovf := true })).raise 0 0x1C0 (.nobody c (tileAt 0 1 0)) s.mcnt c

/-- SCHEDULER_SCAN of a context, every 512 cycles: it takes the latch (b = 0), reads packets one after another, each acting before the
next is read (b = 1), and dispatches (b = 2). -/
def execSchedulerScan (s : State) : Host.Outcome State Fault Refusal :=
  let c := s.arg.a % 8
  .next (match s.arg.b with
    | 0 =>
      let s1 := s.planN (s.mcnt + 512) rkArrive .schedulerScan c 0
      if schedUp s ∧ (s.ctx c).live then (takeLatch s1 c).planN s.mcnt rkArrive .schedulerScan c 1 else s1
    | 1 =>
      if mayRead s c then (readPacket s c).planN s.mcnt rkArrive .schedulerScan c 1
      else (stepBarrier s c).planN s.mcnt rkArrive .schedulerScan c 2
    | _ => scanDispatch s c)

/-- FENCE_PACKET: without PRE it completes as it is taken; with PRE it asks every running launch of the context to save,
and completes once none has slots (R305, R307, R318). -/
def execFencePacket (s : State) : Host.Outcome State Fault Refusal :=
  let c := s.arg.a
  .next (if !(lane s.arg.v 1).getLsbD 0 then completeBarrier s c 0 0
    else if launchesRun s c then
      (s.launches.filter (fun l => l.2.ctx == c)).foldl (fun a l => requestSave a l.1 l.2) s
    else completeBarrier s c 0 0)

end Sys2Proof.Machine
end

