-- ==== Sys2Proof/Machine/Teller.lean ====
section
/-! DEFINITION. The Tellers (R198 to R212, R219, R281): command clocks, program runs, the timing checks, the commands,
violations, refresh, host slots and the stream accesses of levels D and F. -/

namespace Sys2Proof.Machine

/-! ## Clocks (R198, R199) -/

/-- CKCNT in a cycle. -/
def ckOf (s : State) (c : Nat) : Nat := c * s.nck / 2900
/-- The first cycle of a CK. -/
def cycleOf (s : State) (k : Nat) : Nat := (k * 2900 + s.nck - 1) / s.nck
/-- The first start of a slot at or after a CK. -/
def slotFrom (k ck : Nat) : Nat := 64 * k + (ck + 4095 - 64 * k) / 4096 * 4096

/-! ## Timing registers (R205) -/

/-- A timing word: all ones at reset. -/
def ttWord (x : Tel) (k : Nat) : Word := mget 0xFFFF_FFFF#32 x.tt k
def ttHi (x : Tel) (k : Nat) : Nat := bitsOf (ttWord x k).toNat 31 16
def ttLo (x : Tel) (k : Nat) : Nat := bitsOf (ttWord x k).toNat 15 0
def tRCD (x : Tel) : Nat := ttHi x 0
def tRPab (x : Tel) : Nat := ttLo x 0
def tRPpb (x : Tel) : Nat := ttHi x 1
def tRAS (x : Tel) : Nat := ttLo x 1
def tRC (x : Tel) : Nat := ttHi x 2
def tRRD (x : Tel) : Nat := ttLo x 2
def tFAW (x : Tel) : Nat := ttHi x 3
def tWTR (x : Tel) : Nat := ttLo x 3
def tRTP (x : Tel) : Nat := ttHi x 4
def tWR (x : Tel) : Nat := ttLo x 4
def tCCD (x : Tel) : Nat := ttHi x 5
def tRTW (x : Tel) : Nat := ttLo x 5
def tRFCab (x : Tel) : Nat := ttHi x 6
def tRFCpb (x : Tel) : Nat := ttLo x 6
def tMRW (x : Tel) : Nat := ttHi x 7
def tMRR (x : Tel) : Nat := ttLo x 7
def tZQCAL (x : Tel) : Nat := ttHi x 8
def tZQLAT (x : Tel) : Nat := ttLo x 8
def readLat (x : Tel) : Nat := ttHi x 9
def writeLat (x : Tel) : Nat := ttLo x 9

/-! ## The check of a command (R206) -/

/-- A command with its bank and column worked out. -/
inductive TCmd where
  | act (bank row : Nat)
  | burst (bank col : Nat) (wr auto : Bool)
  | pre (bank : Nat)
  | prea
  | refab
  | refpb (bank : Nat)
  | mrw
  | mrr
  | zqs
  | zql
deriving DecidableEq, Repr

/-- CK for which a command holds the command bus (R202). -/
def TCmd.bus : TCmd → Nat
  | .act _ _ => 2
  | .mrw => 2
  | _ => 1

/-- A CK lies at least `d` after the past command of a code. -/
def since (x : Tel) (code d ck : Nat) : Bool := match mfind x.hist code with
  | some c => decide (c + d ≤ ck)
  | none => true

/-- The bank is open: a row has been activated and neither a command nor an implied precharge has closed it (R206). -/
def openNow (x : Tel) (b ck : Nat) : Bool :=
  (mfind x.openRow b).isSome && (match mfind x.closing b with
    | some c => decide (ck < c)
    | none => true)

/-- The bank is idle (R206, row ACT); without recovery precharges where `own`. -/
def bankIdle (x : Tel) (own : Bool) (b ck : Nat) : Bool :=
  (!openNow x b ck || (own && x.recov.contains b)) && since x (48 + b) (tRPpb x) ck && since x 99 (tRPab x) ck
    && (own || since x (80 + b) (tRPpb x) ck)

/-- PRE of a bank (R206). -/
def mayPre (x : Tel) (b ck : Nat) : Bool :=
  since x b (tRAS x) ck && since x (16 + b) (tRTP x) ck && since x (32 + b) (tWR x) ck

/-- What every command waits for. -/
def anyCommand (x : Tel) (ck : Nat) : Bool :=
  since x 100 (tRFCab x) ck && since x 101 (tMRW x) ck && since x 102 (tMRR x) ck && since x 104 (tZQLAT x) ck

/-- The slot of a CK is the owner's of a run: in another the Teller issues nothing for it (R200). -/
def ownedAt (x : Tel) (r : TRun) (ck : Nat) : Bool := slotOwner x (ck / 64) == (r.kind, if r.kind = 1 then r.ctx else 0)

/-- The row of R206 for a command of a run. `own` leaves out recovery precharges (R208), and that the slot may have come to another
owner: a command that fails for these alone is displaced, no violation (DESIGN CHOICE for the slot, log 204). -/
def passes (x : Tel) (r : TRun) (own : Bool) (c : TCmd) (ck : Nat) : Bool :=
  decide (r.start ≤ ck) && decide (ck + c.bus ≤ r.start + 64 * r.ns) && decide ((if own then x.busOwn else x.bus) ≤ ck)
    && (own || ownedAt x r ck) && anyCommand x ck && (match c with
      | .act b _ =>
        bankIdle x own b ck && since x b (tRC x) ck && (List.range 16).all (fun o => o == b || since x o (tRRD x) ck)
          && since x (64 + b) (tRFCpb x) ck
          && (match x.acts with
            | [a, _, _, _] => decide (a + tFAW x ≤ ck)
            | _ => true)
      | .burst b _ wr _ =>
        openNow x b ck && mfind x.openRun b == some r.id && since x b (tRCD x) ck && since x (64 + b) (tRFCpb x) ck
          && (if wr then since x 97 (tCCD x) ck && since x 96 (tRTW x) ck else since x 96 (tCCD x) ck && since x 98 (tWTR x) ck)
      | .pre b => mayPre x b ck && since x (64 + b) (tRFCpb x) ck
      | .prea => x.openRow.all (fun p => !openNow x p.1 ck || mayPre x p.1 ck || (own && x.recov.contains p.1))
      | .refab => (List.range 16).all (fun b => bankIdle x own b ck && since x (64 + b) (tRFCpb x) ck)
      | .refpb b => bankIdle x own b ck && since x (64 + b) (tRFCpb x) ck
      | .zql => since x 103 (tZQCAL x) ck
      | _ => true)

/-! ## What a command does to the sub-channel -/

def note (x : Tel) (code ck : Nat) : Tel := { x with hist := mset x.hist code ck }

/-- A bank is precharged by a command. -/
def closeBank (x : Tel) (b ck : Nat) : Tel :=
  { note x (48 + b) ck with openRow := mdel x.openRow b, openRun := mdel x.openRun b, closing := mdel x.closing b
                            recov := x.recov.filter (fun k => k != b) }

/-- A bank takes an implied precharge: it stays open until then (R206). -/
def closeLater (x : Tel) (b ck : Nat) : Tel := { note x (48 + b) ck with closing := mset x.closing b ck }

/-- The later of a CK and a past command's CK with a delay. -/
def laterOf (x : Tel) (code d ck : Nat) : Nat := match mfind x.hist code with
  | some c => max ck (c + d)
  | none => ck

/-- The effect of a command that passes. -/
def tellerIssue (x : Tel) (r : TRun) (c : TCmd) (ck : Nat) : Tel :=
  let y := { x with bus := max x.bus (ck + c.bus), busOwn := max x.busOwn (ck + c.bus) }
  match c with
  | .act b row =>
    { note y b ck with openRow := mset x.openRow b row, openRun := mset x.openRun b r.id, closing := mdel x.closing b
                       recov := x.recov.filter (fun k => k != b)
                       acts := if x.acts.length < 4 then x.acts ++ [ck] else x.acts.tail ++ [ck] }
  | .burst b _ false auto =>
    let z := note (note y (16 + b) ck) 96 ck
    if auto then closeLater z b (laterOf x b (tRAS x) (ck + tRTP x)) else z
  | .burst b _ true auto =>
    let e := ck + writeLat x + 3
    let z := note (note (note y (32 + b) e) 97 ck) 98 e
    if auto then closeLater z b (laterOf x b (tRAS x) (e + tWR x)) else z
  | .pre b => closeBank y b ck
  | .prea => { note y 99 ck with openRow := [], openRun := [], closing := [], recov := [] }
  | .refab => { note y 100 ck with debt := x.debt - 1 }
  | .refpb b => { note y (64 + b) ck with refpb := x.refpb + 1, debt := if (x.refpb + 1) % 16 = 0 then x.debt - 1 else x.debt }
  | .mrw => note y 101 ck
  | .mrr => note y 102 ck
  | .zqs => note y 103 ck
  | .zql => note y 104 ck

/-! ## Runs (R199, R207, R219) -/

/-- The run that a Teller performs in a CK. -/
def activeRun (x : Tel) (ck : Nat) : Option TRun :=
  x.runs.find? (fun r => decide (r.start ≤ ck) && decide (ck < r.start + 64 * r.ns))

def modRun (s : State) (tl id : Nat) (f : TRun → TRun) : State :=
  s.modTel tl (fun x => { x with runs := x.runs.map (fun r => if r.id = id then f r else r) })

/-- The word of a run's next command. -/
def runWord (x : Tel) (r : TRun) : Word := mget 0#32 x.store (progBase (mget 0#32 x.progs r.prog) + r.ix)

/-- Plans a run's next command at its CK. -/
def planCommand (s : State) (tl : Nat) (r : TRun) : State :=
  let x := s.tel tl
  if progCmds (mget 0#32 x.progs r.prog) ≤ r.ix then s
  else s.plan (max s.mcnt (cycleOf s (r.start + bitsOf (runWord x r).toNat 26 18))) rkPort (.teller tl)

/-- The run goes on with its next command. -/
def nextCommand (s : State) (tl id : Nat) : State :=
  let s1 := modRun s tl id (fun r => { r with ix := r.ix + 1 })
  match (s1.tel tl).runs.find? (fun r => r.id == id) with
  | some r => planCommand s1 tl r
  | none => s1

/-- The number of a Teller program's owner: kind and context (R322). -/
def ownerOf (r : TRun) : Nat := 4 * r.ctx + r.kind

/-- A violation of a run: its record, and its owner freezes; the copy ends with STATUS 0x04 and none of its later repeats
is run (R207, R223). -/
def violate (s : State) (tl : Nat) (r : TRun) (cause detail : Nat) : State :=
  let s1 := modRun s tl r.id (fun q => { q with bad := true })
  let ls := if r.kind = 1 then launchesOn s ((s.copyOf r.copy).toList.map (fun c => c.slot)) else []
  let s2 := s1.raiseFor (Config.tellerDie tl).toNat cause (.tellerOwner tl (ownerOf r)) s.mcnt detail ls
  if r.kind = 3 then s2.modTel tl (fun x => { x with frozen := (r.start / 64 % 64) :: x.frozen })
  else
    let s3 := s2.modTel tl (fun x => { x with runs := x.runs.filter (fun q => q.id == r.id || q.copy != r.copy || q.kind != 1) })
    freezeChan (s3.modCopy r.copy (fun c => if c.stop.isSome then c else { c with stop := some (0x04, cause), lim := stopAt c }))
      r.tile r.chan cause

/-- DETAIL of a violation: sub-channel and command (R321). -/
def violDetail (tl : Nat) (r : TRun) : Nat := tl + 64 * r.ix

/-- An illegal or poisoned command word (R207). -/
def badWord (s : State) (tl : Nat) (poisoned : Bool) : State :=
  let x := s.tel tl
  match activeRun x (ckOf s s.mcnt) with
  | none => s
  | some r =>
    let w := runWord x r
    let s1 := if poisoned then violate s tl r 0x0C3 (progBase (mget 0#32 x.progs r.prog) + r.ix) else violate s tl r 0x002 (w.toNat % 2 ^ 24)
    nextCommand s1 tl r.id

/-- A command of the run in progress: it is issued where it passes, suppressed where it must be, or a violation (R206 to
R208). `c` is the command for the run's bases, `okHere` a further condition, `f` its effect beyond the sub-channel, given the
Teller as it was before. -/
def command (off : BitVec 9) (c : TRun → TCmd) (okHere : State → Nat → TRun → Bool) (f : State → Tel → Nat → TRun → Nat → State)
    (s : State) : State :=
  let tl := s.cur
  let x := s.tel tl
  match activeRun x (ckOf s s.mcnt) with
  | none => s
  | some r =>
    let ck := r.start + off.toNat
    let cmd := c r
    let data : Bool := match cmd with
      | .act _ _ => true
      | .burst _ _ _ _ => true
      | _ => false
    let isBurst : Bool := match cmd with
      | .burst _ _ _ _ => true
      | _ => false
    let isPre : Bool := match cmd with
      | .pre _ => true
      | .prea => true
      | _ => false
    let opens : List Nat := match cmd with
      | .act b _ => [b]
      | _ => []
    let s1 :=
      if r.bad ∧ data then s
      else if passes x r false cmd ck ∧ okHere s tl r then
        f (modRun (s.setTel tl (tellerIssue x r cmd ck)) tl r.id (fun q => { q with opened := opens ++ q.opened })) x tl r ck
      else if passes x r true cmd ck ∧ okHere s tl r then modRun s tl r.id (fun q => { q with bad := true, displaced := true })
      else if r.bad ∧ isPre then s
      else violate s tl r 0x086 (violDetail tl r)
    let s2 := if isBurst then modRun s1 tl r.id (fun q => { q with burst := q.burst + 1 }) else s1
    nextCommand s2 tl r.id

/-- Nothing beyond the sub-channel. -/
def noEffect (s : State) (_ : Tel) (_ : Nat) (_ : TRun) (_ : Nat) : State := s
def always (_ : State) (_ : Nat) (_ : TRun) : Bool := true

/-! ## Bursts (R204, R207, R211, R219) -/

/-- The bank of a command of a run. -/
def bankOf (r : TRun) (b : BitVec 4) : Nat := (r.bank0 + b.toNat) % 16

/-- The flat address of a burst of an open row (R204, R286). -/
def burstAddr (x : Tel) (tl bank col : Nat) : Nat := tl * 2 ^ 32 + mget 0 x.openRow bank * 32768 + bank * 2048 + col * 32

/-- The column and, for a copy, the object offset of a burst lie where R204 allows. -/
def burstOk (bank : BitVec 4) (col : BitVec 6) (s : State) (tl : Nat) (r : TRun) : Bool :=
  let c := r.col0 + col.toNat
  let a := burstAddr (s.tel tl) tl (bankOf r bank) c
  decide (c ≤ 63) && (r.kind == 3 || (decide (r.lo ≤ a) && decide (a < r.hi)))

/-- The burst's number within its copy. -/
def burstNo (s : State) (r : TRun) : Nat := match s.copyOf r.copy with
  | some c => r.rep * burstsPer s c + r.burst
  | none => 0

/-- A read burst: DRAM is read at its issue, and its data reaches the Teller RL + 3 CK later; while RLAPSE is set it is
poisoned (R209, R219, R285). -/
def readBurst (bank : BitVec 4) (col : BitVec 6) (s : State) (x : Tel) (tl : Nat) (r : TRun) (ck : Nat) : State :=
  let a := burstAddr x tl (bankOf r bank) (r.col0 + col.toNat)
  let p := x.rlapse || isPoisoned s.poison a 32
  if r.kind = 3 then s
  else
    s.planEv (cycleOf s (ck + readLat x + 3)) rkArrive .tellerReadDataReturn
      { Arg.of tl r.copy (burstNo s r) p.toNat 0 with v := BitVec.ofNat 512 (s.read a 32) }

/-- The data of a write burst is held, or is to be discarded (R219, R223). -/
def dataHeld (s : State) (r : TRun) : Bool := r.kind == 3 || (match s.copyOf r.copy with
  | some c => burstVoid c (burstNo s r) || (burstData c (burstNo s r)).isSome
  | none => true)

/-- A write burst: it is performed at the end of its data, WL + 3 CK later (R285). Training writes of the upkeep graph
write data that no rule gives; those of a copy that has stopped before their token discard theirs (R223). -/
def writeBurst (bank : BitVec 4) (col : BitVec 6) (s : State) (x : Tel) (tl : Nat) (r : TRun) (ck : Nat) : State :=
  let a := burstAddr x tl (bankOf r bank) (r.col0 + col.toNat)
  let c := cycleOf s (ck + writeLat x + 3)
  if r.kind = 3 then
    { s with freeCtr := s.freeCtr + 1 }.write a ((Config.freeVec s.freeCtr).toNat % 2 ^ 256) 32
  else
    match s.copyOf r.copy with
    | none => s
    | some k =>
      if burstVoid k (burstNo s r) then burstIssued s r.copy (burstNo s r) 0
      else match burstData k (burstNo s r) with
      | none => s
      | some d =>
        (burstIssued s r.copy (burstNo s r) 1).planEv c rkPerform .copyTokenWrite
          { Arg.of r.copy 3 a 0 0 with v := BitVec.ofNat 512 d }

/-! ## Commands (R202) -/

/-- R202: the program ends; what remains of the run issues nothing. -/
def execTellerCend (_off : BitVec 9) (s : State) : Host.Outcome State Fault Refusal := .next s

/-- R202, R204. -/
def execTellerAct (off : BitVec 9) (bank : BitVec 4) (row : BitVec 14) (s : State) : Host.Outcome State Fault Refusal :=
  .next (command off (fun r => .act (bankOf r bank) (r.row0 + row.toNat)) always noEffect s)

/-- A burst. -/
def burstCommand (off : BitVec 9) (bank : BitVec 4) (col : BitVec 6) (wr auto : Bool) (s : State) : State :=
  command off (fun r => .burst (bankOf r bank) (r.col0 + col.toNat) wr auto)
    (fun a tl r => burstOk bank col a tl r && (!wr || dataHeld a r)) (if wr then writeBurst bank col else readBurst bank col) s

/-- R202. -/
def execTellerRd (off : BitVec 9) (bank : BitVec 4) (col : BitVec 6) (s : State) : Host.Outcome State Fault Refusal :=
  .next (burstCommand off bank col false false s)
/-- R202. -/
def execTellerRda (off : BitVec 9) (bank : BitVec 4) (col : BitVec 6) (s : State) : Host.Outcome State Fault Refusal :=
  .next (burstCommand off bank col false true s)
/-- R202. -/
def execTellerWr (off : BitVec 9) (bank : BitVec 4) (col : BitVec 6) (s : State) : Host.Outcome State Fault Refusal :=
  .next (burstCommand off bank col true false s)
/-- R202. -/
def execTellerWra (off : BitVec 9) (bank : BitVec 4) (col : BitVec 6) (s : State) : Host.Outcome State Fault Refusal :=
  .next (burstCommand off bank col true true s)
/-- R202. -/
def execTellerPre (off : BitVec 9) (bank : BitVec 4) (s : State) : Host.Outcome State Fault Refusal :=
  .next (command off (fun r => .pre (bankOf r bank)) always noEffect s)
/-- R202. -/
def execTellerPrea (off : BitVec 9) (s : State) : Host.Outcome State Fault Refusal :=
  .next (command off (fun _ => .prea) always noEffect s)

/-- A refresh may not take the debt below −MAXPOST (R209). -/
def debtOk (pb : Bool) (s : State) (tl : Nat) (_ : TRun) : Bool :=
  let x := s.tel tl
  (pb && (x.refpb + 1) % 16 != 0) || decide (-(x.maxpost : Int) ≤ x.debt.toInt - 1)

/-- R202, R209. -/
def execTellerRefab (off : BitVec 9) (s : State) : Host.Outcome State Fault Refusal :=
  .next (command off (fun _ => .refab) (debtOk false) noEffect s)
/-- R202, R209: bank BANK, no base added. -/
def execTellerRefpb (off : BitVec 9) (bank : BitVec 4) (s : State) : Host.Outcome State Fault Refusal :=
  .next (command off (fun _ => .refpb bank.toNat) (debtOk true) noEffect s)

/-- R202: mode register MA takes MOP. -/
def execTellerMrw (off : BitVec 9) (ma : BitVec 8) (mop : BitVec 8) (s : State) : Host.Outcome State Fault Refusal :=
  .next (command off (fun _ => .mrw) always
    (fun a _ tl _ _ => a.modTel tl (fun x => { x with mrs := mset x.mrs ma.toNat mop })) s)

/-- Mode register MA is read into the Teller's status; a refresh-rate code above TMPLIM is recorded (R202, R210). -/
def readMode (ma : BitVec 8) (s : State) (_ : Tel) (tl : Nat) (_ : TRun) (_ : Nat) : State :=
  let (w, s1) := s.drawWord
  let v := (mfind (s.tel tl).mrs ma.toNat).getD (w.setWidth 8)
  let s2 := s1.modTel tl (fun x => { x with mrr := v })
  if ma = (s.tel tl).tmpma ∧ (s.tel tl).tmplim.toNat < v.toNat % 32 then
    s2.raise (Config.tellerDie tl).toNat 0x088 (.nobody 15 (144 * (Config.tellerDie tl).toNat)) s.mcnt (tl + 256 * (v.toNat % 32))
  else s2

/-- R202, R210. -/
def execTellerMrr (off : BitVec 9) (ma : BitVec 8) (s : State) : Host.Outcome State Fault Refusal :=
  .next (command off (fun _ => .mrr) always (readMode ma) s)
/-- R202. -/
def execTellerZqs (off : BitVec 9) (s : State) : Host.Outcome State Fault Refusal :=
  .next (command off (fun _ => .zqs) always noEffect s)
/-- R202. -/
def execTellerZql (off : BitVec 9) (s : State) : Host.Outcome State Fault Refusal :=
  .next (command off (fun _ => .zql) always noEffect s)

/-- TELLER_READ_DATA_RETURN: burst `c` of copy `b` has reached the Teller (R219). -/
def execTellerReadDataReturn (s : State) : Host.Outcome State Fault Refusal :=
  .next (burstRead s s.arg.b s.arg.c (s.arg.v.toNat % 2 ^ 256) (s.arg.d != 0))

/-! ## Posts and run boundaries (R205, R208, R219) -/

/-- No run of the Teller overlaps a window of CK. -/
def windowFree (x : Tel) (start ns : Nat) : Bool :=
  x.runs.all (fun r => decide (r.start + 64 * r.ns ≤ start) || decide (start + 64 * ns ≤ r.start))

/-- The first free occurrence of a run that starts at a slot, from a CK on. -/
def occurrence (x : Tel) (k ns : Nat) : Nat → Nat → Nat
  | 0, ck => slotFrom k ck
  | n + 1, ck =>
    let c := slotFrom k ck
    if windowFree x c ns then c else occurrence x k ns n (c + 1)

/-- The start of a posted run: its slot, or any run of the context that has the program's slots (R219). DESIGN CHOICE (log 162): where
another posted run has taken an occurrence, the next free one is used. -/
def runStart (x : Tel) (slot ns kind ctx ck : Nat) : Nat :=
  let tries := x.runs.length + 1
  if slot ≠ 0x7F then occurrence x slot ns tries ck
  else
    ((List.range 64).filter (fun k => startsRun x k && slotOwner x k == (kind, ctx) && runLength x k == ns)).foldl
      (fun b k => let c := occurrence x k ns tries ck; if b = 0 ∨ c < b then c else b) 0

/-- The run of a repeat of a copy (R204, R219). -/
def copyRun (s : State) (tl id rep run : Nat) (c : Copy) : TRun :=
  let x := s.tel tl
  let p := tmProg c.ws
  let read := dramSide c true
  let pa := match siteOf s c read 0 with
    | .ok (.dram a) => a
    | _ => 0
  let lastStart := (x.runs.filter (fun r => r.copy == id && r.kind == 1)).foldl (fun b r => max b (r.start + 1)) 0
  let ns := progNs (mget 0#32 x.progs p)
  { id := run, kind := 1, ctx := s.ctxOfTile c.tile, copy := id, tile := c.tile, chan := c.chan, rep := rep, prog := p
    start := runStart x (tmSlot c.ws) ns 1 (s.ctxOfTile c.tile) (max (ckOf s s.mcnt + 16) lastStart), ns := ns, ix := 0, burst := 0
    bank0 := pa / 2048 % 16, row0 := pa % 2 ^ 32 / 32768 + rep * tmRowinc c.ws, col0 := pa % 2048 / 32 + rep * tmColinc c.ws
    lo := pa, hi := pa + tmLen c.ws, bad := false, displaced := false, opened := [] }

/-- Queues a run until its start. -/
def queueRun (s : State) (tl : Nat) (r : TRun) : State :=
  (s.modTel tl (fun x => { x with runs := x.runs ++ [r] })).planN (max s.mcnt (cycleOf s r.start)) rkHold .tellerRunStart tl r.id

/-- TELLER_RUN_POST: a repeat `c` of copy `b` has been posted (`d` 0), or a program `b` of the upkeep graph for the slot
`c` (`d` 1), which runs in slots that upkeep owns (R200). -/
def execTellerRunPost (s : State) : Host.Outcome State Fault Refusal :=
  let tl := s.arg.a
  let (id, s1) := s.fresh
  .next (if s.arg.d = 1 then
      let x := s.tel tl
      let ns := progNs (mget 0#32 x.progs s.arg.b)
      if (List.range ns).any (fun k => slotOwner x (s.arg.c + k) != (3, 0)) then s
      else
      queueRun s1 tl { id := id, kind := 3, ctx := 8, copy := 0, tile := 0, chan := 0, rep := 0, prog := s.arg.b
                       start := runStart x s.arg.c ns 3 0 (ckOf s s.mcnt + 16), ns := ns, ix := 0, burst := 0, bank0 := 0, row0 := 0
                       col0 := 0, lo := 0, hi := 0, bad := false, displaced := false, opened := [] }
    else
      match s.copyOf s.arg.b with
      | some c => if c.stop.isSome then s else queueRun s1 tl (copyRun s tl s.arg.b s.arg.c id c)
      | none => s)

/-- The owner of a run is frozen: the Teller issues no further program of it (R324). -/
def ownerFrozen (s : State) (tl : Nat) (r : TRun) : Bool :=
  if r.kind = 3 then (s.tel tl).frozen.contains (r.start / 64 % 64)
  else match s.copyOf r.copy with
    | some c => c.stop.isSome || (s.chan c.tile c.chan).frozen
    | none => true

/-- The host sequence of R212 fits a slot and leaves its bank idle at its end, with the Teller's present times (R208). -/
def hostPlanOk (x : Tel) : Bool :=
  [tRTP x, writeLat x + 3 + tWR x].all (fun d => decide (max (tRCD x + tCCD x + d) (tRAS x) + tRPpb x ≤ 64))

/-- A register of the Teller by the model's numbers: timing words 0 to 9, 10 TRDY, 11 RWD, 12 TGRADE, 64 + n the owner
word of slot n. An owner word that makes a host slot in which the host sequence fails R208 is refused (R212). A write of RWD begins TREFI's
count anew, and at TREFI 0 nothing is counted (DESIGN CHOICE, log 210: R209 does not say from which CK the period runs). -/
def writeTel (s : State) (tl k v : Nat) : State :=
  if k < 10 then s.modTel tl (fun x => { x with tt := mset x.tt k (BitVec.ofNat 32 v) })
  else if k = 10 then s.modTel tl (fun x => { x with trdy := v % 2 = 1 })
  else if k = 11 then
    let s1 := (s.modTel tl (fun x => { x with trefi := bitsOf v 31 16, maxpost := bitsOf v 15 8 })).unplan (fun a => match a with
      | .ev .refreshWatchdogTick g => g.a == tl
      | _ => false)
    if bitsOf v 31 16 = 0 then s1 else s1.planN (cycleOf s (ckOf s s.mcnt + bitsOf v 31 16)) rkStart .refreshWatchdogTick tl 0
  else if k = 12 then s.modTel tl (fun x => { x with tmpma := BitVec.ofNat 8 (bitsOf v 15 8), tmplim := BitVec.ofNat 8 v })
  else if bitsOf v 15 14 = 2 ∧ (s.tel tl).trdy ∧ !hostPlanOk (s.tel tl) then s
  else s.modTel tl (fun x => { x with owner := mset x.owner (k % 64) (BitVec.ofNat 32 (v % 2 ^ 16 / 2048 * 2048)) })

/-- No graph or host program is pending at the Teller (R205). -/
def nonePending (x : Tel) : Bool := x.runs.all (fun r => r.kind == 3) && x.hostq.isEmpty

/-- Writes of timing words that waited take effect once no graph or host program is pending (R205). -/
def releaseTT (s : State) (tl : Nat) : State :=
  let x := s.tel tl
  if nonePending x then x.ttq.foldl (fun a w => writeTel a tl w.1 w.2.toNat) (s.modTel tl (fun y => { y with ttq := [] })) else s

/-- A run leaves the Teller. -/
def dropRun (s : State) (tl : Nat) (r : TRun) (status : Nat) : State :=
  let s1 := s.modTel tl (fun x => { x with runs := x.runs.filter (fun q => q.id != r.id) })
  releaseTT (if r.kind = 1 then copyRunEnd s1 r.copy status else s1) tl

/-- Every slot of a run is its owner's. -/
def runOwned (x : Tel) (r : TRun) : Bool := (List.range r.ns).all (fun k => ownedAt x r (r.start + 64 * k))

/-- TELLER_RUN_START: run `b` begins at its first slot; without TRDY a graph run is refused as a timing violation (R205). DESIGN CHOICE,
log 204: a run whose slots have come to another owner since its post issues nothing (R200), and its copy ends as displaced. -/
def execTellerRunStart (s : State) : Host.Outcome State Fault Refusal :=
  let tl := s.arg.a
  let x := s.tel tl
  .next (match x.runs.find? (fun r => r.id == s.arg.b) with
    | none => s
    | some r =>
      if ownerFrozen s tl r then dropRun s tl r 0
      else if !runOwned x r then dropRun s tl r 0x05
      else
        let endAt := cycleOf s (r.start + 64 * r.ns) - 1
        let s1 := s.planN (max s.mcnt endAt) rkArrive .tellerRunEndCheck tl r.id
        if !x.trdy ∧ r.kind ≠ 3 then violate s1 tl r 0x086 (violDetail tl r) else planCommand s1 tl r)

/-- The banks that a run leaves open, or whose implied precharge is not over by its end (R208). -/
def spilled (x : Tel) (r : TRun) : List Nat :=
  r.opened.eraseDups.filter (fun b => mfind x.openRun b == some r.id && (match mfind x.closing b with
    | some c => decide (r.start + 64 * r.ns < c + tRPpb x)
    | none => true))

/-- The Teller precharges the banks that a run has spilled, at the first CK that R206 allows; an implied precharge that comes late
counts as such a precharge (R208). -/
def recoverBanks (s : State) (tl : Nat) (r : TRun) : State :=
  (spilled (s.tel tl) r).foldl (fun a b =>
    let a1 := a.modTel tl (fun x => { x with recov := b :: x.recov })
    match mfind (a.tel tl).closing b with
    | some c => a1.modTel tl (fun x => { x with hist := mset (mdel x.hist (48 + b)) (80 + b) c })
    | none => a1.planN (max a.mcnt (cycleOf a (r.start + 64 * r.ns))) rkHold .tellerRecoveryPrecharge tl b) s

/-- TELLER_RUN_END_CHECK: at the last CK of run `b` (R208). -/
def execTellerRunEndCheck (s : State) : Host.Outcome State Fault Refusal :=
  let tl := s.arg.a
  let x := s.tel tl
  .next (match x.runs.find? (fun r => r.id == s.arg.b) with
    | none => s
    | some r =>
      let s1 := recoverBanks (if (spilled x r).isEmpty then s else violate s tl r 0x086 (violDetail tl r)) tl r
      dropRun s1 tl r (if r.displaced then 0x05 else if r.bad || !(spilled x r).isEmpty then 0x04 else 0))

/-- TELLER_RECOVERY_PRECHARGE: the Teller precharges bank `b` itself at the first CK that R206 allows (R208). -/
def execTellerRecoveryPrecharge (s : State) : Host.Outcome State Fault Refusal :=
  let tl := s.arg.a
  let b := s.arg.b
  let x := s.tel tl
  let ck := ckOf s s.mcnt
  .next (if (mfind x.openRow b).isNone then s
    else if mayPre x b ck && decide (x.bus ≤ ck) && anyCommand x ck then
      s.setTel tl { note x (80 + b) ck with openRow := mdel x.openRow b, openRun := mdel x.openRun b
                                            recov := x.recov.filter (fun k => k != b), bus := ck + 1 }
    else s.planN (cycleOf s (ck + 1)) rkHold .tellerRecoveryPrecharge tl b)

/-! ## Registers, refresh (R205, R209, R210) -/

/-- REFRESH_WATCHDOG_TICK (R209). DESIGN CHOICE (log 163): DEBT wraps in its 8 bits. -/
def execRefreshWatchdogTick (s : State) : Host.Outcome State Fault Refusal :=
  let tl := s.arg.a
  let x := s.tel tl
  let d := x.debt.toInt + 1
  let s1 := s.setTel tl { x with debt := x.debt + 1, rlapse := x.rlapse || decide ((x.maxpost : Int) < d) }
  let s2 := if !x.rlapse ∧ (x.maxpost : Int) < d then
      s1.raise (Config.tellerDie tl).toNat 0x087 (.nobody 15 (144 * (Config.tellerDie tl).toNat)) s.mcnt tl
    else s1
  .next (if x.trefi = 0 then s2 else s2.planN (cycleOf s (ckOf s s.mcnt + x.trefi)) rkStart .refreshWatchdogTick tl 0)

/-- RLAPSE_CLEAR: a Helm write of 1 to RLAPSE (`b` 0); the fault handler's, which looks again each tick until refresh has been restored
(`b` 1) (R209, R328). -/
def execRlapseClear (s : State) : Host.Outcome State Fault Refusal :=
  let x := s.tel s.arg.a
  .next (if s.arg.b = 1 ∧ (x.maxpost : Int) < x.debt.toInt then planOnce s (s.mcnt + 2900) rkStart .rlapseClear s.arg.a 1 0
    else s.modTel s.arg.a (fun y => { y with rlapse := false }))

/-! ## Closed-page sequences: host slots and stream accesses (R212, R281) -/

/-- A step of a sequence: how it has gone so far is 0 as it should, 1 a violation, 2 displaced (R207, R208). -/
def pageStep (r : TRun) (p : Tel × Nat) (c : TCmd × Nat) : Tel × Nat :=
  if p.2 ≠ 0 then p
  else if passes p.1 r false c.1 c.2 then (tellerIssue p.1 r c.1 c.2, 0)
  else if passes p.1 r true c.1 c.2 then (p.1, 2)
  else (p.1, 1)

/-- The bank of a PA. -/
def bankOfPa (pa : Nat) : Nat := pa % 2 ^ 32 / 2048 % 16

/-- ACT, then two bursts with auto-precharge, from a CK on, each command checked for itself, and the check at the end of the run: the
Teller after them, and how they went (R207, R208, R212). -/
def pageSeq (x : Tel) (r : TRun) (pa ck : Nat) (wr : Bool) : Tel × Nat :=
  let o := pa % 2 ^ 32
  let b := bankOfPa pa
  let col := o % 2048 / 32
  let p := [(TCmd.act b (o / 32768), ck), (TCmd.burst b col wr true, ck + tRCD x), (TCmd.burst b (col + 1) wr true, ck + tRCD x + tCCD x)].foldl
    (pageStep r) (x, 0)
  if p.2 = 0 ∧ spilled p.1 { r with opened := [b] } ≠ [] then (p.1, 1) else p

/-- The Teller after a sequence in which every command passes. -/
def closedPage (x : Tel) (r : TRun) (pa ck : Nat) (wr : Bool) : Option Tel :=
  let p := pageSeq x r pa ck wr
  if p.2 = 0 then some p.1 else none

/-- A run of one slot for a closed-page sequence. -/
def pageRun (id kind ctx start : Nat) : TRun :=
  { id := id, kind := kind, ctx := ctx, copy := 0, tile := 0, chan := 0, rep := 0, prog := 0, start := start, ns := 1, ix := 0, burst := 0, bank0 := 0
    row0 := 0, col0 := 0, lo := 0, hi := 0, bad := false, displaced := false, opened := [] }

/-- The CK at which the data of a sequence that begins in a CK is back, or has been written. -/
def pageEnd (x : Tel) (ck : Nat) (wr : Bool) : Nat := ck + tRCD x + tCCD x + (if wr then writeLat x else readLat x) + 3

/-- The bytes of a part that lie in one 32-byte half of its token. -/
def clip (h : Nat) (p : Part) : Part :=
  let base := p.pa / 64 * 64 + 32 * h
  let lo := max p.pa base
  { pa := lo, n := min (p.pa + p.n) (base + 32) - lo, off := p.off + (lo - p.pa), val := p.val / 256 ^ (lo - p.pa) }

/-- One burst of a closed-page sequence is performed: a read takes its 32 bytes, poisoned where refresh has lapsed (R209), and a write is
made (R285). -/
def pageBurst (s : State) (tl id h : Nat) : State :=
  match mfind s.reqs id with
  | none => s
  | some r =>
    let ps := r.parts.map (clip h)
    if r.write then scatter s r.poison (ps.filter (fun p => decide (0 < p.n)))
    else
      let more (p : Part) : Part :=
        let q := clip h p
        { p with val := (if h = 0 then 0 else p.val) + (if q.n = 0 then 0 else s.read q.pa q.n * 256 ^ (q.pa - p.pa)) }
      { s with reqs := mset s.reqs id { r with
          parts := r.parts.map more
          poison := (h != 0 && r.poison) || (s.tel tl).rlapse || partsPoisoned s (ps.filter (fun p => decide (0 < p.n))) } }

/-- The token that the bursts of a read have taken. -/
def pageToken (r : Req) : Token :=
  { data := BitVec.ofNat 512 (r.parts.foldl (fun a p => a + p.val % 256 ^ p.n * 256 ^ p.off) 0), valid := r.valid, poison := r.poison }

/-- A request's data is back at the Teller, or its writes are performed: its master is told (R285). -/
def pageDone (s : State) (id : Nat) : State :=
  match mfind s.reqs id with
  | none => s
  | some r =>
    if r.write then replyWrite { s with reqs := mdel s.reqs id } r
    else
      match r.who with
      | .host _ _ => replyRead { s with reqs := mdel s.reqs id } r (pageToken r)
      | _ => sendReply s id r portDie 0 (pageToken r)

/-- Plans the bursts of a sequence that begins in a CK, reads at their issue and writes at the end of their data, and its end (R285). -/
def planPage (s : State) (x : Tel) (ck : Nat) (wr : Bool) (i : Instr) (a : Nat → Arg) : State :=
  let burst (h : Nat) : Nat := ck + tRCD x + h * tCCD x + (if wr then writeLat x + 3 else 0)
  ((s.planEv (max s.mcnt (cycleOf s (burst 0))) rkPerform i (a 0)).planEv (max s.mcnt (cycleOf s (burst 1))) rkPerform i (a 1)).planEv
    (max s.mcnt (cycleOf s (pageEnd x ck wr))) rkPerform i (a 2)

/-- The slots of a kind and context. -/
def slotsOf (x : Tel) (o : Nat × Nat) : List Nat := (List.range 64).filter (fun k => slotOwner x k == o)

/-- The n-th start, from 0, of a slot of a list at or after a CK. -/
def nthSlot (ks : List Nat) : Nat → Nat → Nat
  | n, ck =>
    let first := ks.foldl (fun b k => if b = 0 ∨ slotFrom k ck < b then slotFrom k ck else b) 0
    match n with
    | 0 => first
    | m + 1 => nthSlot ks m (first + 1)

/-- The CK of the host slot for an access that comes to a Teller in a CK: the k-th of the queue takes the k-th host slot that begins at
least 16 CK later, or the first after those that the accesses before it take; 0 without a host slot (R212). -/
def hostPlan (x : Tel) (ck : Nat) : Nat :=
  let ks := slotsOf x (2, 0)
  let last := x.hostq.foldl (fun b q => max b q.2) 0
  if ks.isEmpty then 0
  else
    let c := nthSlot ks x.hostq.length (ck + 16)
    if last < c then c else nthSlot ks 0 (last + 1)

/-- A host access joins its Teller's queue. -/
def queueHost (s : State) (tl id : Nat) : State :=
  let c := hostPlan (s.tel tl) (ckOf s s.mcnt)
  let s1 := s.modTel tl (fun y => { y with hostq := y.hostq ++ [(id, c)] })
  if c = 0 then s1 else s1.planEv (max s.mcnt (cycleOf s c)) rkHold .hostSlotService (Arg.of tl id c 0 0)

/-- The accesses of a Teller's queue that have no host slot, or one that is host's no more, and those after them take host slots anew, in
order (R200, R212). -/
def replanHost (s : State) (tl : Nat) : State :=
  let x := s.tel tl
  let good := x.hostq.takeWhile (fun q => q.2 != 0 && slotOwner x (q.2 / 64) == (2, 0))
  (x.hostq.drop good.length).foldl (fun a q => queueHost a tl q.1) (s.modTel tl (fun y => { y with hostq := good }))

/-- TELLER_TIMING_WRITE: register `b` takes `c`; a timing word waits while a graph or host program is pending (R205). -/
def execTellerTimingWrite (s : State) : Host.Outcome State Fault Refusal :=
  let tl := s.arg.a
  let x := s.tel tl
  .next (if s.arg.b < 10 ∧ !nonePending x then
      s.modTel tl (fun y => { y with ttq := y.ttq ++ [(s.arg.b, BitVec.ofNat 32 s.arg.c)] })
    else if s.arg.b < 64 then writeTel s tl s.arg.b s.arg.c
    else replanHost (writeTel s tl s.arg.b s.arg.c) tl)

/-- The host function of a request. -/
def fnOf (r : Req) : Nat := match r.who with
  | .host f _ => f
  | _ => 0

/-- A host access ends without data: Completer Abort (R324). -/
def abortHost (s : State) (id : Nat) (r : Req) : State :=
  { s with reqs := mdel s.reqs id, hostOut := s.hostOut ++ [{ fn := fnOf r, tag := r.tag, status := 4, data := 0, poison := false }] }

/-- A host function freezes (R324). -/
def freezeFn (s : State) (f : Nat) : State := { s with fnFrozen := if s.fnFrozen.contains f then s.fnFrozen else f :: s.fnFrozen }

/-- HOST_SLOT_SERVICE: access `b` is served in the host slot that begins at CK `c` (`d` 0), its first or second burst is performed (`d`
2 or 3), or its data is there (`d` 1). Those commands of its sequence that pass are issued; a failure of R206, or TRDY = 0, is a violation of the host function, and
one that only a recovery precharge causes is not (R205, R207, R208). The accesses of a frozen function end with Completer Abort and issue
nothing (R324). -/
def execHostSlotService (s : State) : Host.Outcome State Fault Refusal :=
  let tl := s.arg.a
  let id := s.arg.b
  let x := s.tel tl
  .next (if s.arg.d = 1 then pageDone s id
    else if 2 ≤ s.arg.d then pageBurst s tl id (s.arg.d - 2)
    else match mfind s.reqs id with
    | none => s
    | some r =>
      if !x.hostq.contains (id, s.arg.c) then s
      else
      let x1 := { x with hostq := x.hostq.filter (fun q => q.1 != id) }
      let pa := (r.parts.headD ⟨0, 0, 0, 0⟩).pa
      let run := { pageRun id 2 (fnOf r) s.arg.c with opened := [bankOfPa pa] }
      if s.fnFrozen.contains (fnOf r) then releaseTT (abortHost (s.setTel tl x1) id r) tl
      else
        let p := if x.trdy then pageSeq x1 run pa s.arg.c r.write else (x1, 1)
        if p.2 = 0 then
          releaseTT (planPage (s.setTel tl p.1) x s.arg.c r.write .hostSlotService (fun k => Arg.of tl id 0 ([2, 3, 1].getD k 1) 0)) tl
        else
          let s1 := recoverBanks (s.setTel tl p.1) tl run
          let s2 := if p.2 = 1 then
              freezeFn (s1.raise (Config.tellerDie tl).toNat 0x086 (.tellerOwner tl (ownerOf run)) s.mcnt tl) (fnOf r)
            else s1
          releaseTT (abortHost s2 id r) tl)

/-- The next start of a graph slot of a context that holds no program run, at or after a CK. -/
def freeSlot (x : Tel) (ctx : Nat) : Nat → Nat → Nat
  | 0, ck => ck
  | n + 1, ck =>
    let c := nthSlot (slotsOf x (1, ctx)) 0 ck
    if windowFree x c 1 then c else freeSlot x ctx n (c + 1)

/-- Plans the service of the stream accesses of a context in its next free slot. -/
def planStream (s : State) (tl ctx ck : Nat) : State :=
  if (slotsOf (s.tel tl) (1, ctx)).isEmpty then s
  else planOnce s (max s.mcnt (cycleOf s (freeSlot (s.tel tl) ctx (64 * ((s.tel tl).runs.length + 1)) ck))) rkHold .tellerStreamAccess tl ctx 1

/-- The accesses of a context that fit one slot, in arrival order, each at the first CK at which it passes. -/
def fitStream (s : State) (tl start ctx : Nat) : List Nat → State
  | [] => s
  | id :: rest =>
    match mfind s.reqs id with
    | none => fitStream (s.modTel tl (fun y => { y with streamq := y.streamq.filter (fun q => q.1 != id) })) tl start ctx rest
    | some r =>
      let x := s.tel tl
      let run := pageRun id 1 ctx start
      match ((List.range 64).find? (fun o => (closedPage x run (r.parts.headD ⟨0, 0, 0, 0⟩).pa (start + o) r.write).isSome)) with
      | none => s
      | some o =>
        match closedPage x run (r.parts.headD ⟨0, 0, 0, 0⟩).pa (start + o) r.write with
        | none => s
        | some x1 =>
          let s1 := planPage (s.setTel tl { x1 with streamq := x1.streamq.filter (fun q => q.1 != id) }) x (start + o) r.write
            .tellerStreamAccess (fun k => Arg.of tl id ([3, 4, 2].getD k 2) 0 0)
          fitStream s1 tl start ctx rest

/-- TELLER_STREAM_ACCESS: request `b` arrives (`c` 0), the accesses of context `b` are served in a free graph slot (`c` 1),
a burst of request `b` is performed (`c` 3 or 4), or its data is there (`c` 2). -/
def execTellerStreamAccess (s : State) : Host.Outcome State Fault Refusal :=
  let tl := s.arg.a
  .next (match s.arg.c with
    | 0 =>
      match mfind s.reqs s.arg.b with
      | none => s
      | some r =>
        planStream (s.modTel tl (fun x => { x with streamq := x.streamq ++ [(s.arg.b, ckOf s s.mcnt)] })) tl r.ctx (ckOf s s.mcnt + 1)
    | 1 =>
      let x := s.tel tl
      let start := ckOf s s.mcnt / 64 * 64
      let mine := (x.streamq.map (fun q => q.1)).filter (fun id => match mfind s.reqs id with
        | some r => r.ctx == s.arg.b
        | none => true)
      let s1 := if x.trdy && windowFree x start 1 then fitStream s tl start s.arg.b mine else s
      if (s1.tel tl).streamq.isEmpty then s1 else planStream s1 tl s.arg.b (start + 64)
    | 2 => pageDone s s.arg.b
    | n => pageBurst s tl s.arg.b (n - 3))

end Sys2Proof.Machine
end

