-- ==== Sys2Proof/Machine/GraphChecks.lean ====
section
/-! DEFINITION. The loader's checks of a whole load: its context, remap table and object table (R246, R277, R282, R290, R300 to R302,
R320, R366), its Teller programs and link slots (R199 to R203, R208, R344), twins (R331), slicing (R266), Almanacs (R107, R232, R270) and
audits (R336, R339), and the reports of a load in order (R7, R84). -/

namespace Sys2Proof.Machine

/-! ## The context (R300 to R302, R320, R366) -/

/-- What the loader finds in a context's virtual-die table, its policy word and the figures that a load states. -/
def Loading.contextReports (k : Loading) : List Config.Report :=
  let x := k.s.ctx k.c
  let v := (List.range 4).filter (fun i => (mget 0#32 x.vdt i).getLsbD 31)
  let bad (b : Bool) (r : Config.Check) : List Config.Report := if b then [k.report r 0 k.c 0] else []
  bad (v != List.range v.length || decide (((v.filterMap (dieOfVirtual k.s k.c)).eraseDups).length < v.length)) .virtualDie
    ++ bad (!policyOk x.policy) .contextPolicy
    ++ bad (x.policy.getLsbD 24 && k.lv != .f) .migrationLevel
    ++ bad (!safeOk x.policy k.ld.safe) .preemptionLatency
    ++ bad (decide (powerCap k.s.port.power < energyBeside k.s k.c + k.ld.energy)) .energy

/-! ## Placement (R277, R331, R266) -/

/-- Where the load places a logical tile. -/
def Loading.tileOf (k : Loading) (l : BitVec 10) : Option Nat :=
  match k.place.find? (fun p => p.1 == l) with
  | some p => some p.2
  | none => placedAt k.s k.c l

/-- A physical tile runs more than one logical tile of the context. -/
def Loading.sliced (k : Loading) (t : Nat) : Bool := (entriesOn k.s k.c t).any (fun e => decide (1 < sharers e.2))

/-- What the loader finds in the valid remap entries of the context. -/
def Loading.remapReports (k : Loading) : List Config.Report :=
  (k.s.remap.filter (fun e => e.1 / 1024 == k.c && e.2.getLsbD 31)).filterMap (fun e =>
    let l := BitVec.ofNat 10 (e.1 % 1024)
    let ok : Bool := decide ((e.2.extractLsb' 16 4).toNat ≤ 11) && decide ((e.2.extractLsb' 20 4).toNat ≤ 11) && (match remapTile k.s k.c l e.2 with
      | some t => mayHold k.s k.c t && slicedOk k.s k.c t
      | none => false)
    if ok then none else some (k.report .remap l.toNat e.1 0))

/-- The two copies of a twin stand on a diagonal pair of dies, the first copy on the lower die (R331). -/
def Loading.twinReports (k : Loading) : List Config.Report :=
  k.ld.tiles.filterMap (fun g => g.twin.bind (fun l =>
    match k.tileOf g.lt, k.tileOf l with
    | some t, some u => if dieOfTile t + dieOfTile u = 3 ∧ dieOfTile u < dieOfTile t then none else some (k.report .twinPlacement g.lt.toNat l.toNat 0)
    | _, _ => some (k.report .twinPlacement g.lt.toNat l.toNat 0)))

/-- A tile that uses its matrix or Lodestone node is not sliced at level T (R266). -/
def Loading.sliceReports (k : Loading) (g : Config.TileImg) : List Config.Report :=
  let engine (m : Nat) : Bool := (decide (0xD0 ≤ m) && decide (m ≤ 0xD9)) || (decide (0xE0 ≤ m) && decide (m ≤ 0xE7))
  if k.lv = .t ∧ (k.tileOf g.lt).any k.sliced ∧ ((tileUses k.c k.n k.lv g).any (fun u => engine u.2.l.maj) ∨ !(imageTable g).isEmpty) then
    [k.report .slicedEngineAtLevelT g.lt.toNat 0 0]
  else []

/-! ## The object table (R246, R282, R290) -/

/-- The bytes that an object takes from its location on, both halves of a double-buffered one. -/
def objSpan (r : ObjRec) : Nat := r.len + (if r.dbuf then r.hoff else 0)

/-- The tiles on which a scratchpad object of a home has its bytes: the home, and the second copies of a twin (R331). -/
def Loading.padTiles (k : Loading) (l : BitVec 10) : List Nat :=
  (k.tileOf l).toList ++ (k.ld.tiles.filter (fun g => g.twin == some l)).filterMap (fun g => k.tileOf g.lt)

/-- The fields of an object-table entry are ones that R289 and R290 admit: the multiples and ranges of its addresses, and the length of an
aperture. -/
def objFieldsOk (r : ObjRec) : Bool :=
  r.vbase % 64 == 0 && r.len != 0 && r.len % 64 == 0 && (!r.dbuf || (r.hoff % 64 == 0 && decide (r.len ≤ r.hoff)))
    && (r.kind != 0 || (padHome r).2.2 % 64 == 0) && (r.kind != 3 || (r.loc.extractLsb' 0 40).toNat % 8192 == 0) && (r.kind != 5 || r.len == 1024)

/-- What the loader finds in the valid entries of a context's object table. -/
def Loading.objectReports (k : Loading) : List Config.Report :=
  let os := (List.range (k.s.ctx k.c).otlen).filterMap (fun i => (k.obj i).map (fun r => (i, r)))
  os.flatMap (fun o =>
    let r := o.2
    let bad (b : Bool) (x : Config.Check) (other : Nat) : List Config.Report := if b then [k.report x 0 o.1 other] else []
    bad (r.kind == 7 || (r.dbuf && [3, 5, 6].contains r.kind) || (r.kind == 6 && k.c != 8)
        || (r.kind == 4 && decide (2 ^ 32 < (r.loc.extractLsb' 32 17).toNat * 32768 + objSpan r)) || !objFieldsOk r) .object 0
      ++ bad (r.ord == 3 && [0, 1, 2, 4].contains r.kind) .orderingKind 0
      ++ (if r.kind = 0 then
          let (l, me, off) := padHome r
          bad ((k.padTiles l).any (fun t => !meHas k.s t me (off + objSpan r)) || decide (0x3_0000 < off + objSpan r)) .scratchpadCapacity l.toNat
        else [])
      ++ (os.filter (fun p => decide (o.1 < p.1) && decide (r.vbase < p.2.vbase + p.2.len) && decide (p.2.vbase < r.vbase + r.len))).map (fun p =>
          k.report .object 0 o.1 p.1))

/-- Windows of the image whose pages have no ordering kind, and radix leaves without one that a map or descriptor reaches (R246). -/
def Loading.orderReports (k : Loading) (g : Config.TileImg) (us : List (Code × Use)) : List Config.Report :=
  (imageWindows g).filterMap (fun w => if (w.2.getD 3 0).extractLsb' 29 2 = 3 then some (k.report .orderingKind g.lt.toNat w.1 0) else none)
    ++ (k.radixNamed g us).filterMap (fun x =>
      if (reachedPages x.1 x.2.2).any (fun p => k.leafKindless x.2.1 p) then some (k.report .orderingKind g.lt.toNat (capObj x.1) 0) else none)

/-! ## Teller programs (R199 to R203, R208) -/

/-- The fields of a command word (R201), and the CK for which its command holds the bus (R202). -/
def wordOp (w : Word) : Nat := (w.extractLsb' 27 5).toNat
def wordOff (w : Word) : Nat := (w.extractLsb' 18 9).toNat
def wordBank (w : Word) : Nat := (w.extractLsb' 14 4).toNat
def wordBus (w : Word) : Nat := if wordOp w = 0 then 0 else if wordOp w = 1 ∨ wordOp w = 10 then 2 else 1

/-- Two commands that follow one another stand too close (R203). -/
def offsetsClash : List Word → Bool
  | a :: b :: r => decide (wordOff b ≤ wordOff a) || decide (wordOff b < wordOff a + wordBus a) || offsetsClash (b :: r)
  | _ => false

/-- A program is in one of the five cases of "Teller order", or its length is not 1 to 255 commands (R203). -/
def orderBad (g : Config.ProgImg) : Bool :=
  let cmds := g.cmds.filter (fun w => wordOp w != 0)
  let count (a b : Nat) : Nat := (cmds.filter (fun w => wordOp w == a || wordOp w == b)).length
  offsetsClash cmds || cmds.any (fun w => decide (64 * g.ns < wordOff w + wordBus w)) || decide (128 < count 2 3 + count 4 5)
    || (decide (0 < count 2 3) && decide (0 < count 4 5)) || (g.cmds.getLast?.map wordOp) != some 0 || decide (255 < g.cmds.length)
    || g.ns == 0 || decide (8 < g.ns)

/-- A bank opened at offset a is closed by the rest of a program: by PRE or PREA, or by the implied precharge of the bank's last RDA or
WRA, which with tRPpb ends within the run; `auto` is where the last so far puts that precharge (R206, R208). -/
def bankCloses (x : Tel) (ns a b : Nat) (auto : Option Nat) : List Word → Bool
  | [] => (auto.map (fun e => decide (max e (a + tRAS x) + tRPpb x ≤ 64 * ns))).getD false
  | w :: r =>
    let o := wordOff w
    if wordOp w = 7 then true
    else if wordBank w ≠ b then bankCloses x ns a b auto r
    else match wordOp w with
      | 1 => auto.isSome || bankCloses x ns a b auto r
      | 3 => bankCloses x ns a b (some (o + tRTP x)) r
      | 5 => bankCloses x ns a b (some (o + writeLat x + 3 + tWR x)) r
      | 6 => true
      | _ => bankCloses x ns a b auto r

/-- Every bank that a program opens is closed by its end (R208). -/
def spillFree (x : Tel) (ns : Nat) : List Word → Bool
  | [] => true
  | w :: r => (wordOp w != 1 || bankCloses x ns (wordOff w) (wordBank w) none r) && spillFree x ns r

/-- What the loader finds in the slots that a load claims and in its programs, Teller by Teller. -/
def Loading.tellerReports (k : Loading) : List Config.Report :=
  (List.range 64).flatMap (fun tl =>
    let x := k.s.tel tl
    let y := tellerWithout x k.c tl ((heldLoads k.s k.c k.img).filter (fun l => l != k.ld))
    let bad (b : Bool) (r : Config.Check) (p i : Nat) : List Config.Report := if b then [k.report r 0 (256 * tl + p) i] else []
    (claimsOn k.ld tl).flatMap (fun n => bad (decide (63 < n) || ((slotOwner x n).1 != 0 && slotOwner x n != (1, k.c))) .tellerSlotTaken n 0)
      ++ (progsOn k.ld tl).flatMap (fun p =>
        ((List.range p.2.cmds.length).zip p.2.cmds).flatMap (fun w =>
            bad (match decodeTeller w.2 with
              | .ok _ => false
              | .error _ => true) .tellerCommand p.1 w.1
              ++ bad (decide (8 ≤ wordOp w.2) && decide (wordOp w.2 ≤ 13)) .tellerCommandOwner p.1 w.1)
          ++ bad (orderBad p.2) .tellerOrder p.1 0
          ++ bad (k.lv == .t && !spillFree x p.2.ns p.2.cmds) .bankSpill p.1 0)
      ++ ((progsOn k.ld tl).foldl (fun (a : Tel × List Config.Report) p =>
          (placeProg a.1 k.c p.1 p.2, a.2 ++ bad (decide (255 < p.1) || progTaken a.1 p.1 || (storeRoom a.1 p.2.cmds.length).isNone) .tellerStore p.1 0))
        (y, [])).2)

/-! ## Link slots (R344) -/

/-- What the loader finds in the pairs that a load claims, and the circuits that cross a link on which they own none. -/
def Loading.linkReports (k : Loading) : List Config.Report :=
  k.ld.links.flatMap (fun p => p.2.filterMap (fun o =>
      let w := mget 0#32 (k.s.link p.1).owner o.1
      let kind := (w.extractLsb' 30 2).toNat
      if o.1 % 64 = 63 ∨ kind = 3 ∨ (kind ≠ 0 ∧ (w.extractLsb' 27 3).toNat ≠ k.c) then some (k.report .linkSlotTaken 0 (512 * p.1 + o.1) 0) else none))
    ++ k.ld.circuits.flatMap (fun g =>
      match k.tileOf g.src, k.tileOf g.dst with
      | some a, some b =>
        ((pathOf (dieOfTile a) (some a) (dieOfTile b) (some b)).2).filterMap (fun h =>
          if (mget [] k.ld.links h.link).any (fun o => o.1 / 256 == h.back.toNat && (o.2.extractLsb' 30 2).toNat == 1
              && (o.2.extractLsb' 16 11).toNat == g.dcirc && o.1 % 64 != 63) then none
          else some (k.report .noLinkSlot g.src.toNat g.scirc h.link))
      | _, _ => [])

/-! ## Almanacs (R270) -/

/-- The entries of an Almanac that run, by index. -/
def runningEntries (al : Config.AlmImg) : List (Nat × Config.EntryImg) := al.entries.filter (fun e => entValid (entryOf e.2))

/-- START, DLN, and the end of the reserve of an entry. -/
def eStart (e : Config.EntryImg) : Nat := entStart (entryOf e)
def eDln (e : Config.EntryImg) : Nat := entDln (entryOf e)
def eStop (e : Config.EntryImg) : Nat := entDln (entryOf e) + entRsv (entryOf e)

/-- Two entries run at once in some tick: their [START, DLN + RSV) overlap. -/
def entriesMeet (a b : Config.EntryImg) : Bool := decide (eStart a < eStop b) && decide (eStart b < eStop a)

/-- The bounds of an entry in a frame of L ticks. -/
def boundsBad (l : Nat) (e : Config.EntryImg) : Bool :=
  decide (eDln e ≤ eStart e) || decide (l < eStop e) || (entRsv (entryOf e) == 0) == hasDrb (entryOf e)

/-- The slots of the dead-reckoning block are the primary's or lie on other elements than the primary's. -/
def fallbackBad (e : Config.EntryImg) : Bool :=
  e.drb.any (fun n => e.slots.contains n || !e.slots.any (fun m => m.1 == n.1 && m.2 / 8 == n.2 / 8))

/-- The frame ticks at which an entry may publish. -/
def publishTicks (e : Config.EntryImg) : List Nat := eDln e :: (if hasDrb (entryOf e) then [eStop e] else [])

/-- The reader of a commit set races with its producer. -/
def commitRace (reader producer : Config.EntryImg) : Bool :=
  entriesMeet reader producer || (publishTicks producer).any (fun q => decide (eStart reader < q) && decide (q < eStop reader))

/-- What the loader finds in one Almanac. -/
def Loading.almanacReports (k : Loading) (a : Nat) (al : Config.AlmImg) : List Config.Report :=
  let es := runningEntries al
  let bad (b : Bool) (r : Config.Check) (i j : Nat) : List Config.Report := if b then [k.report r 0 (4096 * a + i) j] else []
  bad (decide (4096 < al.entries.length)) .almanacCapacity 0 0
    ++ es.flatMap (fun e =>
      let x := entryOf e.2
      bad (boundsBad al.frame e.2) .entryBounds e.1 0
        ++ bad (fallbackBad e.2) .fallbackPlacement e.1 0
        ++ bad (al.waypoints.any (fun p => decide (eStart e.2 < p) && decide (p < eStop e.2))) .entrySpansWaypoint e.1 0
        ++ bad ((entAudit x || entReconf x) && (entTwin x || hasDrb x || entCset x != 0xFF)) .entryKind e.1 0
        ++ (e.2.reads.filter (fun m => (mfind k.img.csets m).isNone)).map (fun m => k.report .commitRace 0 (4096 * a + e.1) m)
        ++ es.flatMap (fun f =>
          let y := entryOf f.2
          bad (decide (e.1 < f.1) && entriesMeet e.2 f.2 && (e.2.slots ++ e.2.drb).any (fun n => (f.2.slots ++ f.2.drb).contains n)) .slotOverlap e.1 f.1
            ++ bad (decide (e.1 < f.1) && entCset x != 0xFF && entCset x == entCset y) .commitSetShared e.1 f.1
            ++ bad (entCset y != 0xFF && e.2.reads.contains (entCset y) && commitRace e.2 f.2) .commitRace e.1 f.1))

/-- Tiles whose walkers would hold more than 1,024 records over all Almanacs of the graph. -/
def Loading.recordReports (k : Loading) : List Config.Report :=
  let uses := (k.img.alms.flatMap (fun a => (runningEntries a.2).flatMap (fun e => e.2.tiles.eraseDups)))
  (uses.eraseDups.filter (fun l => decide (1024 < (uses.filter (fun m => m == l)).length))).map (fun l => k.report .almanacCapacity l.toNat 0 0)

/-! ## Audits of an Almanac (R336, R339) -/

/-- An audit has a target for the load: a sub-channel where the context owns graph slots, a link between two of its dies; tiles, dies
and the port die are always there. -/
def Loading.auditHasTarget (k : Loading) (no : Nat) : Bool :=
  let ds := diesOf k.s k.c
  match auditClass no with
  | 2 => k.ld.owners.any (fun p => !p.2.isEmpty)
  | 3 => (List.range 6).any (fun l => ds.contains (linkEnds l).1 && ds.contains (linkEnds l).2)
  | _ => true

/-- Another entry uses a target of an audit: an entry with slots or tiles of its own for a tile audit, another audit of the same kind
of target. -/
def usesTarget (no : Nat) (e : Config.EntryImg) : Bool :=
  if entAudit (entryOf e) then auditClass (entBlk (entryOf e)) == auditClass no else auditClass no == 0 && !e.tiles.isEmpty

/-- The longest time in ticks between two starts of a cyclic schedule with frame L. -/
def longestGap (l : Nat) (starts : List Nat) : Nat :=
  (starts.map (fun a => (starts.map (fun b => if b ≤ a then b + l - a else b - a)).foldl min l)).foldl max 0

/-- What the loader finds in the audit entries of one Almanac. -/
def Loading.auditReports (k : Loading) (a : Nat) (al : Config.AlmImg) : List Config.Report :=
  let es := runningEntries al
  let bad (b : Bool) (r : Config.Check) (i j : Nat) : List Config.Report := if b then [k.report r 0 (4096 * a + i) j] else []
  (es.filter (fun e => entAudit (entryOf e.2))).flatMap (fun e =>
      let no := entBlk (entryOf e.2)
      bad (decide (eDln e.2 - eStart e.2 < auditTicks no)) .auditSlot e.1 no
        ++ es.flatMap (fun f => bad (e.1 != f.1 && entriesMeet e.2 f.2 && usesTarget no f.2) .auditOverlap e.1 f.1))
    ++ (if k.lv ≠ .t then []
      else (List.range 26).flatMap (fun no =>
        let starts := (es.filter (fun e => entAudit (entryOf e.2) && entBlk (entryOf e.2) == no)).map (fun e => eStart e.2)
        bad (k.auditHasTarget no && (starts.isEmpty || decide (1000 * auditMs no < longestGap al.frame starts))) .auditInterval 0 no))

/-! ## Waits (R232) -/

/-- The cycles from a block's start by which a wait of it must end, none where no entry names the block on that slot: the least over the
entries of every Almanac. -/
def Loading.waitLimit (k : Loading) (g : Config.TileImg) (n : Nat) (b : Config.BlockImg) : Option Nat :=
  let holds (i : Nat) : Bool := g.slots.any (fun x => x.slot == n && mfind x.blocks i == some b)
  let ends := k.img.alms.flatMap (fun a => (runningEntries a.2).flatMap (fun e =>
    let x := entryOf e.2
    (if e.2.slots.contains (g.lt, n) ∧ holds (entBlk x) then [2900 * (eDln e.2 - eStart e.2)] else [])
      ++ (if hasDrb x ∧ e.2.drb.contains (g.lt, n) ∧ holds (entDrb x) then [2900 * entRsv x] else [])))
  ends.foldl (fun m e => match m with
    | some x => some (min x e)
    | none => some e) none

/-! ## Engine commands with an offset (R107) -/

/-- The cycles from its block's start at which an engine command begins, where its operands or its template say so: a matrix command and
MXARM in class 5 operands, CPYAT's B, the START of the template that CPY names; none for a command that begins at acceptance (R178, R186,
R213, R215). -/
def startOffset (g : Config.TileImg) (p : Code × Use) : Option Nat :=
  let at_ (n : Nat) : Option Nat := if n % 2 ^ 20 = 0xFFFFF then none else some (n % 2 ^ 20)
  match p.2.l.maj, litA p, litB p with
  | 0xD0, _, some b => at_ b.toNat
  | 0xE8, _, some b => at_ (imageWord g (0x4880 + 16 * (b.toNat % 64) + 11)).toNat
  | 0xE9, _, some b => at_ b.toNat
  | m, some a, some b => if 0xD1 ≤ m ∧ m ≤ 0xD5 then at_ (cmdStart (b ++ a)) else none
  | _, _, _ => none

/-- Engine commands of a tile at level T whose offset lies beyond the deadline of an entry that runs their block (R107). -/
def Loading.offsetReports (k : Loading) (g : Config.TileImg) : List Config.Report :=
  if k.lv ≠ .t then []
  else (tileUses k.c k.n k.lv g).filterMap (fun p =>
    let b := p.1.blockAt (imageSeq g p.1.x.slot) p.2
    match startOffset g p, b.bind (k.waitLimit g p.1.x.slot) with
    | some o, some l => if !isNever p.2.l.op ∧ l < o then some (p.1.named .deadline .opRing p.2.l.at_ o) else none
    | _, _ => none)

/-! ## Derived retirement (R270, R390) -/

/-- Blocks at level T that an entry runs and that cannot have retired by their sample, 160 cycles before the end of their window: their last
issue, with the holds whose end the loader knows, their results, or the matrix commands that they hand over end later (R270, R271). -/
def Loading.retireReports (k : Loading) (g : Config.TileImg) : List Config.Report :=
  if k.lv ≠ .t then []
  else (g.slots.filter (fun x => imageBound g x.slot)).flatMap (fun x => x.blocks.filterMap (fun b =>
    let c := codeOf k.c k.n k.lv g x
    match k.waitLimit g x.slot b.2, c.lastIssue b.2 with
    | some l, some t => if l < t + 160 then some (c.report .deadline .address b.2.base 0 t) else none
    | _, _ => none))

/-- What the issues of each slot bring about one after another, at level T also in its output queues (R55, R168, R196, R216, R217, R247, R255,
R316). -/
def Loading.pathReports (k : Loading) (g : Config.TileImg) : List Config.Report :=
  (g.slots.filter (fun x => imageBound g x.slot)).flatMap (fun x =>
    let c := codeOf k.c k.n k.lv g x
    (if k.lv = .t then c.queueReports else []) ++ k.issueReports c)

/-! ## Engines across entries (R188, R336) -/

/-- The uses of a tile's code that belong to the blocks of an entry. -/
def Loading.usesIn (k : Loading) (g : Config.TileImg) (e : Config.EntryImg) : List (Code × Use) :=
  (tileUses k.c k.n k.lv g).filter (fun p =>
    let b := p.1.blockAt (imageSeq g p.1.x.slot) p.2
    !isNever p.2.l.op && b.isSome
      && ((e.slots.contains (g.lt, p.1.x.slot) && b == mfind p.1.x.blocks (entBlk (entryOf e)))
        || (e.drb.contains (g.lt, p.1.x.slot) && b == mfind p.1.x.blocks (entDrb (entryOf e)))))

/-- Two entries whose blocks arm the table of one node and that run at once (R188). -/
def Loading.ownedReports (k : Loading) (a : Nat) (al : Config.AlmImg) : List Config.Report :=
  let es := runningEntries al
  let arms (g : Config.TileImg) (e : Config.EntryImg) : Bool := (k.usesIn g e).any (fun p => p.2.l.maj == 0xD0)
  if k.lv ≠ .t then []
  else k.ld.tiles.flatMap (fun g => es.flatMap (fun e => es.filterMap (fun f =>
    if e.1 < f.1 && entriesMeet e.2 f.2 && arms g e.2 && arms g f.2 then some (k.report .matrixTableOwned g.lt.toNat (4096 * a + e.1) f.1) else none)))

/-- The kinds of matrix command that an entry's blocks hand over on a tile: by their opcodes, and what the table holds where they arm it
(R178, R186). -/
def Loading.kindsIn (k : Loading) (g : Config.TileImg) (e : Config.EntryImg) : List Nat :=
  (k.usesIn g e).flatMap (fun p =>
    if p.2.l.maj = 0xD0 then (imageTable g).map (fun w => cmdKind w.2)
    else if 0xD1 ≤ p.2.l.maj ∧ p.2.l.maj ≤ 0xD5 then [p.2.l.maj - 0xD0] else [])

/-- From frame tick p to frame tick q, forward. -/
def ticksFrom (l p q : Nat) : Nat := (q + l - p % l) % l

/-- An audit that destroys banks and accumulators of the matrix arrays between the entry that loads them and an entry that uses them and does
not load them itself (R336, R338). -/
def Loading.stateReports (k : Loading) (a : Nat) (al : Config.AlmImg) : List Config.Report :=
  let es := runningEntries al
  let loads : List (List Nat × List Nat) := [([1], [2, 5]), ([2, 5], [3])]
  let has (g : Config.TileImg) (ks : List Nat) (e : Config.EntryImg) : Bool := (k.kindsIn g e).any ks.contains
  (es.filter (fun e => entAudit (entryOf e.2) && entBlk (entryOf e.2) == 8)).flatMap (fun e => k.ld.tiles.flatMap (fun g => loads.flatMap (fun w =>
    es.filterMap (fun f =>
      if has g w.2 f.2 && !has g w.1 f.2 && !es.any (fun h => has g w.1 h.2
          && decide (ticksFrom al.frame (eStart e.2) (eStart h.2) < ticksFrom al.frame (eStart e.2) (eStart f.2))) then
        some (k.report .auditState g.lt.toNat (4096 * a + e.1) f.1)
      else none))))

/-! ## A load (R7, R84) -/

/-- What the loader finds in the tiles, programs, link slots and twins of one load, and in the schedule that it derives. -/
def Loading.ownReports (k : Loading) : List Config.Report :=
  k.ld.tiles.flatMap (fun g => codeReports k.c k.n k.lv none (k.img.alms.map Prod.fst) g (k.waitLimit g) ++ k.tileReports g ++ k.orderReports g (tileUses k.c k.n k.lv g) ++ k.sliceReports g
      ++ k.offsetReports g ++ k.retireReports g ++ k.pathReports g ++ k.unarmedReports g (tileUses k.c k.n k.lv g))
    ++ k.orderOfQueues ++ k.transitReports ++ k.img.alms.flatMap (fun a => k.ownedReports a.1 a.2 ++ k.stateReports a.1 a.2)
    ++ k.tellerReports ++ k.linkReports ++ k.twinReports ++ (k.ld.derived.filter (fun r => r.1 == levelNo k.lv)).map Prod.snd

/-- The loads that RECONF entries of an image bring (R269), but for one. -/
def reconfLoads (i : Config.Image) (n : Nat) : List (Nat × Config.LoadImg) :=
  ((i.alms.flatMap (fun a => ((runningEntries a.2).filter (fun e => entReconf (entryOf e.2))).map (fun e => entBlk (entryOf e.2)))).eraseDups.filter
    (fun m => m != n)).filterMap (fun m => (mfind i.loads m).map (fun l => (m, l)))

/-- The loads of an image that a load packet for load n checks and places: the load itself, and at level T those that its Almanacs
bring. -/
def loadsWith (i : Config.Image) (n : Nat) (ld : Config.LoadImg) (lv : Level) : List (Nat × Config.LoadImg) :=
  (n, ld) :: (if lv = .t then reconfLoads i n else [])

/-- Everything that the loader finds in a load, in the order of its checks. -/
def Loading.reports (k : Loading) : List Config.Report :=
  k.contextReports ++ k.remapReports ++ k.objectReports
    ++ (loadsWith k.img k.n k.ld k.lv).flatMap (fun m => { k with n := m.1, ld := m.2 }.ownReports)
    ++ k.img.alms.flatMap (fun a => k.almanacReports a.1 a.2 ++ k.auditReports a.1 a.2) ++ k.recordReports

/-- A load of an image for the loader, at a level, with the remap table as the load would leave it: none where a tile finds no place
(R277). -/
def loadingOf (s : State) (c n : Nat) (lv : Level) (i : Config.Image) (ld : Config.LoadImg) : Option Loading :=
  (placement s c n (((loadsWith i n ld lv).flatMap (fun m => m.2.tiles.map (fun t => t.lt))).eraseDups)).map (fun ps =>
    { s := writeRemap s c n ps, c := c, n := n, lv := lv, img := i, ld := ld, place := ps })

/-- A load that stands on its tiles, as the loader sees it when it configures them. -/
def loadingNow (s : State) (c n : Nat) (i : Config.Image) (ld : Config.LoadImg) : Loading :=
  { s := s, c := c, n := n, lv := (s.ctx c).level, img := i, ld := ld
    place := ld.tiles.filterMap (fun g => (placedAt s c g.lt).map (fun t => (g.lt, t))) }

/-- The first report on a load: that it finds no place, or what its checks find. -/
def firstReport (s : State) (c n : Nat) (lv : Level) (i : Config.Image) (ld : Config.LoadImg) : Option Config.Report :=
  match loadingOf s c n lv i ld with
  | none => some { check := .remap, graph := c, spot := .number, load := n, lt := 0, ve := 0, slot := 0, at_ := 0, word := 0, other := 0 }
  | some k => k.reports.head?

/-- The first report on the loads that a context holds, checked for a level; without a load, on its policy word (R267, R301). -/
def levelReport (s : State) (c : Nat) (lv : Level) : Option Config.Report :=
  let none_ : Config.Report := { check := .migrationLevel, graph := c, spot := .number, load := 0, lt := 0, ve := 0, slot := 0, at_ := c, word := (s.ctx c).policy, other := 0 }
  if (s.ctx c).policy.getLsbD 24 ∧ lv ≠ .f then some none_
  else match (s.ctx c).image with
    | some i => ((heldNumbers s c).filterMap (fun n => (mfind i.loads n).bind (firstReport s c n lv i))).head?
    | none => none

end Sys2Proof.Machine
end

