-- ==== Sys2Proof/Machine/Packets.lean ====
section
/-! DEFINITION. The load packet and the passing of the reconfiguration token (R262, R263, R305). -/

namespace Sys2Proof.Machine

/-- The bytes that a load packet names, where they lie in the context's partition on the die of virtual die 0 (R305). -/
def imageBytes (s : State) (c off len : Nat) : Option (List (BitVec 8)) :=
  let d := (dieOfVirtual s c 0).getD 0
  let (ok, base, size) := partition s d c
  if ok ∧ off + len ≤ size then some (readBytes s.mem (vaultAddr d (base + off)) len) else none

/-- Has the loader configure logical tile l of a context to load n, as soon as its tile is drained (R263). -/
def planReconf (s : State) (c n : Nat) (l : BitVec 10) : State :=
  match placedAt s c l with
  | some t => s.planEv s.mcnt rkArrive .reconfigurationTokenPass (Arg.of t c l.toNat n 0)
  | none => s

/-- The loader takes a load: placement, object tables, image tables, and the tiles to be configured; its remap entries claim the tiles of the
load and of those that RECONF entries bring (R2); a new image is a new graph (R190, R262, R277, R356). -/
def beginLoad (s : State) (c n : Nat) (i : Config.Image) (ld : Config.LoadImg) (ps : List (BitVec 10 × Nat)) : State :=
  let (id, s0) := s.fresh
  let s1 := copyTable s0 c
  let mine := ps.filter (fun p => ld.tiles.any (fun t => t.lt == p.1))
  let s2 := writeRemap s1 c n ps
  let s3 := s2.modCtx c (fun x => { x with
    image := some i, graph := if x.image = some i then x.graph else id, report := none
    resident := some n, csets := i.csets, alms := almanacsOf i, energy := ld.energy, toLoad := mine.map Prod.fst })
  mine.foldl (fun a p => planReconf a c n p.1) s3

/-- A load packet that the loader refuses: status 0x07, with the report (R7, R305). -/
def refuseLoad (s : State) (c : Nat) (r : Option Config.Report) : State := completeBarrier (s.modCtx c (fun x => { x with report := r })) c 7 0

/-- The report of an image that holds no load of a number (R305). -/
def missingLoad (c n : Nat) : Config.Report := { check := .noSuchLoad, graph := c, spot := .number, load := n, lt := 0, ve := 0, slot := 0, at_ := 0, word := 0, other := 0 }

/-- The image of one logical tile of a load of the context. -/
def tileImage (s : State) (c n : Nat) (l : BitVec 10) : Option (Config.Image × Config.LoadImg × Config.TileImg) :=
  (s.ctx c).image.bind (fun i => (mfind i.loads n).bind (fun ld => (ld.tiles.find? (fun t => t.lt == l)).map (fun g => (i, ld, g))))

/-- Every logical tile has been configured: circuits, Teller programs and the rotations of its sliced tiles follow, and a load packet
completes. The rotations count from this cycle, which is the arm of the load (R279; DESIGN CHOICE, log 171: the spec does not say which
cycle that is). -/
def endLoad (s : State) (c n : Nat) : State :=
  let s1 := buildCircuits s c
  let s2 := match (s.ctx c).image.bind (fun i => (mfind i.loads n).map (fun ld => (i, ld))) with
    | some (i, ld) => loadTellers s1 c i ld
    | none => s1
  let mine : List Nat := match (s.ctx c).image.bind (fun i => mfind i.loads n) with
    | some (ld : Config.LoadImg) => (ld.tiles.filterMap (fun g => placedAt s c g.lt)).eraseDups
    | none => []
  let s3 := mine.foldl (fun a t => if (placeIx a t 0).isSome then startRotation a t else a) s2
  let s4 := watchAudits s3 c
  match (s.ctx c).barrier with
  | some v => if packetType v = 1 ∧ (s.ctx c).begun then completeBarrier s4 c 0 0 else s4
  | none => s4

/-- A reconfiguration at levels D and F stops the tile's table, and discards the commands it fired that have not begun (R188). -/
def dropTable (s : State) (t : Nat) : State :=
  if s.levelOf t = .t ∨ (s.mnode t).counter.isNone then s
  else
    let gone := (s.mnode t).queue.filter (fun c => decide (c.entry < 256))
    gone.foldl (fun a c => a.endCommand c.id c.slot)
      ((stopTable s t).modNode t (fun x => { x with queue := x.queue.filter (fun c => decide (256 ≤ c.entry)) }))

/-- LOAD_GRAPH_PACKET: an image that does not hold the load, or a load that a check refuses, completes with status 0x07
(R305, R366). A load without tiles ends at once. -/
def execLoadGraphPacket (s : State) : Host.Outcome State Fault Refusal :=
  let c := s.arg.a
  let n := (lane s.arg.v 3).toNat % 256
  let img := (imageBytes s c (lane s.arg.v 1).toNat (lane s.arg.v 2).toNat).bind Config.readImage
  .next (match img.bind (fun i => (mfind i.loads n).map (fun l => (i, l))) with
    | none => refuseLoad s c (some (missingLoad c n))
    | some (i, ld) =>
      match firstReport s c n (s.ctx c).level i ld, loadingOf s c n (s.ctx c).level i ld with
      | none, some k => let s1 := beginLoad s c n i ld k.place
        if ld.tiles.isEmpty then endLoad s1 c n else s1
      | r, _ => refuseLoad s c r)

/-- The number under which stands what a reconfiguration of a logical tile replaces: on a sliced tile nothing where the logical tile has
not run, else what tile t holds (R263, R278). -/
def outgoing (s : State) (t : Nat) (l : BitVec 10) : Option Nat :=
  if (placeIx s t 0).isSome then
    let u := s.standing (homeOf t l)
    if (s.tile u).ltid = l then some u else none
  else some t

/-- The elements that a load names for a partial reconfiguration of a tile that holds a load of its graph (R263). -/
def namedElems (s : State) (c n t : Nat) (l : BitVec 10) : Option (List Nat) :=
  if (s.tile t).load.isSome ∧ (s.tile t).graph = some (s.ctx c).graph then (tileImage s c n l).bind (fun i => i.2.2.named) else none

/-- RECONFIGURATION_TOKEN_PASS: tile a of context b is configured for logical tile c of load d once the outgoing load has
drained, or its named elements are rewritten once they have (R263). A tile that is no longer the context's is left alone (R2). -/
def execReconfigurationTokenPass (s : State) : Host.Outcome State Fault Refusal :=
  let g := s.arg
  let l := BitVec.ofNat 10 g.c
  .next (if !(s.ctx g.b).toLoad.contains l ∨ ownedBeside s g.b g.a then s
    else
      let home := outgoing s g.a l
      let part := home.bind (fun t => namedElems s g.b g.d t l)
      let s0 := match home, part with
        | some t, none => dropTable s t
        | _, _ => s
      let ready := match home, part with
        | none, _ => true
        | some t, some vs => partDrained s0 t vs
        | some t, none => tileDrained s0 t
      if !ready then ((home.map (flushTile s0)).getD s0).planEv (s.mcnt + 1) rkArrive .reconfigurationTokenPass g
      else
        let si := if (placeIx s0 g.a 0).isSome then bringIn s0 g.a l else s0
        let s1 := match tileImage si g.b g.d l with
          | some (i, ld, t) =>
            let words := (loadingNow si g.b g.d i ld).completed t
            match part with
            | some vs => patchTile si g.a g.d t words vs
            | none => applyFuses (writeReplicas (loadTile si g.a (some g.b) (some (si.ctx g.b).graph) i.seed g.d ld.keepMx t words) g.b g.a t) g.b g.a
          | none => si
        let s2 := s1.modCtx g.b (fun x => { x with toLoad := x.toLoad.filter (fun y => y != l) })
        if (s2.ctx g.b).toLoad.isEmpty then endLoad s2 g.b g.d else s2)

end Sys2Proof.Machine
end

