-- ==== Sys2Proof/Machine/Helm.lean ====
section
/-! DEFINITION. The requests of the Helm region at their targets (R230, R231, R239 to R241, R297, R298): combining the two
copies, RTE, ESCROW, GENUP, REMAP, their credits; and the escrow packet (R305). -/

namespace Sys2Proof.Machine

/-! ## Combining and crediting (R231) -/

/-- What a target makes of the copies that it has collected. -/
inductive Combined where
  | act
  | oneSided
  | differ
deriving DecidableEq, Repr

/-- Both copies of a twinned graph must agree in A and B; another graph acts alone (R231). -/
def combined (s : State) (r : HelmReq) : Combined :=
  match r.twin with
  | some (a, b, _) => if a = r.a ∧ b = r.b then .act else .differ
  | none => if (twinTile s r.tile).isSome then .oneSided else .act

/-- The major opcode of a request, as a record gives it (R321). -/
def helmOpcode (kind : Nat) : Nat :=
  match kind with
  | 0 => 0x0F
  | 4 => 0x19
  | 5 => 0x1A
  | _ => 0x18

/-- The counter that one copy names, where it has CTRV. -/
def counterOf (kind : Nat) (a : Word) (b : Vec) : Option Nat :=
  match kind with
  | 0 => if (lane b 0).getLsbD 8 then some ((lane b 0).extractLsb' 4 4).toNat else none
  | 4 => if a.getLsbD 8 then some (a.extractLsb' 4 4).toNat else none
  | _ => if (lane b 15).getLsbD 4 then some ((lane b 15).extractLsb' 0 4).toNat else none

/-- Credits a counter of a tile by 1. -/
def creditOne (s : State) (t k : Nat) : State :=
  let (s1, tooMany) := s.credit t k 1
  if tooMany then s1.raise (dieOfTile t) 0x08B (.nobody (s.ctxOfTile t) t) s.mcnt k else s1

/-- A request is over. -/
def State.dropHelm (s : State) (id : Nat) : State := { s with helm := mdel s.helm id }

/-- The request has taken effect: each copy's counter is credited on its own tile. -/
def creditRequest (s : State) (id : Nat) (r : HelmReq) : State :=
  let one (a : State) (t : Nat) (w : Word) (b : Vec) : State := match counterOf r.kind w b with
    | some k => creditOne a t k
    | none => a
  let s1 := one (s.dropHelm id) r.tile r.a r.b
  match r.twin with
  | some (w, b, t) => one s1 t w b
  | none => s1

/-- At its action cycle a request acts, or is dropped: copies that differ write a record (R231). -/
def actOn (s : State) (id : Nat) (r : HelmReq) (f : State → State) : State :=
  match combined s r with
  | .act => f s
  | .oneSided => s.dropHelm id
  | .differ => (s.dropHelm id).raise (dieOfTile r.tile) 0x101 (.nobody 8 r.tile) s.mcnt (helmOpcode r.kind)

/-- The request stays, and is looked at again in the next cycle. -/
def again (s : State) (id : Nat) (r : HelmReq) : State :=
  { s with helm := mset s.helm id { r with acted := true } }.planN (s.mcnt + 1) rkHold (helmEvent r.kind) id 1

/-! ## RTE (R230) -/

/-- The slot that an RTE names exists on a tile of a context. -/
def rteTarget (s : State) (a : Word) : Bool :=
  decide (bitsOf a.toNat 13 10 ≤ 11) && decide (bitsOf a.toNat 9 6 ≤ 11) && decide (s.ctxOfTile (rteSlot a / 64) < 8)

/-- The action of an RTE, none where it is stale. -/
def rteEffect (s : State) (a b : Word) : Option State :=
  let n := rteSlot a
  if !rteTarget s a ∨ (s.slot n).st ≠ .frozen then none
  else match (b.extractLsb' 0 2).toNat with
    | 0 => if s.levelOf (tileOfSlot n) = .t then none else some (s.resumeSlot n s.mcnt)
    | 2 => some (s.discardSlot n)
    | _ => none

/-- RTE_ACTION. -/
def execRteAction (s : State) : Host.Outcome State Fault Refusal :=
  .next (match mfind s.helm s.arg.a with
    | none => s
    | some r => actOn s s.arg.a r (fun s0 =>
      match rteEffect s0 r.a (lane r.b 0) with
      | some s1 => creditRequest s1 s.arg.a r
      | none =>
        let d := bitsOf r.a.toNat 15 14
        (s0.dropHelm s.arg.a).raise d 0x1C1 (.nobody (if rteTarget s0 r.a then s0.ctxOfTile (rteSlot r.a / 64) else 15) (144 * d)) s.mcnt (r.a.toNat % 65536)))

/-! ## ESCROW (R239, R296, R297) -/

/-- A launch that was admitted under an escrow entry runs, or, with `saved`, has not ended: one that has been saved runs no more, and
retires later (R239). -/
def underEscrow (s : State) (c e : Nat) (saved : Bool) : Bool :=
  s.launches.any (fun l => l.2.ctx == c && l.2.esc.contains e
    && (l.2.st == .armed || l.2.st == .running || l.2.st == .saving || (saved && !l.2.saves.isEmpty)))

/-- `.GRANT`. -/
def grantEscrow (s : State) (c e : Nat) (ws : List Word) : State :=
  s.modCtx c (fun x => { x with
    escrow := mset x.escrow e ws, escrowOk := if x.escrowOk.contains e then x.escrowOk else e :: x.escrowOk
    drained := x.drained.filter (fun y => y != e) })

/-- `.REVOKE`, at once. -/
def revokeEscrow (s : State) (c e : Nat) : State := s.modCtx c (fun x => { x with escrowOk := x.escrowOk.filter (fun y => y != e) })

/-- `.DRAIN`: no new launch is admitted under the entry. -/
def drainEscrow (s : State) (c e : Nat) : State :=
  s.modCtx c (fun x => { x with drained := if x.drained.contains e then x.drained else e :: x.drained })

/-- The windows of the context that overlap an entry's range are made invalid (R297). -/
def dropWindows (s : State) (c e : Nat) : State :=
  let w := mget [] (s.ctx c).escrow e
  let lo := ((w.getD 0 0).extractLsb' 0 28).toNat
  let hi := lo + ((w.getD 1 0).extractLsb' 0 28).toNat
  let cut (ws : List Word) : List Word :=
    let v := ((ws.getD 0 0).extractLsb' 0 28).toNat
    if v < hi ∧ lo < v + ((ws.getD 2 0).extractLsb' 0 28).toNat then ws.take 3 ++ [ws.getD 3 0 &&& 0x7FFF_FFFF#32] else ws
  (homesOf s c).foldl (fun a t => (List.range 8).foldl (fun b k =>
    b.modSport (8 * t + k) (fun p => { p with win := p.win.map (fun q => (q.1, cut q.2)) })) a) s

/-- The accesses of a context that have been translated and not yet performed. -/
def translated (s : State) (c : Nat) : List Nat := (s.reqs.filter (fun r => r.2.ctx == c)).map (fun r => r.1)

/-- The effect of an ESCROW request at its action cycle (R239). -/
def escrowAct (s : State) (id : Nat) (r : HelmReq) : State :=
  let c := bitsOf r.a.toNat 10 8
  let e := r.a.toNat % 256
  if !(s.ctx c).live then (s.dropHelm id).raise (dieOfTile r.tile) 0x1C3 (.nobody 8 r.tile) s.mcnt 0x18
  else match r.kind with
    | 1 => creditRequest (grantEscrow s c e ((List.range 4).map (fun i => lane r.b i))) id r
    | 2 => again (revokeEscrow s c e) id { r with wait := translated s c }
    | _ => if (s.ctx c).escrowOk.contains e then again (drainEscrow s c e) id { r with wait := translated s c } else creditRequest s id r

/-- HELM_REQUEST_CREDIT: an ESCROW request acts (b = 0), and credits once no launch admitted under the entry runs, for `.DRAIN` once the
last has retired, and what they have asked of the memory has been performed (b = 1; R239, R260). -/
def execHelmRequestCredit (s : State) : Host.Outcome State Fault Refusal :=
  let id := s.arg.a
  .next (match mfind s.helm id with
    | none => s
    | some r =>
      let c := bitsOf r.a.toNat 10 8
      let e := r.a.toNat % 256
      if s.arg.b = 0 then actOn s id r (fun s0 => escrowAct s0 id r)
      else if underEscrow s c e (r.kind != 2) then again s id { r with wait := translated s c }
      else if r.wait.any (fun k => (mfind s.reqs k).isSome) then again s id r
      else creditRequest (dropWindows s c e) id r)

/-! ## GENUP (R240, R298) -/

/-- The number reaches the dies of the context. -/
def raiseGen (s : State) (c : Nat) (g : Word) : State :=
  (diesOf s c).foldl (fun a d => a.modDie d (fun x => { x with gens := mset x.gens c g })) (s.modCtx c (fun x => { x with gen := g }))

/-- GENUP_ARRIVAL: the raise arrives (b = 0); it credits once every access translated before has been performed (b = 1). -/
def execGenupArrival (s : State) : Host.Outcome State Fault Refusal :=
  let id := s.arg.a
  .next (match mfind s.helm id with
    | none => s
    | some r =>
      let c := r.a.toNat % 8
      if s.arg.b = 0 then actOn s id r (fun s0 =>
        if (lane r.b 0).toNat ≤ (s0.ctx c).gen.toNat then creditRequest s0 id r
        else again (raiseGen s0 c (lane r.b 0)) id { r with wait := translated s0 c })
      else if r.wait.any (fun k => (mfind s.reqs k).isSome) then again s id r
      else creditRequest s id r)

/-! ## REMAP (R241, R277) -/

/-- The logical tile of a REMAP, none beyond position 11. -/
def remapTarget (a : Word) : Option (BitVec 10) :=
  let x := bitsOf a.toNat 3 0
  let y := bitsOf a.toNat 7 4
  if x ≤ 11 ∧ y ≤ 11 then some (BitVec.ofNat 10 (256 * bitsOf a.toNat 9 8 + 16 * y + x)) else none

/-- A remap entry may be written: its tile is not another context's, not a Helm tile, not fused off and not failed (R241, R330), and its
configuration port is SEALED (R397). -/
def remapOk (s : State) (c : Nat) (l : BitVec 10) (w : Word) : Bool :=
  !w.getLsbD 31 || (decide ((w.extractLsb' 16 4).toNat ≤ 11) && decide ((w.extractLsb' 20 4).toNat ≤ 11)
    && (match remapTile s c l w with
      | some t => !isHelmTile t && !Config.fusedOff t && !(s.tile t).failed && (s.cport t).st == .sealed
          && !ownedBeside s c t
      | none => false))

/-- No block of the context runs on a logical tile, also while it waits for its quantum (R241). A FROZEN slot does not run (DESIGN CHOICE,
log 170). -/
def tileIdle (s : State) (c : Nat) (l : BitVec 10) : Bool :=
  match (placedAt s c l).map (fun t => s.standing (homeOf t l)) with
  | some t => (s.tile t).ltid != l || (List.range 64).all (fun k => let st := (s.slot (64 * t + k)).st; st == .unbound || st == .bound || st == .frozen)
  | none => true

/-- Copies each scratchpad object whose home, or whose replica's place, is logical tile l from a failed tile to the same place on its spare; an object
that holds a poisoned word is made invalid (R330). -/
def copyPads (s : State) (c : Nat) (l : BitVec 10) (old new : Nat) : State :=
  (List.range (s.ctx c).otlen).foldl (fun a i =>
    let r := objRec (objWords a ((dieOfVirtual a c 0).getD 0) c i)
    let (home, me, off) := padHome r
    let n := r.len + (if r.dbuf then r.hoff else 0)
    let src := padAddr (8 * old + me) off
    if !(r.valid && r.kind == 0 && (home == l || (s.tile old).twinOf == some home)) then a
    else if isPoisoned a.poison src n then
      (diesOf a c).foldl (fun b d => b.write32 (objEntryPa b d c i) (b.read32 (objEntryPa b d c i) &&& 0x7FFF_FFFF#32)) a
    else { a with mem := writeBytes a.mem (padAddr (8 * new + me) off) (readBytes a.mem src n) }) s

/-- A remap entry takes effect: no state moves; the named tile becomes the logical tile's, and the old one keeps its state
but is the context's no more; for a failed tile the fault handler copies its scratchpad objects (R241, R330, R397). Reserved bits of the
entry stay 0 (R277). -/
def applyRemap (s : State) (c : Nat) (l : BitVec 10) (w : Word) : State :=
  let old := placedAt s c l
  let s1 := { s with remap := mset s.remap (remapKey c l) (w &&& 0xFEFF_3FFF#32) }
  let s2 := match old with
    | some t => if (entriesOn s1 c t).isEmpty then s1.modTile t (fun x => { x with ctx := none }) else s1
    | none => s1
  let s3 := match placedAt s2 c l with
    | some t =>
      if old = some t then s2
      else
        let load := match (s2.tile t).load with
          | some n => some n
          | none => loadHeld s c l
        let s3 := (s2.modTile t (fun x => { x with ctx := some c, ltid := l, load := load })).modPort t (fun p => { p with st := .placed })
        let s4 := match old with
          | some o => if (s.tile o).failed then copyPads (sealTile s3 t true) c l o t else sealTile s3 t true
          | none => sealTile s3 t true
        if (placeIx s4 t 0).isSome ∧ (mfind s4.rots t).isNone then startRotation s4 t else s4
    | none => s2
  buildCircuits s3 c

/-- A remap entry takes effect and credits; one that its tile may not take any more, as another context has come to own it, has none and
its record (R2, R241). -/
def takeRemap (s : State) (c : Nat) (l : BitVec 10) (id : Nat) (r : HelmReq) : State :=
  if remapOk s c l (lane r.b 0) then creditRequest (applyRemap s c l (lane r.b 0)) id r
  else (s.dropHelm id).raise (dieOfTile r.tile) 0x005 (.nobody (if (s.ctx c).live then c else 15) r.tile) s.mcnt (r.a.toNat % 8192)

/-- The pending remaps of a context at level T, in order of arrival, take effect and credit (R241, R276). -/
def applyPending (s : State) (c : Nat) : State :=
  (s.helm.filter (fun r => r.2.kind == 5 && r.2.acted && bitsOf r.2.a.toNat 12 10 == c)).foldl (fun a r =>
    match remapTarget r.2.a with
    | some l => takeRemap a c l r.1 r.2
    | none => a) s

/-- REMAP_APPLY: the entry is checked (b = 0); at level T it waits for the next waypoint, else for the first cycle in which
no block runs on the logical tile (b = 1). -/
def execRemapApply (s : State) : Host.Outcome State Fault Refusal :=
  let id := s.arg.a
  .next (match mfind s.helm id with
    | none => s
    | some r =>
      let c := bitsOf r.a.toNat 12 10
      let w := lane r.b 0
      let tick (s0 : State) (l : BitVec 10) : State :=
        if (s0.ctx c).level = .t then { s0 with helm := mset s0.helm id { r with acted := true } }
        else if tileIdle s0 c l then takeRemap s0 c l id r
        else again s0 id r
      match remapTarget r.a with
      | some l =>
        if s.arg.b = 0 then actOn s id r (fun s0 =>
          if remapOk s0 c l w then tick s0 l
          else (s0.dropHelm id).raise (dieOfTile r.tile) 0x005 (.nobody (if (s0.ctx c).live then c else 15) r.tile) s.mcnt (r.a.toNat % 8192))
        else tick s l
      | none => actOn s id r (fun s0 => (s0.dropHelm id).raise (dieOfTile r.tile) 0x005 (.nobody (if (s0.ctx c).live then c else 15) r.tile) s.mcnt (r.a.toNat % 8192)))

/-! ## The escrow packet (R297, R305) -/

/-- A page of the range has a valid leaf: in the radix table of the kind 3 object that holds it (R292, R297). -/
def pageHeld (s : State) (c va : Nat) : Bool :=
  let d := (dieOfVirtual s c 0).getD 0
  (List.range (s.ctx c).otlen).any (fun i =>
    let r := objRec (objWords s d c i)
    r.valid && r.kind == 3 && decide (r.vbase ≤ va) && decide (va < r.vbase + r.len)
      && (match (radixWalk s c va radixBits (r.loc.extractLsb' 0 40).toNat).2 with
        | .page _ _ _ _ _ => true
        | .trap _ => false))

/-- ESCROW_DECLARATION_PACKET: the scheduler grants the entry once every page of the range is resident, or revokes it and
waits for the launches under it; it asks as its own request would, 256 cycles on (b = 1). -/
def execEscrowDeclarationPacket (s : State) : Host.Outcome State Fault Refusal :=
  let g := s.arg
  let c := g.a
  let w (i : Nat) : Word := lane g.v i
  let e := (w 1).toNat % 256
  let wait (s0 : State) (k d : Nat) : State := s0.planEv (s.mcnt + d) rkHold .escrowDeclarationPacket { g with b := k, i := (translated s c).map Int.ofNat }
  .next (if !(s.ctx c).live then s
    else match g.b with
    | 0 => wait s 1 256
    | 1 =>
      if (w 1).getLsbD 8 then wait (revokeEscrow s c e) 2 1
      else if (List.range ((w 3).extractLsb' 0 28).toNat).all (fun i => pageHeld s c (4096 * (((w 2).extractLsb' 0 28).toNat + i))) then
        completePacket (grantEscrow s c e [w 2, w 3, w 4, w 5]) c (w 0) 0 0 0 0
      else wait s 1 1
    | _ =>
      if underEscrow s c e false then wait s 2 1
      else if g.i.any (fun k => (mfind s.reqs k.toNat).isSome) then s.planEv (s.mcnt + 1) rkHold .escrowDeclarationPacket g
      else completePacket (dropWindows s c e) c (w 0) 0 0 0 0)

end Sys2Proof.Machine
end

