-- ==== Sys2Proof/Machine/Almanac.lean ====
section
/-! DEFINITION. The Almanac and its walkers (R267 to R276, R331, R336): entries from arm to publication, the early comparison
of signatures, waypoints and course changes, the arm, course-change and level packets. The walkers exchange their verdicts
within the 160 cycles of R271, so one event stands for all tiles of an entry. -/

namespace Sys2Proof.Machine

/-! ## Entries (R268) -/

/-- The context, Almanac and index of an entry key. -/
def keyCtx (k : Nat) : Nat := k / 4096 / 256
def keyAlm (k : Nat) : Nat := k / 4096 % 256
def keyIx (k : Nat) : Nat := k % 4096
def entryKey (c a i : Nat) : Nat := 4096 * (256 * c + a) + i

/-- The Almanac of a context by number. -/
def almOf (s : State) (c a : Nat) : Almanac := mget Almanac.reset (s.ctx c).alms a

/-- The tiles of an entry. -/
def entryTiles (s : State) (k : Nat) (e : AlmEntry) : List Nat := e.tiles.filterMap (fun l => placedAt s (keyCtx k) l)

/-- The tile whose walker acts for an entry. -/
def entryTile (s : State) (k : Nat) (e : AlmEntry) : Nat := (entryTiles s k e).headD 0

/-- The numbers under which the logical tiles of an entry stand now, with the other copies of its twins (R278, R331). -/
def entryHomes (s : State) (k : Nat) (e : AlmEntry) : List Nat :=
  (homesOf s (keyCtx k)).filter (fun t =>
    let x := s.tile t
    (e.tiles.contains x.ltid || (match x.twinOf with
      | some l => e.tiles.contains l
      | none => false)) && (t != physTile t || s.runsOn t x.ltid))

/-- The slots of an entry's primary and of its dead-reckoning block (R269, R280). -/
def primarySlots (s : State) (k : Nat) (e : AlmEntry) : List Nat := blockSlots s (entryHomes s k e) e.load (entBlk e)
def drbSlots (s : State) (k : Nat) (e : AlmEntry) : List Nat := if hasDrb e then blockSlots s (entryHomes s k e) e.load (entDrb e) else []

def State.setWalker (s : State) (k : Nat) (w : Walker) : State := { s with walkers := mset s.walkers k w }
def State.dropWalker (s : State) (k : Nat) : State := { s with walkers := mdel s.walkers k }

/-- Plans an event of an entry. -/
def planEntry (s : State) (cycle rank : Nat) (i : Instr) (k frame : Nat) (e : AlmEntry) : State :=
  s.planEv cycle rank i (Arg.of (entryTile s k e) k frame 0 0)

/-- Plans the arming of the entries of an Almanac for the frame that begins at tick f (R268, R272). -/
def planFrame (s : State) (c a f : Nat) (which : AlmEntry → Bool) : State :=
  (almOf s c a).entries.foldl (fun x p =>
    if entValid p.2 ∧ which p.2 then planEntry x (2900 * (f + entStart p.2 - 1)) rkHold .walkerArm (entryKey c a p.1) f p.2 else x) s

/-! ## Arming and starting (R272) -/

/-- A frame of an Almanac begins at tick f: it is active, or is to become so then (R268, R275). -/
def frameDue (s : State) (c a f : Nat) : Bool :=
  let x := s.ctx c
  (x.live && x.level == .t) && ((x.active == some a && decide (x.base ≤ f) && (f - x.base) % (almOf s c a).frame == 0)
    || x.armReq.contains (a, f) || x.decided == some a)

/-- A slot can be armed for an entry: it is BOUND, or armed for an entry of another Almanac, which will not start. -/
def armable (s : State) (k n : Nat) : Bool :=
  (s.slot n).st == .bound || ((s.slot n).st == .armed && (match (s.slot n).entry with
    | some j => j / 4096 != k / 4096
    | none => false))

/-- Arms the slots of a block that can be armed. -/
def armBlock (s : State) (k b : Nat) (ns : List Nat) : State :=
  ns.foldl (fun a n => if armable a k n then armSlot a n b none [] none (some k) else a) s

/-- An entry meets the uncorrectable words of its record and of its tiles' remap entries (R326). -/
def meetBad (s : State) (k : Nat) (e : AlmEntry) : State :=
  (entryTiles s k e).foldl (fun a t =>
    match (a.tile t).badCfg.find? (fun m => m == (.record, keyIx k) || m == (.remap, (a.tile t).ltid.toNat)) with
    | some u => a.failLoad t u.1 u.2
    | none => a) s

/-- WALKER_ARM: at tick START − 1 the slots of the primary and of the dead-reckoning block are armed, and the entry's later
events and its next frame are planned. An entry that is not IDLE then is armed at S, once its last frame has ended (DEDUCED, log 93); one
that is not IDLE at S either skips the frame (R268, R272). -/
def execWalkerArm (s : State) : Host.Outcome State Fault Refusal :=
  let k := s.arg.b
  let f := s.arg.c
  let c := keyCtx k
  .next (match almEntry s k with
    | none => s
    | some e =>
      let again (s0 : State) : State :=
        planEntry s0 (2900 * (f + (almOf s c (keyAlm k)).frame + entStart e - 1)) rkHold .walkerArm k (f + (almOf s c (keyAlm k)).frame) e
      let start := 2900 * (f + entStart e)
      if !frameDue s c (keyAlm k) f then s
      else if (mfind s.walkers k).isSome then (if s.mcnt < start then planEntry s start rkStart .walkerArm k f e else again s)
      else
        let pr := primarySlots s k e
        let dr := drbSlots s k e
        let all (ns : List Nat) : Bool := ns.all (armable s k)
        let s := meetBad s k e
        let ok := (all pr && (entryHomes s k e).all (fun t => !(s.tile t).loadBad && (s.tile t).load == some e.load)) || entAudit e || entReconf e
        let d := 2900 * (f + entDln e)
        let w : Walker := { st := if ok then .armed else .failed, s := start, d := d, p := d + 2900 * entRsv e
                            drbOk := all dr, seen := 0, bad := 0 }
        let s1 := (armBlock (if entAudit e || entReconf e then s else armBlock s k (entBlk e) pr) k (entDrb e) dr).setWalker k w
        let s2 := planEntry (planEntry s1 w.s rkHold .entryStart k f e) w.d rkStart .entryDeadline k f e
        let s3 := if entAudit e || entReconf e then s2 else planEntry s2 (w.d - 160) rkStart .primarySample k f e
        let s4 := if hasDrb e then planEntry (planEntry s3 (w.p - 160) rkStart .drbSample k f e) w.p rkStart .entryPublication k f e else s3
        again s4)

/-- The AGRP registers of an entry's tiles are cleared and disarmed (R236, R272). -/
def clearGroups (s : State) (k : Nat) (e : AlmEntry) : State :=
  (entryHomes s k e).foldl (fun a t => (List.range 8).foldl (fun b g =>
    if (entAgrp e).getLsbD g then b.setAssay t g Assay.reset else b) a) s

/-- The tiles of a context, sub-channels where it owns graph slots, links between its dies, dies or port die on which an
audit runs (R336). -/
def auditTargets (s : State) (c no : Nat) : List Nat :=
  match auditClass no with
  | 0 => tilesOf s c
  | 1 => diesOf s c
  | 2 => (List.range 64).filter (fun tl => !(slotsOf (s.tel tl) (1, c)).isEmpty)
  | 3 => (List.range 6).filter (fun l => (diesOf s c).contains (linkEnds l).1 && (diesOf s c).contains (linkEnds l).2)
  | _ => [0]

/-- ENTRY_START: at S the groups that the entry names are cleared and the primary's slots start; an entry that is FAILED returns its
slots; a RECONF entry has its tiles reconfigured, an AUDIT entry runs its audit (R236, R269, R272, R336). -/
def execEntryStart (s0 : State) : Host.Outcome State Fault Refusal :=
  let k := s0.arg.b
  let c := keyCtx k
  .next (match almEntry s0 k, mfind s0.walkers k with
    | some e, some w =>
      let s := clearGroups s0 k e
      if (s0.ctx c).active ≠ some (keyAlm k) ∨ w.s ≠ s0.mcnt then s0
      else if w.st = .failed then (primarySlots s k e).foldl (fun a n => if (a.slot n).entry = some k then disarm a n else a) s
      else if entAudit e then
        ((auditTargets s c (entBlk e)).foldl (fun a t => a.planEv s.mcnt rkEngine .auditRun (Arg.of (entBlk e) t c 1 0)) s).setWalker k { w with st := .run }
      else if entReconf e then
        (e.tiles.foldl (fun a l => planReconf (a.modCtx c (fun x => { x with toLoad := l :: x.toLoad })) c (entBlk e) l) s).setWalker k { w with st := .run }
      else
        (primarySlots s k e).foldl (fun a n => if (a.slot n).entry = some k then startSlot a n w.s else a) (s.setWalker k { w with st := .run })
    | _, _ => s0)

/-! ## Signatures (R236, R237, R331) -/

/-- The pairs of tiles of the two copies of a twin entry. -/
def twinPairs (s : State) (k : Nat) (e : AlmEntry) : List (Nat × Nat) :=
  (entryHomes s k e).filterMap (fun t =>
    if (s.tile t).twinOf.isSome then none
    else ((entryHomes s k e).find? (fun u => (s.tile u).twinOf == some (s.tile t).ltid)).map (fun u => (t, u)))

/-- Group g differs between the two copies of some tile: the registers, or whether they are armed. -/
def groupDiffers (s : State) (k : Nat) (e : AlmEntry) (g : Nat) : Bool :=
  (twinPairs s k e).any (fun p => (s.assay p.1 g).sig != (s.assay p.2 g).sig || (s.assay p.1 g).armed != (s.assay p.2 g).armed)

/-- Compares groups of an entry that have not been compared; a mismatch writes its record (R237). -/
def compareGroups (s : State) (k : Nat) (e : AlmEntry) (w : Walker) (groups : BitVec 8) : State × Walker :=
  let todo := groups &&& entAgrp e &&& ~~~w.seen
  let bad := BitVec.ofNat 8 ((List.range 8).foldl (fun a g => if todo.getLsbD g && groupDiffers s k e g then a + 2 ^ g else a) 0)
  let w1 := { w with seen := w.seen ||| todo, bad := w.bad ||| bad }
  if !entTwin e ∨ bad = 0 then (s, w1)
  else (s.raise (dieOfTile (entryTile s k e)) 0x100 (.nobody (keyCtx k) (entryTile s k e)) s.mcnt (keyIx k + 4096 * bad.toNat), w1)

/-- Entries of twins that run and compare a group of a tile. -/
def twinEntries (s : State) (t g : Nat) : List (Nat × Walker × AlmEntry) :=
  s.walkers.filterMap (fun p => match almEntry s p.1 with
    | some e => if (p.2.st == .run || p.2.st == .reserve) && entTwin e && (entAgrp e).getLsbD g && (entryHomes s p.1 e).contains t then some (p.1, p.2, e) else none
    | none => none)

/-- ASSAY_EARLY_COMPARE: SIGN folds (c = 0), CLR clears (1), ARM arms (2) at the end of issue + 2; once every tile of both
copies has armed the group the registers cross, and 80 cycles later they are compared (3) (R236, R237). -/
def execAssayEarlyCompare (s : State) : Host.Outcome State Fault Refusal :=
  let t := s.arg.a
  let g := s.arg.b
  let a := s.assay t g
  .next (match s.arg.c with
    | 0 => if a.armed then s else s.setAssay t g { a with sig := foldVec a.sig s.arg.v }
    | 1 => s.setAssay t g Assay.reset
    | 2 =>
      let s1 := s.setAssay t g { a with armed := true }
      (twinEntries s1 t g).foldl (fun b x =>
        let ps := twinPairs s1 x.1 x.2.2
        if !ps.isEmpty ∧ ps.all (fun p => (s1.assay p.1 g).armed && (s1.assay p.2 g).armed) then
          b.planEv (s.mcnt + 80) rkComplete .assayEarlyCompare (Arg.of t g 3 x.1 0)
        else b) s1
    | _ =>
      match almEntry s s.arg.d, mfind s.walkers s.arg.d with
      | some e, some w =>
        let (s1, w1) := compareGroups s s.arg.d e w (BitVec.ofNat 8 (2 ^ g))
        s1.setWalker s.arg.d w1
      | _, _ => s)

/-! ## On time or late (R271, R272) -/

/-- The slots that stand armed for an entry or run for it: a slot that has retired may be armed for a later one (R270). -/
def ownSlots (s : State) (k : Nat) (ns : List Nat) : List Nat := ns.filter (fun n => (s.slot n).entry == some k)

/-- A block is on time: its slots have retired by DONE, none of its masters is frozen, none of its tables is armed (R271), and
none of its tiles' loads has failed (R327; DEDUCED, log 174). A slot that was discarded has not retired (R230). -/
def blockOnTime (s : State) (k : Nat) (ns : List Nat) : Bool :=
  let ts := (ns.map tileOfSlot).eraseDups
  (ownSlots s k ns).all (fun n => (s.slot n).st == .bound && (s.slot n).ended) && ts.all (fun t => !(s.tile t).loadBad)
    && ts.all (fun t => !((s.mnode t).counter.isSome && ns.contains (s.mnode t).owner) && !((s.mnode t).frozen && blames (s.mnode t).blame ns)
      && !((s.lnode t).frozen && blames (s.lnode t).blame ns)
      && (List.range 16).all (fun ch => !((s.chan (physTile t) ch).frozen && blames (s.chan (physTile t) ch).blame ns)))

/-- Freezes every master of a block that has not retired, and discards its unbegun commands (R272). -/
def freezeBlock (s : State) (ns : List Nat) : State :=
  let mine (n : Nat) : Bool := ns.contains n
  let s1 := ns.foldl (fun a n => if (a.slot n).st = .armed then disarm a n else a.freezeSlot n s.mcnt) s
  ((ns.map tileOfSlot).eraseDups).foldl (fun a t =>
    let x := a.mnode t
    let uses := (nodeUsers x).any mine
    let a1 := if uses then (regionOf a t).foldl freezeNode a else a
    let y := a1.lnode t
    let a2 := if (y.queue ++ y.run.toList).any (fun c => mine c.slot) then freezeLode a1 t else a1
    (List.range 16).foldl (fun b ch =>
      if b.copies.any (fun c => c.2.tile == physTile t && c.2.chan == ch && mine c.2.slot) then freezeChan b (physTile t) ch 0x084 else b) a2) s1

/-- A walker's sample of a block: its verdict, with the comparison of the groups not yet compared; a block that is late is
frozen (R271, R237). -/
def sampleBlock (s : State) (k : Nat) (e : AlmEntry) (w : Walker) (ns : List Nat) : State × Walker × Bool :=
  let (s1, w1) := compareGroups s k e w 0xFF
  let ok := blockOnTime s k ns && (w1.bad == 0 || !entTwin e)
  (if ok then s1 else freezeBlock s1 (ownSlots s k ns), w1, ok)

/-- PRIMARY_SAMPLE at D − 160. -/
def execPrimarySample (s : State) : Host.Outcome State Fault Refusal :=
  let k := s.arg.b
  .next (match almEntry s k, mfind s.walkers k with
    | some e, some w =>
      if w.st ≠ .run ∨ w.d ≠ s.mcnt + 160 then s
      else
        let (s1, w1, ok) := sampleBlock s k e w (primarySlots s k e)
        s1.setWalker k { w1 with st := if ok then .onTime else .late }
    | _, _ => s)

/-- The flat addresses at which an object begins: in a scratchpad or Vault with those of its replicas (R290, R331). -/
def objBases (s : State) (c o : Nat) (r : ObjRec) : List Nat :=
  match r.kind with
  | 0 =>
    let (home, me, off) := padHome r
    ((homesOf s c).filter (fun t => (s.tile t).ltid == home || (s.tile t).twinOf == some home)).map (fun t => padAddr (8 * physTile t + me) off)
  | 1 => ((List.range 4).filterMap (fun d => (replicaDie s (tileAt d 0 0) c o r).or (dieOfVirtual s c (r.loc.extractLsb' 0 2).toNat))).eraseDups.map
      (fun d => vaultAddr d ((partition s d c).2.1 + (r.loc.extractLsb' 32 25).toNat))
  | 2 => [(r.loc.extractLsb' 0 40).toNat]
  | 4 => [(r.loc.extractLsb' 0 6).toNat * 2 ^ 32 + (r.loc.extractLsb' 32 17).toNat * 32768]
  | _ => []

/-- An address in one half of a double-buffered object has its like in the other half (R274). -/
def otherHalf (bases : List Nat) (r : ObjRec) (pa : Nat) : Nat :=
  match bases.find? (fun b => decide (b ≤ pa) && decide (pa < b + r.hoff + r.len)) with
  | some b => if pa < b + r.len then pa + r.hoff else if b + r.hoff ≤ pa then pa - r.hoff else pa
  | none => pa

/-- What slots and ports of a context have issued and is not performed at publication reaches the new half (R274). -/
def turnAccesses (s : State) (c o : Nat) : State :=
  let r := objRec (objWords s ((dieOfVirtual s c 0).getD 0) c o)
  let f := otherHalf (objBases s c o r) r
  let parts (l : List WToken) : List WToken := l.map (fun w => { w with parts := w.parts.map (fun p => { p with pa := f p.pa }) })
  if !(r.valid && r.dbuf) then s
  else { s with
    accs := s.accs.map (fun a => if s.ctxOfTile (tileOfSlot a.2.slot) = c then (a.1, { a.2 with addr := f a.2.addr }) else a)
    reqs := s.reqs.map (fun q => if q.2.ctx = c then (q.1, { q.2 with parts := q.2.parts.map (fun p => { p with pa := f p.pa }) }) else q)
    sports := s.sports.map (fun q =>
      if s.ctxOfTile (q.1 / 8) = c then (q.1, { q.2 with accepted := parts q.2.accepted, merge := parts q.2.merge }) else q) }

/-- Publication of a commit set: SEL of every object flips in every die's copy of the table and in the object caches, and what is performed
from then on reaches the new halves; the writes of the block are released (R249, R274). -/
def publish (s : State) (k : Nat) (ns : List Nat) : State :=
  let c := keyCtx k
  let flip (w : Word) : Word := w ^^^ 0x0100_0000#32
  let s0 := ns.foldl (fun a n => flushMerged a n) s
  (csetOf s k).foldl (fun a o =>
    let a1 := (diesOf a c).foldl (fun b d => b.write32 (objEntryPa b d c o) (flip (b.read32 (objEntryPa b d c o)))) a
    turnAccesses { a1 with tiles := a1.tiles.map (fun t => (t.1, { t.2 with ocache := t.2.ocache.map (fun x =>
        if x.ctx = c ∧ x.obj = o then { x with words := flip (x.words.getD 0 0) :: x.words.drop 1 } else x) })) } c o) s0

/-- Discards what a late block left: its slots go back to BOUND and its engines are released (R272). -/
def discardBlock (s : State) (ns : List Nat) : State := ns.foldl killSlot (releaseEngines s ns)

/-- ENTRY_DEADLINE at D: the primary is published, or discarded and the dead-reckoning block starts (R272). -/
def execEntryDeadline (s : State) : Host.Outcome State Fault Refusal :=
  let k := s.arg.b
  .next (match almEntry s k, mfind s.walkers k with
    | some e, some w =>
      if w.d ≠ s.mcnt then s
      else if w.st = .onTime then
        ((ownSlots s k (drbSlots s k e)).foldl disarm (publish s k (primarySlots s k e))).dropWalker k
      else if w.st = .late ∨ w.st = .failed then
        let s1 := (discardBlock s (ownSlots s k (primarySlots s k e))).raise (dieOfTile (entryTile s k e)) 0x084 (.nobody (keyCtx k) (entryTile s k e)) s.mcnt (keyIx k)
        if !hasDrb e then s1.dropWalker k
        else if w.drbOk then
          let w1 := { w with st := .reserve, seen := 0, bad := 0 }
          (drbSlots s k e).foldl (fun a n => startSlot a n w.d) ((clearGroups s1 k e).setWalker k w1)
        else ((drbSlots s k e).foldl (fun a n => if (a.slot n).entry = some k then disarm a n else a) s1).setWalker k { w with st := .rLate }
      else s.dropWalker k
    | _, _ => s)

/-- DRB_SAMPLE at P − 160. -/
def execDrbSample (s : State) : Host.Outcome State Fault Refusal :=
  let k := s.arg.b
  .next (match almEntry s k, mfind s.walkers k with
    | some e, some w =>
      if w.st ≠ .reserve ∨ w.p ≠ s.mcnt + 160 then s
      else
        let (s1, w1, ok) := sampleBlock s k e w (drbSlots s k e)
        if ok then s1.setWalker k { w1 with st := .rOnTime }
        else (s1.raise (dieOfTile (entryTile s k e)) 0x085 (.nobody (keyCtx k) (entryTile s k e)) s.mcnt (keyIx k)).setWalker k { w1 with st := .rLate }
    | _, _ => s)

/-- ENTRY_PUBLICATION at P: the dead-reckoning block's outputs are published, or it is discarded; one that could not be
armed has its record now (R272). -/
def execEntryPublication (s : State) : Host.Outcome State Fault Refusal :=
  let k := s.arg.b
  .next (match almEntry s k, mfind s.walkers k with
    | some e, some w =>
      if w.p ≠ s.mcnt then s
      else if w.st = .rOnTime then (publish s k (drbSlots s k e)).dropWalker k
      else if w.st = .rLate then
        let s1 := (discardBlock s (ownSlots s k (drbSlots s k e))).dropWalker k
        if w.drbOk then s1 else s1.raise (dieOfTile (entryTile s k e)) 0x085 (.nobody (keyCtx k) (entryTile s k e)) s.mcnt (keyIx k)
      else s
    | _, _ => s)

/-! ## Waypoints and course changes (R275, R276) -/

/-- The first waypoint tick of an Almanac that began at tick `base`, from tick t on. -/
def nextWaypoint (al : Almanac) (base t : Nat) : Option Nat :=
  (al.waypoints.map (fun p => t + (p + al.frame - (t - base) % al.frame) % al.frame)).foldl (fun m w =>
    match m with
    | some x => some (min x w)
    | none => some w) none

/-- Plans the decision of the next waypoint of the active Almanac from tick t on. -/
def planWaypoint (s : State) (c t : Nat) : State :=
  match (s.ctx c).active with
  | some a =>
    match nextWaypoint (almOf s c a) (s.ctx c).base t with
    | some w => s.planN (2900 * w - 1450) rkStart .waypointDecision c w
    | none => s
  | none => s

/-- The COURSE request that wins: the latest issue cycle, then the highest key (R233). -/
def lastCourse : List Course → Option Course
  | [] => none
  | x :: r =>
    match lastCourse r with
    | none => some x
    | some y => if y.at_ < x.at_ ∨ (y.at_ = x.at_ ∧ y.key < x.key) then some x else some y

/-- The waypoint is one of the Almanac that is active now. -/
def waypointHeld (s : State) (c w : Nat) : Bool :=
  match (s.ctx c).active with
  | some a => decide ((s.ctx c).base ≤ w) && (almOf s c a).waypoints.contains ((w - (s.ctx c).base) % (almOf s c a).frame)
  | none => false

/-- WAYPOINT_DECISION of waypoint tick b: a host packet accepted before overrides every COURSE; the new Almanac's entries
with START = 0 are armed (R233, R275). -/
def execWaypointDecision (s : State) : Host.Outcome State Fault Refusal :=
  let c := s.arg.a
  let w := s.arg.b
  .next (if !waypointHeld s c w then s
    else
      let x := s.ctx c
      let reqs := x.courses.filter (fun r => decide (r.at_ + 2900 ≤ 2900 * w))
      let pick := match x.hostCourse.getLast? with
        | some h => some h.1
        | none => (lastCourse reqs).map (fun r => r.alm)
      let chosen := match pick with
        | some a => if (mfind x.alms a).isSome ∧ x.active ≠ some a ∧ !(alive s schedTiles).isEmpty then some a else none
        | none => none
      let s1 := s.modCtx c (fun y => { y with
        courses := y.courses.filter (fun r => decide (2900 * w < r.at_ + 2900)), hostCourse := [], decided := chosen })
      let s2 := x.hostCourse.foldl (fun a h => completePacket a c h.2.1 0 0 0 0) s1
      let s3 := match chosen with
        | some a => (almOf s2 c a).entries.foldl (fun b (p : Nat × AlmEntry) =>
            if entValid p.2 ∧ entStart p.2 = 0 then planEntry b s.mcnt rkHold .walkerArm (entryKey c a p.1) w p.2 else b) s2
        | none => s2
      s3.planN (2900 * w) rkStart .courseChangeApply c w)

/-- The entries of an Almanac that are armed for tick w do not start: their slots go back to BOUND (R275). -/
def cancelArmed (s : State) (c a w : Nat) : State :=
  s.walkers.foldl (fun b p =>
    if keyCtx p.1 = c ∧ keyAlm p.1 = a ∧ p.2.s = 2900 * w ∧ (p.2.st = .armed ∨ p.2.st = .failed) then
      match almEntry s p.1 with
      | some e => ((primarySlots s p.1 e ++ drbSlots s p.1 e).foldl (fun d n =>
          if (d.slot n).entry = some p.1 then disarm d n else d) b).dropWalker p.1
      | none => b.dropWalker p.1
    else b) s

/-- The Almanac is disarmed for a change out of level T, with one that was to become active at the waypoint (R267). -/
def leaveTimed (s : State) (c w : Nat) (l : Level) : State :=
  let s1 := ((s.ctx c).active.toList ++ (s.ctx c).decided.toList).foldl (fun x a => cancelArmed x c a w) s
  completeBarrier (watchAudits (s1.modCtx c (fun x => { x with active := none, level := l, newLevel := none, courses := [], decided := none })) c) c 0 0

/-- COURSE_CHANGE_APPLY at waypoint tick b: pending remaps and a level change take effect, and the chosen Almanac becomes
active (R241, R267, R275, R276). -/
def execCourseChangeApply (s : State) : Host.Outcome State Fault Refusal :=
  let c := s.arg.a
  let w := s.arg.b
  .next (if !waypointHeld s c w then s
    else
      let s1 := applyPending s c
      let x := s1.ctx c
      match x.newLevel, x.decided, x.active with
      | some l, _, _ => leaveTimed s1 c w l
      | none, some b, some a =>
        let s2 := (cancelArmed s1 c a w).modCtx c (fun y => { y with active := some b, base := w, decided := none })
        planWaypoint (planFrame s2 c b w (fun e => decide (entStart e ≠ 0))) c (w + 1)
      | _, _, _ => planWaypoint (s1.modCtx c (fun y => { y with decided := none })) c (w + 1))

/-! ## Packets (R267, R305) -/

/-- ARM_ALMANAC_PACKET: read (b = 0), and at its start tick A frame 0 begins (b = 1) (R268, R305). -/
def execArmAlmanacPacket (s : State) : Host.Outcome State Fault Refusal :=
  let c := s.arg.a
  let w (i : Nat) : Word := lane s.arg.v i
  let a := (w 1).toNat % 256
  let t := (w 2).toNat + 2 ^ 32 * (w 3).toNat
  let x := s.ctx c
  .next (if s.arg.b = 1 then
      if x.armReq.contains (a, t) then
        let s1 := s.modCtx c (fun y => { y with active := some a, base := t, armReq := y.armReq.filter (fun r => r != (a, t)) })
        planWaypoint (completePacket (watchAudits s1 c) c (w 0) 0 0 0 0) c (t + 1)
      else s
    else if x.level ≠ .t ∨ (mfind x.alms a).isNone then completePacket s c (w 0) 0 0 7 0
    else if t < s.mcnt / 2900 + 2 then completePacket s c (w 0) 0 0 8 0
    else
      (planFrame (s.modCtx c (fun y => { y with armReq := y.armReq ++ [(a, t)] })) c a t (fun _ => true)).planEv (2900 * t) rkStart .armAlmanacPacket
        { s.arg with b := 1 })

/-- COURSE_CHANGE_PACKET (R275, R305). -/
def execCourseChangePacket (s : State) : Host.Outcome State Fault Refusal :=
  let c := s.arg.a
  let w (i : Nat) : Word := lane s.arg.v i
  let a := (w 1).toNat % 256
  let x := s.ctx c
  .next (match x.active with
    | some b =>
      if x.level ≠ .t ∨ (almOf s c b).waypoints.isEmpty ∨ (mfind x.alms a).isNone then completePacket s c (w 0) 0 0 7 0
      else s.modCtx c (fun y => { y with hostCourse := y.hostCourse ++ [(a, w 0, s.mcnt)] })
    | none => completePacket s c (w 0) 0 0 7 0)

/-- The determinism level of a number (R305, R356). -/
def levelOfNo (n : Nat) : Level :=
  match n % 4 with
  | 0 => .t
  | 1 => .d
  | _ => .f

/-- DETERMINISM_LEVEL_PACKET: out of level T at the next waypoint, else at once; a failed check leaves the level, and saved
launches do not survive a change into level T (R267, R320). -/
def execDeterminismLevelPacket (s : State) : Host.Outcome State Fault Refusal :=
  let c := s.arg.a
  let l := levelOfNo (lane s.arg.v 1).toNat
  let x := s.ctx c
  .next (if (levelReport s c l).isSome then
      completeBarrier ((s.modCtx c (fun y => { y with report := levelReport s c l })).raise 0 0x1C4 (.nobody c (tileAt 0 1 0)) s.mcnt c) c 7 0x1C4
    else if x.level = .t ∧ l ≠ .t ∧ x.active.isSome then s.modCtx c (fun y => { y with newLevel := some l })
    else
      let s0 := (s.helm.filter (fun r => l != Level.t && r.2.kind == 5 && r.2.acted && bitsOf r.2.a.toNat 12 10 == c)).foldl (fun a r =>
        a.planN (s.mcnt + 1) rkHold .remapApply r.1 1) s
      let s1 := completeBarrier (watchAudits (s0.modCtx c (fun y => { y with level := l })) c) c 0 0
      if l = Level.t then (pendingOf s1 c true ++ pendingOf s1 c false).foldl (fun a p => endLaunch a p.1 p.2 p.2.kern 7 0) s1 else s1)

end Sys2Proof.Machine
end

