-- ==== Sys2Proof/Machine/Context.lean ====
section
/-! DEFINITION. Contexts and host functions (R284, R300, R355 to R361): creating and ending a context, function level reset,
partition registers, and the host's accesses to Vault and DRAM. -/

namespace Sys2Proof.Machine

/-! ## Partition registers (R284) -/

def partValid (w : Word) : Bool := w.getLsbD 31
def partLo (w : Word) : Nat := (w.extractLsb' 20 9).toNat
def partHi (w : Word) : Nat := partLo w + (w.extractLsb' 0 10).toNat

/-- A partition word may stand on a die for a context: in range, and clear of every other valid partition. -/
def partOk (s : State) (d c : Nat) (w : Word) : Bool :=
  !partValid w || (decide (partLo w < partHi w) && decide (partHi w ≤ 512)
    && (s.die d).parts.all (fun p => p.1 == c || !partValid p.2 || decide (partHi p.2 ≤ partLo w) || decide (partHi w ≤ partLo p.2)))

/-- Sets a partition register; its reserved bits read zero. -/
def setPart (s : State) (d c : Nat) (w : Word) : State := s.modDie d (fun x => { x with parts := mset x.parts c (w &&& 0x9FF0_03FF#32) })

/-- VAULT_PARTITION_WRITE: die a, context b (8: the Helm region), word c; a write that would overlap is refused with a
record (R284). -/
def execVaultPartitionWrite (s : State) : Host.Outcome State Fault Refusal :=
  let d := s.arg.a
  let w := BitVec.ofNat 32 s.arg.c
  .next (if partOk s d s.arg.b w then setPart s d s.arg.b w else s.raise d 0x1C3 (.nobody (s.arg.b % 16) (tileAt d 0 0)) s.mcnt 0)

/-! ## Ending a context (R313, R320, R356) -/

/-- The owner words of a Teller and of a link lose a context (R200, R344). -/
def dropTellerOwner (c : Nat) (m : Map Word) : Map Word :=
  m.map (fun p => if (p.2.extractLsb' 14 2).toNat = 1 ∧ (p.2.extractLsb' 11 3).toNat = c then (p.1, 0) else p)
def dropLinkOwner (c : Nat) (m : Map Word) : Map Word :=
  m.map (fun p => if ((p.2.extractLsb' 30 2).toNat = 1 ∨ (p.2.extractLsb' 30 2).toNat = 2) ∧ (p.2.extractLsb' 27 3).toNat = c then (p.1, 0) else p)

/-- A tile is released: it and its logical tiles hold nothing, and its port is EMPTY. -/
def releaseTile (s : State) (t : Nat) : State :=
  let s1 := emptyTile (clearTile s t) t
  let kept {α : Type} (w : Nat) (m : Map α) : Map α := m.filter (fun p => physTile (p.1 / w) != t || p.1 / w == t)
  let s2 := s1.setTile t { Tile.reset with upper := (s.tile t).upper, upperMark := (s.tile t).upperMark, failed := (s.tile t).failed }
  { s2 with
    rots := mdel s2.rots t, saved := s2.saved.filter (fun p => p.1 / 1024 != t), inqs := s2.inqs.filter (fun q => q.1 % 2 ^ 24 / 16384 != t)
    slots := kept 64 s2.slots, elems := kept 8 s2.elems, sports := kept 8 s2.sports, tiles := kept 1 s2.tiles, mnodes := kept 1 s2.mnodes
    lnodes := kept 1 s2.lnodes }

/-- A context ends: its launches complete with status 0x0A, its entries, tiles, Teller slots, link slots and partitions
are released (R313, R320, R356). -/
def endContext (s : State) (c : Nat) : State :=
  let s1 := (s.launches.filter (fun l => l.2.ctx == c)).foldl (fun a l => endTask a l.1 l.2 0x0A 0 0) s
  let ws := s1.walkers.filter (fun p => keyCtx p.1 == c)
  let s2 := { s1 with walkers := s1.walkers.filter (fun p => keyCtx p.1 != c), circuits := s1.circuits.filter (fun k => k.2.ctx != c)
                      remap := s1.remap.filter (fun e => e.1 / 1024 != c), audits := s1.audits.filter (fun j => j.2.ctx != c)
                      mismatches := s1.mismatches.filter (fun m => keyCtx m.1 != c) }
  let s3 := ws.foldl (fun a p => match almEntry s p.1 with
    | some e => discardBlock a (primarySlots s p.1 e ++ drbSlots s p.1 e)
    | none => a) s2
  let s4 := (tilesOf s c).foldl releaseTile s3
  let s5 : State := { s4 with
    tels := s4.tels.map (fun (p : Nat × Tel) => (p.1, { p.2 with
      owner := dropTellerOwner c p.2.owner, progs := p.2.progs.filter (fun w => progCtx w.2 != c || p.2.upkeep.contains w.1) }))
    links := s4.links.map (fun (p : Nat × Link) => (p.1, { p.2 with owner := dropLinkOwner c p.2.owner })) }
  let s6 := (List.range 4).foldl (fun a d => a.modDie d (fun x => { x with parts := mdel x.parts c })) s5
  s6.setCtx c { Ctx.reset with gen := (s.ctx c).gen }

/-! ## Commands of the physical function (R355, R356) -/

/-- The result of a command in CTXSTAT. -/
def setCtxStat (s : State) (busy : Bool) (res c : Nat) : State :=
  { s with port := { s.port with stat := BitVec.ofNat 32 (busy.toNat * 2 ^ 31 + res * 2 ^ 16 + c) } }

def descWord (s : State) (i : Nat) : Word := mget 0#32 s.port.desc i

/-- The virtual-die table: its valid entries are virtual dies 0 to NVD − 1 and name different dies (R300). A table without a valid entry, and
one that names a die marked down, are refused as well (DESIGN CHOICE, log 215). -/
def vdtOk (s : State) : Bool :=
  let w (i : Nat) : Word := descWord s (6 + i)
  let n := ((List.range 4).filter (fun i => (w i).getLsbD 31)).length
  decide (0 < n) && (List.range n).all (fun i => (w i).getLsbD 31)
    && ((List.range n).map (fun i => (w i).toNat % 4)).eraseDups.length == n
    && (List.range n).all (fun i => !(s.die ((w i).toNat % 4)).down)

/-- The object table of the descriptor: 1 to 65,536 entries at a multiple of 64 (R288, R356). -/
def tableOk (s : State) : Bool :=
  let n := ((descWord s 10).extractLsb' 0 17).toNat
  decide (1 ≤ n) && decide (n ≤ 65536) && ((descWord s 11).extractLsb' 0 25).toNat % 64 == 0

/-- RES of a creation (R356). An object table that R288 or R356 does not admit answers 3, out of range (DESIGN CHOICE, log 208: the rule
lists no code for it). -/
def createResult (s : State) (c : Nat) : Nat :=
  if (s.ctx c).live then 1
  else if !(List.range 4).all (fun d => partOk s d c (descWord s (2 + d))) ∨ !tableOk s then 3
  else if !vdtOk s then 4
  else if !policyOk (descWord s 1) ∨ ((descWord s 0).extractLsb' 3 2).toNat = 3 ∨ ((descWord s 1).getLsbD 24 ∧ ((descWord s 0).extractLsb' 3 2).toNat ≠ 2) then 5
  else 0

/-- Creates context c from the descriptor. -/
def createContext (s : State) (c : Nat) : State :=
  let s1 := (List.range 4).foldl (fun a d => setPart a d c (descWord s (2 + d))) s
  let s2 := (List.range 4).foldl (fun a d => a.modDie d (fun x => { x with gens := mset x.gens c (s.ctx c).gen })) s1
  s2.setCtx c { Ctx.reset with
    live := true, level := levelOfNo ((descWord s 0).extractLsb' 3 2).toNat, gen := (s.ctx c).gen, policy := descWord s 1
    vdt := (List.range 4).map (fun i => (i, descWord s (6 + i) &&& 0x8000_0003#32))
    otlen := ((descWord s 10).extractLsb' 0 17).toNat, otoff := ((descWord s 11).extractLsb' 0 25).toNat }

/-- A command is taken (b = 0) unless one is being served, and its outcome stands one tick later (b = 1), within the 20 ticks
of R356; `f` gives RES and the state. -/
def ctxCommand (s : State) (i : Instr) (f : State → Nat → Nat × State) : State :=
  let c := s.arg.a % 8
  if s.arg.b = 1 then
    if schedUp s then let (r, s1) := f s c; setCtxStat s1 false r c
    else s.planEv (s.mcnt + 2900) rkArrive i s.arg
  else if s.port.stat.getLsbD 31 ∧ !s.fnFrozen.contains 0 then s
  else s.byHost 0 <| (setCtxStat s true 0 c).planEv (s.mcnt + 2900) rkArrive i (Arg.of c 1 0 0 0)

/-- CTX_CREATE. -/
def execCtxCreate (s : State) : Host.Outcome State Fault Refusal :=
  .next (ctxCommand s .ctxCreate (fun s0 c => let r := createResult s0 c; (r, if r = 0 then createContext s0 c else s0)))

/-- CTX_END. -/
def execCtxEnd (s : State) : Host.Outcome State Fault Refusal :=
  .next (ctxCommand s .ctxEnd (fun s0 c => if (s0.ctx c).live then (0, endContext s0 c) else (2, s0)))

/-- The contexts that exist and are bound to a function. -/
def contextsOf (s : State) (fn : Nat) : List Nat := (List.range 8).filter (fun c => (s.ctx c).live && fnOfCtx s c == fn)

/-- FUNCTION_LEVEL_RESET (R357). -/
def execFunctionLevelReset (s : State) : Host.Outcome State Fault Refusal :=
  let f := s.arg.a % 8
  let s1 := (contextsOf s f).foldl endContext s
  .next { s1 with fnFrozen := s1.fnFrozen.filter (fun x => x != f) }

/-! ## Host accesses (R212, R360, R361) -/

/-- A host access fails its checks: its record, and the function freezes; a read completes with Completer Abort, a write is
dropped (R324, R361). -/
def hostFault (s : State) (fn tag : Nat) (write : Bool) : State :=
  let s1 := if s.fnFrozen.contains fn then s else { s.raise 0 0x1C8 (.host fn) s.mcnt fn with fnFrozen := fn :: s.fnFrozen }
  if write then s1
  else { s1 with hostOut := s1.hostOut ++ [{ fn := fn, tag := tag, status := 4, data := 0, poison := false }]
                 port := { s1.port with aborts := s1.port.aborts + 1 } }

/-- The request of a host access of n bytes. -/
def hostReq (fn tag pa n : Nat) (write : Bool) (v : Vec) : Req :=
  { who := .host fn tag, ctx := 9, die := portDie, tile := none, lt := 0, key := 2 ^ 20 + portDie * 2 ^ 16, write := write
    parts := [{ pa := pa, n := n, off := 0, val := v.toNat % 2 ^ (8 * n) }], valid := 0xFFFF#16, poison := false, tag := tag }

/-- HOST_VAULT_ACCESS: function a, window offset b, c 1 for a write, d bytes (0 stands for 64), tag e, data v. It is performed by 64-byte
units in ascending order, after the posted writes of its function before it (R244, R360). -/
def execHostVaultAccess (s : State) : Host.Outcome State Fault Refusal :=
  let g := s.arg
  let f := g.a % 8
  let n := if g.d = 0 then 64 else min g.d 64
  let d := g.b / 2 ^ 25 % 4
  let v := g.b % 2 ^ 25
  let inside := (contextsOf s f).any (fun c => let (ok, base, size) := partition s d c; ok && decide (base ≤ v) && decide (v + n ≤ base + size))
  let k := min n (64 - v % 64)
  .next (if !hostTurn s f none then hostAgain s .hostVaultAccess
    else if s.fnFrozen.contains f ∨ !inside then hostFault s f g.e (g.c == 1)
    else hostRest (sendReq s (hostReq f g.e (vaultAddr d v) k (g.c == 1) g.v)) .hostVaultAccess k n)

/-- The physical address of an offset of a host extent, where it may be reached (R360, R361). -/
def extentAt (s : State) (f o : Nat) : Option (Nat × Nat) :=
  let w (i : Nat) : Word := mget 0#32 s.port.extents (64 * f + 4 * (o / 2 ^ 25 % 16) + i)
  let sub := (w 0).toNat % 64
  let off := o % 2 ^ 25
  if (w 0).getLsbD 31 ∧ off < 32768 * ((w 2).toNat % 2 ^ 11) ∧ !(slotsOf (s.tel sub) (2, 0)).isEmpty then
    some (sub, sub * 2 ^ 32 + 32768 * ((w 1).toNat % 2 ^ 17) + off)
  else none

/-- HOST_DRAM_ACCESS: operands as for the Vault; it joins its Teller's queue of 8, or waits for room (R212, R360). -/
def execHostDramAccess (s : State) : Host.Outcome State Fault Refusal :=
  let g := s.arg
  let f := g.a % 8
  .next (match extentAt s f g.b with
    | some (tl, pa) =>
      let n := if g.d = 0 then 64 else min g.d 64
      if !hostTurn s f (some tl) then hostAgain s .hostDramAccess
      else if s.fnFrozen.contains f ∨ (g.c = 1 ∧ (g.b % 64 ≠ 0 ∨ n ≠ 64)) then hostFault s f g.e (g.c == 1)
      else if 8 ≤ (s.tel tl).hostq.length then hostAgain s .hostDramAccess
      else
        let (id, s1) := s.fresh
        hostRest (queueHost { s1 with reqs := mset s1.reqs id (hostReq f g.e (pa / 64 * 64) 64 (g.c == 1) g.v) } tl id)
          .hostDramAccess (64 - g.b % 64) n
    | none => if hostTurn s f none then hostFault s f g.e (g.c == 1) else hostAgain s .hostDramAccess)

end Sys2Proof.Machine
end

