-- ==== Sys2Proof/Machine/Faults.lean ====
section
/-! DEFINITION. Delivery of fault records and the fault handler's recovery (R323, R324, R327 to R333, R340). The handler's
two copies receive the same records and decide alike, so the model lets them act as one, 256 cycles after the later copy
has a record. -/

namespace Sys2Proof.Machine

/-! ## Records on their way (R322, R323) -/

/-- The fields of a packed record that is charged to some launches, with its mark of a lost block. -/
def unpackRec (v : BitVec 128) (ls : List Nat) (lost : Bool) : FaultRec :=
  let w (i : Nat) : Word := v.extractLsb' (32 * i) 32
  { cause := ((w 0).extractLsb' 23 9).toNat, mkind := ((w 0).extractLsb' 20 3).toNat, ctx := ((w 0).extractLsb' 16 4).toNat
    mid := ((w 0).extractLsb' 0 16).toNat, ltid := ((w 1).extractLsb' 22 10).toNat, ptid := ((w 1).extractLsb' 12 10).toNat
    seq := ((w 1).extractLsb' 0 12).toNat, mcnt := (w 2).toNat, detail := ((w 3).extractLsb' 0 24).toNat, launches := ls, lost := lost }

/-- The tile that a record names. -/
def recTile (r : FaultRec) : Nat := tileAt (r.ptid / 256) (r.ptid % 16) (r.ptid / 16 % 16)

/-! ## Retiring a tile (R330) -/

/-- A spare tile of a die: no context's, not a Helm tile, not fused off, not failed, and holding nothing. -/
def spareOf (s : State) (d : Nat) : Option Nat :=
  ((List.range 144).map (fun i => 144 * d + i)).find? (fun t =>
    !isHelmTile t && !Config.fusedOff t && !(s.tile t).failed && (s.tile t).ctx.isNone && (s.tile t).load.isNone && (s.cport t).st == .empty)

/-- The Almanac of a role (R328). -/
def roleAlm (s : State) (c role : Nat) : Option Nat := ((s.ctx c).alms.find? (fun p => p.2.role == role)).map (fun p => p.1)

/-- The fault handler asks for a course change. -/
def askCourse (s : State) (c a : Nat) : State :=
  s.modCtx c (fun x => { x with courses := x.courses ++ [{ at_ := s.mcnt, key := 2 ^ 20, alm := a }] })

/-- The context takes its degraded course, or ends (R330). -/
def degrade (s : State) (c : Nat) : State :=
  match (s.ctx c).active, roleAlm s c 1 with
  | some _, some a => askCourse s c a
  | _, _ => endContext s c

/-- A logical tile is to move to a spare that already holds its load: at the next waypoint at level T, else once no block
runs on it (R241, R330). -/
def moveTile (s : State) (c : Nat) (l : BitVec 10) (u : Nat) : State :=
  let (id, s1) := s.fresh
  let r : HelmReq := { kind := 5, a := BitVec.ofNat 32 (l.toNat + 1024 * c), b := (remapWord u 0).setWidth 512, tile := tileAt 1 0 0
                       due := s.mcnt, twin := none, acted := true, wait := [] }
  { s1 with helm := mset s1.helm id r }.planN (s.mcnt + 1) rkHold .remapApply id 1

/-- A logical tile of a tile that is retired: the loader configures its load on a spare of the die and it moves there; without a spare
the context is degraded (R330). -/
def retireLogical (s : State) (c t : Nat) (l : BitVec 10) : State :=
  match spareOf s (dieOfTile t), (loadHeld s c l).bind (fun n => (tileImage s c n l).map (fun g => (n, g))) with
  | some u, some (n, i, ld, g) =>
    moveTile (loadTile s u none (some (s.ctx c).graph) i.seed n ld.keepMx g ((loadingNow s c n i ld).completed g)) c l u
  | _, _ => degrade s c

/-- Retires a tile: each of its logical tiles moves to a spare, and it joins the failed tiles of its die (R330). -/
def retireTile (s : State) (t : Nat) : State :=
  if (s.tile t).failed then s
  else
    let s1 := s.modTile t (fun x => { x with failed := true })
    match (s.tile t).ctx with
    | none => s1
    | some c => (entriesOn s c t).foldl (fun a e => if (a.ctx c).live then retireLogical a c t (BitVec.ofNat 10 (e.1 % 1024)) else a) s1

/-! ## Dies and the safe state (R299, R332, R333) -/

/-- The device safe state: every context's slots stop, the last causes are kept, the host is signalled (R332). -/
def safeState (s : State) : State :=
  let s1 := s.slots.foldl (fun a x => if a.ctxOfTile (tileOfSlot x.1) < 8 then a.freezeSlot x.1 s.mcnt else a) s
  let last := (s.dies.map (fun d => d.2.fifo.map (fun r => r.cause))).foldl (fun a l => a ++ l) []
  fireMsix { s1 with walkers := [], port := { s1.port with stopped := true, kept := s1.port.kept ++ last } } 0 0

/-- A copy of a twinned Helm graph is lost; the other acts alone, and without a fault handler the device is safe (R332). -/
def loseHelm (s : State) (t : Nat) : State :=
  if !(schedTiles ++ faultTiles).contains t ∨ s.lost.contains t then s
  else
    let s1 := { s with lost := t :: s.lost }.raise (dieOfTile t) 0x102 (.nobody 8 t) s.mcnt (dieOfTile t)
    if (alive s1 faultTiles).isEmpty then safeState s1 else s1

/-- Everything of a die's tiles is as after reset. -/
def resetDie (s : State) (d : Nat) : State :=
  let off (t : Nat) : Bool := dieOfTile t != d
  { s with
    slots := s.slots.filter (fun x => off (tileOfSlot x.1)), elems := s.elems.filter (fun x => off (tileOfVe x.1))
    tiles := (s.tiles.filter (fun x => off x.1 || x.2.failed)).map (fun x => if off x.1 then x else (x.1, { Tile.reset with failed := true }))
    sports := s.sports.filter (fun x => off (x.1 / 8)), mnodes := s.mnodes.filter (fun x => off x.1), lnodes := s.lnodes.filter (fun x => off x.1)
    chans := s.chans.filter (fun x => off (x.1 / 16)), btes := s.btes.filter (fun x => off x.1), inqs := s.inqs.filter (fun x => off (x.1 % 2 ^ 24 / 16384))
    ports := s.ports.filter (fun x => off x.1), rots := s.rots.filter (fun x => off x.1), saved := s.saved.filter (fun x => off (x.1 / 1024)) }

/-- The cycle of the first Meridian exchange that begins at or after cycle c: slot 63 of turn n, (n + 1) mod 725 = 0 (R353). -/
def exchangeFrom (c : Nat) : Nat := (c + 63) / 2969600 * 2969600 + 2969536

/-- A die is marked down: its record, the contexts whose tables name it end, and it is reset; it takes a count at the next
exchange (R299, R333, R334). -/
def markDown (s : State) (d : Nat) : State :=
  if (s.die d).down then s
  else
    let s1 := s.raise d 0x1C7 (.nobody 15 (144 * d)) s.mcnt d
    let s2 := ((List.range 8).filter (fun c => (s.ctx c).live && (diesOf s c).contains d)).foldl endContext s1
    let s3 := [tileAt d 0 0, tileAt d 1 0].foldl loseHelm s2
    ((resetDie s3 d).modDie d (fun x => { x with down := true })).planN (exchangeFrom s.mcnt + 81) rkArrive .dieRejoin d 0

/-! ## Links (R340, R348) -/

/-- A link's pairs belong to a context (R344). -/
def crosses (k : Link) (c : Nat) : Bool :=
  k.owner.any (fun p => ((p.2.extractLsb' 30 2).toNat == 1 || (p.2.extractLsb' 30 2).toNat == 2) && (p.2.extractLsb' 27 3).toNat == c)

/-- A link is down: the contexts whose traffic crosses it end (R340, R348). -/
def dropLink (s : State) (l : Nat) : State :=
  ((List.range 8).filter (fun c => (s.ctx c).live && crosses (s.link l) c)).foldl endContext (s.modLink l (fun k => { k with down := true }))

/-- LINK_LANE_REPAIR: at beat 32 of slot 63 both ends move a failing lane to a redundant lane; where none remains the link is down
(R348). -/
def execLinkLaneRepair (s : State) : Host.Outcome State Fault Refusal :=
  let l := s.arg.a
  let key := s.arg.b
  let s1 := s.modLink l (fun k => { k with toFix := k.toFix.filter (fun x => x != key), lanes := mdel k.lanes key })
  let used := mget 0 (s.link l).fixed (key / 64)
  .next (if used < Config.spareLanes then s1.modLink l (fun k => { k with fixed := mset k.fixed (key / 64) (used + 1), faulty := false }) else dropLink s1 l)

/-! ## Audits (R340) -/

/-- Recovery from a failing audit. Audit 19's DETAIL names only the link: the lane repaired is lane 0 of module 0, direction 0 (DESIGN CHOICE,
log 113). -/
def recoverAudit (s : State) (no : Nat) (r : FaultRec) : State :=
  let t := recTile r
  if no = 0 then
    if 1536 ≤ r.detail / 2 ^ 7 % 2 ^ 12 then s.modTile t (fun x => { x with upperMark := x.upperMark ||| BitVec.ofNat 8 (2 ^ (r.detail % 8)) })
    else retireTile s t
  else if no = 4 then markDown s (r.ptid / 256)
  else if no = 2 ∨ (5 ≤ no ∧ no ≤ 14) ∨ no = 23 then retireTile s t
  else if 15 ≤ no ∧ no ≤ 17 then
    let tl := r.detail % 64
    let cs := (List.range 8).filter (fun c => !(slotsOf (s.tel tl) (1, c)).isEmpty)
    cs.foldl degrade (s.modTel tl (fun x => { x with owner := x.owner.map (fun p => if (p.2.extractLsb' 14 2).toNat = 1 then (p.1, 0) else p) }))
  else if no = 18 ∨ no = 19 then
    s.planN (nextRepair s) rkStart .linkLaneRepair (r.detail % 8) (r.detail / 8 % 128)
  else if no = 20 then markDown s (r.detail % 4)
  else if no = 21 then s.raise 0 0x08E (.nobody 15 0) s.mcnt r.detail
  else if no = 24 then
    let (w, s1) := s.drawWord
    s1.planEv s.mcnt rkArrive .thermalSensorRead (Arg.of (r.detail % 4) (w.toNat % 256) (w.toNat / 256 % 256) 0 1)
  else if no = 22 ∨ no = 25 then safeState s
  else s

/-! ## The handler's actions (R327, R328, R332) -/

/-- A task ends by a fault (R327). -/
def faultEnds (s : State) (r : FaultRec) (id : Nat) : State :=
  match mfind s.launches id with
  | some l => s.planEv s.mcnt rkArrive .taskEnd (Arg.of l.ctx id (512 * 5 + r.cause) 0 0)
  | none => s

/-- A blocked element: its launches end with its coordinates, and its tile is retired (R96, R330). -/
def elementBlocked (s : State) (r : FaultRec) : State :=
  let t := recTile r
  let v := (List.range 8).find? (fun k => (veSite k).1 * 4 + (veSite k).2 == r.mid % 16)
  let ve := 8 * t + v.getD 0
  let ls := s.launches.filter (fun l => l.2.st != .pending && l.2.slots.any (fun n => veOfSlot n == ve))
  retireTile (ls.foldl (fun a l => a.planEv s.mcnt rkArrive .taskEnd (Arg.of l.2.ctx l.1 (512 * 6 + r.cause) (elemCoords ve) 0)) s) t

/-- A TRAP at levels D and F: as the image's trap table says (R328). -/
def trapTable (s : State) (r : FaultRec) : State :=
  let n := 64 * recTile r + r.mid % 64
  let what := ((s.ctx r.ctx).image.map (fun i => mget 2 i.traps (r.cause % 32))).getD 2
  if (s.slot n).st ≠ .frozen then s
  else match if r.lost then 2 else what with
    | 0 => s.resumeSlot n (s.turnOf n s.mcnt)
    | 1 =>
      let s1 := s.discardSlot n
      match (s.slot n).launch.bind (fun id => (mfind s.launches id).map (fun l => (id, l))) with
      | some (id, l) => slotRetired (s1.setLaunch id { l with mark := some (l.mark.getD (5, r.cause)) }) n
      | none => s1
    | _ => r.launches.foldl (fun a id => faultEnds a r id) s

/-- The causes of class 2 that the handler counts (R327). -/
def countedCause (cause : Nat) : Bool :=
  (decide (0x080 ≤ cause) && decide (cause ≤ 0x086)) || (decide (0x08B ≤ cause) && decide (cause ≤ 0x08D))

/-- A frame at level T in which a tile meets a cause; the third in a row retires the tile (R327). -/
def countFault (s : State) (r : FaultRec) : State :=
  let t := recTile r
  let k := 512 * t + r.cause
  let frame := match (s.ctx r.ctx).active with
    | some a => (s.mcnt - (s.mcnt - r.mcnt) % 2 ^ 32) / 2900 / max 1 (almOf s r.ctx a).frame
    | none => 0
  let n := match mfind s.overruns k with
    | some (n, last) => if last = frame then n else if last + 1 = frame then n + 1 else 1
    | none => 1
  if n < 3 then { s with overruns := mset s.overruns k (n, frame) } else retireTile { s with overruns := mdel s.overruns k } t

/-- A load of a tile has failed: a third failure retires the tile; at levels D and F every launch on the tile ends, and at level T its
entries are FAILED (R327, R330). -/
def loadFailed (s : State) (r : FaultRec) (timed : Bool) : State :=
  let t := recTile r
  let ls := s.launches.filter (fun l => l.2.st != .pending && l.2.slots.any (fun n => tileOfSlot n == t))
  let s1 := if timed then s else ls.foldl (fun a l => faultEnds a r l.1) s
  if 3 ≤ (s.tile t).loadFails then retireTile s1 t else s1

/-- The second assay mismatch of an entry in 16 consecutive frames asks for audits 8 and 12 on both copies' tiles, which the next AUDIT
entries of those audits run (R332, R336; DEDUCED, log 175). -/
def countMismatch (s : State) (r : FaultRec) : State :=
  match s.walkers.find? (fun p => keyIx p.1 == r.detail % 4096 && (p.2.bad != 0#8) && (match almEntry s p.1 with
      | some e => entryTile s p.1 e == recTile r
      | none => false)) with
  | none => s
  | some (k, _) =>
    let l := (almOf s (keyCtx k) (keyAlm k)).frame
    let frame := s.mcnt / 2900 / l
    let recent := (mget [] s.mismatches k).filter (fun f => decide (frame < f + 16))
    let s1 := { s with mismatches := mset s.mismatches k (recent ++ [frame]) }
    match almEntry s k with
    | some e =>
      if recent.isEmpty then s1
      else
        let ask (m : Map AuditJob) (t : Nat) : Map AuditJob :=
          [8, 12].foldl (fun b no => mset b (auditKey no t) { no := no, target := t, ctx := keyCtx k, asked := false }) m
        { s1 with audits := (twinPairs s k e).foldl (fun m p => ask (ask m p.1) p.2) s1.audits }
    | none => s1

/-- A sub-channel whose refresh lapsed or that is too hot: its contexts take the Almanac of reduced DRAM traffic, and RLAPSE is
cleared once refresh has been restored (R209, R327, R328). -/
def lowDram (s : State) (tl : Nat) : State :=
  let cs := (List.range 8).filter (fun c => (s.ctx c).active.isSome && !(slotsOf (s.tel tl) (1, c)).isEmpty)
  (cs.foldl (fun a c => match roleAlm a c 2 with
    | some m => askCourse a c m
    | none => a) s).planN (s.mcnt + 1) rkStart .rlapseClear tl 1

/-- What the fault handler does on a record (R327). -/
def handleFault (s : State) (r : FaultRec) : State :=
  let cls := r.cause / 64
  let timed := decide (r.ctx < 8) && (s.ctx r.ctx).level == .t
  if cls = 7 then s
  else if cls = 5 then recoverAudit s (r.cause - 0x140) r
  else if r.cause = 0x100 then countMismatch s r
  else if cls = 4 then s
  else if r.cause = 0x087 ∨ r.cause = 0x088 then lowDram s (r.detail % 64)
  else if r.cause = 0x08A then markDown s (r.ptid / 256)
  else if r.cause = 0x08E ∨ r.cause = 0x089 ∨ r.cause = 0x0C4 ∨ r.cause = 0x0C0 then s
  else if r.ctx = 8 ∧ r.mkind ≠ 7 then loseHelm s (recTile r)
  else if r.mkind = 6 then elementBlocked s r
  else if r.cause = 0x0C5 then loadFailed s r timed
  else if timed ∧ countedCause r.cause then countFault s r
  else if timed then s
  else if cls = 6 then trapTable s r
  else r.launches.foldl (fun a id => faultEnds a r id) s

/-! ## Delivery (R323) -/

/-- The fault handler does not take records during its own update (R377). -/
def handlerDown (s : State) : Bool :=
  match s.port.update with
  | some u => decide (2 ≤ u.stage) && u.w1.getLsbD 2
  | none => false

/-- The transit of a record from a die's FIFO to a fault-handler copy. -/
def recordTransit (d t : Nat) : Nat := controlTransit d none (dieOfTile t) (some t)

/-- After a record has left, records that had been lost are counted in one of cause 0x1C5 (R323). -/
def storeLost (s : State) (d : Nat) : State :=
  let x := s.die d
  if x.lost = 0 ∨ 512 ≤ x.fifo.length then s
  else (s.modDie d (fun y => { y with lost := 0 })).raise d 0x1C5 (.nobody 15 (144 * d)) s.mcnt (min x.lost 0xFF_FFFF)

/-- FAULT_RECORD_DELIVERY: the record at the head of die a's FIFO leaves for each copy, one per cycle, unless a copy's event queue is
full (b = 0); it reaches the copy on tile c (b = 1); the handler acts on it (b = 2). -/
def execFaultRecordDelivery (s : State) : Host.Outcome State Fault Refusal :=
  let g := s.arg
  .next (match g.b with
    | 0 =>
      match (s.die g.a).fifo with
      | [] => s
      | r :: rest =>
        let reps := alive s faultTiles
        let next (x : State) : State := if (x.die g.a).fifo.isEmpty then x else planOnce x (s.mcnt + 1) rkStart .faultRecordDelivery g.a 0 0
        if handlerDown s ∨ reps.isEmpty ∨ reps.any (fun t => 64 ≤ (s.tile t).evq.length) then planOnce s (s.mcnt + 1) rkStart .faultRecordDelivery g.a 0 0
        else
          let v := (packRec r).setWidth 512
          let s1 := s.modDie g.a (fun x => { x with fifo := rest })
          let s2 := reps.foldl (fun a t => a.planEv (s.mcnt + recordTransit g.a t) rkArrive .faultRecordDelivery { Arg.of g.a 1 t 0 0 with v := v }) s1
          let last := reps.foldl (fun m t => max m (recordTransit g.a t)) 0
          next (storeLost (s2.planEv (s.mcnt + last + 256) rkArrive .faultRecordDelivery
            { Arg.of g.a 2 0 0 r.lost.toNat with v := v, i := r.launches.map Int.ofNat }) g.a)
    | 1 => s.postRecord g.c 3 (g.v.setWidth 128)
    | _ => handleFault s (unpackRec (g.v.setWidth 128) (g.i.map Int.toNat) (g.e == 1)))

end Sys2Proof.Machine
end

