-- ==== Sys2Proof/Machine/Audit.lean ====
section
/-! DEFINITION. Audits (R238, R305, R336 to R340): requests, runs on their targets, outcomes, and intervals that pass without
a run. -/

namespace Sys2Proof.Machine

/-! ## Failures (R337, R338) -/

/-- The interval in cycles: a tick is 1 µs (R4). -/
def auditInterval (no : Nat) : Nat := auditMs no * 2900000

/-- The audits marked D. -/
def auditDestroys (no : Nat) : Bool := no == 8 || no == 12

/-- DETAIL of a failure: the target where a field names it, the other bits as the run found them. -/
def auditDetail (no target : Nat) (w : Word) : Nat :=
  let low (n : Nat) : Nat := w.toNat % 2 ^ n
  match no with
  | 0 => low 19
  | 1 => low 15
  | 2 => low 4
  | 3 => low 19
  | 4 => low 19
  | 5 => low 14
  | 6 => low 8
  | 7 => low 12
  | 8 => low 12
  | 9 => low 3
  | 10 => low 8
  | 11 => 0
  | 12 => low 7
  | 13 => low 3
  | 14 => low 6
  | 15 => target + 64 * low 5
  | 18 => target + 8 * low 7
  | 21 => low 24
  | 23 => low 6
  | 25 => low 10
  | _ => target

/-- The die in whose FIFO the record of a target is raised, and the tile that it names. -/
def auditSite (no target : Nat) : Nat × Nat :=
  match auditClass no with
  | 0 => (dieOfTile target, target)
  | 1 => (target % 4, 144 * (target % 4))
  | 2 => ((Config.tellerDie target).toNat, 144 * (Config.tellerDie target).toNat)
  | 3 => ((linkEnds target).1, 144 * (linkEnds target).1)
  | _ => (0, 0)

/-- The words that an ECC scrub found uncorrectable are poisoned (R340): the token that DETAIL names. -/
def poisonFound (s : State) (no target detail : Nat) (w : Word) : State :=
  let put (a : Nat) : State := { s with poison := addPoison s.poison (a + 4 * (w.toNat / 2 ^ 28)) 4 }
  if no = 1 then put (padAddr (8 * target + detail % 8) (detail / 8 * 64))
  else if no = 3 then put (vaultAddr target ((detail % 32) * 64 + detail / 32 * 2048))
  else s

/-- A failing run for context c: its record; a failure of audit 21 sets HEXC (R337, R351). -/
def failAudit (s : State) (no target c : Nat) (w : Word) : State :=
  let d := auditDetail no target w
  let (die, t) := auditSite no target
  let s1 := (poisonFound s no target d w).raise die (0x140 + no) (.nobody (if c < 8 then c else 15) t) s.mcnt d
  if no = 21 then { s1 with sextant := { s1.sextant with hexc := true } } else s1

/-- What a D-marked run destroys: the weight banks and the accumulator, or what a drained element still holds (R338). -/
def destroyState (s : State) (no t : Nat) : State :=
  if no = 8 then
    let f (k : Nat) : BitVec 512 := Config.freeVec (s.freeCtr + k)
    { s.modNode t (fun x => { x with
        wts := (List.range 256).map (fun b => (b, { e := (f 0).toNat % 256, str := (f b).toNat }))
        acc := (List.range 4096).map (fun i => (i, { s := (f (256 + i)).extractLsb' 0 64, c := (f (256 + i)).extractLsb' 64 64
                                                     x := (f (256 + i)).toNat / 2 ^ 128 % 1024, pois := false })) }) with freeCtr := s.freeCtr + 4352 }
  else if no = 12 then (List.range 8).foldl (fun a k => a.modElem (8 * t + k) (fun e => { e with quant := [] })) s
  else s

/-! ## Runs (R336, R339) -/

/-- The audit manager does not run audits during its own update (R377). -/
def managerDown (s : State) : Bool :=
  match s.port.update with
  | some u => decide (2 ≤ u.stage) && u.w1.getLsbD 3
  | none => false

/-- The first cycle of the next tick. -/
def nextTick (s : State) : Nat := (s.mcnt / 2900 + 1) * 2900

/-- The context on whose account a target is audited: it holds a load, and at level T its Almanac runs. -/
def auditedBy (s : State) (no target : Nat) : Option Nat :=
  (List.range 8).find? (fun c =>
    (s.ctx c).live && (s.ctx c).resident.isSome && ((s.ctx c).level != .t || (s.ctx c).active.isSome) && (auditTargets s c no).contains target)

/-- Puts an audit event on the agenda unless it stands there. -/
def planAudit (s : State) (cycle rank no target c phase : Nat) : State :=
  let a := Arg.of no target c phase 0
  if s.agenda.any (fun it => it.act == .ev .auditRun a) then s else s.planEv cycle rank .auditRun a

/-- A run starts: it ends after the audit's cycles; runs for a context (c < 8) restart the interval, and at levels D and F
the manager comes back after half of it. -/
def startAudit (s : State) (no target c : Nat) : State :=
  let s1 := s.planEv (s.mcnt + auditCycles no) rkArrive .auditRun (Arg.of no target c 2 0)
  if 8 ≤ c then s1
  else
    let s2 := { s1 with auditRuns := mset s1.auditRuns (auditKey no target) s.mcnt }.planN (s.mcnt + auditInterval no) rkStart .auditOverdue no target
    if (s.ctx c).level = .t then s2 else planAudit s2 (s.mcnt + auditInterval no / 2) rkStart no target c 3

/-- No block of the tile runs, and for a D-marked audit it holds no load; other targets are never held. -/
def auditReady (s : State) (no target : Nat) : Bool :=
  auditClass no != 0
    || ((List.range 64).all (fun k => let st := (s.slot (64 * target + k)).st; st == .unbound || st == .bound)
      && (!auditDestroys no || (s.tile target).load.isNone))

/-- A context's request has run on every target: its packet completes (R238, R305). -/
def closeRequest (s : State) (c no : Nat) : State :=
  match (s.ctx c).audit with
  | some (n, w0, bad) =>
    if n ≠ no ∨ s.audits.any (fun j => j.2.asked && j.2.ctx == c && j.2.no == no) then s
    else
      let s1 := s.modCtx c (fun x => { x with audit := none })
      match w0 with
      | some w => completePacket s1 c w 0 0 (if bad then 0x0B else 0) (if bad then 0x140 + no else 0)
      | none => s1
  | none => s

/-- A request reaches the audit manager: a job on every target (R238). -/
def takeRequest (s : State) (c no : Nat) : State :=
  let ts := auditTargets s c no
  let s1 := { s with audits := ts.foldl (fun m t => mset m (auditKey no t) { no := no, target := t, ctx := c, asked := true }) s.audits }
  closeRequest (ts.foldl (fun a t => planAudit a s.mcnt rkArrive no t c 3) s1) c no

/-- The manager tries a target at levels D and F: admission to a tile is held until the run has ended, a D-marked audit waits without
holding it; at level T the job waits for an entry (R339). -/
def tryAudit (s : State) (no target : Nat) : State :=
  let k := auditKey no target
  let last := mget 0 s.auditRuns k
  match auditedBy s no target with
  | none => { s with audits := mdel s.audits k, auditRuns := mdel s.auditRuns k }
  | some c =>
    let job := mfind s.audits k
    if (s.ctx c).level = .t ∨ (job.isNone ∧ s.mcnt < last + auditInterval no / 2) then s
    else
      let s1 := if job.isSome ∨ auditDestroys no then s else { s with audits := mset s.audits k { no := no, target := target, ctx := c, asked := false } }
      if auditReady s no target ∧ !managerDown s then startAudit s1 no target c
      else planAudit s1 (nextTick s) rkEngine no target c 3

/-- A run ends: its outcome, its record, and the job that it serves. In DIAG the outcome stays in the always-on registers (R368). -/
def endAudit (s : State) (no target c : Nat) : State :=
  let pass := Config.auditPasses no s.freeCtr
  let (w, s1) := s.drawWord
  let s2 := if auditDestroys no then destroyState s1 no target else s1
  let s3 := if pass then s2 else failAudit s2 no target c w
  if c = 9 then { s3 with port := { s3.port with diag := mset s3.port.diag no (pass && mget true s3.port.diag no) } }
  else
    let k := auditKey no target
    match mfind s3.audits k with
    | some j =>
      let s4 := { s3 with audits := mdel s3.audits k }
      if j.asked then
        closeRequest (if pass then s4 else s4.modCtx j.ctx (fun x => { x with audit := x.audit.map (fun r => (r.1, r.2.1, true)) })) j.ctx no
      else s4
    | none => s3

/-- The intervals of a context's targets begin where they have not begun. -/
def beginIntervals (s : State) (c : Nat) : State :=
  (List.range 26).foldl (fun a no => (auditTargets a c no).foldl (fun b t =>
    if (mfind b.auditRuns (auditKey no t)).isSome ∨ auditedBy b no t = none then b
    else
      let b1 := { b with auditRuns := mset b.auditRuns (auditKey no t) s.mcnt }.planN (s.mcnt + auditInterval no) rkStart .auditOverdue no t
      planAudit b1 (s.mcnt + auditInterval no / 2) rkStart no t c 3) a) s

/-- AUDIT_RUN of audit a on target b for context c (9: DIAG, 10: boot and power): d = 0 a request reaches the audit manager, 1 a
run starts, 2 it ends, 3 the manager tries the target, 4 the intervals of a context begin. -/
def execAuditRun (s : State) : Host.Outcome State Fault Refusal :=
  let g := s.arg
  .next (match g.d with
    | 0 => takeRequest s g.c g.a
    | 1 => if managerDown s ∧ g.c < 9 then s else startAudit s g.a g.b g.c
    | 2 => endAudit s g.a g.b g.c
    | 3 => tryAudit s g.a g.b
    | _ => beginIntervals s g.c)

/-- AUDIT_OVERDUE: the interval of audit a on target b has passed since its last run; its record, once per interval (R339). -/
def execAuditOverdue (s : State) : Host.Outcome State Fault Refusal :=
  let no := s.arg.a
  let t := s.arg.b
  .next (match mfind s.auditRuns (auditKey no t) with
    | none => s
    | some last =>
      match auditedBy s no t with
      | none => { s with auditRuns := mdel s.auditRuns (auditKey no t) }
      | some c =>
      if s.mcnt < last + auditInterval no then s
      else
        let (die, tile) := auditSite no t
        (s.raise die 0x17F (.nobody c tile) s.mcnt no).planN (s.mcnt + auditInterval no) rkStart .auditOverdue no t)

/-- AUDIT_REQUEST_PACKET: a request that is dropped completes at once (R238, R305). -/
def execAuditRequestPacket (s : State) : Host.Outcome State Fault Refusal :=
  let c := s.arg.a
  let w0 := lane s.arg.v 0
  let (ok, s1) := askAudit s c ((lane s.arg.v 1).toNat % 1024) (tileAt 0 1 0) (some w0)
  .next (if ok then s1 else completePacket s1 c w0 0 0 7 0x1C2)

end Sys2Proof.Machine
end

