-- ==== Sys2Proof/Machine/Time.lean ====
section
/-! DEFINITION. The timebase (R333, R334, R349 to R353): the exchange of the Meridian count, a die's rejoining, the Sextant's
servo and holdover, the time of day, 1PPS and timestamps. -/

namespace Sys2Proof.Machine

/-! ## The Meridian count (R353) -/

/-- The count that a die holds. -/
def meridianOf (s : State) (d : Nat) : Int := (s.mcnt : Int) + (s.die d).skew

/-- MERIDIAN_EXCHANGE: a realignment period begins, with new counts of lane failures (R348), and the port die sends its count to dies 0 and 1,
which receive it 40 cycles later (b = 0); a message that was
lost is sent again to die a in the next turn (b = 1). -/
def execMeridianExchange (s : State) : Host.Outcome State Fault Refusal :=
  let put (x : State) (d n : Nat) : State := x.planEv (s.mcnt + 40) rkArrive .meridianExchangeReceive (Arg.of d 0 s.mcnt n 0)
  .next (if s.arg.b = 1 then put s s.arg.a 1
    else ({ put (put s 0 0) 1 0 with links := s.links.map (fun k => (k.1, { k.2 with lanes := [] })) } : State).planN (s.mcnt + 2969600) rkStart .meridianExchange 0 0)

/-- MERIDIAN_EXCHANGE_RECEIVE at die a of the value c, sent by the port die (b = 0) or by die b − 1, after d losses; e = 1: this message
is lost, and a second loss in a row counts as a difference. A die compares c + 40 with its own count; dies 0 and 1 forward the
count of the next cycle. -/
def execMeridianExchangeReceive (s : State) : Host.Outcome State Fault Refusal :=
  let g := s.arg
  let d := g.a % 4
  let bad (x : State) (n : Nat) : State := x.raise d 0x08A (.nobody 15 (144 * d)) s.mcnt (min n 0xFF_FFFF)
  let fwd (x : State) : State :=
    if g.b = 0 ∧ d < 2 ∧ !(s.die d).down then x.planEv (s.mcnt + 41) rkArrive .meridianExchangeReceive (Arg.of (d + 2) (d + 1) (g.c + 41) g.d 0) else x
  .next (if (s.die d).down then s
    else if g.e = 1 then
      if g.d = 0 then s.planN (s.mcnt + 4056) rkStart .meridianExchange (d % 2) 1 else bad s 0
    else fwd (if meridianOf s d = (g.c : Int) + 40 then s else bad s (meridianOf s d - ((g.c : Int) + 40)).natAbs))

/-- The audits that a die passes before it rejoins: the outcome of each, and the records of those that fail (R334). The tile audits 0 and 5
run once each, on one tile of the die (DESIGN CHOICE, log 211: the rule does not say on which tiles). -/
def rejoinAudits (s : State) (d : Nat) : Bool × State :=
  [0, 5, 7, 20].foldl (fun (p : Bool × State) no =>
    let pass := Config.auditPasses no p.2.freeCtr
    let (w, s1) := p.2.drawWord
    let target := if auditClass no = 0 then 144 * d + w.toNat % 144 else d
    (p.1 && pass, if pass then s1 else failAudit s1 no target 10 w)) (true, s)

/-- DIE_REJOIN of die a: it loads its count from an exchange (b = 0), and at the following exchange it comes back into service if its count
agrees and the audits pass, its tiles free and its generations those of the other dies; otherwise it tries again (R298, R334). -/
def execDieRejoin (s : State) : Host.Outcome State Fault Refusal :=
  let d := s.arg.a % 4
  let later (x : State) (b : Nat) : State := x.planN (exchangeFrom s.mcnt + 81) rkArrive .dieRejoin d b
  .next (if !(s.die d).down then s
    else if s.arg.b = 0 then later (s.modDie d (fun x => { x with skew := 0 })) 1
    else
      let (ok, s1) := rejoinAudits s d
      if ok ∧ (s.die d).skew = 0 then
        s1.modDie d (fun x => { x with down := false, gens := (s.ctxs.filter (fun c => c.2.live)).map (fun c => (c.1, c.2.gen)) })
      else later s1 0)

/-! ## The servo (R349 to R351) -/

/-- SRC of SXCTL. -/
def sxSrc (s : State) : Nat := (s.sextant.ctl.extractLsb' 30 2).toNat

def trimClamp (x : Int) : Int := max (-204800) (min x 204800)

/-- A sample e, in 1/16 ns (R350, R351). The count of consecutive samples goes on across SRC 0 and a change of SRC (DESIGN CHOICE, log 213). -/
def sample (s : State) (e : Int) : State :=
  let x := s.sextant
  let kp : Int := (x.gain.extractLsb' 16 16).toNat
  let ki : Int := (x.gain.extractLsb' 0 16).toNat
  let iacc := trimClamp (x.iacc - Int.fdiv (ki * e) 65536)
  let close := decide (e.natAbs ≤ 1600)
  let good := if close then (if x.state = 3 then 1 else x.good + 1) else 0
  { s with sextant := { x with
      iacc := iacc, target := trimClamp (iacc - Int.fdiv (kp * e) 65536), last := e, lastTick := s.mcnt / 2900, good := good, told := false
      state := if x.state = 3 ∨ !close ∨ good < 8 then 1 else 2 } }

/-- SXOFS_WRITE of the word a: one sample when SRC is 1. -/
def execSxofsWrite (s : State) : Host.Outcome State Fault Refusal :=
  .next <| s.byHost 0 (if sxSrc s = 1 then sample s (BitVec.ofNat 32 s.arg.a).toInt else s)

/-- The time of day in ns (R352). -/
def todNow (s : State) : Int := s.sextant.tod + (s.mcnt * 10 / 29 : Nat)

/-- PPS_INPUT_EDGE: the TOD nanosecond field, read as signed, when SRC is 2. -/
def execPpsInputEdge (s : State) : Host.Outcome State Fault Refusal :=
  let n := Int.emod (todNow s) 1000000000
  .next (if sxSrc s = 2 then sample s ((if 500000000 ≤ n then n - 1000000000 else n) * 16) else s)

/-- PTM_SAMPLE: a completed dialogue, whose root time at the reference point is the first number of `i` in ns, when SRC is 3. -/
def execPtmSample (s : State) : Host.Outcome State Fault Refusal :=
  .next (if sxSrc s = 3 then sample s ((todNow s - s.arg.i.getD 0 0) * 16) else s)

/-- The bound is above HLIM: HEXC and a record, once per holdover (R351). -/
def checkHoldover (s : State) : State :=
  let x := s.sextant
  let b := x.last.natAbs + 16 * ((s.mcnt / 2900 - x.since + 499) / 500)
  if x.state = 3 ∧ !x.told ∧ 16 * x.hlim.toNat < b then
    { s.raise 0 0x08E (.nobody 15 0) s.mcnt (min (b / 16) 0xFF_FFFF) with sextant := { x with hexc := true, told := true } }
  else s

/-- LOSS × 65,536 ticks; 0 acts as 1 (R349). -/
def lossTicks (s : State) : Nat := 65536 * max 1 (s.sextant.ctl.extractLsb' 0 8).toNat

/-- SEXTANT_TRIM_TICK: TRIM moves toward its target by at most SLEW; the loss of samples and the holdover bound are judged. The ticks without
a sample are counted from the last sample or from cycle 0, also across SRC 0 (DESIGN CHOICE, log 214). -/
def execSextantTrimTick (s : State) : Host.Outcome State Fault Refusal :=
  let x := s.sextant
  let slew : Int := (x.ctl.extractLsb' 8 8).toNat
  let target := if sxSrc s = 0 then 0 else x.target
  let state := if sxSrc s = 0 then 0 else x.state
  let s1 := { s with sextant := { x with
    target := target, state := state, trim := x.trim + max (-slew) (min (target - x.trim) slew) } }.planN (s.mcnt + 2900) rkStart .sextantTrimTick 0 0
  .next (checkHoldover (if state ≠ 3 ∧ sxSrc s ≠ 0 ∧ x.lastTick + lossTicks s ≤ s.mcnt / 2900 then s1.planN s.mcnt rkArrive .sextantHoldoverEntry 0 0 else s1))

/-- SEXTANT_HOLDOVER_ENTRY. -/
def execSextantHoldoverEntry (s : State) : Host.Outcome State Fault Refusal :=
  let x := s.sextant
  .next (checkHoldover { s with sextant := { x with state := 3, since := s.mcnt / 2900, told := false, target := x.iacc } })

/-! ## The time of day (R352) -/

/-- The first cycle after the present one in which the nanosecond field wraps to zero. -/
def nextSecond (s : State) : Nat :=
  let want := (Int.fdiv (todNow s) 1000000000 + 1) * 1000000000 - s.sextant.tod
  ((want * 29 + 9) / 10).toNat

/-- Plans the next rising edge of 1PPS out. -/
def planPps (s : State) : State :=
  (s.unplan (fun a => match a with
    | .ev .ppsOutRise _ => true
    | _ => false)).planN (nextSecond s) rkStart .ppsOutRise 0 0

/-- PPS_OUT_RISE. -/
def execPpsOutRise (s : State) : Host.Outcome State Fault Refusal :=
  .next (planPps ({ s with sextant := { s.sextant with pps := true } }.planN (s.mcnt + 290000) rkStart .ppsOutFall 0 0))

/-- PPS_OUT_FALL. -/
def execPpsOutFall (s : State) : Host.Outcome State Fault Refusal :=
  .next { s with sextant := { s.sextant with pps := false } }

/-- PTP_FRAME_TIMESTAMP by MAC a. -/
def execPtpFrameTimestamp (s : State) : Host.Outcome State Fault Refusal :=
  .next { s with sextant := { s.sextant with stamps := s.sextant.stamps ++ [(s.arg.a % 2, (todNow s).toNat)] } }

/-- A context is armed at level T. -/
def timedArmed (s : State) : Bool := s.ctxs.any (fun c => c.2.live && c.2.level == .t && (c.2.active.isSome || !c.2.armReq.isEmpty))

/-- TODBASE_WRITE of a seconds and b nanoseconds: ignored with a Completer Abort while a context is armed at level T. -/
def execTodbaseWrite (s : State) : Host.Outcome State Fault Refusal :=
  .next <| s.byHost 0 (if timedArmed s then { s with port := { s.port with aborts := s.port.aborts + 1 } }
    else planPps { s with sextant := { s.sextant with tod := ((s.arg.a % 2 ^ 48 * 1000000000 + s.arg.b % 2 ^ 30 : Nat) : Int) } })

end Sys2Proof.Machine
end

