-- ==== Sys2Proof/Machine/Power.lean ====
section
/-! DEFINITION. Power (R335, R365 to R368): commands to the power states and their outcomes, measured power, the thermal trip,
DIAG, and the removal of supply. -/

namespace Sys2Proof.Machine

/-! ## Commands (R365, R367) -/

/-- An update runs from Q on; power commands wait for its outcome (R377). -/
def updateRuns (s : State) : Bool := (s.port.update.map (fun u => decide (2 ≤ u.stage))).getD false

/-- The cap of a state: a load total must not exceed it (R366). -/
def loadTotal (s : State) : Nat := energyBeside s 8

/-- A context exists. -/
def anyContext (s : State) : Bool := s.ctxs.any (fun c => c.2.live)

/-- A command is refused (R367). -/
def commandRefused (s : State) (code : Nat) : Bool :=
  if bootStage s ≠ 5 ∨ s.port.stopped ∨ 7 ≤ s.port.power then true
  else match code with
    | 0 => anyContext s
    | 6 => anyContext s
    | 7 => true
    | n => decide (1 ≤ s.port.power ∧ s.port.power ≤ 5 ∧ powerCap n < powerCap s.port.power ∧ powerCap n < loadTotal s)

/-- The event of a command. -/
def powerEvent (code : Nat) : Instr :=
  match code with
  | 0 => .pwrcmdStandby
  | 6 => .pwrcmdDiag
  | 7 => .pwrcmdInvalid
  | _ => .pwrcmdRun

/-- The fabric tiles. -/
def fabricTiles : List Nat := (List.range 576).filter (fun t => !isHelmTile t && !Config.fusedOff t)

/-- Runs an audit on every target of its class, outside any context: c = 9 in DIAG, 10 at boot and on leaving STANDBY. -/
def auditAll (s : State) (no c : Nat) : State :=
  let ts := match auditClass no with
    | 0 => fabricTiles
    | 1 => List.range 4
    | 2 => List.range 64
    | 3 => List.range 6
    | _ => [0]
  ts.foldl (fun a t => a.planEv s.mcnt rkArrive .auditRun (Arg.of no t c 1 0)) s

/-- The cycle in which an accepted command takes effect: the next tick boundary; out of STANDBY, after audits 5, 6 and 7 (R367). -/
def effectAt (s : State) (code : Nat) : Nat :=
  if s.port.power = 0 ∧ 1 ≤ code ∧ code ≤ 5 then ((s.mcnt + 3304) / 2900 + 1) * 2900 else nextTick s

/-- Starts the service of the command at the head, unless one is being served or an update runs: its event follows at once if it
is refused (b = 2), else in the cycle of its effect (b = 1). -/
def servePower (s : State) : State :=
  match s.port.cmds with
  | [] => s
  | (code, _) :: _ =>
    if s.port.busy ∨ updateRuns s then s
    else
      let s1 := { s with port := { s.port with busy := true } }
      if commandRefused s code then s1.planN s.mcnt rkArrive (powerEvent code) code 2
      else
        let s2 := if s.port.power = 0 ∧ 1 ≤ code ∧ code ≤ 5 then auditAll (auditAll (auditAll s1 5 10) 6 10) 7 10 else s1
        s2.planN (effectAt s code) rkStart (powerEvent code) code 1

/-- The command at the head is over: a refusal sets REFUSED and fires PF vector 0; a packet completes; the next is served. -/
def finishPower (s : State) (ok : Bool) : State :=
  match s.port.cmds with
  | [] => s
  | (_, who) :: rest =>
    let s1 := { s with port := { s.port with cmds := rest, busy := false, refused := s.port.refused || !ok } }
    let s2 := if ok then s1 else fireMsix s1 0 0
    servePower (match who with
      | some (c, _) => completeBarrier s2 c (if ok then 0 else 7) 0
      | none => s2)

/-- A command arrives. -/
def takeCommand (s : State) (code : Nat) (who : Option (Nat × Word)) : State :=
  servePower { s with port := { s.port with cmds := s.port.cmds ++ [(code, who)] } }

/-- A command to a state: it arrives (b = 0), takes effect (b = 1) or is refused (b = 2). -/
def powerCommand (s : State) (code : Nat) (f : State → State) : State :=
  match s.arg.b with
  | 0 => s.byHost 0 (takeCommand s code none)
  | 1 => finishPower (f { s with port := { s.port with power := code } }) true
  | _ => finishPower s false

/-- PWRCMD_STANDBY: the fabric is gated within one tick. -/
def execPwrcmdStandby (s : State) : Host.Outcome State Fault Refusal := .next (powerCommand s 0 id)

/-- PWRCMD_RUN to state a, 1 to 5. -/
def execPwrcmdRun (s : State) : Host.Outcome State Fault Refusal := .next (powerCommand s (max 1 (min s.arg.a 5)) id)

/-- PWRCMD_DIAG: every catalogue audit runs on every tile, die, sub-channel and link (R368). -/
def execPwrcmdDiag (s : State) : Host.Outcome State Fault Refusal :=
  .next (powerCommand s 6 (fun x => (List.range 26).foldl (fun a no => auditAll a no 9) { x with port := { x.port with diag := [] } }))

/-- PWRCMD_INVALID: code 7. -/
def execPwrcmdInvalid (s : State) : Host.Outcome State Fault Refusal := .next (powerCommand s 7 id)

/-- POWER_STATE_PACKET: the command of w1 [2:0], in order of arrival (R305, R365). -/
def execPowerStatePacket (s : State) : Host.Outcome State Fault Refusal :=
  .next (takeCommand s ((lane s.arg.v 1).toNat % 8) (some (s.arg.a, lane s.arg.v 0)))

/-- POWER_MEASURE_TICK. -/
def execPowerMeasureTick (s : State) : Host.Outcome State Fault Refusal :=
  let w := Config.packagePower (s.mcnt / 2900) % 8192
  let overCap := decide (1 ≤ s.port.power ∧ s.port.power ≤ 6 ∧ (if s.port.power = 6 then 480 else powerCap s.port.power) < w)
  .next ({ s with port := { s.port with meas := w, overCap := s.port.overCap || overCap } }.planN (s.mcnt + 2900) rkStart .powerMeasureTick 0 0)

/-! ## Heat and supply (R335, R365) -/

/-- What goes on while the fabric stands still: the port die's own events and the host's accesses to it. -/
def portEvent : Act → Bool
  | .ev i _ =>
    match i with
    | .supplyRemoval => true
    | .registerWrite => true
    | .flashWindowWrite => true
    | .fusecmtWrite => true
    | .todbaseWrite => true
    | .sxofsWrite => true
    | .ppsInputEdge => true
    | .ptmSample => true
    | .sextantTrimTick => true
    | .sextantHoldoverEntry => true
    | .ppsOutRise => true
    | .ppsOutFall => true
    | .ptpFrameTimestamp => true
    | .thermalSensorRead => true
    | .powerMeasureTick => true
    | .pwrcmdStandby => true
    | .pwrcmdRun => true
    | .pwrcmdDiag => true
    | .pwrcmdInvalid => true
    | _ => false
  | _ => false

/-- The thermal trip: the fabric's clocks stop, the cause stays in the always-on registers, the host is signalled (R335). -/
def thermalTrip (s : State) (sensor reading : Nat) : State :=
  if s.port.stopped then s
  else
    let s1 := s.unplan (fun a => !portEvent a)
    fireMsix { s1 with port := { s1.port with stopped := true, kept := s1.port.kept ++ [0x1C6 + 512 * (sensor + 256 * min reading 255)] } } 0 0

/-- THERMAL_SENSOR_READ: both sensors of every die in each tick (e = 0); two given readings b and c of die a, for audit 24 (e = 1). -/
def execThermalSensorRead (s : State) : Host.Outcome State Fault Refusal :=
  let g := s.arg
  let read (x : State) (sensor v : Nat) : State := if 135 ≤ v then thermalTrip x sensor v else x
  .next (if g.e = 1 then read (read s (2 * (g.a % 4)) g.b) (2 * (g.a % 4) + 1) g.c
    else
      let s1 := s.planN (s.mcnt + 2900) rkStart .thermalSensorRead 0 0
      (List.range 8).foldl (fun x k => read x k (Config.dieTemp (k / 2) (k % 2) (s.mcnt / 2900))) s1)

/-- SUPPLY_REMOVAL: from STANDBY, or stopped by a thermal trip, to OFF; flash, the fuses and what free values have been drawn remain. -/
def execSupplyRemoval (s : State) : Host.Outcome State Fault Refusal :=
  .next (if (bootStage s = 5 ∧ s.port.power = 0) ∨ s.port.kept.any (fun k => k % 512 == 0x1C6) then
      { State.reset with
        agenda := [], freeCtr := s.freeCtr, mem := s.mem.filter (fun c => decide (2 ^ 41 ≤ c.1))
        port := { PortDie.reset with power := 7, rollback := s.port.rollback } }
    else s)

end Sys2Proof.Machine
end

