-- ==== Sys2Proof/Machine/Boot.lean ====
section
/-! DEFINITION. Flash and boot (R369 to R373, R402, R403, R407): image slots and their verification, the boot sequence, the
heartbeat, the rollback fuses. -/

namespace Sys2Proof.Machine

/-! ## Flash (R369, R370) -/

/-- The byte of flash offset 0. -/
def flashBase : Nat := 2 ^ 41

def flashBytes (s : State) (off n : Nat) : List (BitVec 8) := readBytes s.mem (flashBase + off) n

/-- Offset and size of an image slot: 0 A, 1 B. -/
def slotAt (slot : Nat) : Nat := if slot = 0 then 0x10_0000 else 0x200_0000
def slotSize (slot : Nat) : Nat := if slot = 0 then 0x1F0_0000 else 0x200_0000

/-- What a header and its body say of a Helm image. -/
def helmImageOf (hdr body : List (BitVec 8)) : HelmImage :=
  { rbix := leAt hdr 8 4, hovr := BitVec.ofNat 32 (leAt hdr 0x10 4), idig := digestAt hdr 0x040
    gdig := (List.range 5).map (fun i => digestAt hdr (0x070 + 48 * i)), graphs := splitBody body 5 }

/-- The reason that a slot does not verify, 0 where it does, and its image; `lost` says that the flash read did not
complete (R371). -/
def verifySlot (s : State) (slot : Nat) (lost : Bool) : Nat × HelmImage :=
  let hdr := flashBytes s (slotAt slot) 1024
  let len := leAt hdr 0xC 4
  let fits := decide (1024 + len ≤ slotSize slot)
  let body := if fits then flashBytes s (slotAt slot + 1024) len else []
  (if lost then 6 else verifyImage hdr body 0x4D48_4C50 true fits s.port.rollback, helmImageOf hdr body)

/-! ## BOOTSTAT (R372) -/

def bootWord (stage slot try_ fb vfa vfb : Nat) : Word :=
  BitVec.ofNat 32 (stage * 2 ^ 28 + slot * 2 ^ 27 + try_ * 2 ^ 26 + fb * 2 ^ 25 + vfa * 2 ^ 16 + vfb * 2 ^ 8)

/-- Sets STAGE alone. -/
def setStage (s : State) (stage : Nat) : State :=
  { s with port := { s.port with boot := (s.port.boot &&& 0x0FFF_FFFF#32) ||| BitVec.ofNat 32 (stage * 2 ^ 28) } }

/-- The slot that runs, none before stage 3 and in stage 15. -/
def runningSlot (s : State) : Option Nat :=
  if 3 ≤ bootStage s ∧ bootStage s ≤ 5 then some (s.port.boot.getLsbD 27).toNat else none

/-! ## Helm graphs on their tiles (R262, R372, R407) -/

/-- The tiles of a Helm graph, in the order of R370. -/
def graphTiles (g : Nat) : List Nat :=
  match g with
  | 0 => schedTiles
  | 1 => faultTiles
  | 2 => [tileAt 0 0 0]
  | 3 => [tileAt 2 1 0]
  | _ => [tileAt 1 1 0]

/-- The image of a Helm graph: the load 0 and the first tile image of it. -/
def graphImage (h : HelmImage) (g : Nat) : Option (Config.Image × Config.LoadImg × Config.TileImg) :=
  (Config.readImage (h.graphs.getD g [])).bind (fun i => (mfind i.loads 0).bind (fun ld => ld.tiles.head?.map (fun t => (i, ld, t))))

/-- What the loader finds in the code of a Helm graph (R84, R85, R89, R95, R346, R395). -/
def graphReports (h : HelmImage) (g : Nat) : List Config.Report := match graphImage h g with
  | some t => codeReports (8 + g) 0 .d (some g) [] t.2.2 (fun _ _ => none)
      ++ (t.2.2.slots.filter (fun x => imageBound t.2.2 x.slot)).flatMap (fun x => rateReports (codeOf (8 + g) 0 .d t.2.2 x))
  | none => []

/-- The tile image that a Helm graph's tiles hold, where its code passes the loader's checks. -/
def graphTile (h : HelmImage) (g : Nat) : Option (Config.Image × Config.LoadImg × Config.TileImg) :=
  if (graphReports h g).isEmpty then graphImage h g else none

/-- Configures the tiles of a Helm graph, and the Teller programs of the upkeep graph (R202, R203); a graph that is refused leaves its
report. -/
def loadGraph (s : State) (h : HelmImage) (g : Nat) : State :=
  match graphTile h g with
  | some (i, ld, t) =>
    let s1 := (graphTiles g).foldl (fun a u => loadTile a u (some 8) none i.seed 0 false t ((loadingNow a 8 0 i ld).completed t)) s
    if g = 4 then (List.range 64).foldl (fun a tl => a.modTel tl (fun x => withUpkeep x (progsOn ld tl))) s1 else s1
  | none =>
    match graphReports h g with
    | r :: _ => { s with port := { s.port with refusals := mset s.port.refusals g r } }
    | [] => s

/-- Arms and starts the first block of a Helm graph on each of its tiles. -/
def startGraph (s : State) (h : HelmImage) (g : Nat) : State :=
  match graphTile h g with
  | some (_, _, t) =>
    (graphTiles g).foldl (fun a u => (t.slots.filter (fun x => (mfind x.blocks 0).isSome)).foldl (fun b x =>
      let n := 64 * u + x.slot
      if (b.slot n).st = .bound then startSlot (armSlot b n 0 none [] none none) n s.mcnt else b) a) s
  | none => s

/-! ## The heartbeat (R373, R402, R403) -/

/-- Each scheduler copy in service sends HOVR [15:0] of its image. -/
def sendBeats (s : State) : State :=
  match s.port.image with
  | some h =>
    if schedDown s ∨ s.port.stopped then s
    else (alive s schedTiles).foldl (fun a t =>
      a.planEv (s.mcnt + controlTransit (dieOfTile t) (some t) portDie none) rkArrive .heartbeatArrival
        (Arg.of 0 (dieOfTile t) (h.hovr.extractLsb' 0 16).toNat 0 0)) s
  | none => s

/-- The HBSTAT bit of a copy of a graph. -/
def beatBit (graph die : Nat) : Option Nat :=
  match graph, die with
  | 0, 0 => some 31
  | 0, 3 => some 30
  | 1, 1 => some 29
  | 1, 2 => some 28
  | 3, 2 => some 27
  | _, _ => none

/-- A heartbeat is complete: both scheduler copies. -/
def beatComplete (hb : Word) : Bool := hb.getLsbD 31 && hb.getLsbD 30

/-- The bits that an update waits for: every copy of every named graph. -/
def beatsNeeded (w1 : Word) : Word :=
  (if w1.getLsbD 1 then 0xC000_0000#32 else 0) ||| (if w1.getLsbD 2 then 0x3000_0000#32 else 0) ||| (if w1.getLsbD 3 then 0x0800_0000#32 else 0)

/-- Writes byte 0 of the boot record. -/
def setBootRecord (s : State) (b : Nat) : State := s.write flashBase b 1

def isTryTimeout : Act → Bool
  | .ev .bootTryTimeout _ => true
  | _ => false

/-- The first complete heartbeat of a boot with TRY = 1 clears TRY in the boot record. -/
def endTry (s : State) : State :=
  if s.agenda.any (fun it => isTryTimeout it.act) then
    setBootRecord (s.unplan isTryTimeout) ((flashBytes s 0 1).headD 0 &&& 0xFD#8).toNat
  else s

/-! ## The boot sequence (R372) -/

/-- The first cycle from c on that is i modulo n. -/
def cycleMod (c i n : Nat) : Nat := c + (i + n - c % n) % n

/-- The device is ready: STANDBY; scans, heartbeat periods and exchanges begin. -/
def becomeReady (s : State) : State :=
  let s1 := setStage { s with port := { s.port with power := 0 } } 5
  let s2 := (List.range 8).foldl (fun a c => a.planN (cycleMod (s.mcnt + 1) (64 * c) 512) rkArrive .schedulerScan c 0) s1
  let s3 := s2.planN (cycleMod (s.mcnt + 1) 0 2969600) rkStart .heartbeatPeriod 0 0
  sendBeats (s3.planN (exchangeFrom s.mcnt) rkStart .meridianExchange 0 0)

/-- The counts are aligned, the LPDDR is trained, and audits 0, 5, 7 and 20 run on each die. -/
def trainDevice (s : State) : State :=
  let s1 := (List.range 4).foldl (fun a d => a.modDie d (fun x => { x with skew := 0, down := false })) (setStage s 4)
  let s2 := (List.range 64).foldl (fun a tl => a.modTel tl (fun x => { x with
    trdy := true, tt := (List.range 10).map (fun i => (i, Config.trainedTiming tl i)) })) s1
  [0, 5, 7, 20].foldl (fun a no => auditAll a no 10) s2

/-- A verified slot: its Helm graphs run, and EXP is its HOVR [15:0]. -/
def startHelm (s : State) (h : HelmImage) : State :=
  let s1 := { s with port := { s.port with
    image := some h, stage3 := s.mcnt, hb := (h.hovr.extractLsb' 0 16).setWidth 32, hbHold := false, missed := 0, bootCount := s.port.rollback } }
  (List.range 5).foldl (fun a g => startGraph (loadGraph a h g) h g) s1

/-- Verifies the preferred slot, and the other if it fails; without one that verifies, stage 15. -/
def verifyBoot (s : State) (g : Arg) : State :=
  let rec0 := ((flashBytes s 0 1).headD 0).toNat
  let first := if g.c = 0 then rec0 % 2 else (g.c - 1) % 2
  let try_ := if g.c = 0 then rec0 / 2 % 2 else 0
  let lost (slot : Nat) : Bool := g.d.testBit slot
  let (ra, ia) := verifySlot s first (lost first)
  let (rb, ib) := if ra = 0 then (0, ia) else verifySlot s (1 - first) (lost (1 - first))
  let run := if ra = 0 then first else 1 - first
  let vf (slot : Nat) : Nat := if slot = first then ra else rb
  let stage := if ra = 0 ∨ rb = 0 then 3 else 15
  let fb := (decide (run ≠ rec0 % 2)).toNat
  let s1 := { s with port := { s.port with boot := bootWord stage run try_ fb (vf 0) (vf 1) } }
  if stage = 15 then s1
  else
    let s2 := startHelm s1 (if ra = 0 then ia else ib)
    let s3 := if try_ = 1 then s2.planN (s.mcnt + 200000 * 2900) rkStart .bootTryTimeout 0 0 else s2
    s3.planEv (s.mcnt + 2900) rkStart .bootSequence (Arg.of 0 3 g.c g.d 0)

/-- BOOT_SEQUENCE, stage by stage (b); c = 1 + a slot makes it boot that slot without a TRY check; bit k of d says that the
flash read of slot k does not complete. -/
def execBootSequence (s : State) : Host.Outcome State Fault Refusal :=
  let g := s.arg
  let next (x : State) (c : Nat) : State := x.planEv c rkStart .bootSequence { g with b := g.b + 1 }
  .next (match g.b with
    | 0 =>
      let s1 := setStage { s with nck := if Config.fastModule (flashBytes s 0x1000 4096) then 1600 else 1200, port := { s.port with power := 0 } } 1
      let s2 := [Instr.thermalSensorRead, .powerMeasureTick, .sextantTrimTick].foldl (fun a i => a.planN (nextTick s) rkStart i 0 0) s1
      next (planPps s2) (s.mcnt + 2900)
    | 1 => next (setStage s 2) (s.mcnt + 2900)
    | 2 => verifyBoot s g
    | 3 => next (trainDevice s) (((s.mcnt + 7168) / 2900 + 1) * 2900)
    | _ => becomeReady s)

/-- HEARTBEAT_PERIOD at each tick 1,024k: the bits are judged and cleared, unless an update has stopped that (R373, R403). -/
def execHeartbeatPeriod (s : State) : Host.Outcome State Fault Refusal :=
  let p := s.port
  let missed := if beatComplete p.hb then 0 else p.missed + 1
  let s1 := s.planN (s.mcnt + 2969600) rkStart .heartbeatPeriod 0 0
  .next (sendBeats (if p.hbHold then s1
    else
      let s2 := { s1 with port := { p with hb := p.hb &&& 0xFFFF#32, missed := if missed = 2 then 0 else missed } }
      if missed = 2 then fireMsix s2 0 0 else s2))

/-- The fabric is reset: what is left is the port die, the Sextant, memory as it stands, and the events of the port die. -/
def resetFabric (s : State) : State :=
  { State.reset with
    mcnt := s.mcnt, freeCtr := s.freeCtr, nextId := s.nextId, nck := s.nck, mem := s.mem, poison := s.poison, hostOut := s.hostOut
    sextant := s.sextant, agenda := s.agenda.filter (fun it => portEvent it.act)
    port := { s.port with power := 0, busy := false, cmds := [], image := none, hb := 0, hbHold := false, missed := 0, update := none
                          heldLaunches := [], heldRetires := [], doe := [], spdm := [], verify := 0 } }

/-- BOOT_TRY_TIMEOUT: the cause is kept, the host signalled, and the other slot boots without a TRY check (R373). -/
def execBootTryTimeout (s : State) : Host.Outcome State Fault Refusal :=
  let slot := (s.port.boot.getLsbD 27).toNat
  let s1 := fireMsix { s with port := { s.port with kept := s.port.kept ++ [0x1C9 + 512 * slot] } } 0 0
  .next ((setStage (resetFabric s1) 2).planEv (s.mcnt + 2900) rkStart .bootSequence (Arg.of 0 2 (1 + (1 - slot)) 0 0))

/-! ## Writes of the host (R369, R373) -/

/-- FUSECMT_WRITE: blows the rollback fuses up to the value a, unless it is above the running image's RBIX. -/
def execFusecmtWrite (s : State) : Host.Outcome State Fault Refusal :=
  .next <| s.byHost 0 (match s.port.image with
    | some h => if s.arg.a ≤ h.rbix then { s with port := { s.port with rollback := max s.port.rollback (min s.arg.a 64) } } else s
    | none => s)

/-- FLASH_WINDOW_WRITE at window offset a of the word b; c is the width in bytes, 0 for 4. A write of another width, or one that
touches the running slot, completes with Completer Abort (R361, R369). -/
def execFlashWindowWrite (s : State) : Host.Outcome State Fault Refusal :=
  let g := s.arg
  let off := s.port.flash + g.a % 65536 / 4 * 4
  let inRun : Bool := match runningSlot s with
    | some k => decide (slotAt k ≤ off) && decide (off < slotAt k + slotSize k)
    | none => false
  .next <| s.byHost 0 (if (g.c ≠ 0 ∧ g.c ≠ 4) ∨ inRun then { s with port := { s.port with aborts := s.port.aborts + 1 } }
    else s.write (flashBase + off) (g.b % 2 ^ 32) 4)

end Sys2Proof.Machine
end

