-- ==== Sys2Proof/Machine/Update.lean ====
section
/-! DEFINITION. Live update (R374 to R377, R402, R403): the image-update packet and its checks, quiescing with the handover
structures, reload, heartbeats, success and rollback. -/

namespace Sys2Proof.Machine

/-! ## The checks (R375) -/

/-- The update names a Helm graph; the loader and the upkeep graph are never named (R374). -/
def named (w1 : Word) (g : Nat) : Bool :=
  match g with
  | 0 => w1.getLsbD 1
  | 1 => w1.getLsbD 2
  | 3 => w1.getLsbD 3
  | _ => false

/-- The digest that words 2 to 13 carry, bytes in ascending order. -/
def expectedDigest (v : Vec) : BitVec 384 :=
  BitVec.ofNat 384 (beNat ((List.range 48).map (fun i => (lane v (2 + i / 4)).extractLsb' (8 * (i % 4)) 8)))

/-- A handover version, major over minor, is one that an image of the HOVR accepts (R370, R376). -/
def acceptsHandover (hovr : Word) (wrote : Word) : Bool :=
  hovr.extractLsb' 24 8 == wrote.extractLsb' 8 8 && decide (hovr.extractLsb' 16 8 ≤ wrote.extractLsb' 0 8)

/-- The waypoints of an Almanac, one after another around its frame, are at least 2,600 ticks apart. -/
def waypointsApart (al : Almanac) : Bool :=
  al.waypoints.all (fun p => (al.waypoints.filter (fun q => q != p)).all (fun q => decide (2600 ≤ (q + al.frame - p) % al.frame)))
    && (al.waypoints.isEmpty || decide (2600 ≤ al.frame))

/-- The Almanacs that a context has armed, each with the tick at which it began or begins. -/
def armedAlms (s : State) (c : Nat) : List (Nat × Nat) :=
  if (s.ctx c).live && (s.ctx c).level == .t then ((s.ctx c).active.map (fun a => (a, (s.ctx c).base))).toList ++ (s.ctx c).armReq else []

/-- The checks of an image-update packet pass on the image of a slot. -/
def updateOk (s : State) (v : Vec) (reason : Nat) (h : HelmImage) : Bool :=
  match s.port.image with
  | none => false
  | some run =>
    runningSlot s != some ((lane v 1).toNat % 2) && reason == 0 && expectedDigest v == h.idig
      && (List.range 5).all (fun g => named (lane v 1) g || h.gdig.getD g 0 == run.gdig.getD g 0)
      && acceptsHandover h.hovr run.hovr
      && (List.range 8).all (fun c => (armedAlms s c).all (fun a => waypointsApart (almOf s c a.1)))

/-- The next decision cycle of any armed Almanac of any context. -/
def nextDecision (s : State) : Option Nat :=
  ((List.range 8).flatMap (fun c => (armedAlms s c).filterMap (fun a =>
    (nextWaypoint (almOf s c a.1) a.2 (max (a.2 + 1) ((s.mcnt + 1450) / 2900 + 1))).map (fun w => 2900 * w - 1450)))).foldl (fun m x =>
      match m with
      | some y => some (min x y)
      | none => some x) none

/-- IMAGE_UPDATE_PACKET: the checks, and Q: the cycle after the next decision cycle, or the next tick where no Almanac is armed. -/
def execImageUpdatePacket (s : State) : Host.Outcome State Fault Refusal :=
  let c := s.arg.a
  let v := s.arg.v
  let (reason, h) := verifySlot s ((lane v 1).toNat % 2) false
  let q := match nextDecision s with
    | some d => d + 1
    | none => nextTick s
  .next (if s.port.update.isSome ∨ !updateOk s v reason h then completeBarrier s c 7 0
    else { s with port := { s.port with
      update := some { ctx := c, w0 := lane v 0, w1 := lane v 1, q := q, stage := 1, new := h, old := s.port.hb } } }.planN q rkHold .updateQuiesce 0 0)

/-! ## Quiesce (R375, R376, R404) -/

/-- The eleven words that the scheduler's structure holds of a context. -/
def contextWords (s : State) (c : Nat) : List Word :=
  let x := s.ctx c
  let n (k : Nat) : Word := BitVec.ofNat 32 k
  let pending := pendingOf s c true
  let saved := (s.launches.filter (fun l => l.2.ctx == c && !l.2.saves.isEmpty)).length
  [x.policy, n (x.head * 2 ^ 16 + x.tail), n (levelNo x.level + 4 * ((x.newLevel.map levelNo).getD 3)),
   n ((x.active.getD 0) % 256 + (match x.hostCourse.getLast? with
     | some h => 256 + h.1 % 256 * 2 ^ 16
     | none => 0)),
   n x.base, n (x.base / 2 ^ 32), n (pending.length + (deviceQueue s c) * 2 ^ 16), n saved, 0, 0, n x.escrowOk.length]

/-- The items of the variable lists, whose layout the writing version defines. -/
def listItems (s : State) : Nat :=
  (s.launches.filter (fun l => l.2.st == .pending)).length + s.ctxs.foldl (fun a c => a + c.2.escrowOk.length) 0

/-- A handover structure over a body of words: header, body, zero words up to a multiple of 64 bytes; the CRC covers bytes 16 to
LEN − 1. -/
def structureOf (hovr : Word) (body : List Word) : List Word :=
  let pad := List.replicate ((16 - (4 + body.length) % 16) % 16) 0#32
  let rest := body ++ pad
  let crc := (rest.foldl crc32Word 0xFFFF_FFFF#32) ^^^ 0xFFFF_FFFF#32
  [0x5256_4F48#32, hovr.extractLsb' 8 8 ++ hovr.extractLsb' 0 8 ++ 0#16, BitVec.ofNat 32 (4 * (4 + rest.length)), crc] ++ rest

/-- The body of a graph's structure: the scheduler's record of every context that exists, then lists; the other graphs' bodies are
their own. -/
def handoverBody (s : State) (g : Nat) : List Word :=
  let free (n : Nat) : List Word := (List.range n).map (fun i => Config.freeWord (s.freeCtr + i))
  if g = 0 then
    let cs := (List.range 8).filter (fun c => (s.ctx c).live)
    BitVec.ofNat 32 (cs.foldl (fun a c => a + 2 ^ c) 0) :: (cs.flatMap (contextWords s) ++ free (listItems s))
  else free 12

/-- The offset of a graph's structure in the Helm partition (R376). -/
def handoverAt (g : Nat) : Nat :=
  match g with
  | 0 => 0x2_0000
  | 1 => 0x2_8000
  | _ => 0x3_0000

/-- The copies of a graph in service write its structure, each in its own die's Helm partition. -/
def writeHandover (s : State) (hovr : Word) (g : Nat) : State :=
  let ws := (structureOf hovr (handoverBody s g)).take 8192
  let s1 := (alive s (graphTiles g)).foldl (fun a t =>
    let at_ := vaultAddr (dieOfTile t) ((partition s (dieOfTile t) 8).2.1 + handoverAt g)
    (ws.zip (List.range ws.length)).foldl (fun b w => b.write32 (at_ + 4 * w.2) w.1) a) s
  { s1 with freeCtr := s1.freeCtr + 12 + listItems s }

/-- UPDATE_QUIESCE at Q: each named graph writes its structure and ends; the reload has ended 800 ticks later. -/
def execUpdateQuiesce (s : State) : Host.Outcome State Fault Refusal :=
  .next (match s.port.update, s.port.image with
    | some u, some run =>
      if u.stage ≠ 1 ∨ u.q ≠ s.mcnt then s
      else
        let s1 := ([0, 1, 3].filter (named u.w1)).foldl (fun a g => writeHandover a run.hovr g) s
        ({ s1 with port := { s1.port with update := some { u with stage := 2 } } }.planN (s.mcnt + 800 * 2900) rkHold .updateReloadComplete 0 0).planN
          (s.mcnt + 2000 * 2900) rkHold .updateHeartbeatDeadline 0 0
    | _, _ => s)

/-! ## Reload and outcome (R375, R403) -/

/-- What an update has held is served: device launches, retirements in their order, power commands (R377). -/
def serveHeld (s : State) : State :=
  let p := s.port
  let s1 := { s with port := { p with heldLaunches := [], heldRetires := [] } }
  let s2 := p.heldLaunches.foldl (fun a id => match mfind a.launches id with
    | some l => let (k, b) := a.fresh; b.setLaunch id { l with st := .pending, order := k }
    | none => a) s1
  servePower (p.heldRetires.foldl (fun a r => a.planN s.mcnt rkArrive .launchRetire r.1 r.2) s2)

/-- The update succeeds: the boot record names the new slot with TRY = 1, and the packet completes. -/
def updateSucceeds (s : State) (u : Update) : State :=
  let s1 := { s with port := { s.port with update := none, image := some u.new, hbHold := false } }.unplan (fun a => match a with
    | .ev .updateHeartbeatDeadline _ => true
    | _ => false)
  serveHeld (completeBarrier (setBootRecord s1 (u.w1.toNat % 2 + 2)) u.ctx 0 0)

/-- UPDATE_RELOAD_COMPLETE: the named graphs' tiles hold the new image, EXP is its HOVR, the bits are clear, the period clears stop,
and the new graphs' first blocks start on every copy; an update that names no graph waits for none. -/
def execUpdateReloadComplete (s : State) : Host.Outcome State Fault Refusal :=
  .next (match s.port.update with
    | some u =>
      if u.stage ≠ 2 then s
      else
        let s1 := { s with port := { s.port with
          hb := (u.new.hovr.extractLsb' 0 16).setWidth 32, hbHold := true, update := some { u with stage := 3 } } }
        if beatsNeeded u.w1 = 0 then updateSucceeds s1 u
        else ([0, 1, 3].filter (named u.w1)).foldl (fun a g => startGraph (loadGraph a u.new g) u.new g) s1
    | none => s)

/-- HEARTBEAT_ARRIVAL of graph a from die b with the value c: a value equal to EXP sets the copy's bit; the last needed bit
completes the heartbeat (R373, R375, R403). -/
def execHeartbeatArrival (s : State) : Host.Outcome State Fault Refusal :=
  let g := s.arg
  .next (match beatBit g.a g.b with
    | none => s
    | some k =>
      if g.c % 65536 ≠ (s.port.hb.extractLsb' 0 16).toNat then s
      else
        let hb := s.port.hb ||| BitVec.ofNat 32 (2 ^ k)
        let s1 := { s with port := { s.port with hb := hb } }
        match s.port.update with
        | some u =>
          if u.stage = 3 then (if hb &&& beatsNeeded u.w1 = beatsNeeded u.w1 then updateSucceeds s1 u else s1)
          else if beatComplete hb then endTry s1 else s1
        | none => if beatComplete hb then endTry s1 else s1)

/-- UPDATE_HEARTBEAT_DEADLINE at Q + 2,000 ticks: without a complete heartbeat the update rolls back within 400 ticks. -/
def execUpdateHeartbeatDeadline (s : State) : Host.Outcome State Fault Refusal :=
  .next (match s.port.update with
    | some u =>
      if u.stage ≠ 2 ∧ u.stage ≠ 3 then s
      else
        ({ s with port := { s.port with update := some { u with stage := 4 } } }.raise 0 0x1C9 (.nobody 8 0) s.mcnt (u.w1.toNat % 2)).planN
          (s.mcnt + 400 * 2900) rkHold .updateRollbackComplete 0 0
    | none => s)

/-- UPDATE_ROLLBACK_COMPLETE: the old graphs run again from their structures, EXP is the old value, the packet completes with
CAUSE 0x1C9, and what was held is served. -/
def execUpdateRollbackComplete (s : State) : Host.Outcome State Fault Refusal :=
  .next (match s.port.update, s.port.image with
    | some u, some run =>
      if u.stage ≠ 4 then s
      else
        let s1 := ([0, 1, 3].filter (named u.w1)).foldl (fun a g => startGraph (loadGraph a run g) run g) s
        let s2 := { s1 with port := { s1.port with update := none, hbHold := false, hb := u.old &&& 0xFFFF#32 } }
        serveHeld (completeBarrier s2 u.ctx 7 0x1C9)
    | _, _ => s)

end Sys2Proof.Machine
end

