-- ==== Sys2Proof/Machine/Auth.lean ====
section
/-! DEFINITION. Device authentication (R363, R364): the DOE mailbox, DOE Discovery, and the SPDM 1.2 responder. Requests and
responses are the bytes of their data objects; the byte layouts are those of DSP0274 and of the PCI Express DOE capability, which
the spec names and does not give. -/

namespace Sys2Proof.Machine

/-- The little-endian bytes of a number. -/
def leBytes (n : Nat) : Nat → List (BitVec 8)
  | 0 => []
  | k + 1 => BitVec.ofNat 8 n :: leBytes (n / 256) k

/-- The bytes of a digest, the most significant first. -/
def digestBytes (d : BitVec 384) : List (BitVec 8) := (leBytes d.toNat 48).reverse

/-- The bytes of 32 that the responder draws: a nonce. -/
def nonce (s : State) : List (BitVec 8) := leBytes (Config.freeVec s.freeCtr).toNat 32

/-- The certificate chain of slot 0 in flash, by the length in its first two bytes (R363, R369). -/
def certChain (s : State) : List (BitVec 8) := flashBytes s 0x1_0000 (leAt (flashBytes s 0x1_0000 2) 0 2)

/-- Puts a response in the mailbox; an exchange that the transcript takes in is kept with its request. -/
def respond (s : State) (bs : List (BitVec 8)) (keep : Bool) : State :=
  { s with port := { s.port with doe := bs, spdm := if keep then s.port.spdm ++ s.arg.bytes ++ bs else s.port.spdm } }

/-- An ERROR response with its code and data: 3 Busy, 7 UnsupportedRequest, 1 InvalidRequest. -/
def spdmError (s : State) (code data : BitVec 8) : State := respond s [0x12, 0x7F, code, data] false

/-- The loader answers; until the Helm region is ready the mailbox answers Busy (R363). -/
def answer (s : State) (f : State → State) : Host.Outcome State Fault Refusal :=
  .next (if bootStage s = 5 ∧ !s.port.stopped then f s else spdmError s 3 0)

/-- SPDM_GET_VERSION: version 1.2; the transcript begins anew. -/
def execSpdmGetVersion (s : State) : Host.Outcome State Fault Refusal :=
  answer s (fun x => respond { x with port := { x.port with spdm := [] } } [0x10, 0x04, 0, 0, 0, 1, 0x00, 0x12] true)

/-- SPDM_GET_CAPABILITIES: CERT_CAP, CHAL_CAP, MEAS_CAP = 2. -/
def execSpdmGetCapabilities (s : State) : Host.Outcome State Fault Refusal :=
  answer s (fun x => respond x ([0x12, 0x61, 0, 0, 0, Config.spdmByte 0, 0, 0] ++ leBytes 0x16 4
    ++ (List.range 8).map (fun i => Config.spdmByte (1 + i))) true)

/-- SPDM_NEGOTIATE_ALGORITHMS: ECDSA P-384, SHA-384 for hashing and for measurements. -/
def execSpdmNegotiateAlgorithms (s : State) : Host.Outcome State Fault Refusal :=
  answer s (fun x => respond x ([0x12, 0x63, 0, 0] ++ leBytes 36 2 ++ [1, Config.spdmByte 9] ++ leBytes 4 4 ++ leBytes 0x80 4 ++ leBytes 2 4
    ++ List.replicate 16 0) true)

/-- SPDM_GET_DIGESTS: the digest of the chain of slot 0. -/
def execSpdmGetDigests (s : State) : Host.Outcome State Fault Refusal :=
  answer s (fun x => respond x ([0x12, 0x01, 0, 1] ++ digestBytes (Config.sha384 (certChain x))) true)

/-- SPDM_GET_CERTIFICATE of slot 0: the portion that the request's offset and length name. -/
def execSpdmGetCertificate (s : State) : Host.Outcome State Fault Refusal :=
  answer s (fun x =>
    let off := leAt s.arg.bytes 4 2
    let chain := certChain x
    let part := (chain.drop off).take (leAt s.arg.bytes 6 2)
    if s.arg.bytes.getD 2 0 &&& 0x0F#8 ≠ 0 ∨ chain.length ≤ off then spdmError x 1 0
    else respond x ([0x12, 0x02, 0, 0] ++ leBytes part.length 2 ++ leBytes (chain.length - off - part.length) 2 ++ part) true)

/-! ## Measurements (R364) -/

/-- The fuse words other than the device key. -/
def fuseBytes (s : State) : List (BitVec 8) := Config.fuseWords ++ digestBytes Config.fuseKeyHash ++ leBytes (2 ^ s.port.rollback - 1) 8

/-- The value of a measurement, and whether it is raw. -/
def measurement (s : State) (i : Nat) : Option (Bool × List (BitVec 8)) :=
  match i with
  | 1 => some (true, leBytes Config.romRevision.toNat 4)
  | 2 => some (false, digestBytes ((s.port.image.map (fun h => h.idig)).getD 0))
  | 3 => some (false, digestBytes ((s.port.image.map (fun h => h.gdig.getD 0 0)).getD 0))
  | 4 => some (true, leBytes 0x0103 2)
  | 5 => some (false, digestBytes (Config.sha384 (fuseBytes s)))
  | 6 => some (true, leBytes ((s.port.boot.getLsbD 27).toNat + 2 * s.port.bootCount) 1)
  | _ => none

/-- A measurement block. -/
def measBlock (s : State) (i : Nat) : List (BitVec 8) :=
  match measurement s i with
  | some (raw, v) =>
    [BitVec.ofNat 8 i, 1] ++ leBytes (3 + v.length) 2 ++ [(Config.spdmByte (10 + i) &&& 0x7F#8) ||| (if raw then 0x80#8 else 0)] ++ leBytes v.length 2 ++ v
  | none => []

/-- The digest of all measurement blocks, for a challenge that asks for it. -/
def measSummary (s : State) : List (BitVec 8) := digestBytes (Config.sha384 ((List.range 6).flatMap (fun i => measBlock s (i + 1))))

/-- Signs the transcript up to and with a response, by the fused device key; the transcript ends there. -/
def respondSigned (s : State) (bs : List (BitVec 8)) : State :=
  let sig := Config.deviceSign (s.port.spdm ++ s.arg.bytes ++ bs)
  { s with freeCtr := s.freeCtr + 1, port := { s.port with doe := bs ++ sig.take 96, spdm := [] } }

/-- SPDM_CHALLENGE of slot 0. -/
def execSpdmChallenge (s : State) : Host.Outcome State Fault Refusal :=
  answer s (fun x =>
    if s.arg.bytes.getD 2 0 ≠ 0 then spdmError x 1 0
    else respondSigned x ([0x12, 0x03, 0, 1] ++ digestBytes (Config.sha384 (certChain x)) ++ nonce x
      ++ (if s.arg.bytes.getD 3 0 = 0 then [] else measSummary x) ++ [0, 0]))

/-- SPDM_GET_MEASUREMENTS: the number of blocks (operation 0), one block, or all (0xFF); signed where the request asks for it. -/
def execSpdmGetMeasurements (s : State) : Host.Outcome State Fault Refusal :=
  answer s (fun x =>
    let op := (s.arg.bytes.getD 3 0).toNat
    let blocks := if op = 0 then [] else if op = 255 then (List.range 6).map (fun i => measBlock x (i + 1)) else [measBlock x op]
    let total : BitVec 8 := if op = 0 then 6 else 0
    let rec_ := blocks.flatMap (fun b => b)
    let bs := [0x12, 0x60, total, 0, BitVec.ofNat 8 blocks.length] ++ leBytes rec_.length 3 ++ rec_ ++ nonce x ++ [0, 0]
    if 7 ≤ op ∧ op ≠ 255 then spdmError x 1 0
    else if (s.arg.bytes.getD 2 0).getLsbD 0 then respondSigned x bs
    else { respond x bs true with freeCtr := x.freeCtr + 1 })

/-- SPDM_UNSUPPORTED: KEY_EXCHANGE, PSK_EXCHANGE. -/
def execSpdmUnsupported (s : State) : Host.Outcome State Fault Refusal := answer s (fun x => spdmError x 7 (s.arg.bytes.getD 1 0))

/-- DOE_DISCOVERY: index 0 is Discovery itself, index 1 CMA/SPDM. -/
def execDoeDiscovery (s : State) : Host.Outcome State Fault Refusal :=
  answer s (fun x => respond x (match (s.arg.bytes.getD 0 0).toNat with
    | 0 => [0x01, 0x00, 0x00, 0x01]
    | 1 => [0x01, 0x00, 0x01, 0x00]
    | _ => [0xFF, 0xFF, 0x00, 0x00]) false)

end Sys2Proof.Machine
end

