-- ==== Sys2Proof/Machine/Convert.lean ====
section
/-! DEFINITION. Conversions (R48, R49, R135), DQBLK (R136) and the block quantiser (R52, R137, R138), with the dither
registers that stochastic rounding steps (R23, R46). -/

namespace Sys2Proof.Machine

/-- One step of a lane's dither register (R23). -/
def dthStep (w : Word) : Word := if w.getLsbD 0 then (w >>> 1) ^^^ 0x80200003#32 else w >>> 1

/-- k steps. -/
def dthSteps (w : Word) : Nat → Word
  | 0 => w
  | k + 1 => dthStep (dthSteps w k)

/-- S5.RND and S5.SAT (R29). -/
def s5Mode (w : Word) : RMode := rmodeOf (w.extractLsb' 0 3).toNat
def s5Sat (w : Word) : Bool := w.getLsbD 3

/-- Width and signedness of the integer types .SB, .UB, .SH, .UH, .SW, .UW (R92). -/
def intType (var : BitVec 3) : Nat × Bool := (8 * 2 ^ (var.toNat / 2), var.toNat % 2 == 0)

/-- What a conversion does: the elements per lane, whether it rounds under S5.RND, and element k of a source lane
converted with a dither value (R135). -/
structure Conv where
  count : Nat
  rounds : Bool
  f : Nat → Word → Word → Nat × Flags

/-- Element k's bits: 16 bits at 16k where a lane has two elements, else the whole lane. -/
def convSrc (count k : Nat) (w : Word) : Nat := if count = 2 then elemK 16 w k else w.toNat

/-- An integer element of n bits. -/
def asInt (signed : Bool) (n x : Nat) : Int := if signed then sextNat x n else (lowBits n x : Nat)

/-- Integer to floating point (R48). -/
def convFromInt (dst : Fmt) (var : BitVec 3) (s5 : Word) (two : Bool) : Conv :=
  let (n, sg) := intType var
  let c := if two ∧ n < 32 then 2 else 1
  { count := c, rounds := dst.frac < 23 || n == 32
    f := fun k d w => cvtVal dst (s5Mode s5) (s5Sat s5) d (intVal (asInt sg n (convSrc c k w))) }

/-- Floating point to integer (R49). -/
def convToInt (src : Fmt) (var : BitVec 3) (s5 : Word) (two : Bool) : Conv :=
  let (n, sg) := intType var
  let c := if two ∧ n < 32 then 2 else 1
  { count := c, rounds := true
    f := fun k d w =>
      let x := if src.ew + src.frac = 31 then w.toNat else if c = 2 then elemK 16 w k else elemK 16 w 0
      let r := cvtToInt sg n (s5Mode s5) (s5Sat s5) d (decodeF src x)
      (wrapInt r.1 (32 / c), r.2) }

/-- Between floating-point formats by VAR of CVTH (R135). -/
def convH (var : BitVec 3) (s5 : Word) : Conv :=
  let narrow (src dst : Fmt) (two : Bool) (round : Bool) : Conv :=
    let c := if two then 2 else 1
    { count := c, rounds := round
      f := fun k d w => cvtVal dst (s5Mode s5) (s5Sat s5) d
        (decodeF src (if src.frac = 23 then w.toNat else elemK 16 w k)) }
  match var.toNat with
  | 0 => narrow bf16 fp32 false false
  | 1 => narrow fp16 fp32 false false
  | 2 => narrow fp32 bf16 false true
  | 3 => narrow fp32 fp16 false true
  | 4 => narrow fp16 bf16 true true
  | _ => narrow bf16 fp16 true true

/-- NARW by VAR (R135). -/
def convNarw (var : BitVec 3) (s5 : Word) : Conv :=
  let two := decide (4 ≤ var.toNat)
  let src := if two then 16 else 32
  let n := if var.toNat < 2 then 16 else 8
  let sg := var.toNat % 2 == 0
  let c := if two then 2 else 1
  { count := c, rounds := false
    f := fun k _ w =>
      let r := narrowInt sg n (s5Sat s5) (asInt sg src (convSrc c k w))
      (wrapInt r.1 (32 / c), r.2) }

/-- A lane converted: each element uses the dither state that the previous one left (R46). -/
def convLane (c : Conv) (dth : Word) (w : Word) : Word × Flags :=
  elems (32 / c.count) (fun k => c.f k (dthSteps dth k) w) c.count

/-- The dither registers after a conversion: each lane that converted steps once per element under STOCH (R23, R46). A conversion to a
scalar uses lane 0's register and steps it where any lane of the mask is on, lane 0 itself or not (DESIGN CHOICE, log 203: the spec does not
say which register such a conversion uses while lane 0 is off). -/
def dthAfter (c : Conv) (s5 : Word) (o : Opnds) (dth : Vec) : Vec :=
  if c.rounds ∧ s5Mode s5 = .stoch then
    let m : Mask := if scalarDest o.op then (if o.on then 1#16 else 0#16) else o.mask
    ofLanes (fun l => if m.getLsbD l then dthSteps (lane dth l) c.count else lane dth l)
  else dth

/-- A conversion of latency 5: S5 and DTH are read, and DTH steps, in the issue cycle. -/
def convVE (maj : Nat) (op : Op) (cv : Word → Conv) (s : State) : State :=
  issueVE maj op (fun o s1 =>
    let s5 := (s.elem o.ve).s5
    let c := cv s5
    let dth := (s.slot o.slot).dth
    Issued.value (s1.modSlot o.slot (fun x => { x with dth := dthAfter c s5 o dth })) 5
      (perLane o (fun l => convLane c (lane dth l) (lane o.a l)))) s

def execCvtf (op : Op) (s : State) : Host.Outcome State Fault Refusal :=
  .next (convVE 0x80 op (fun s5 => convFromInt fp32 op.var s5 false) s)
def execCvti (op : Op) (s : State) : Host.Outcome State Fault Refusal :=
  .next (convVE 0x81 op (fun s5 => convToInt fp32 op.var s5 false) s)
def execCvth (op : Op) (s : State) : Host.Outcome State Fault Refusal := .next (convVE 0x82 op (convH op.var) s)
def execCvtbi (op : Op) (s : State) : Host.Outcome State Fault Refusal :=
  .next (convVE 0x83 op (fun s5 => convFromInt bf16 op.var s5 true) s)
def execCvthi (op : Op) (s : State) : Host.Outcome State Fault Refusal :=
  .next (convVE 0x84 op (fun s5 => convFromInt fp16 op.var s5 true) s)
def execCvtib (op : Op) (s : State) : Host.Outcome State Fault Refusal :=
  .next (convVE 0x85 op (fun s5 => convToInt bf16 op.var s5 true) s)
def execCvtih (op : Op) (s : State) : Host.Outcome State Fault Refusal :=
  .next (convVE 0x86 op (fun s5 => convToInt fp16 op.var s5 true) s)
def execNarw (op : Op) (s : State) : Host.Outcome State Fault Refusal := .next (convVE 0x87 op (convNarw op.var) s)

/-- R136: m = VAR + 2. -/
def execDqblk (op : Op) (s : State) : Host.Outcome State Fault Refusal :=
  .next (aluVE 0x89 5 op (fun _ o l =>
    let m := op.var.toNat + 2
    let r := dqMember m (sextNat (lane o.a l).toNat m) ((lane o.b l).toNat % 256)
    (BitVec.ofNat 32 r.1, r.2)) s)

/-! ## The block quantiser -/

/-- Plans the release of a token of a block (R138). -/
def planRelease (s : State) (v : Nat) (q : QBlock) (p : Nat) : State :=
  s.planResult q.slot (q.seqs.getD p 0) (qDue q p) .qblkTokenRelease (Arg.of v q.id p q.slot (q.seqs.getD p 0))

/-- The issue at the slot's block position: 0 to 31 feed an input, 32 releases the block (R137). -/
def qblkIssue (o : Opnds) (s : State) : State :=
  let x := s.slot o.slot
  let e := s.elem o.ve
  let fresh : QBlock :=
    { id := e.qnext, slot := o.slot, m := o.op.var.toNat + 2, s5 := e.s5, times := [], seqs := [], fans := [], inputs := [], outs := [] }
  let old := if x.qpos = 0 then fresh
    else (e.quant.find? (fun q => q.slot == o.slot && decide (q.times.length < 33))).getD fresh
  let q := { old with times := old.times ++ [s.mcnt], seqs := old.seqs ++ [o.seq], fans := old.fans ++ [(o.trip.fan, o.trip.phase)]
                      inputs := if x.qpos < 32 then old.inputs ++ [o.a] else old.inputs }
  let e1 := { e with quant := e.quant.filter (fun b => b.id != q.id) ++ [q], qnext := if x.qpos = 0 then e.qnext + 1 else e.qnext }
  let s1 := (s.setElem o.ve e1).modSlot o.slot (fun y => { y with qpos := if x.qpos = 32 then 0 else x.qpos + 1 })
  if x.qpos = 31 then (List.range 32).foldl (fun a p => planRelease a o.ve q p) s1
  else if x.qpos = 32 then planRelease s1 o.ve q 32
  else s1

/-- R137. -/
def execQblk (op : Op) (s : State) : Host.Outcome State Fault Refusal :=
  .next (issueVE 0x88 op (fun o s1 => Issued.only (qblkIssue o s1)) s)

/-- A lane of a block: the scale and the 32 mantissas with the flags raised (R52). -/
def quantLane (q : QBlock) (dth : Word) (l : Nat) : Nat × List (Int × Flags) :=
  let xs := q.inputs.map (fun v => decodeF fp32 (lane v l).toNat)
  let e := blockScale xs
  (e, xs.mapIdx (fun k x => blockMant q.m (s5Mode q.s5) (dthSteps dth k) e x))

/-- The flags of one lane of a block. -/
def quantFlags (r : Nat × List (Int × Flags)) : Flags :=
  r.2.foldl (fun f m => f ||| m.2) (flagIf (r.1 == 0xFF) fNV)

/-- The 33 output tokens of a block in stream form (R51, R137). -/
def quantOut (q : QBlock) (dth : Vec) : List Vec :=
  ofLanes (fun l => BitVec.ofNat 32 (quantLane q (lane dth l) l).1)
    :: (List.range 32).map (fun k =>
      ofLanes (fun l => BitVec.ofInt 32 ((quantLane q (lane dth l) l).2.getD k (0, noFlags)).1))

/-- The completion of token 0: the block's values, flags and 32 dither steps (R138). -/
def quantFirst (s : State) (v : Nat) (q : QBlock) : QBlock × State :=
  let dth := (s.slot q.slot).dth
  let q' := { q with outs := quantOut q dth }
  let fl := orFlags 0xFFFF#16 (fun l => quantFlags (quantLane q (lane dth l) l)) 16
  let dth' := if s5Mode q.s5 = .stoch then ofLanes (fun l => dthSteps (lane dth l) 32) else dth
  (q', (s.modElem v (fun e => { e with quant := e.quant.map (fun b => if b.id = q.id then q' else b) })).modSlot q.slot
    (fun x => raiseFlags { x with dth := dth' } s.mcnt fl))

/-- Token p of block `id` of VE v completes: it shifts the last-result file and is pushed (R138). -/
def releaseToken (v id p : Nat) (s : State) : State :=
  match (s.elem v).quant.find? (fun q => q.id == id) with
  | none => s
  | some q0 =>
    let (q, s1) := if p = 0 then quantFirst s v q0 else (q0, s)
    let val := q.outs.getD p 0
    let fan := q.fans.getD p (0, 0)
    let s2 := s1.modSlot q.slot (fun x => shiftQ x val)
    let s3 := pushOut s2 q.slot (q.seqs.getD p 0) fan.1 fan.2 { data := val, valid := 0xFFFF#16, poison := false } false
    if p = 32 then (s3.modElem v (fun e => { e with quant := e.quant.filter (fun b => b.id != id) })).drainCheck q.slot
    else s3

/-- R138. -/
def execQblkTokenRelease (s : State) : Host.Outcome State Fault Refusal :=
  .next (releaseToken s.arg.a s.arg.b s.arg.c s)

end Sys2Proof.Machine
end

