-- ==== Sys2Proof/Machine/Float.lean ====
section
/-! DEFINITION. Floating-point instructions: FP32 (R122 to R131) and packed BF16 and FP16 (R132 to R134). -/

namespace Sys2Proof.Machine

/-- An encoding and flags as a lane. -/
def asLane (r : Nat × Flags) : Word × Flags := (BitVec.ofNat 32 r.1, r.2)

/-- A binary FP32 operation on a lane (R122). -/
def f32Op (f : Nat → Nat → Nat × Flags) (_s : State) (o : Opnds) (l : Nat) : Word × Flags :=
  asLane (f (lane o.a l).toNat (lane o.b l).toNat)

/-- The format that VAR of an H-prefixed instruction names (R120). -/
def hFmt (var : BitVec 3) : Fmt := if var = 0 then bf16 else fp16

/-- A packed operation on both 16-bit elements of a lane (R37, R132). -/
def hOp (f : Nat → Nat → Nat × Flags) (_s : State) (o : Opnds) (l : Nat) : Word × Flags :=
  intLane 16 f (lane o.a l) (lane o.b l)

/-- The addend of a fused multiply-add: q0, or the destination before the instruction (R123). -/
def addend (s : State) (o : Opnds) : Vec := if rawAcc o.trip.raw then (s.slot o.slot).q0 else s.oldDest o

def execFadd (op : Op) (s : State) : Host.Outcome State Fault Refusal := .next (aluVE 0x50 4 op (f32Op (fAdd fp32)) s)
def execFsub (op : Op) (s : State) : Host.Outcome State Fault Refusal := .next (aluVE 0x51 4 op (f32Op (fSub fp32)) s)
def execFmul (op : Op) (s : State) : Host.Outcome State Fault Refusal := .next (aluVE 0x52 4 op (f32Op (fMul fp32)) s)
def execFmin (op : Op) (s : State) : Host.Outcome State Fault Refusal :=
  .next (aluVE 0x53 2 op (f32Op (fMinMax fp32 false)) s)
def execFmax (op : Op) (s : State) : Host.Outcome State Fault Refusal :=
  .next (aluVE 0x54 2 op (f32Op (fMinMax fp32 true)) s)
/-- R124. -/
def execFsgn (op : Op) (s : State) : Host.Outcome State Fault Refusal :=
  .next (aluVE 0x55 2 op (f32Op (fSgn op.var.toNat)) s)
/-- R122, R123: .SUB subtracts the addend, .NEG negates the product. -/
def execFfma (op : Op) (s : State) : Host.Outcome State Fault Refusal :=
  .next (aluVE 0x56 6 op (fun s0 o l => asLane (fFma fp32 (op.var == 2) (op.var == 1) (lane o.a l).toNat
    (lane o.b l).toNat (lane (addend s0 o) l).toNat)) s)
def execFdiv (op : Op) (s : State) : Host.Outcome State Fault Refusal :=
  .next (iterVE 0x57 16 14 op (f32Op (fDiv fp32)) s)
def execFsqrt (op : Op) (s : State) : Host.Outcome State Fault Refusal :=
  .next (iterVE 0x58 20 18 op (f32Op (fun a _ => fSqrt fp32 a)) s)
/-- R128. -/
def execFrcp (op : Op) (s : State) : Host.Outcome State Fault Refusal := .next (aluVE 0x59 8 op (f32Op (fun a _ => fRcp a)) s)
/-- R129. -/
def execFrsq (op : Op) (s : State) : Host.Outcome State Fault Refusal := .next (aluVE 0x5A 8 op (f32Op (fun a _ => fRsq a)) s)
/-- R131. -/
def execFexp2 (op : Op) (s : State) : Host.Outcome State Fault Refusal := .next (aluVE 0x5B 10 op (f32Op (fun a _ => fExp2 a)) s)
/-- R130. -/
def execFlog2 (op : Op) (s : State) : Host.Outcome State Fault Refusal := .next (aluVE 0x5C 10 op (f32Op (fun a _ => fLog2 a)) s)
/-- R125. -/
def execFcmp (op : Op) (s : State) : Host.Outcome State Fault Refusal :=
  .next (cmpVE 0x5D op (fun _ o l => fRel fp32 op.var.toNat (lane o.a l).toNat (lane o.b l).toNat) s)
/-- R126. -/
def execFclass (op : Op) (s : State) : Host.Outcome State Fault Refusal :=
  .next (aluVE 0x5E 2 op (f32Op (fun a _ => (fClass a, noFlags))) s)
def execHadd (op : Op) (s : State) : Host.Outcome State Fault Refusal :=
  .next (aluVE 0x60 4 op (hOp (fAdd (hFmt op.var))) s)
def execHsub (op : Op) (s : State) : Host.Outcome State Fault Refusal :=
  .next (aluVE 0x61 4 op (hOp (fSub (hFmt op.var))) s)
def execHmul (op : Op) (s : State) : Host.Outcome State Fault Refusal :=
  .next (aluVE 0x62 4 op (hOp (fMul (hFmt op.var))) s)
/-- R132, with the addend of R123. -/
def execHfma (op : Op) (s : State) : Host.Outcome State Fault Refusal :=
  .next (aluVE 0x63 6 op (fun s0 o l => elems 16 (fun k => fFma (hFmt op.var) false false (elemK 16 (lane o.a l) k)
    (elemK 16 (lane o.b l) k) (elemK 16 (lane (addend s0 o) l) k)) 2) s)
def execHmin (op : Op) (s : State) : Host.Outcome State Fault Refusal :=
  .next (aluVE 0x64 2 op (hOp (fMinMax (hFmt op.var) false)) s)
def execHmax (op : Op) (s : State) : Host.Outcome State Fault Refusal :=
  .next (aluVE 0x65 2 op (hOp (fMinMax (hFmt op.var) true)) s)
/-- R134: the relation is BIDX[2:0]. -/
def execHcmp (op : Op) (s : State) : Host.Outcome State Fault Refusal :=
  .next (aluVE 0x66 2 op (fun s0 o l => hOp (fun a b =>
    let r := fRel (hFmt op.var) (rawB o.trip.raw % 8) a b
    (if r.1 then 0xFFFF else 0, r.2)) s0 o l) s)
/-- R133. -/
def execHdot (op : Op) (s : State) : Host.Outcome State Fault Refusal :=
  .next (aluVE 0x67 6 op (fun s0 o l =>
    let a := lane o.a l
    let b := lane o.b l
    asLane (fDot (hFmt op.var) (elemK 16 a 0) (elemK 16 b 0) (elemK 16 a 1) (elemK 16 b 1)
      (lane (s0.oldDest o) l).toNat)) s)

end Sys2Proof.Machine
end

