-- ==== Sys2Proof/Machine/Hold.lean ====
section
/-! DEFINITION. What follows an issue that does not issue: W-kind holds and their overrun (R153), illegal and poisoned words
(R96), and the arrival of a token at the far end of its circuit (R67). -/

namespace Sys2Proof.Machine

/-- TOKEN_CIRCUIT_ARRIVAL: the token joins the input queue; a blocked element's queues accept none (R67, R96). -/
def execTokenCircuitArrival (s : State) : Host.Outcome State Fault Refusal :=
  let q := s.inqHome s.arg.a
  let x := s.inq q
  .next (if (s.elem (elemOfInq q)).blocked then s
    else s.setInq q { toks := x.toks ++ [s.arg.tok], pend := x.pend - 1 })

/-- W_KIND_HOLD_RELEASE: on the held slot's next turn a due pre-emption saves it as held, and otherwise the instruction
looks at its condition again (R153). A frozen slot holds its coupled group turn by turn (R18). -/
def execWKindHoldRelease (s : State) : Host.Outcome State Fault Refusal :=
  let n := s.arg.a
  let x := s.slot n
  .next (if x.st = .frozen then (s.delay n).holdGroup n (s.mcnt + 1)
    else if x.st ≠ .running ∨ x.heldSince.isNone then s
    else if s.levelOf (tileOfSlot n) ≠ .t ∧ savedHeld s n then saveSlot s n keepAll
    else s.plan s.mcnt (rkIssue (veOfSlot n)) (.issue n))

/-- HOLD_OVERRUN: at level T a hold that lasts beyond its derived end is a timing fault (R153). -/
def execHoldOverrun (s : State) : Host.Outcome State Fault Refusal :=
  let n := s.arg.a
  .next (if (s.slot n).st = .running ∧ (s.slot n).heldSince.isSome then s.trapSlot n 0x082 (s.epcDetail n) else s)

/-- ILLEGAL_WORD_ISSUE: an illegal or poisoned word at the slot's position blocks the element (R96). -/
def execIllegalWordIssue (s : State) : Host.Outcome State Fault Refusal :=
  let n := s.arg.a
  .next (if fetchPoisoned s n then s.blockElem (veOfSlot n) 0x0C2 (s.slot n).ia.toNat
    else s.blockElem (veOfSlot n) 0x001 ((fetchWord s n).toNat % 2 ^ 24))

end Sys2Proof.Machine
end

