-- ==== Sys2Proof/Machine/Integer.lean ====
section
/-! DEFINITION. Integer, logical, shift, bit-field, select, move and comparison instructions (R97, R113 to R119). An
element function takes the width n and the patterns a and b; only its low n bits are kept. -/

namespace Sys2Proof.Machine

/-- An element function applied to every element of a lane (R97, R113). -/
def intOp (f : Nat → Nat → Nat → Nat × Flags) (s : State) (o : Opnds) (l : Nat) : Word × Flags :=
  let n := s.intWidth o
  intLane n (f n) (lane o.a l) (lane o.b l)

/-- A clamped integer as a pattern. -/
def pat (n : Nat) (r : Int × Flags) : Nat × Flags := (wrapInt r.1 n, r.2)
/-- A pattern without a flag. -/
def plain (x : Nat) : Nat × Flags := (x, noFlags)

def addF (var : BitVec 3) (n a b : Nat) : Nat × Flags :=
  match var.toNat with
  | 0 => plain (a + b)
  | 1 => pat n (sats (sextNat a n + sextNat b n) n)
  | _ => pat n (satu ((a : Int) + b) n)

def subF (var : BitVec 3) (n a b : Nat) : Nat × Flags :=
  match var.toNat with
  | 0 => plain (wrapInt ((a : Int) - b) n)
  | 1 => pat n (sats (sextNat a n - sextNat b n) n)
  | _ => pat n (satu ((a : Int) - b) n)

def mulF (var : BitVec 3) (n a b : Nat) : Nat × Flags :=
  match var.toNat with
  | 0 => plain (a * b)
  | 1 => plain (wrapInt (Int.fdiv (sextNat a n * sextNat b n) (2 ^ n)) n)
  | 2 => plain (a * b / 2 ^ n)
  | _ => pat n (sats (sextNat a n * sextNat b n) n)

def absF (var : BitVec 3) (n a _b : Nat) : Nat × Flags :=
  let x : Int := (sextNat a n).natAbs
  if var = 0 then plain (wrapInt x n) else pat n (sats x n)

def negF (var : BitVec 3) (n a _b : Nat) : Nat × Flags :=
  let x : Int := -sextNat a n
  if var = 0 then plain (wrapInt x n) else pat n (sats x n)

def minF (var : BitVec 3) (n a b : Nat) : Nat × Flags :=
  plain (if (if var = 0 then decide (sextNat b n < sextNat a n) else decide (b < a)) then b else a)

def maxF (var : BitVec 3) (n a b : Nat) : Nat × Flags :=
  plain (if (if var = 0 then decide (sextNat a n < sextNat b n) else decide (a < b)) then b else a)

/-- Quotient and remainder of truncating division (R114). -/
def divRem (signed : Bool) (n a b : Nat) : Nat × Nat × Flags :=
  if b = 0 then (2 ^ n - 1, a, fDZ)
  else if signed then
    let x := sextNat a n
    let y := sextNat b n
    if x = -(2 ^ (n - 1)) ∧ y = -1 then (a, 0, noFlags)
    else (wrapInt (Int.tdiv x y) n, wrapInt (Int.tmod x y) n, noFlags)
  else (a / b, a % b, noFlags)

def divF (var : BitVec 3) (n a b : Nat) : Nat × Flags :=
  let r := divRem (var == 0) n a b
  (r.1, r.2.2)
def remF (var : BitVec 3) (n a b : Nat) : Nat × Flags :=
  let r := divRem (var == 0) n a b
  (r.2.1, r.2.2)

def andF (_n a b : Nat) : Nat × Flags := plain (a &&& b)
def orF (_n a b : Nat) : Nat × Flags := plain (a ||| b)
def xorF (_n a b : Nat) : Nat × Flags := plain (a ^^^ b)
/-- The complement of a pattern of width n. -/
def notN (n b : Nat) : Nat := 2 ^ n - 1 - b % 2 ^ n
def andnF (n a b : Nat) : Nat × Flags := plain (a &&& notN n b)
def ornF (n a b : Nat) : Nat × Flags := plain (a ||| notN n b)
def shlF (n a b : Nat) : Nat × Flags := plain (if b < n then a * 2 ^ b else 0)
def shrF (n a b : Nat) : Nat × Flags := plain (if b < n then a / 2 ^ b else 0)
def asrF (n a b : Nat) : Nat × Flags := plain (wrapInt (Int.fdiv (sextNat a n) (2 ^ min b (n - 1))) n)
def rolF (n a b : Nat) : Nat × Flags :=
  let c := b % n
  plain (a * 2 ^ c % 2 ^ n + a / 2 ^ (n - c))

/-- Leading zeros of the low n bits. -/
def clzN (a : Nat) : Nat → Nat
  | 0 => 0
  | n + 1 => if a.testBit n then 0 else clzN a n + 1
/-- Trailing zeros from bit i on, over n bits. -/
def ctzN (a i : Nat) : Nat → Nat
  | 0 => 0
  | n + 1 => if a.testBit i then 0 else ctzN a (i + 1) n + 1
/-- Set bits among the low n. -/
def popN (a : Nat) : Nat → Nat
  | 0 => 0
  | n + 1 => popN a n + (if a.testBit n then 1 else 0)
/-- Bit i of n bits moved to bit n − 1 − i. -/
def revN (a n : Nat) : Nat → Nat
  | 0 => 0
  | k + 1 => revN a n k + (if a.testBit k then 2 ^ (n - 1 - k) else 0)

/-- The bit-field descriptor: position and the width used (R116). -/
def bfDesc (b : Word) : Nat × Nat :=
  let p := (b.extractLsb' 0 5).toNat
  (p, min ((b.extractLsb' 5 5).toNat + 1) (32 - p))

/-- BFX (R116). -/
def bfxF (var : BitVec 3) (a b : Word) : Word × Flags :=
  let (p, w) := bfDesc b
  let f := a.toNat / 2 ^ p % 2 ^ w
  (if var = 0 then BitVec.ofInt 32 (sextNat f w) else BitVec.ofNat 32 f, noFlags)

/-- BFI (R116). -/
def bfiF (a b old : Word) : Word × Flags :=
  let (p, w) := bfDesc b
  let m : Word := BitVec.ofNat 32 ((2 ^ w - 1) * 2 ^ p)
  ((old &&& ~~~m) ||| (BitVec.ofNat 32 (a.toNat % 2 ^ w * 2 ^ p)), noFlags)

/-- The relations EQ, NE, LT, LE, GT, GE by VAR (R119). -/
def relHolds (var : BitVec 3) (x y : Int) : Bool :=
  match var.toNat with
  | 0 => x == y
  | 1 => x != y
  | 2 => decide (x < y)
  | 3 => decide (x ≤ y)
  | 4 => decide (y < x)
  | _ => decide (y ≤ x)

/-- The relation holds for every element of a lane (R119). -/
def cmpLane (signed : Bool) (var : BitVec 3) (n : Nat) (a b : Word) : Bool :=
  (List.range (32 / n)).all (fun k =>
    if signed then relHolds var (sextNat (elemK n a k) n) (sextNat (elemK n b k) n)
    else relHolds var (elemK n a k) (elemK n b k))

def execIadd (op : Op) (s : State) : Host.Outcome State Fault Refusal := .next (aluVE 0x20 2 op (intOp (addF op.var)) s)
def execIsub (op : Op) (s : State) : Host.Outcome State Fault Refusal := .next (aluVE 0x21 2 op (intOp (subF op.var)) s)
def execImul (op : Op) (s : State) : Host.Outcome State Fault Refusal := .next (aluVE 0x22 4 op (intOp (mulF op.var)) s)
def execDivI (op : Op) (s : State) : Host.Outcome State Fault Refusal :=
  .next (iterVE 0x23 18 16 op (intOp (divF op.var)) s)
def execRemI (op : Op) (s : State) : Host.Outcome State Fault Refusal :=
  .next (iterVE 0x24 18 16 op (intOp (remF op.var)) s)
def execIabs (op : Op) (s : State) : Host.Outcome State Fault Refusal := .next (aluVE 0x25 2 op (intOp (absF op.var)) s)
def execIneg (op : Op) (s : State) : Host.Outcome State Fault Refusal := .next (aluVE 0x26 2 op (intOp (negF op.var)) s)
def execImin (op : Op) (s : State) : Host.Outcome State Fault Refusal := .next (aluVE 0x27 2 op (intOp (minF op.var)) s)
def execImax (op : Op) (s : State) : Host.Outcome State Fault Refusal := .next (aluVE 0x28 2 op (intOp (maxF op.var)) s)
def execAndI (op : Op) (s : State) : Host.Outcome State Fault Refusal := .next (aluVE 0x29 2 op (intOp andF) s)
def execOrI (op : Op) (s : State) : Host.Outcome State Fault Refusal := .next (aluVE 0x2A 2 op (intOp orF) s)
def execXorI (op : Op) (s : State) : Host.Outcome State Fault Refusal := .next (aluVE 0x2B 2 op (intOp xorF) s)
def execAndn (op : Op) (s : State) : Host.Outcome State Fault Refusal := .next (aluVE 0x2C 2 op (intOp andnF) s)
def execOrn (op : Op) (s : State) : Host.Outcome State Fault Refusal := .next (aluVE 0x2D 2 op (intOp ornF) s)
def execShl (op : Op) (s : State) : Host.Outcome State Fault Refusal := .next (aluVE 0x2E 2 op (intOp shlF) s)
def execShr (op : Op) (s : State) : Host.Outcome State Fault Refusal := .next (aluVE 0x2F 2 op (intOp shrF) s)
def execAsr (op : Op) (s : State) : Host.Outcome State Fault Refusal := .next (aluVE 0x30 2 op (intOp asrF) s)
def execRol (op : Op) (s : State) : Host.Outcome State Fault Refusal := .next (aluVE 0x31 2 op (intOp rolF) s)
def execClz (op : Op) (s : State) : Host.Outcome State Fault Refusal :=
  .next (aluVE 0x32 2 op (intOp (fun n a _ => plain (clzN a n))) s)
def execCtz (op : Op) (s : State) : Host.Outcome State Fault Refusal :=
  .next (aluVE 0x33 2 op (intOp (fun n a _ => plain (ctzN a 0 n))) s)
def execPopc (op : Op) (s : State) : Host.Outcome State Fault Refusal :=
  .next (aluVE 0x34 2 op (intOp (fun n a _ => plain (popN a n))) s)
def execBrev (op : Op) (s : State) : Host.Outcome State Fault Refusal :=
  .next (aluVE 0x35 2 op (intOp (fun n a _ => plain (revN a n n))) s)

/-- R116: a lane is always one 32-bit element. -/
def execBfx (op : Op) (s : State) : Host.Outcome State Fault Refusal :=
  .next (aluVE 0x36 2 op (fun _ o l => bfxF op.var (lane o.a l) (lane o.b l)) s)

/-- R116: reads its destination before the instruction. -/
def execBfi (op : Op) (s : State) : Host.Outcome State Fault Refusal :=
  .next (aluVE 0x37 2 op (fun s0 o l => bfiF (lane o.a l) (lane o.b l) (lane (s0.oldDest o) l)) s)

/-- The result of SEL: the mask is its selector and every lane is written (R117). -/
def selOut (o : Opnds) : Delivery :=
  { value := if scalarDest o.op then splat (if o.mask.getLsbD 0 then o.sa else o.sb) else blend o.mask o.a o.b
    lanes := 0xFFFF#16, valid := 0xFFFF#16, flags := noFlags }

/-- R117. -/
def execSel (op : Op) (s : State) : Host.Outcome State Fault Refusal :=
  .next (issueVE 0x38 op (fun o s1 => Issued.value s1 2 (selOut o)) s)

/-- A write of FLG from the scalar value of A, visible from issue + 2 (R118, R228). -/
def flgWrite (o : Opnds) : DestKind × Nat × Delivery :=
  (.flags, 2, { value := splat o.sa, lanes := fullMask o.on, valid := 0, flags := noFlags })

/-- R118: the bit pattern, or FLG with DCLS 6. -/
def execMovI (op : Op) (s : State) : Host.Outcome State Fault Refusal :=
  .next (issueVE 0x39 op (fun o s1 =>
    if op.dcls = 6 then { Issued.only s1 with res := some (flgWrite o) }
    else Issued.value s1 2 (perLane o (fun l => (lane o.a l, noFlags)))) s)

/-- R119. -/
def execIcmp (op : Op) (s : State) : Host.Outcome State Fault Refusal :=
  .next (cmpVE 0x3A op (fun s0 o l =>
    (cmpLane true op.var (s0.elem o.ve).width (lane o.a l) (lane o.b l), noFlags)) s)

/-- R119. -/
def execIcmpu (op : Op) (s : State) : Host.Outcome State Fault Refusal :=
  .next (cmpVE 0x3B op (fun s0 o l =>
    (cmpLane false op.var (s0.elem o.ve).width (lane o.a l) (lane o.b l), noFlags)) s)

end Sys2Proof.Machine
end

