-- ==== Sys2Proof/Machine/LaneMove.lean ====
section
/-! DEFINITION. Lane movement and reductions (R140 to R142, R57). -/

namespace Sys2Proof.Machine

/-- A permutation of lanes of latency 3 (R140). -/
def permVE (maj : Nat) (op : Op) (f : Opnds → Nat → Word) (s : State) : State :=
  aluVE maj 3 op (fun _ o l => (f o l, noFlags)) s

def execShuf (op : Op) (s : State) : Host.Outcome State Fault Refusal :=
  .next (permVE 0x90 op (fun o l => lane o.a ((lane o.b l).toNat % 16)) s)
def execBcast (op : Op) (s : State) : Host.Outcome State Fault Refusal :=
  .next (permVE 0x91 op (fun o _ => lane o.a (o.sb.toNat % 16)) s)
def execRotl (op : Op) (s : State) : Host.Outcome State Fault Refusal :=
  .next (permVE 0x92 op (fun o l => lane o.a ((l + 16 - o.sb.toNat % 16) % 16)) s)
def execLsh (op : Op) (s : State) : Host.Outcome State Fault Refusal :=
  .next (permVE 0x93 op (fun o l =>
    let c := o.sb.toNat
    if op.var = 0 then (if c ≤ l then lane o.a (l - c) else 0)
    else (if l + c ≤ 15 then lane o.a (l + c) else 0)) s)
def execIntlv (op : Op) (s : State) : Host.Outcome State Fault Refusal :=
  .next (permVE 0x99 op (fun o l =>
    let base := if op.var = 0 then 0 else 8
    if l % 2 = 0 then lane o.a (base + l / 2) else lane o.b (base + l / 2)) s)

/-- The lanes of A that the mask selects, in ascending order (R141). -/
def selected (o : Opnds) : List Word := ((List.range 16).filter (fun l => o.mask.getLsbD l)).map (fun l => lane o.a l)

/-- The result of COMPR: all 16 lanes are written (R141). -/
def comprOut (o : Opnds) : Delivery :=
  { value := ofLanes (fun l => (selected o).getD l 0), lanes := 0xFFFF#16
    valid := ofMask (fun l => decide (l < (selected o).length)), flags := noFlags }

/-- R141. -/
def execCompr (op : Op) (s : State) : Host.Outcome State Fault Refusal :=
  .next (issueVE 0x98 op (fun o s1 => Issued.value s1 3 (comprOut o)) s)

/-- One level of the pairwise tree: result i comes from pair (2i, 2i + 1) (R57). -/
def pairUp (f : Nat → Nat → Nat × Flags) : List Nat → Flags → List Nat × Flags
  | a :: b :: r, fl =>
    let x := f a b
    let y := pairUp f r (fl ||| x.2)
    (x.1 :: y.1, y.2)
  | r, fl => (r, fl)

/-- k levels of the tree. -/
def tree (f : Nat → Nat → Nat × Flags) : Nat → List Nat → Flags → Nat × Flags
  | 0, xs, fl => (xs.headD 0, fl)
  | k + 1, xs, fl => let r := pairUp f xs fl; tree f k r.1 r.2

/-- The elements of A of width n in order, off lanes as the identity (R57, R142). -/
def redInputs (o : Opnds) (n ident : Nat) : List Nat :=
  (List.range (512 / n)).map (fun i =>
    let per := 32 / n
    if o.mask.getLsbD (i / per) then elemK n (lane o.a (i / per)) (i % per) else ident)

/-- Levels of the tree for elements of width n (R57). -/
def redLevels (n : Nat) : Nat := if n = 8 then 6 else if n = 16 then 5 else 4

/-- A reduction: its function, identity and how the result of width n fills 32 bits (R142). -/
def reduce (o : Opnds) (n ident : Nat) (f : Nat → Nat → Nat × Flags) (ext : Nat → Nat) : Delivery :=
  let r := tree f (redLevels n) (redInputs o n ident) noFlags
  perLane o (fun _ => (BitVec.ofNat 32 (ext r.1), r.2))

/-- Sign extension of a pattern of width n to 32 bits. -/
def sextTo32 (n x : Nat) : Nat := wrapInt (sextNat x n) 32

/-- REDADD (R142). -/
def redAdd (s : State) (o : Opnds) : Delivery :=
  let n := (s.elem o.ve).width
  match o.op.var.toNat with
  | 0 => reduce o n 0 (fun a b => ((a + b) % 2 ^ n, noFlags)) id
  | 1 => reduce o n 0 (fun a b => let r := sats (sextNat a n + sextNat b n) n; (wrapInt r.1 n, r.2)) (sextTo32 n)
  | _ => reduce o 32 (2 ^ 31) (fAdd fp32) id

/-- REDMIN and REDMAX (R142). -/
def redMinMax (wantMax : Bool) (s : State) (o : Opnds) : Delivery :=
  let n := (s.elem o.ve).width
  let pick (lt : Bool) (a b : Nat) : Nat × Flags := (if lt != wantMax then a else b, noFlags)
  match o.op.var.toNat with
  | 0 => reduce o n (if wantMax then 2 ^ (n - 1) else 2 ^ (n - 1) - 1)
      (fun a b => pick (decide (sextNat a n < sextNat b n)) a b) (sextTo32 n)
  | 1 => reduce o n (if wantMax then 0 else 2 ^ n - 1) (fun a b => pick (decide (a < b)) a b) id
  | _ => reduce o 32 fp32.nanBits (fMinMax fp32 wantMax) id

/-- REDLOG (R142). -/
def redLog (s : State) (o : Opnds) : Delivery :=
  let n := (s.elem o.ve).width
  match o.op.var.toNat with
  | 0 => reduce o n (2 ^ n - 1) (fun a b => (a &&& b, noFlags)) id
  | 1 => reduce o n 0 (fun a b => (a ||| b, noFlags)) id
  | _ => reduce o n 0 (fun a b => (a ^^^ b, noFlags)) id

/-- The latency of an integer or floating-point reduction (R92, R142). -/
def redLat (op : Op) (fp : Nat) : Nat := if op.var = 2 then fp else 6

def execRedadd (op : Op) (s : State) : Host.Outcome State Fault Refusal :=
  .next (issueVE 0x94 op (fun o s1 => Issued.value s1 (redLat op 12) (redAdd s o)) s)
def execRedmin (op : Op) (s : State) : Host.Outcome State Fault Refusal :=
  .next (issueVE 0x95 op (fun o s1 => Issued.value s1 (redLat op 8) (redMinMax false s o)) s)
def execRedmax (op : Op) (s : State) : Host.Outcome State Fault Refusal :=
  .next (issueVE 0x96 op (fun o s1 => Issued.value s1 (redLat op 8) (redMinMax true s o)) s)
def execRedlog (op : Op) (s : State) : Host.Outcome State Fault Refusal :=
  .next (issueVE 0x97 op (fun o s1 => Issued.value s1 6 (redLog s o)) s)

end Sys2Proof.Machine
end

