-- ==== Sys2Proof/Machine/Registers.lean ====
section
/-! DEFINITION. Writes to registers without behaviour of their own (R9): what each keeps of a word. -/

namespace Sys2Proof.Machine

/-- The Sextant's registers and SXSTAT, by number from 32 (R349). -/
def writeSextant (s : State) (k : Nat) (w : Word) : State :=
  let x := s.sextant
  match k with
  | 0 => { s with sextant := { x with ctl := w &&& 0xC000_FFFF#32 } }
  | 1 => { s with sextant := { x with gain := w } }
  | 2 => { s with sextant := { x with hlim := w } }
  | _ => { s with sextant := { x with hexc := x.hexc && !w.getLsbD 29 } }

/-- The bits of word w of a host extent (R360). -/
def extentBits (w : Nat) : Word :=
  match w with
  | 0 => 0x8000_003F
  | 1 => 0x0001_FFFF
  | 2 => 0x0000_07FF
  | _ => 0

/-- A register write by number: 0 CTXFN of context n; 16 CTXDESC; 32 Sextant; 36 PWRSTAT; 37 the flash window's base; 40 the queue
pointers and 48 CHEAD of a context; 64 host extents; 1024 ECC thresholds, 8 per die; 4096 slot-owner words, 64 per Teller; 65536 link owner
words, 512 per link. RO and reserved bits keep what they hold. -/
def writeRegister (s : State) (n : Nat) (w : Word) : State :=
  let p := s.port
  if n < 8 then
    if (s.ctx n).live then s else { s with port := { p with ctxfn := mset p.ctxfn n (w &&& 0x8000_0007#32) } }
  else if 16 ≤ n ∧ n < 32 then { s with port := { p with desc := mset p.desc (n - 16) w } }
  else if 32 ≤ n ∧ n < 36 then writeSextant s (n - 32) w
  else if n = 36 then { s with port := { p with refused := p.refused && !w.getLsbD 30, overCap := p.overCap && !w.getLsbD 29 } }
  else if n = 37 then { s with port := { p with flash := w.toNat % 2 ^ 26 } }
  else if 40 ≤ n ∧ n < 48 then
    if (s.ctx (n - 40)).live ∧ w.getLsbD 31 then s.modCtx (n - 40) (fun x => { x with ovf := false }) else s
  else if 48 ≤ n ∧ n < 56 then
    if (s.ctx (n - 48)).live then s.modCtx (n - 48) (fun x => { x with chead := w.toNat % 4096 }) else s
  else if 64 ≤ n ∧ n < 576 then { s with port := { p with extents := mset p.extents (n - 64) (w &&& extentBits (n % 4)) } }
  else if 1024 ≤ n ∧ n < 1056 then s.modDie ((n - 1024) / 8) (fun x => { x with eccLimit := mset x.eccLimit (n % 8) (w.toNat % 65536) })
  else if 4096 ≤ n ∧ n < 8192 then s.modTel ((n - 4096) / 64) (fun x => { x with owner := mset x.owner (n % 64) (w &&& 0x0000_F800#32) })
  else if 65536 ≤ n ∧ n < 68608 then
    if n % 64 = 63 then s else s.modLink ((n - 65536) / 512) (fun x => { x with owner := mset x.owner (n % 512) (w &&& 0xFFFF_0000#32) })
  else s

/-- The function whose page holds a register: a doorbell page's is its context's function, every other is the physical function's
(R358, R359). -/
def fnOfRegister (s : State) (n : Nat) : Nat := if 40 ≤ n ∧ n < 56 then fnOfCtx s (n % 8) else 0

/-- REGISTER_WRITE of register a with the word b; c is the width in bytes, 0 for 4. Another width, and any write of a frozen function,
completes with Completer Abort (R324, R361). -/
def execRegisterWrite (s : State) : Host.Outcome State Fault Refusal :=
  let g := s.arg
  .next <| s.byHost (fnOfRegister s g.a) (if g.c ≠ 0 ∧ g.c ≠ 4 then { s with port := { s.port with aborts := s.port.aborts + 1 } }
    else writeRegister s g.a (BitVec.ofNat 32 g.b))

end Sys2Proof.Machine
end

