-- ==== Sys2Proof/Machine/Dispatch.lean ====
section
/-! DEFINITION. Dispatch: one arm per constructor of Instr, each one call of that step's own meaning. -/

namespace Sys2Proof.Machine

def exec (i : Instr) (s : State) : Host.Outcome State Fault Refusal :=
  match i with
  | .nop op => Sys2Proof.Machine.execNop op s
  | .br op => Sys2Proof.Machine.execBr op s
  | .brs op => Sys2Proof.Machine.execBrs op s
  | .callI op => Sys2Proof.Machine.execCallI op s
  | .retI op => Sys2Proof.Machine.execRetI op s
  | .loopI op => Sys2Proof.Machine.execLoopI op s
  | .doneI op => Sys2Proof.Machine.execDoneI op s
  | .doneAbandon op => Sys2Proof.Machine.execDoneAbandon op s
  | .yieldI op => Sys2Proof.Machine.execYieldI op s
  | .safeI op => Sys2Proof.Machine.execSafeI op s
  | .pset op => Sys2Proof.Machine.execPset op s
  | .plog op => Sys2Proof.Machine.execPlog op s
  | .pcnt op => Sys2Proof.Machine.execPcnt op s
  | .mfsr op => Sys2Proof.Machine.execMfsr op s
  | .mtsr op => Sys2Proof.Machine.execMtsr op s
  | .trapI op => Sys2Proof.Machine.execTrapI op s
  | .rte op => Sys2Proof.Machine.execRte op s
  | .waittTick op => Sys2Proof.Machine.execWaittTick op s
  | .waittMcnt op => Sys2Proof.Machine.execWaittMcnt op s
  | .course op => Sys2Proof.Machine.execCourse op s
  | .launch op => Sys2Proof.Machine.execLaunch op s
  | .hops op => Sys2Proof.Machine.execHops op s
  | .vdq op => Sys2Proof.Machine.execVdq op s
  | .sign op => Sys2Proof.Machine.execSign op s
  | .assayArm op => Sys2Proof.Machine.execAssayArm op s
  | .assayClr op => Sys2Proof.Machine.execAssayClr op s
  | .audit op => Sys2Proof.Machine.execAudit op s
  | .escrowGrant op => Sys2Proof.Machine.execEscrowGrant op s
  | .escrowRevoke op => Sys2Proof.Machine.execEscrowRevoke op s
  | .escrowDrain op => Sys2Proof.Machine.execEscrowDrain op s
  | .genup op => Sys2Proof.Machine.execGenup op s
  | .remap op => Sys2Proof.Machine.execRemap op s
  | .cfgOpen op => Sys2Proof.Machine.execCfgOpen op s
  | .cfgWr op => Sys2Proof.Machine.execCfgWr op s
  | .cfgSeal op => Sys2Proof.Machine.execCfgSeal op s
  | .cfgClear op => Sys2Proof.Machine.execCfgClear op s
  | .vrfy op => Sys2Proof.Machine.execVrfy op s
  | .hbt op => Sys2Proof.Machine.execHbt op s
  | .iadd op => Sys2Proof.Machine.execIadd op s
  | .isub op => Sys2Proof.Machine.execIsub op s
  | .imul op => Sys2Proof.Machine.execImul op s
  | .divI op => Sys2Proof.Machine.execDivI op s
  | .remI op => Sys2Proof.Machine.execRemI op s
  | .iabs op => Sys2Proof.Machine.execIabs op s
  | .ineg op => Sys2Proof.Machine.execIneg op s
  | .imin op => Sys2Proof.Machine.execImin op s
  | .imax op => Sys2Proof.Machine.execImax op s
  | .andI op => Sys2Proof.Machine.execAndI op s
  | .orI op => Sys2Proof.Machine.execOrI op s
  | .xorI op => Sys2Proof.Machine.execXorI op s
  | .andn op => Sys2Proof.Machine.execAndn op s
  | .orn op => Sys2Proof.Machine.execOrn op s
  | .shl op => Sys2Proof.Machine.execShl op s
  | .shr op => Sys2Proof.Machine.execShr op s
  | .asr op => Sys2Proof.Machine.execAsr op s
  | .rol op => Sys2Proof.Machine.execRol op s
  | .clz op => Sys2Proof.Machine.execClz op s
  | .ctz op => Sys2Proof.Machine.execCtz op s
  | .popc op => Sys2Proof.Machine.execPopc op s
  | .brev op => Sys2Proof.Machine.execBrev op s
  | .bfx op => Sys2Proof.Machine.execBfx op s
  | .bfi op => Sys2Proof.Machine.execBfi op s
  | .sel op => Sys2Proof.Machine.execSel op s
  | .movI op => Sys2Proof.Machine.execMovI op s
  | .icmp op => Sys2Proof.Machine.execIcmp op s
  | .icmpu op => Sys2Proof.Machine.execIcmpu op s
  | .fadd op => Sys2Proof.Machine.execFadd op s
  | .fsub op => Sys2Proof.Machine.execFsub op s
  | .fmul op => Sys2Proof.Machine.execFmul op s
  | .fmin op => Sys2Proof.Machine.execFmin op s
  | .fmax op => Sys2Proof.Machine.execFmax op s
  | .fsgn op => Sys2Proof.Machine.execFsgn op s
  | .ffma op => Sys2Proof.Machine.execFfma op s
  | .fdiv op => Sys2Proof.Machine.execFdiv op s
  | .fsqrt op => Sys2Proof.Machine.execFsqrt op s
  | .frcp op => Sys2Proof.Machine.execFrcp op s
  | .frsq op => Sys2Proof.Machine.execFrsq op s
  | .fexp2 op => Sys2Proof.Machine.execFexp2 op s
  | .flog2 op => Sys2Proof.Machine.execFlog2 op s
  | .fcmp op => Sys2Proof.Machine.execFcmp op s
  | .fclass op => Sys2Proof.Machine.execFclass op s
  | .hadd op => Sys2Proof.Machine.execHadd op s
  | .hsub op => Sys2Proof.Machine.execHsub op s
  | .hmul op => Sys2Proof.Machine.execHmul op s
  | .hfma op => Sys2Proof.Machine.execHfma op s
  | .hmin op => Sys2Proof.Machine.execHmin op s
  | .hmax op => Sys2Proof.Machine.execHmax op s
  | .hcmp op => Sys2Proof.Machine.execHcmp op s
  | .hdot op => Sys2Proof.Machine.execHdot op s
  | .cvtf op => Sys2Proof.Machine.execCvtf op s
  | .cvti op => Sys2Proof.Machine.execCvti op s
  | .cvth op => Sys2Proof.Machine.execCvth op s
  | .cvtbi op => Sys2Proof.Machine.execCvtbi op s
  | .cvthi op => Sys2Proof.Machine.execCvthi op s
  | .cvtib op => Sys2Proof.Machine.execCvtib op s
  | .cvtih op => Sys2Proof.Machine.execCvtih op s
  | .narw op => Sys2Proof.Machine.execNarw op s
  | .qblk op => Sys2Proof.Machine.execQblk op s
  | .qblkTokenRelease => Sys2Proof.Machine.execQblkTokenRelease s
  | .dqblk op => Sys2Proof.Machine.execDqblk op s
  | .shuf op => Sys2Proof.Machine.execShuf op s
  | .bcast op => Sys2Proof.Machine.execBcast op s
  | .rotl op => Sys2Proof.Machine.execRotl op s
  | .lsh op => Sys2Proof.Machine.execLsh op s
  | .intlv op => Sys2Proof.Machine.execIntlv op s
  | .compr op => Sys2Proof.Machine.execCompr op s
  | .redadd op => Sys2Proof.Machine.execRedadd op s
  | .redmin op => Sys2Proof.Machine.execRedmin op s
  | .redmax op => Sys2Proof.Machine.execRedmax op s
  | .redlog op => Sys2Proof.Machine.execRedlog op s
  | .ld op => Sys2Proof.Machine.execLd op s
  | .st op => Sys2Proof.Machine.execSt op s
  | .lda op => Sys2Proof.Machine.execLda op s
  | .strl op => Sys2Proof.Machine.execStrl op s
  | .fence op => Sys2Proof.Machine.execFence op s
  | .pref op => Sys2Proof.Machine.execPref op s
  | .tmsel op => Sys2Proof.Machine.execTmsel op s
  | .sportArm op => Sys2Proof.Machine.execSportArm op s
  | .sportStop op => Sys2Proof.Machine.execSportStop op s
  | .sportRewind op => Sys2Proof.Machine.execSportRewind op s
  | .spstat op => Sys2Proof.Machine.execSpstat op s
  | .spwin op => Sys2Proof.Machine.execSpwin op s
  | .cbnd op => Sys2Proof.Machine.execCbnd op s
  | .crgt op => Sys2Proof.Machine.execCrgt op s
  | .cmov op => Sys2Proof.Machine.execCmov op s
  | .cget op => Sys2Proof.Machine.execCget op s
  | .cchk op => Sys2Proof.Machine.execCchk op s
  | .aadd op => Sys2Proof.Machine.execAadd op s
  | .asub op => Sys2Proof.Machine.execAsub op s
  | .aand op => Sys2Proof.Machine.execAand op s
  | .aor op => Sys2Proof.Machine.execAor op s
  | .axor op => Sys2Proof.Machine.execAxor op s
  | .amin op => Sys2Proof.Machine.execAmin op s
  | .amax op => Sys2Proof.Machine.execAmax op s
  | .axch op => Sys2Proof.Machine.execAxch op s
  | .acas op => Sys2Proof.Machine.execAcas op s
  | .afadd op => Sys2Proof.Machine.execAfadd op s
  | .barArv op => Sys2Proof.Machine.execBarArv op s
  | .barArvw op => Sys2Proof.Machine.execBarArvw op s
  | .barWait op => Sys2Proof.Machine.execBarWait op s
  | .barPh op => Sys2Proof.Machine.execBarPh op s
  | .ctrAdd op => Sys2Proof.Machine.execCtrAdd op s
  | .ctrArvx op => Sys2Proof.Machine.execCtrArvx op s
  | .ctrWait op => Sys2Proof.Machine.execCtrWait op s
  | .ctrRd op => Sys2Proof.Machine.execCtrRd op s
  | .evwaitWait op => Sys2Proof.Machine.execEvwaitWait op s
  | .evwaitPeek op => Sys2Proof.Machine.execEvwaitPeek op s
  | .evpost op => Sys2Proof.Machine.execEvpost op s
  | .eventRecordDeferredEnqueue => Sys2Proof.Machine.execEventRecordDeferredEnqueue s
  | .mint op => Sys2Proof.Machine.execMint op s
  | .mseed op => Sys2Proof.Machine.execMseed op s
  | .mxarm op => Sys2Proof.Machine.execMxarm op s
  | .mxwld op => Sys2Proof.Machine.execMxwld op s
  | .mxact op => Sys2Proof.Machine.execMxact op s
  | .mxdrn op => Sys2Proof.Machine.execMxdrn op s
  | .mxnorm op => Sys2Proof.Machine.execMxnorm op s
  | .mxquad op => Sys2Proof.Machine.execMxquad op s
  | .mxstat op => Sys2Proof.Machine.execMxstat op s
  | .mxrpr op => Sys2Proof.Machine.execMxrpr op s
  | .mxtab op => Sys2Proof.Machine.execMxtab op s
  | .mxstop op => Sys2Proof.Machine.execMxstop op s
  | .lwgt op => Sys2Proof.Machine.execLwgt op s
  | .lbias op => Sys2Proof.Machine.execLbias op s
  | .lbeta op => Sys2Proof.Machine.execLbeta op s
  | .lseed op => Sys2Proof.Machine.execLseed op s
  | .lclamp op => Sys2Proof.Machine.execLclamp op s
  | .lfree op => Sys2Proof.Machine.execLfree op s
  | .lsweep op => Sys2Proof.Machine.execLsweep op s
  | .lmag op => Sys2Proof.Machine.execLmag op s
  | .lread op => Sys2Proof.Machine.execLread op s
  | .lreadMe op => Sys2Proof.Machine.execLreadMe op s
  | .lstat op => Sys2Proof.Machine.execLstat op s
  | .cpy op => Sys2Proof.Machine.execCpy op s
  | .cpyat op => Sys2Proof.Machine.execCpyat op s
  | .cpyq op => Sys2Proof.Machine.execCpyq op s
  | .cpyx op => Sys2Proof.Machine.execCpyx op s
  | .tmplw op => Sys2Proof.Machine.execTmplw op s
  | .cpyb op => Sys2Proof.Machine.execCpyb op s
  | .resultCompletion => Sys2Proof.Machine.execResultCompletion s
  | .tokenCircuitArrival => Sys2Proof.Machine.execTokenCircuitArrival s
  | .meStreamInputToken => Sys2Proof.Machine.execMeStreamInputToken s
  | .wKindHoldRelease => Sys2Proof.Machine.execWKindHoldRelease s
  | .holdOverrun => Sys2Proof.Machine.execHoldOverrun s
  | .illegalWordIssue => Sys2Proof.Machine.execIllegalWordIssue s
  | .bankAccessPerform => Sys2Proof.Machine.execBankAccessPerform s
  | .strlHeldPerform => Sys2Proof.Machine.execStrlHeldPerform s
  | .readWalkTokenPresent => Sys2Proof.Machine.execReadWalkTokenPresent s
  | .writeWalkTokenPerform => Sys2Proof.Machine.execWriteWalkTokenPerform s
  | .writePortUnFlush => Sys2Proof.Machine.execWritePortUnFlush s
  | .translationWalkComplete => Sys2Proof.Machine.execTranslationWalkComplete s
  | .objectCacheFill => Sys2Proof.Machine.execObjectCacheFill s
  | .vaultBankEvent => Sys2Proof.Machine.execVaultBankEvent s
  | .vaultReadReply => Sys2Proof.Machine.execVaultReadReply s
  | .matrixTableFire => Sys2Proof.Machine.execMatrixTableFire s
  | .matrixWld => Sys2Proof.Machine.execMatrixWld s
  | .matrixWeightTokenWrite => Sys2Proof.Machine.execMatrixWeightTokenWrite s
  | .matrixAct => Sys2Proof.Machine.execMatrixAct s
  | .matrixQuad => Sys2Proof.Machine.execMatrixQuad s
  | .matrixActivationPop => Sys2Proof.Machine.execMatrixActivationPop s
  | .matrixGroupApply => Sys2Proof.Machine.execMatrixGroupApply s
  | .matrixDrnMx => Sys2Proof.Machine.execMatrixDrnMx s
  | .matrixDrnRowPush => Sys2Proof.Machine.execMatrixDrnRowPush s
  | .matrixDrnRaw => Sys2Proof.Machine.execMatrixDrnRaw s
  | .matrixNorm => Sys2Proof.Machine.execMatrixNorm s
  | .matrixCommandComplete => Sys2Proof.Machine.execMatrixCommandComplete s
  | .matrixOperandLate => Sys2Proof.Machine.execMatrixOperandLate s
  | .matrixOperandArrived => Sys2Proof.Machine.execMatrixOperandArrived s
  | .matrixRowProgressStop => Sys2Proof.Machine.execMatrixRowProgressStop s
  | .lodestoneCommandBegin => Sys2Proof.Machine.execLodestoneCommandBegin s
  | .lodestoneColourUpdate => Sys2Proof.Machine.execLodestoneColourUpdate s
  | .lodestoneCommandComplete => Sys2Proof.Machine.execLodestoneCommandComplete s
  | .tellerRunPost => Sys2Proof.Machine.execTellerRunPost s
  | .tellerRunStart => Sys2Proof.Machine.execTellerRunStart s
  | .tellerCend off => Sys2Proof.Machine.execTellerCend off s
  | .tellerAct off bank row => Sys2Proof.Machine.execTellerAct off bank row s
  | .tellerRd off bank col => Sys2Proof.Machine.execTellerRd off bank col s
  | .tellerRda off bank col => Sys2Proof.Machine.execTellerRda off bank col s
  | .tellerWr off bank col => Sys2Proof.Machine.execTellerWr off bank col s
  | .tellerWra off bank col => Sys2Proof.Machine.execTellerWra off bank col s
  | .tellerPre off bank => Sys2Proof.Machine.execTellerPre off bank s
  | .tellerPrea off => Sys2Proof.Machine.execTellerPrea off s
  | .tellerRefab off => Sys2Proof.Machine.execTellerRefab off s
  | .tellerRefpb off bank => Sys2Proof.Machine.execTellerRefpb off bank s
  | .tellerMrw off ma mop => Sys2Proof.Machine.execTellerMrw off ma mop s
  | .tellerMrr off ma => Sys2Proof.Machine.execTellerMrr off ma s
  | .tellerZqs off => Sys2Proof.Machine.execTellerZqs off s
  | .tellerZql off => Sys2Proof.Machine.execTellerZql off s
  | .tellerReadDataReturn => Sys2Proof.Machine.execTellerReadDataReturn s
  | .tellerRunEndCheck => Sys2Proof.Machine.execTellerRunEndCheck s
  | .tellerRecoveryPrecharge => Sys2Proof.Machine.execTellerRecoveryPrecharge s
  | .tellerTimingWrite => Sys2Proof.Machine.execTellerTimingWrite s
  | .refreshWatchdogTick => Sys2Proof.Machine.execRefreshWatchdogTick s
  | .rlapseClear => Sys2Proof.Machine.execRlapseClear s
  | .hostSlotService => Sys2Proof.Machine.execHostSlotService s
  | .tellerStreamAccess => Sys2Proof.Machine.execTellerStreamAccess s
  | .bteDeferredAccept => Sys2Proof.Machine.execBteDeferredAccept s
  | .copyBegin => Sys2Proof.Machine.execCopyBegin s
  | .copyTokenRead => Sys2Proof.Machine.execCopyTokenRead s
  | .copyTokenWrite => Sys2Proof.Machine.execCopyTokenWrite s
  | .copyComplete => Sys2Proof.Machine.execCopyComplete s
  | .doorbellWrite => Sys2Proof.Machine.execDoorbellWrite s
  | .schedulerScan => Sys2Proof.Machine.execSchedulerScan s
  | .loadGraphPacket => Sys2Proof.Machine.execLoadGraphPacket s
  | .armAlmanacPacket => Sys2Proof.Machine.execArmAlmanacPacket s
  | .courseChangePacket => Sys2Proof.Machine.execCourseChangePacket s
  | .launchPacket => Sys2Proof.Machine.execLaunchPacket s
  | .determinismLevelPacket => Sys2Proof.Machine.execDeterminismLevelPacket s
  | .fencePacket => Sys2Proof.Machine.execFencePacket s
  | .powerStatePacket => Sys2Proof.Machine.execPowerStatePacket s
  | .auditRequestPacket => Sys2Proof.Machine.execAuditRequestPacket s
  | .imageUpdatePacket => Sys2Proof.Machine.execImageUpdatePacket s
  | .escrowDeclarationPacket => Sys2Proof.Machine.execEscrowDeclarationPacket s
  | .deviceLaunchArrival => Sys2Proof.Machine.execDeviceLaunchArrival s
  | .armRequestArrival => Sys2Proof.Machine.execArmRequestArrival s
  | .slotStart => Sys2Proof.Machine.execSlotStart s
  | .slotDrainComplete => Sys2Proof.Machine.execSlotDrainComplete s
  | .launchRetire => Sys2Proof.Machine.execLaunchRetire s
  | .taskEnd => Sys2Proof.Machine.execTaskEnd s
  | .preemptRequest => Sys2Proof.Machine.execPreemptRequest s
  | .launchSaved => Sys2Proof.Machine.execLaunchSaved s
  | .walkerArm => Sys2Proof.Machine.execWalkerArm s
  | .entryStart => Sys2Proof.Machine.execEntryStart s
  | .primarySample => Sys2Proof.Machine.execPrimarySample s
  | .entryDeadline => Sys2Proof.Machine.execEntryDeadline s
  | .drbSample => Sys2Proof.Machine.execDrbSample s
  | .entryPublication => Sys2Proof.Machine.execEntryPublication s
  | .assayEarlyCompare => Sys2Proof.Machine.execAssayEarlyCompare s
  | .waypointDecision => Sys2Proof.Machine.execWaypointDecision s
  | .courseChangeApply => Sys2Proof.Machine.execCourseChangeApply s
  | .quantumBoundary => Sys2Proof.Machine.execQuantumBoundary s
  | .reconfigurationTokenPass => Sys2Proof.Machine.execReconfigurationTokenPass s
  | .auditRun => Sys2Proof.Machine.execAuditRun s
  | .auditOverdue => Sys2Proof.Machine.execAuditOverdue s
  | .rteAction => Sys2Proof.Machine.execRteAction s
  | .genupArrival => Sys2Proof.Machine.execGenupArrival s
  | .helmRequestCredit => Sys2Proof.Machine.execHelmRequestCredit s
  | .remapApply => Sys2Proof.Machine.execRemapApply s
  | .cfgPortRequest => Sys2Proof.Machine.execCfgPortRequest s
  | .verifyEngineComplete => Sys2Proof.Machine.execVerifyEngineComplete s
  | .faultRecordDelivery => Sys2Proof.Machine.execFaultRecordDelivery s
  | .linkBeatReceive => Sys2Proof.Machine.execLinkBeatReceive s
  | .linkRetrySend => Sys2Proof.Machine.execLinkRetrySend s
  | .linkLaneRepair => Sys2Proof.Machine.execLinkLaneRepair s
  | .meridianExchange => Sys2Proof.Machine.execMeridianExchange s
  | .meridianExchangeReceive => Sys2Proof.Machine.execMeridianExchangeReceive s
  | .dieRejoin => Sys2Proof.Machine.execDieRejoin s
  | .sxofsWrite => Sys2Proof.Machine.execSxofsWrite s
  | .ppsInputEdge => Sys2Proof.Machine.execPpsInputEdge s
  | .ptmSample => Sys2Proof.Machine.execPtmSample s
  | .sextantTrimTick => Sys2Proof.Machine.execSextantTrimTick s
  | .sextantHoldoverEntry => Sys2Proof.Machine.execSextantHoldoverEntry s
  | .ppsOutRise => Sys2Proof.Machine.execPpsOutRise s
  | .ppsOutFall => Sys2Proof.Machine.execPpsOutFall s
  | .ptpFrameTimestamp => Sys2Proof.Machine.execPtpFrameTimestamp s
  | .todbaseWrite => Sys2Proof.Machine.execTodbaseWrite s
  | .thermalSensorRead => Sys2Proof.Machine.execThermalSensorRead s
  | .powerMeasureTick => Sys2Proof.Machine.execPowerMeasureTick s
  | .ctxCreate => Sys2Proof.Machine.execCtxCreate s
  | .ctxEnd => Sys2Proof.Machine.execCtxEnd s
  | .functionLevelReset => Sys2Proof.Machine.execFunctionLevelReset s
  | .hostVaultAccess => Sys2Proof.Machine.execHostVaultAccess s
  | .hostDramAccess => Sys2Proof.Machine.execHostDramAccess s
  | .pwrcmdStandby => Sys2Proof.Machine.execPwrcmdStandby s
  | .pwrcmdRun => Sys2Proof.Machine.execPwrcmdRun s
  | .pwrcmdDiag => Sys2Proof.Machine.execPwrcmdDiag s
  | .pwrcmdInvalid => Sys2Proof.Machine.execPwrcmdInvalid s
  | .fusecmtWrite => Sys2Proof.Machine.execFusecmtWrite s
  | .flashWindowWrite => Sys2Proof.Machine.execFlashWindowWrite s
  | .spdmGetVersion => Sys2Proof.Machine.execSpdmGetVersion s
  | .spdmGetCapabilities => Sys2Proof.Machine.execSpdmGetCapabilities s
  | .spdmNegotiateAlgorithms => Sys2Proof.Machine.execSpdmNegotiateAlgorithms s
  | .spdmGetDigests => Sys2Proof.Machine.execSpdmGetDigests s
  | .spdmGetCertificate => Sys2Proof.Machine.execSpdmGetCertificate s
  | .spdmChallenge => Sys2Proof.Machine.execSpdmChallenge s
  | .spdmGetMeasurements => Sys2Proof.Machine.execSpdmGetMeasurements s
  | .spdmUnsupported => Sys2Proof.Machine.execSpdmUnsupported s
  | .doeDiscovery => Sys2Proof.Machine.execDoeDiscovery s
  | .bootSequence => Sys2Proof.Machine.execBootSequence s
  | .heartbeatArrival => Sys2Proof.Machine.execHeartbeatArrival s
  | .heartbeatPeriod => Sys2Proof.Machine.execHeartbeatPeriod s
  | .bootTryTimeout => Sys2Proof.Machine.execBootTryTimeout s
  | .updateQuiesce => Sys2Proof.Machine.execUpdateQuiesce s
  | .updateReloadComplete => Sys2Proof.Machine.execUpdateReloadComplete s
  | .updateHeartbeatDeadline => Sys2Proof.Machine.execUpdateHeartbeatDeadline s
  | .vaultPartitionWrite => Sys2Proof.Machine.execVaultPartitionWrite s
  | .registerWrite => Sys2Proof.Machine.execRegisterWrite s
  | .updateRollbackComplete => Sys2Proof.Machine.execUpdateRollbackComplete s
  | .supplyRemoval => Sys2Proof.Machine.execSupplyRemoval s

end Sys2Proof.Machine
end

