-- ==== Sys2Proof/Machine/Turn.lean ====
section
/-! DEFINITION. The head of the agenda: what the machine does next, fetched and decoded (R19, R69, R72, R96, R199, R207), and
an instruction stored where the next fetch finds it. -/

namespace Sys2Proof.Machine

/-- What the head of the agenda asks for. -/
inductive Fetched where
  | run (i : Instr)
  /-- Nothing: the slot or Teller no longer issues. -/
  | idle
  /-- A Teller's word that is no command, already dealt with. -/
  | refused (s : State)
  /-- A unit that the device does not have. -/
  | absent
deriving DecidableEq, Repr

/-- Slots of the device: 4 dies of 144 tiles of 8 VEs of 8 slots (R3, R15); Tellers (R198). -/
def slotCount : Nat := 4 * 144 * 64
def tellerCount : Nat := 64

/-- The step that a slot's turn is: the decoded instruction, or the issue of an illegal or poisoned word (R96). -/
def fetchSlot (s : State) (n : Nat) : Fetched :=
  if slotCount ≤ n then .absent
  else if (s.slot n).st ≠ .running ∨ (s.elem (veOfSlot n)).blocked then .idle
  else if fetchPoisoned s n then .run .illegalWordIssue
  else
    match fetchAt s n with
    | .ok i => .run i
    | .error _ => .run .illegalWordIssue

/-- The step that a Teller's command is: the word of the run in progress, decoded; a poisoned or illegal word is a violation of
the run (R207). -/
def fetchTeller (s : State) (tl : Nat) : Fetched :=
  let x := s.tel tl
  if tellerCount ≤ tl then .absent
  else
    match activeRun x (ckOf s s.mcnt) with
    | none => .idle
    | some r =>
      if x.storePoison.contains (progBase (mget 0#32 x.progs r.prog) + r.ix) then .refused (badWord s tl true)
      else
        match decodeTeller (runWord x r) with
        | .ok i => .run i
        | .error _ => .refused (badWord s tl false)

/-! ## An instruction where the next fetch finds it -/

/-- An upkeep run of Teller 0 that is in progress, whose one command is the word. -/
def placeTeller (s : State) (w : Nat) : State :=
  let r : TRun := { id := 0, kind := 3, ctx := 0, copy := 0, tile := 0, chan := 0, rep := 0, prog := 0, start := ckOf s s.mcnt, ns := 8, ix := 0, burst := 0
                    bank0 := 0, row0 := 0, col0 := 0, lo := 0, hi := 0, bad := false, displaced := false, opened := [] }
  { s.setTel 0 { s.tel 0 with store := [(0, BitVec.ofNat 32 w)], storePoison := [], progs := [(0, 0x0000_1F00#32)], runs := [r] } with
    agenda := { time := 16 * s.mcnt, act := .teller 0 } :: s.agenda }

/-- Slot 0 of VE 4 of tile (0, 0) of die 0 in sequenced mode at word address 0, where the words stand, RUNNING and next on the
agenda. -/
def placeWords (s : State) (ws : List Word) : State :=
  let e := s.elem 4
  let s1 := s.setElem 4 { e with bind := mset e.bind 0 0xC000_0000#32, imem := (List.range ws.length).zip ws, imemPoison := [], blocked := false }
  { s1.setSlot 32 { s.slot 32 with st := .running, ia := 0 } with agenda := { time := 16 * s.mcnt, act := .issue 32 } :: s.agenda }

/-- The opcode table's word: a Teller command where it has 32 bits, else the words of a sequenced instruction. -/
def placeWord (s : State) (nbits w : Nat) : State :=
  if nbits ≤ 32 then placeTeller s w else placeWords s (wordsOfNat 3 w)

end Sys2Proof.Machine
end

