-- ==== Sys2Proof/Machine/Step.lean ====
section
/-! DEFINITION. One step: the head of the agenda, fetched and run. -/

namespace Sys2Proof.Machine

/-- Takes the item at the head of the agenda: time moves on to its cycle, and the slot's or Teller's instruction or the
event runs. With nothing on the agenda a cycle passes. -/
def step (s : State) : Host.Outcome State Fault Refusal :=
  match s.agenda with
  | [] => .next { s with mcnt := s.mcnt + 1 }
  | it :: rest =>
    let s1 := { s with agenda := rest, mcnt := max s.mcnt (it.time / 16) }
    match it.act with
    | .issue n =>
      match fetchSlot s1 n with
      | .run i => exec i { s1 with cur := n, arg := Arg.of n 0 0 0 0 }
      | .idle => .next s1
      | .refused t => .next t
      | .absent => .fault .noSuchUnit
    | .teller tl =>
      match fetchTeller s1 tl with
      | .run i => exec i { s1 with cur := tl, arg := Arg.none }
      | .idle => .next s1
      | .refused t => .next t
      | .absent => .fault .noSuchUnit
    | .ev i a => exec i { s1 with arg := a }

/-- The opcode table's instruction stored where step fetches next, which then is the head of the agenda. -/
def State.withFetchWord (s : State) (nbits w : Nat) : State := placeWord s nbits w

end Sys2Proof.Machine
end

