-- ==== Sys2Proof/Safety.lean ====
section
/-! DEFINITION. The terms that statements about the machine use: when an instruction may issue, what an issue leaves
alone, and what it puts in flight. -/

namespace Sys2Proof.Machine

/-! ## The turn of a slot -/

/-- The triplet that the instruction of this turn uses. -/
def tripOf (s : State) (op : Op) : Trip := resolve (s.slot s.cur) op

/-- The operands of the instruction of this turn. -/
def opndsOf (s : State) (maj : Nat) (op : Op) : Opnds := s.operands s.cur maj op

/-- The conditions on the state under which the slot whose turn it is issues an instruction normally: it runs and its
element is not blocked (R30), the triplet is legal here (R20, R66, R96), no word of configuration that it uses is uncorrectable (R326), every
port it pops holds a token that is not poisoned (R67, R326), no source register is poisoned (R326), every output queue
in which it reserves an entry has room (R316), and the iterative unit is free where it needs it (R87). -/
structure Ready (s : State) (maj : Nat) (op : Op) : Prop where
  running : (s.slot s.cur).st = .running
  unblocked : (s.elem (veOfSlot s.cur)).blocked = false
  legal : illegalHere s s.cur maj op (tripOf s op) = false
  sound : cfgUsed s s.cur maj op = none
  tokens : ∀ p ∈ popList op (tripOf s op),
    ∃ k : Token, s.tokenOf (veOfSlot s.cur) op (tripOf s op) p = some k ∧ k.poison = false
  cleanA : s.srcPoisoned s.cur maj op.acls.toNat (rawA (tripOf s op).raw) = false
  cleanB : s.srcPoisoned s.cur maj op.bcls.toNat (rawB (tripOf s op).raw) = false
  room : reserves maj op = true → ∀ g < 6, (tripOf s op).fan.getLsbD g = true →
    hasRoom (s.elem (veOfSlot s.cur)) s.mcnt g = true
  unitFree : isIterative maj = true → unitBusy (s.elem (veOfSlot s.cur)) s.mcnt = false

/-- The item of slot `n`'s next issue, `gap` + 1 turns on (R73). -/
def nextIssue (n : Nat) (s : State) (op : Op) : Item :=
  { time := 16 * s.turnOf n (s.mcnt + (op.gap.toNat + 1) * (s.elem (veOfSlot n)).wheel) + rkIssue (veOfSlot n)
    act := .issue n }

/-- The item at which the result of this turn completes (R19, R86). -/
def completionOf (s : State) (lat : Nat) : Item :=
  { time := 16 * (s.mcnt + lat - 1) + rkComplete, act := .ev .resultCompletion (Arg.of s.cur (s.slot s.cur).seq 0 0 0) }

/-! ## What an issue leaves alone -/

/-- The state without what the movement of tokens changes: the agenda, request numbers, elements, tiles, stream ports, input
queues, links and their packets. -/
def State.unqueued (s : State) : State :=
  { s with agenda := [], nextId := 0, elems := [], tiles := [], sports := [], inqs := [], links := [], packets := [] }
/-- An element without its output queues and its MX queue. -/
def Elem.unqueued (e : Elem) : Elem := { e with outq := [], mx := [] }
/-- A tile without its event queue. -/
def Tile.unqueued (x : Tile) : Tile := { x with evq := [] }
/-- A stream port without the tokens it holds and asks for. -/
def SPort.unqueued (p : SPort) : SPort := { p with present := [], input := [], nextReq := 0, asked := 0, left := 0 }

/-- From `s` to `t` nothing changed but tokens in queues and on their way: the agenda, request numbers, input queues, links
and their packets, the output queues and MX queues of elements, the event queues of tiles, and the tokens that stream
ports hold and ask for. -/
structure QueuesOnly (s t : State) : Prop where
  rest : t.unqueued = s.unqueued
  elem : ∀ v, (t.elem v).unqueued = (s.elem v).unqueued
  tile : ∀ k, (t.tile k).unqueued = (s.tile k).unqueued
  sport : ∀ m, (t.sport m).unqueued = (s.sport m).unqueued

/-- The state without slots too. -/
def State.unslotted (s : State) : State := { s.unqueued with slots := [] }
/-- An element without its queues, its results in flight and their reservations, and its iterative unit. -/
def Elem.unissued (e : Elem) : Elem := { e.unqueued with flight := [], resv := [], iterUntil := 0 }

/-- What an instruction of slot `n` without effects of its own leaves alone at its issue: every other slot, every register
file, every setting of every element, all of memory and the rest of the machine; of its own element the results in flight and
the reservations may change, and the cycle until which the iterative unit is busy; tokens may move. -/
structure Quiet (n : Nat) (s t : State) : Prop where
  rest : t.unslotted = s.unslotted
  slots : ∀ m, m ≠ n → t.slot m = s.slot m
  own : (t.elem (veOfSlot n)).unissued = (s.elem (veOfSlot n)).unissued
  elem : ∀ v, v ≠ veOfSlot n → (t.elem v).unqueued = (s.elem v).unqueued
  tile : ∀ k, (t.tile k).unqueued = (s.tile k).unqueued
  sport : ∀ m, (t.sport m).unqueued = (s.sport m).unqueued

/-! ## What an issue does -/

/-- The state once the ports that the instruction names have been popped, each once (R67). -/
def afterPops (s : State) (op : Op) : State :=
  (popList op (tripOf s op)).foldl (fun a p => a.pop (veOfSlot s.cur) p (tripOf s op).phase) s

/-- The instruction issues and has neither result nor effect: the slot stands at its next position and issues next `gap` + 1
turns on, the results in flight are as before, and nothing else has changed. -/
structure Passes (s t : State) (op : Op) (jump : Option (BitVec 11)) : Prop where
  slot : t.slot s.cur = advance (s.slot s.cur) op jump
  flight : (t.elem (veOfSlot s.cur)).flight = (s.elem (veOfSlot s.cur)).flight
  unit : (t.elem (veOfSlot s.cur)).iterUntil = (s.elem (veOfSlot s.cur)).iterUntil
  next : nextIssue s.cur s op ∈ t.agenda
  quiet : Quiet s.cur s t

/-- The instruction issues with a result and no other effect: the slot moves on and issues next `gap` + 1 turns on, the
result is in flight and completes at the end of cycle issue + `lat` − 1, and no register has changed yet. -/
structure Delivers (s t : State) (maj : Nat) (op : Op) (kind : DestKind) (lat : Nat) (d : Delivery)
    (jump : Option (BitVec 11) := none) : Prop where
  slot : t.slot s.cur = advance (s.slot s.cur) op jump
  flight : (t.elem (veOfSlot s.cur)).flight
    = (s.elem (veOfSlot s.cur)).flight ++ [resultOf (opndsOf s maj op) s.mcnt kind lat d]
  done : completionOf s lat ∈ t.agenda
  next : nextIssue s.cur s op ∈ t.agenda
  quiet : Quiet s.cur s t

/-- A result of an issue: its kind, its latency, what it delivers. -/
abbrev Res := DestKind × Nat × Delivery

/-- The instruction issues with an effect: `u` is the state with the pops made and the effect applied; on top of it the
slot moves on and issues next `gap` + 1 turns on, the result, where there is one, is in flight, and nothing else changes. -/
structure Acts (s t : State) (maj : Nat) (op : Op) (u : State) (res : Option Res) : Prop where
  slot : t.slot s.cur = advance (u.slot s.cur) op none
  flight : (t.elem (veOfSlot s.cur)).flight = (u.elem (veOfSlot s.cur)).flight ++ (match res with
    | some (k, lat, d) => [resultOf (opndsOf s maj op) s.mcnt k lat d]
    | none => [])
  done : ∀ r, res = some r → completionOf s r.2.1 ∈ t.agenda
  next : nextIssue s.cur u op ∈ t.agenda
  time : u.mcnt = s.mcnt
  quiet : Quiet s.cur u t

/-! ## The common forms of a statement about an instruction -/

/-- A lane-wise instruction issues whenever it is ready, and delivers `f` of each lane `lat` cycles on. -/
def Yields (i : Op → Instr) (maj lat : Nat) (f : Op → State → Opnds → Nat → Word × Flags) : Prop :=
  ∀ (s : State) (op : Op), Ready s maj op → ∃ t, exec (i op) s = .next t
    ∧ Delivers s t maj op .value lat (perLane (opndsOf s maj op) (f op s (opndsOf s maj op)))

/-- As `Yields`, and the iterative unit of the element is busy for `int` cycles (R87). -/
def YieldsIter (i : Op → Instr) (maj lat int : Nat) (f : Op → State → Opnds → Nat → Word × Flags) : Prop :=
  ∀ (s : State) (op : Op), Ready s maj op → ∃ t, exec (i op) s = .next t
    ∧ Delivers s t maj op .value lat (perLane (opndsOf s maj op) (f op s (opndsOf s maj op)))
    ∧ (t.elem (veOfSlot s.cur)).iterUntil = s.mcnt + int

/-- A compare-class instruction issues whenever it is ready, and delivers a mask two cycles on (R63). -/
def YieldsMask (i : Op → Instr) (maj : Nat) (m : Op → State → Opnds → Nat → Bool × Flags) : Prop :=
  ∀ (s : State) (op : Op), Ready s maj op → ∃ t, exec (i op) s = .next t
    ∧ Delivers s t maj op .predicate 2 (maskOut (opndsOf s maj op) (fun l => (m op s (opndsOf s maj op) l).1)
        (fun l => (m op s (opndsOf s maj op) l).2))

/-- An instruction that computes one delivery from the state once its pops are made. -/
def YieldsOne (i : Op → Instr) (maj : Nat) (lat : Op → Nat) (d : Op → State → Opnds → Delivery) : Prop :=
  ∀ (s : State) (op : Op), Ready s maj op → ∃ t, exec (i op) s = .next t
    ∧ Delivers s t maj op .value (lat op) (d op (afterPops s op) (opndsOf s maj op))

/-- An instruction that a condition on the state and its operands lets issue, with the effect `u`, no result. -/
def Does (i : Op → Instr) (maj : Nat) (c : Op → State → Opnds → Prop) (u : Op → Opnds → State → State) : Prop :=
  ∀ (s : State) (op : Op), Ready s maj op → (opndsOf s maj op).on = true → c op (afterPops s op) (opndsOf s maj op) →
    ∃ t, exec (i op) s = .next t ∧ Acts s t maj op (u op (opndsOf s maj op) (afterPops s op)) none

/-- With every lane off the instruction issues and does nothing (R99, R145, R226). -/
def IdleWhenOff (i : Op → Instr) (maj : Nat) : Prop :=
  ∀ (s : State) (op : Op), Ready s maj op → (opndsOf s maj op).on = false →
    ∃ t, exec (i op) s = .next t ∧ Passes s t op none

/-- An instruction that is not held passes. -/
def PassesUnless (i : Op → Instr) (maj : Nat) (held : State → Opnds → Bool) : Prop :=
  ∀ (s : State) (op : Op), Ready s maj op → held (afterPops s op) (opndsOf s maj op) = false →
    ∃ t, exec (i op) s = .next t ∧ Passes s t op none

/-! ## Tellers -/

/-- A Teller without its runs, its buffers and what mode-register commands write and read. -/
def Tel.unqueued (x : Tel) : Tel := { x with runs := [], rbuf := 0, wbuf := 0, mrs := [], mrr := 0 }

/-- A Teller's command is issued: the sub-channel is as the command leaves it, the run goes on with its next command and has
opened the bank of an ACT and made the burst of a data command, and no tile has changed. -/
structure TellerIssues (s t : State) (r : TRun) (c : TCmd) (ck : Nat) : Prop where
  chip : (t.tel s.cur).unqueued = (tellerIssue (s.tel s.cur) r c ck).unqueued
  runs : (t.tel s.cur).runs = (s.tel s.cur).runs.map (fun q => if q.id = r.id then
    { q with ix := q.ix + 1
             opened := (match c with
               | .act b _ => b :: q.opened
               | _ => q.opened)
             burst := q.burst + (match c with
               | .burst _ _ _ _ => 1
               | _ => 0) } else q)
  others : ∀ k, k ≠ s.cur → (t.tel k).unqueued = (s.tel k).unqueued
  slots : t.slots = s.slots
  elems : t.elems = s.elems
  tiles : t.tiles = s.tiles

/-! ## Events -/

/-- The event completes, in a state of which `P` holds. -/
def Leads (i : Instr) (s : State) (P : State → Prop) : Prop := ∃ t, exec i s = .next t ∧ P t

/-! ## Soundness of a state -/

/-- What every step keeps: memory is in its canonical form, and the agenda is in order of time. -/
def State.Sound (s : State) : Prop := Memory.wf s.mem = true ∧ s.agenda.Pairwise (fun a b => a.time ≤ b.time)

end Sys2Proof.Machine
end

