-- ==== Sys2Proof/Certificates/Slice0/Obligations.lean ====
section
/-! DEFINITION. The statements about the machine, each a proposition that the kernel checks a proof of. -/

open Sys2Proof Sys2Proof.Machine

/-! ## Instructions that compute (R86, R97, R113 to R119) -/

/-- The integer, logical, shift and bit instructions of R113 to R115 issue when ready and deliver two cycles on (IMUL four),
on elements of width S2.WIDTH, or 32 for a scalar destination (R97).
The instructions of the iterative unit hold it for their initiation interval and deliver at their latency. -/
def Obligations.IntegerDelivers : Prop :=
  (Yields .iadd 0x20 2 (fun op => intOp (addF op.var)) ∧ Yields .isub 0x21 2 (fun op => intOp (subF op.var))
  ∧ Yields .imul 0x22 4 (fun op => intOp (mulF op.var)) ∧ Yields .iabs 0x25 2 (fun op => intOp (absF op.var))
  ∧ Yields .ineg 0x26 2 (fun op => intOp (negF op.var)) ∧ Yields .imin 0x27 2 (fun op => intOp (minF op.var))
  ∧ Yields .imax 0x28 2 (fun op => intOp (maxF op.var)) ∧ Yields .andI 0x29 2 (fun _ => intOp andF)
  ∧ Yields .orI 0x2A 2 (fun _ => intOp orF) ∧ Yields .xorI 0x2B 2 (fun _ => intOp xorF)
  ∧ Yields .andn 0x2C 2 (fun _ => intOp andnF) ∧ Yields .orn 0x2D 2 (fun _ => intOp ornF)
  ∧ Yields .shl 0x2E 2 (fun _ => intOp shlF) ∧ Yields .shr 0x2F 2 (fun _ => intOp shrF)
  ∧ Yields .asr 0x30 2 (fun _ => intOp asrF) ∧ Yields .rol 0x31 2 (fun _ => intOp rolF)
  ∧ Yields .clz 0x32 2 (fun _ => intOp (fun n a _ => plain (clzN a n)))
  ∧ Yields .ctz 0x33 2 (fun _ => intOp (fun n a _ => plain (ctzN a 0 n)))
  ∧ Yields .popc 0x34 2 (fun _ => intOp (fun n a _ => plain (popN a n)))
  ∧ Yields .brev 0x35 2 (fun _ => intOp (fun n a _ => plain (revN a n n))))
  ∧ (YieldsIter .divI 0x23 18 16 (fun op => intOp (divF op.var)) ∧ YieldsIter .remI 0x24 18 16 (fun op => intOp (remF op.var))
  ∧ YieldsIter .fdiv 0x57 16 14 (fun _ => f32Op (fDiv fp32))
  ∧ YieldsIter .fsqrt 0x58 20 18 (fun _ => f32Op (fun a _ => fSqrt fp32 a)))

/-- Bit fields, SEL, MOV to a register, FLG or port, and the integer comparisons (R116 to R119). -/
def Obligations.SelectAndCompareDeliver : Prop :=
  Yields .bfx 0x36 2 (fun op _ o l => bfxF op.var (lane o.a l) (lane o.b l))
  ∧ Yields .bfi 0x37 2 (fun _ s o l => bfiF (lane o.a l) (lane o.b l) (lane (s.oldDest o) l))
  ∧ YieldsOne .sel 0x38 (fun _ => 2) (fun _ _ o => selOut o)
  ∧ (∀ (s : State) (op : Op), Ready s 0x39 op → ∃ t, exec (.movI op) s = .next t ∧
      (if op.dcls = 6 then
        Delivers s t 0x39 op .flags 2 { value := splat (opndsOf s 0x39 op).sa, lanes := fullMask (opndsOf s 0x39 op).on
                                        valid := 0, flags := noFlags }
      else Delivers s t 0x39 op .value 2
        (perLane (opndsOf s 0x39 op) (fun l => (lane (opndsOf s 0x39 op).a l, noFlags)))))
  ∧ YieldsMask .icmp 0x3A (fun op s o l => (cmpLane true op.var (s.elem o.ve).width (lane o.a l) (lane o.b l), noFlags))
  ∧ YieldsMask .icmpu 0x3B (fun op s o l => (cmpLane false op.var (s.elem o.ve).width (lane o.a l) (lane o.b l), noFlags))

/-- On 32-bit elements the integer instructions compute what the two's complement words say: wrapping sums and products,
shifts that give zero or copies of the sign past the width, division that truncates, with all ones and the dividend for a
zero divisor and DZ raised (R113, R114, R115).
The saturating forms clamp to the range of the width, signed or unsigned, and raise SAT when they clamp (R36, R113).
Each element of a lane is computed from the elements at its own place, whatever the others hold (R37, R97). -/
def Obligations.IntegerWords : Prop :=
  (∀ a b : Word,
  intLane 32 (addF 0 32) a b = (a + b, noFlags) ∧ intLane 32 (subF 0 32) a b = (a - b, noFlags)
  ∧ intLane 32 (mulF 0 32) a b = (a * b, noFlags)
  ∧ intLane 32 (mulF 1 32) a b = (((a.signExtend 64 * b.signExtend 64) >>> 32).setWidth 32, noFlags)
  ∧ intLane 32 (mulF 2 32) a b = (((a.setWidth 64 * b.setWidth 64) >>> 32).setWidth 32, noFlags)
  ∧ intLane 32 (negF 0 32) a b = (-a, noFlags)
  ∧ intLane 32 (minF 0 32) a b = (if b.slt a then b else a, noFlags)
  ∧ intLane 32 (minF 1 32) a b = (if b.ult a then b else a, noFlags)
  ∧ intLane 32 (maxF 0 32) a b = (if a.slt b then b else a, noFlags)
  ∧ intLane 32 (maxF 1 32) a b = (if a.ult b then b else a, noFlags)
  ∧ intLane 32 (andF 32) a b = (a &&& b, noFlags) ∧ intLane 32 (orF 32) a b = (a ||| b, noFlags)
  ∧ intLane 32 (xorF 32) a b = (a ^^^ b, noFlags) ∧ intLane 32 (andnF 32) a b = (a &&& ~~~b, noFlags)
  ∧ intLane 32 (ornF 32) a b = (a ||| ~~~b, noFlags)
  ∧ intLane 32 (shlF 32) a b = (a <<< b.toNat, noFlags) ∧ intLane 32 (shrF 32) a b = (a >>> b.toNat, noFlags)
  ∧ intLane 32 (asrF 32) a b = (a.sshiftRight b.toNat, noFlags)
  ∧ intLane 32 (rolF 32) a b = (a.rotateLeft (b.toNat % 32), noFlags)
  ∧ intLane 32 (divF 0 32) a b = (if b = 0 then (0xFFFF_FFFF#32, fDZ) else (a.sdiv b, noFlags))
  ∧ intLane 32 (divF 1 32) a b = (if b = 0 then (0xFFFF_FFFF#32, fDZ) else (a.udiv b, noFlags))
  ∧ intLane 32 (remF 0 32) a b = (if b = 0 then (a, fDZ) else (a.srem b, noFlags))
  ∧ intLane 32 (remF 1 32) a b = (if b = 0 then (a, fDZ) else (a.umod b, noFlags)))
  ∧ (∀ (n : Nat) (a b : Nat), 0 < n → a < 2 ^ n → b < 2 ^ n →
  (let x := sextNat a n + sextNat b n
   let c := max (-(2 ^ (n - 1) : Int)) (min (2 ^ (n - 1) - 1) x)
   addF 1 n a b = (wrapInt c n, if c = x then noFlags else fSAT))
  ∧ (let c := min (2 ^ n - 1) (a + b)
     addF 2 n a b = (c, if c = a + b then noFlags else fSAT))
  ∧ (let x := sextNat a n - sextNat b n
     let c := max (-(2 ^ (n - 1) : Int)) (min (2 ^ (n - 1) - 1) x)
     subF 1 n a b = (wrapInt c n, if c = x then noFlags else fSAT))
  ∧ subF 2 n a b = (a - b, if a < b then fSAT else noFlags))
  ∧ (∀ (n : Nat) (f : Nat → Nat → Nat × Flags) (a b : Word) (k : Nat),
  (n = 8 ∨ n = 16 ∨ n = 32) → k < 32 / n →
  elemK n (intLane n f a b).1 k = (f (elemK n a k) (elemK n b k)).1 % 2 ^ n)


/-! ## Floating point, conversions and lanes (R122 to R142) -/

/-- The FP32 instructions issue when ready and deliver at their latencies (R91, R122, R124 to R131).
The packed BF16 and FP16 instructions issue when ready and deliver at their latencies (R91, R132 to R134). -/
def Obligations.FloatDelivers : Prop :=
  (Yields .fadd 0x50 4 (fun _ => f32Op (fAdd fp32)) ∧ Yields .fsub 0x51 4 (fun _ => f32Op (fSub fp32))
  ∧ Yields .fmul 0x52 4 (fun _ => f32Op (fMul fp32)) ∧ Yields .fmin 0x53 2 (fun _ => f32Op (fMinMax fp32 false))
  ∧ Yields .fmax 0x54 2 (fun _ => f32Op (fMinMax fp32 true))
  ∧ Yields .ffma 0x56 6 (fun op s o l => asLane (fFma fp32 (op.var == 2) (op.var == 1) (lane o.a l).toNat
      (lane o.b l).toNat (lane (addend s o) l).toNat))
  ∧ Yields .frcp 0x59 8 (fun _ => f32Op (fun a _ => fRcp a)) ∧ Yields .frsq 0x5A 8 (fun _ => f32Op (fun a _ => fRsq a))
  ∧ Yields .fexp2 0x5B 10 (fun _ => f32Op (fun a _ => fExp2 a)) ∧ Yields .flog2 0x5C 10 (fun _ => f32Op (fun a _ => fLog2 a))
  ∧ YieldsMask .fcmp 0x5D (fun op _ o l => fRel fp32 op.var.toNat (lane o.a l).toNat (lane o.b l).toNat))
  ∧ (Yields .hadd 0x60 4 (fun op => hOp (fAdd (hFmt op.var))) ∧ Yields .hsub 0x61 4 (fun op => hOp (fSub (hFmt op.var)))
  ∧ Yields .hmul 0x62 4 (fun op => hOp (fMul (hFmt op.var)))
  ∧ Yields .hfma 0x63 6 (fun op s o l => elems 16 (fun k => fFma (hFmt op.var) false false (elemK 16 (lane o.a l) k)
      (elemK 16 (lane o.b l) k) (elemK 16 (lane (addend s o) l) k)) 2)
  ∧ Yields .hmin 0x64 2 (fun op => hOp (fMinMax (hFmt op.var) false))
  ∧ Yields .hmax 0x65 2 (fun op => hOp (fMinMax (hFmt op.var) true))
  ∧ Yields .hcmp 0x66 2 (fun op s o l => hOp (fun a b => (if (fRel (hFmt op.var) (rawB o.trip.raw % 8) a b).1 then 0xFFFF else 0,
      (fRel (hFmt op.var) (rawB o.trip.raw % 8) a b).2)) s o l)
  ∧ Yields .hdot 0x67 6 (fun op s o l => asLane (fDot (hFmt op.var) (elemK 16 (lane o.a l) 0) (elemK 16 (lane o.b l) 0)
      (elemK 16 (lane o.a l) 1) (elemK 16 (lane o.b l) 1) (lane (s.oldDest o) l).toNat)))

/-- FSGN issues when ready and delivers two cycles on. It changes only the sign bit: .NEG inverts it, .ABS clears it, .CPYS takes
that of b, whatever b holds; a NaN gives the canonical NaN, and no flag is raised (R124). -/
def Obligations.FsgnChangesTheSign : Prop := Yields .fsgn 0x55 2 (fun op => f32Op (fSgn op.var.toNat)) ∧ ∀ a b : Word,
  let nan (x : Word) : Bool := x.extractLsb' 23 8 == 0xFF#8 && x.extractLsb' 0 23 != 0#23
  let out (var : Nat) : Word × Flags := asLane (fSgn var a.toNat b.toNat)
  (nan a = true → ∀ var < 3, out var = (0x7FC0_0000#32, noFlags))
  ∧ (nan a = false → out 0 = (a ^^^ 0x8000_0000#32, noFlags) ∧ out 1 = (a &&& 0x7FFF_FFFF#32, noFlags)
    ∧ out 2 = ((a &&& 0x7FFF_FFFF#32) ||| (b &&& 0x8000_0000#32), noFlags))

/-- FCLASS issues when ready and delivers, in each lane, one of bits 9 to 0 set and no flag: −∞, negative normal, negative subnormal,
−0, +0, positive subnormal, positive normal, +∞, signalling NaN, quiet NaN (R126). -/
def Obligations.FclassNamesTheClass : Prop := Yields .fclass 0x5E 2 (fun _ => f32Op (fun a _ => (fClass a, noFlags)))
  ∧ ∀ a : Word,
  let s := a.getLsbD 31
  let e := a.extractLsb' 23 8
  let f := a.extractLsb' 0 23
  BitVec.ofNat 32 (fClass a.toNat) =
    (if e = 0xFF#8 then (if f = 0#23 then (if s then 0x001#32 else 0x080#32)
        else (if f.getLsbD 22 then 0x200#32 else 0x100#32))
     else if e = 0#8 then (if f = 0#23 then (if s then 0x008#32 else 0x010#32) else (if s then 0x004#32 else 0x020#32))
     else (if s then 0x002#32 else 0x040#32))

/-- Conversions issue when ready, deliver five cycles on, and step the dither register of the slot in the issue cycle, in the
lanes that convert under a stochastic rounding mode (R23, R46, R135, R136); DQBLK delivers five cycles on, and the block
quantiser takes its input or releases its block (R137). A step of a dither register shifts it right by one and, where bit 0 was set,
inverts the bits of 0x8020_0003; no step of a register that is not zero makes it zero (R23). -/
def Obligations.ConversionsDeliver : Prop :=
  let conv (i : Op → Instr) (maj : Nat) (cv : Op → Word → Conv) : Prop := ∀ (s : State) (op : Op), Ready s maj op →
    let o := opndsOf s maj op
    let c := cv op (s.elem o.ve).s5
    ∃ t, exec (i op) s = .next t
      ∧ Acts s t maj op ((afterPops s op).modSlot s.cur (fun x => { x with dth := dthAfter c (s.elem o.ve).s5 o (s.slot s.cur).dth }))
          (some (.value, 5, perLane o (fun l => convLane c (lane (s.slot s.cur).dth l) (lane o.a l))))
  conv .cvtf 0x80 (fun op s5 => convFromInt fp32 op.var s5 false) ∧ conv .cvti 0x81 (fun op s5 => convToInt fp32 op.var s5 false)
  ∧ conv .cvth 0x82 (fun op s5 => convH op.var s5) ∧ conv .cvtbi 0x83 (fun op s5 => convFromInt bf16 op.var s5 true)
  ∧ conv .cvthi 0x84 (fun op s5 => convFromInt fp16 op.var s5 true) ∧ conv .cvtib 0x85 (fun op s5 => convToInt bf16 op.var s5 true)
  ∧ conv .cvtih 0x86 (fun op s5 => convToInt fp16 op.var s5 true) ∧ conv .narw 0x87 (fun op s5 => convNarw op.var s5)
  ∧ Yields .dqblk 0x89 5 (fun op _ o l =>
      let r := dqMember (op.var.toNat + 2) (sextNat (lane o.a l).toNat (op.var.toNat + 2)) ((lane o.b l).toNat % 256)
      (BitVec.ofNat 32 r.1, r.2))
  ∧ (∀ (s : State) (op : Op), Ready s 0x88 op → ∃ t, exec (.qblk op) s = .next t
      ∧ Acts s t 0x88 op (qblkIssue (opndsOf s 0x88 op) (afterPops s op)) none)
  ∧ (∀ (w : Word) (k : Nat), dthSteps w 0 = w
    ∧ dthSteps w (k + 1) = (dthSteps w k >>> 1) ^^^ (if (dthSteps w k).getLsbD 0 then 0x8020_0003#32 else 0#32)
    ∧ (w ≠ 0#32 → dthSteps w k ≠ 0#32))

/-- Lane movement delivers three cycles on, COMPR all lanes, reductions 6 cycles on or, for FP32, 12 and 8 (R140 to R142). -/
def Obligations.LanesDeliver : Prop :=
  Yields .shuf 0x90 3 (fun _ _ o l => (lane o.a ((lane o.b l).toNat % 16), noFlags))
  ∧ Yields .bcast 0x91 3 (fun _ _ o _ => (lane o.a (o.sb.toNat % 16), noFlags))
  ∧ Yields .rotl 0x92 3 (fun _ _ o l => (lane o.a ((l + 16 - o.sb.toNat % 16) % 16), noFlags))
  ∧ Yields .lsh 0x93 3 (fun op _ o l => (if op.var = 0 then (if o.sb.toNat ≤ l then lane o.a (l - o.sb.toNat) else 0)
      else (if l + o.sb.toNat ≤ 15 then lane o.a (l + o.sb.toNat) else 0), noFlags))
  ∧ Yields .intlv 0x99 3 (fun op _ o l => (if l % 2 = 0 then lane o.a ((if op.var = 0 then 0 else 8) + l / 2)
      else lane o.b ((if op.var = 0 then 0 else 8) + l / 2), noFlags))
  ∧ YieldsOne .compr 0x98 (fun _ => 3) (fun _ _ o => comprOut o)
  ∧ YieldsOne .redadd 0x94 (fun op => if op.var = 2 then 12 else 6) (fun _ s o => redAdd s o)
  ∧ YieldsOne .redmin 0x95 (fun op => if op.var = 2 then 8 else 6) (fun _ s o => redMinMax false s o)
  ∧ YieldsOne .redmax 0x96 (fun op => if op.var = 2 then 8 else 6) (fun _ s o => redMinMax true s o)
  ∧ YieldsOne .redlog 0x97 (fun _ => 6) (fun _ s o => redLog s o)

/-! ## Control (R99 to R112) -/

/-- NOP only passes; BR and BRS go to the literal's low 11 bits when they are taken, else to the next instruction (R100 to R103,
R106). -/
def Obligations.TransfersGoWhereTheySay : Prop := ∀ (s : State) (op : Op),
  (Ready s 0x00 op → ∃ t, exec (.nop op) s = .next t ∧ Passes s t op none)
  ∧ (op.pred = 7#3 → (opndsOf s 0x01 op).mask = if op.pinv then 0#16 else 0xFFFF#16)
  ∧ (op.acls = 1#3 → lane (opndsOf s 0x02 op).a 0 = s.sreg s.cur (rawA (opndsOf s 0x02 op).trip.raw))
  ∧ (Ready s 0x01 op → let o := opndsOf s 0x01 op
      ∃ t, exec (.br op) s = .next t ∧ Passes s t op
        (if (if op.var = 0 then o.mask ≠ 0#16 else o.mask = 0xFFFF#16) then some ((o.trip.lit.getD 0).setWidth 11) else none))
  ∧ (Ready s 0x02 op → let o := opndsOf s 0x02 op
      let w := lane o.a 0
      let holds : Prop := (op.var = 0 ∧ w = 0#32) ∨ (op.var = 1 ∧ w ≠ 0#32) ∨ (op.var = 2 ∧ w.toInt < 0)
        ∨ (2 < op.var.toNat ∧ 0 ≤ w.toInt)
      (o.mask ≠ 0#16 ∧ holds → ∃ t, exec (.brs op) s = .next t ∧ Passes s t op (some ((o.trip.lit.getD 0).setWidth 11)))
      ∧ (¬(o.mask ≠ 0#16 ∧ holds) → ∃ t, exec (.brs op) s = .next t ∧ Passes s t op none))

/-- CALL goes to its target and writes the address after it to s31; RET goes to the address in s31; LOOP counts down and goes
back until the count is 0. The scalar writes complete at the end of the issue cycle and do not shift the last-result file
(R104, R105).
DONE sets the slot draining, past the instruction, with its results in flight as they were; DONE.ABANDON at level T does
the same, and at levels D and F the block's commands that have not begun, and those of its copies that do not run, are gone and
counted in the slot (R107, R108).
Completion: callI, retI, loopI, doneI and doneAbandon issue, with a next state, whenever the slot is ready and a lane is on. -/
def Obligations.CallsLoopsAndDone : Prop :=
  (∀ (s : State) (op : Op),
  let tgt (o : Opnds) : BitVec 11 := (o.trip.lit.getD 0).setWidth 11
  let link (w : Word) : Delivery := { value := splat w, lanes := 0xFFFF#16, valid := 0, flags := noFlags }
  (Ready s 0x03 op → (opndsOf s 0x03 op).mask ≠ 0#16 → ∃ t, exec (.callI op) s = .next t
    ∧ Delivers s t 0x03 op .link 1 (link (((s.slot s.cur).ia + 3).setWidth 32)) (some (tgt (opndsOf s 0x03 op))))
  ∧ (Ready s 0x04 op → (opndsOf s 0x04 op).mask ≠ 0#16 → ∃ t, exec (.retI op) s = .next t
    ∧ Passes s t op (some ((s.sreg s.cur 31).setWidth 11)))
  ∧ (Ready s 0x05 op → (opndsOf s 0x05 op).mask ≠ 0#16 → ∃ t, exec (.loopI op) s = .next t
    ∧ let cnt := lane (opndsOf s 0x05 op).a 0 - 1
      Delivers s t 0x05 op .link 1 (link cnt) (if cnt = 0 then none else some (tgt (opndsOf s 0x05 op)))))
  ∧ (∀ (s : State) (op : Op), Ready s 0x06 op → (opndsOf s 0x06 op).mask ≠ 0#16 →
  (∃ t, exec (.doneI op) s = .next t ∧ t.slot s.cur = advance { s.slot s.cur with st := .draining, ended := true } op none
    ∧ (t.elem (veOfSlot s.cur)).flight = (s.elem (veOfSlot s.cur)).flight ∧ Quiet s.cur s t)
  ∧ (s.levelOf (tileOfSlot s.cur) = .t → ∃ t, exec (.doneAbandon op) s = .next t
    ∧ t.slot s.cur = advance { s.slot s.cur with st := .draining, ended := true } op none
    ∧ (t.elem (veOfSlot s.cur)).flight = (s.elem (veOfSlot s.cur)).flight ∧ Quiet s.cur s t)
  ∧ (let gone := (s.cmds.filter (fun c => !c.2.begun && sameBlock s c.2.slot s.cur)).length + waitingStarts s s.cur
     s.levelOf (tileOfSlot s.cur) ≠ .t → ∃ t, exec (.doneAbandon op) s = .next t
      ∧ t.slot s.cur = advance { s.slot s.cur with st := .draining, ended := true
                                                   abandoned := (s.slot s.cur).abandoned + gone } op none
      ∧ (∀ c, c ∈ t.cmds ↔ c ∈ s.cmds ∧ (c.2.begun = true ∨ sameBlock s c.2.slot s.cur = false)
          ∧ ∀ p ∈ s.copies, p.1 = c.1 → p.2.running = true ∨ sameBlock s p.2.slot s.cur = false)
      ∧ t.mem = s.mem ∧ ∀ m, m ≠ s.cur → t.slot m = s.slot m))

/-- SAFE and YIELD at level T, or with no request that is due, only pass. With one that is due, at levels D and F and with its
group at safe points, the slot is saved past the instruction, and its results in flight complete normally (R18, R109).
A waiting instruction whose wait is over only passes: WAITT, BAR.WAIT, BAR.ARVW once it has arrived and the phase has changed, CTR.WAIT,
EVWAIT, FENCE and CPYB; a wait at a barrier is over once what its arrivers release has been performed too (R252); so does each of them
with every lane off (R99, R145, R150, R167, R169, R172, R215, R226, R232). -/
def Obligations.SafePointsAndWaits : Prop :=
  (∀ (s : State) (op : Op) (maj : Nat) (i : Op → Instr),
  (maj = 0x07 ∧ i = .yieldI) ∨ (maj = 0x08 ∧ i = .safeI) → Ready s maj op →
  (s.levelOf (tileOfSlot s.cur) = .t ∨ (opndsOf s maj op).mask = 0#16 ∨ preemptDue s s.cur = false →
    ∃ t, exec (i op) s = .next t ∧ Passes s t op none)
  ∧ (s.levelOf (tileOfSlot s.cur) ≠ .t → (opndsOf s maj op).mask ≠ 0#16 → preemptDue s s.cur = true →
    groupSafe (afterPops s op) s.cur = true →
    ∃ t, exec (i op) s = .next t
      ∧ t.slot s.cur = advance { s.slot s.cur with st := .saved, keep := keepAt (s.slot s.cur) maj } op none
      ∧ (t.elem (veOfSlot s.cur)).flight = (s.elem (veOfSlot s.cur)).flight ∧ Quiet s.cur s t))
  ∧ (∀ (s : State) (op : Op),
    let passes (i : Op → Instr) (maj : Nat) (still : State → Opnds → Prop) : Prop := Ready s maj op →
      let o := opndsOf s maj op
      (o.on = false ∨ ¬still (afterPops s op) o) → ∃ t, exec (i op) s = .next t ∧ Passes s t op none
    passes .waittTick 0x10 (fun p o => waitTickHeld p o = true)
    ∧ passes .waittMcnt 0x10 (fun p o => waitMcntHeld p o = true)
    ∧ passes .barWait 0xC0 (fun p o => (p.bar o.tile (o.sa.toNat % 32)).seen p.mcnt = o.sb.getLsbD 0 ∨ barOwes p o = true)
    ∧ passes .barArvw 0xC0 (fun p o => ∀ ph, (p.slot o.slot).arvw = some ph →
        (p.bar o.tile (o.sa.toNat % 32)).seen p.mcnt = ph ∨ barOwes p o = true)
    ∧ passes .ctrWait 0xC1 (fun p o => ((p.ctr o.tile (o.sa.toNat % 16)).seen p.mcnt).phase = o.sb.getLsbD 0)
    ∧ passes .evwaitWait 0xC2 (fun p o => p.records o.tile = [])
    ∧ passes .fence 0xA4 (fun p o => priorPending p o.slot (p.slot o.slot).seq = true)
    ∧ passes .cpyb 0xED (fun p o => cpybHeld p o = true))

/-- BAR.ARVW first makes one arrival and then waits until the phase differs from the phase before its arrival (R167). A W-kind instruction
that is held, and a SAFE or YIELD whose group has not come to its safe points yet, leaves its slot where it stands; the slot looks again on
its next turn, and nothing but queues moves. Each later event of a coupled group moves by a turn, but not at a safe point (R18, R85, R109,
R150, R153, R167, R169, R172, R215, R232). -/
def Obligations.WaitsHold : Prop := ∀ (s : State) (op : Op),
  let n := s.cur
  let p := afterPops s op
  let stays (t : State) (x : Slot) : Prop :=
    t.slot n = { x with heldSince := some (x.heldSince.getD s.mcnt) }
    ∧ ({ time := 16 * s.turnOf n (s.mcnt + 1) + rkHold, act := .ev .wKindHoldRelease (Arg.of n 0 0 0 0) } : Item) ∈ t.agenda
    ∧ (s.inGroup n = true → atSafePoint s n = false → ∀ it ∈ s.agenda, movesWith (coupledWith s n) s.mcnt it = true →
        { it with time := it.time + 16 * (s.elem (veOfSlot n)).wheel } ∈ t.agenda)
    ∧ t.mem = s.mem ∧ (∀ m, m ≠ n → t.slot m = s.slot m) ∧ ∀ v, (t.elem v).pv = (s.elem v).pv ∧ (t.elem v).ps = (s.elem v).ps
  (Ready s 0xC0 op → let o := opndsOf s 0xC0 op
    let k := o.sa.toNat % 32
    o.on = true → (s.slot n).arvw = none → ∃ t, exec (.barArvw op) s = .next t
      ∧ stays t { s.slot n with arvw := some (s.bar o.tile k).phase }
      ∧ t.bar o.tile k = { (s.bar o.tile k).arrive s.mcnt with
          owe := ((s.bar o.tile k).owe ++ [(n, o.seq)]).filter (fun x => releasePending p x.1 x.2) } ∧ ∀ u b, (u ≠ o.tile ∨ b ≠ k) → t.bar u b = s.bar u b)
  ∧ (∀ (i : Op → Instr) (maj : Nat) (held : Bool), let o := opndsOf s maj op
    (i = .waittTick ∧ maj = 0x10 ∧ held = waitTickHeld p o) ∨ (i = .waittMcnt ∧ maj = 0x10 ∧ held = waitMcntHeld p o)
    ∨ (i = .barWait ∧ maj = 0xC0 ∧ held = barWaitHeld p o)
    ∨ (i = .barArvw ∧ maj = 0xC0 ∧ held = ((s.slot n).arvw.isSome && barArvwHeld p o))
    ∨ (i = .ctrWait ∧ maj = 0xC1 ∧ held = ctrWaitHeld p o) ∨ (i = .evwaitWait ∧ maj = 0xC2 ∧ held = (p.records o.tile).isEmpty)
    ∨ (i = .fence ∧ maj = 0xA4 ∧ held = fenceHeld p n) ∨ (i = .cpyb ∧ maj = 0xED ∧ held = cpybHeld p o)
    ∨ (i = .yieldI ∧ maj = 0x07 ∧ held = (o.level != .t && preemptDue p n && !groupSafe p n))
    ∨ (i = .safeI ∧ maj = 0x08 ∧ held = (o.level != .t && preemptDue p n && !groupSafe p n)) →
    Ready s maj op → o.on = true → held = true →
    ∃ t, exec (i op) s = .next t ∧ stays t (s.slot n) ∧ ∀ u b, t.bar u b = s.bar u b)

/-- PSET and PLOG deliver a mask, PLOG that of the predicates named by AIDX and BIDX (R110, R111). PCNT delivers two cycles on, by R97's
scalar write, a word that holds the number of set bits in bits 4 to 0 and the index of the lowest in bits 12 to 8, 16 where none is set,
and no other bit (R112). -/
def Obligations.PredicatesDeliver : Prop :=
  YieldsMask .pset 0x09 (fun op _ o l => (if op.acls = 1 ∨ op.acls = 5 then o.sa.getLsbD l else lane o.a l != 0, noFlags))
  ∧ YieldsMask .plog 0x0A (fun op s o l => ((plogMask op.var (namedPred (s.slot s.cur) (rawA o.trip.raw))
      (namedPred (s.slot s.cur) (rawB o.trip.raw))).getLsbD l, noFlags))
  ∧ Yields .pcnt 0x0B 2 (fun _ s o _ => (pcntWord (namedPred (s.slot s.cur) (rawA o.trip.raw)), noFlags))
  ∧ (∀ m : Mask, (pcntWord m).extractLsb' 0 5 = BitVec.ofNat 5 ((List.range 16).countP (fun l => m.getLsbD l))
    ∧ (pcntWord m).extractLsb' 8 5 = BitVec.ofNat 5 (((List.range 16).find? (fun l => m.getLsbD l)).getD 16)
    ∧ pcntWord m &&& 0xFFFF_E0E0#32 = 0#32)



/-! ## The system instructions (R226 to R241, R395 to R402) -/

/-- MFSR delivers the special register that AIDX names, DTH by lanes, two cycles on, and a read of MCNT.LO latches the high
half (R32, R227); MTSR delivers a write of FLG (R228).
What the special registers read as: the halves of MCNT, TICK of 2,900 cycles, LTID, PTID, FLG, IC, CAUSE, EPC, the held
words, S1 to S6, PWSEL, and the level (R32, R33). -/
def Obligations.SpecialRegisters : Prop :=
  (∀ (s : State) (op : Op),
  (Ready s 0x0C op → let o := opndsOf s 0x0C op
    let p := afterPops s op
    let k := rawA o.trip.raw
    ∃ t, exec (.mfsr op) s = .next t ∧ Acts s t 0x0C op
      (if k = 0 ∧ o.on then p.modSlot s.cur (fun x => { x with shadow := some (BitVec.ofNat 32 (p.mcntOn (dieOfTile o.tile) / 2 ^ 32)) })
        else p)
      (some (.value, 2, if k = 13 then perLane o (fun l => (lane (s.slot s.cur).dth l, noFlags)) else scalarOut o (specialWord p s.cur k))))
  ∧ (Ready s 0x0D op → ∃ t, exec (.mtsr op) s = .next t ∧ Delivers s t 0x0D op .flags 2
      { value := splat (opndsOf s 0x0D op).sa, lanes := fullMask (opndsOf s 0x0D op).on, valid := 0, flags := noFlags }))
  ∧ (∀ (s : State) (n : Nat),
  let x := s.slot n
  let e := s.elem (n / 8)
  let die := n / 64 / 144
  let count := ((s.mcnt : Int) + (s.die die).skew).toNat
  specialWord s n 0 = BitVec.ofNat 32 count ∧ (x.shadow = none → specialWord s n 1 = BitVec.ofNat 32 (count / 2 ^ 32))
  ∧ (∀ w, x.shadow = some w → specialWord s n 1 = w) ∧ specialWord s n 2 = BitVec.ofNat 32 (count / 2900)
  ∧ (s.levelOf (n / 64) ≠ .t → specialWord s n 3 = 0#32)
  ∧ specialWord s n 5 = (s.tile (n / 64)).ltid.setWidth 32
  ∧ (specialWord s n 6).extractLsb' 0 4 = BitVec.ofNat 4 (n / 64 % 12)
  ∧ (specialWord s n 6).extractLsb' 4 4 = BitVec.ofNat 4 (n / 64 % 144 / 12)
  ∧ (specialWord s n 6).extractLsb' 8 2 = BitVec.ofNat 2 die ∧ (specialWord s n 6).extractLsb' 10 22 = 0#22
  ∧ specialWord s n 9 = x.flg.setWidth 32 ∧ specialWord s n 10 = x.ic ∧ specialWord s n 11 = x.cause ∧ specialWord s n 12 = x.epc
  ∧ specialWord s n 14 = x.hrw.setWidth 32 ∧ specialWord s n 15 = x.haw.setWidth 32
  ∧ specialWord s n 16 = e.s1 ∧ specialWord s n 17 = e.s2 ∧ specialWord s n 18 = e.s3 ∧ specialWord s n 19 = e.s4
  ∧ specialWord s n 20 = e.s5 ∧ specialWord s n 21 = e.s6 ∧ specialWord s n 22 = x.pwsel
  ∧ specialWord s n 24 = (match s.levelOf (n / 64) with
    | .t => 0#32
    | .d => 1#32
    | .f => 2#32))

/-- TRAP issues and its stop stands one cycle on with cause 0x180 + A[4:0]; there the slot freezes with that cause and with EPC
at its next instruction, and a record names the issue cycle (R33, R229). -/
def Obligations.TrapStopsTheSlot : Prop := ∀ (s : State) (op : Op),
  (Ready s 0x0E op → (opndsOf s 0x0E op).mask ≠ 0#16 → ∃ t, exec (.trapI op) s = .next t
    ∧ t.slot s.cur = advance (s.slot s.cur) op none ∧ Quiet s.cur s t
    ∧ { time := 16 * (s.mcnt + 1) + rkStart
        act := .ev .resultCompletion (Arg.of s.cur (s.slot s.cur).seq (0x180 + (lane (opndsOf s 0x0E op).a 0).toNat % 32) 0 0) : Item }
      ∈ t.agenda)
  ∧ ∀ n c : Nat, s.arg.a = n → s.arg.c = c → c ≠ 0 → (s.slot n).st = .running →
    ∃ t, exec .resultCompletion s = .next t ∧ (t.slot n).st = .frozen ∧ (t.slot n).cause = BitVec.ofNat 32 c
      ∧ (t.slot n).epc = s.position n ∧ (∀ m, m ≠ n → t.slot m = s.slot m) ∧ t.mem = s.mem
      ∧ (∀ r ∈ (t.elem (veOfSlot n)).flight, r.slot = n → r.due < s.mcnt)

/-- The requests of the Helm region are sent with 256 cycles to collect the other copy's (R230, R231, R239 to R241).
The configuration requests of CFG join their port's queue while it holds fewer than 16; a request that names no tile is
answered at once as a FIXED port answers, with a record for SEAL and CLEAR (R395, R397). -/
def Obligations.RequestsAreSent : Prop :=
  (Does .rte 0x0F (fun _ _ _ => True) (fun _ o p => helmRequest p 0 o.sa o.b o.tile)
  ∧ Does .escrowGrant 0x18 (fun _ _ _ => True) (fun _ o p => helmRequest p 1 o.sa o.b o.tile)
  ∧ Does .escrowRevoke 0x18 (fun _ _ _ => True) (fun _ o p => helmRequest p 2 o.sa o.b o.tile)
  ∧ Does .escrowDrain 0x18 (fun _ _ _ => True) (fun _ o p => helmRequest p 3 o.sa o.b o.tile)
  ∧ Does .genup 0x19 (fun _ _ _ => True) (fun _ o p => helmRequest p 4 o.sa o.b o.tile)
  ∧ Does .remap 0x1A (fun _ _ _ => True) (fun _ o p => helmRequest p 5 o.sa o.b o.tile)
  ∧ ∀ (s : State) (kind : Nat) (a : Word) (b : Vec) (t : Nat), kind ≠ 0 →
      ((twinTile s t).bind (fun u => s.helm.find? (waitsFor s kind a t u)) = none →
        helmRequest s kind a b t = { s with
          nextId := s.nextId + 1
          helm := mset s.helm s.nextId { kind := kind, a := a, b := b, tile := t, due := s.mcnt + 256, twin := none, acted := false, wait := [] }
          agenda := insertItem { time := 16 * (s.mcnt + 256) + rkHold, act := .ev (helmEvent kind) (Arg.of s.nextId 0 0 0 0) } s.agenda })
      ∧ (∀ r, (twinTile s t).bind (fun u => s.helm.find? (waitsFor s kind a t u)) = some r →
        helmRequest s kind a b t = { s with helm := mset s.helm r.1 { r.2 with twin := some (a, b, t) } }))
  ∧ (let does (i : Op → Instr) (k : Nat) : Prop :=
    Does i 0x1B (fun _ p o => ∃ t, cfgTile o.sa = some t ∧ (p.cport t).queue.length < 16)
      (fun _ o p =>
        let t := (cfgTile o.sa).getD 0
        let done := max (p.mcnt + tileTransit o.tile t) (p.cport t).free + cfgCost k
        (p.modPort t (fun q => { q with
          queue := q.queue ++ [{ op := k, a := o.sa, b := o.b, valid := o.bValid, src := o.tile }], free := done })).planN
          done rkEngine .cfgPortRequest t 0)
  does .cfgOpen 0 ∧ does .cfgWr 1 ∧ does .cfgSeal 2 ∧ does .cfgClear 3)

/-- VRFY takes the verification engine for its time, HBT sends a heartbeat to the port die, AUDIT asks for an audit,
COURSE asks for a loaded Almanac, LAUNCH sends a child with its parent's LN capabilities, SIGN and ASSAY plan their effects
for the end of issue + 2 (R233, R234, R236 to R238, R398, R402). -/
def Obligations.SystemRequestsAreSent : Prop :=
  Does .vrfy 0x1C (fun _ _ _ => True) (fun _ o p =>
    let done := max (p.mcnt + controlTransit (dieOfTile o.tile) (some o.tile) portDie none) p.port.verify + 4000
      + (1024 + o.sb.toNat + 31) / 32
    { p with port := { p.port with verify := done } }.planEv done rkArrive .verifyEngineComplete
      (Arg.of o.tile 0 o.sa.toNat o.sb.toNat 0))
  ∧ Does .hbt 0x1D (fun _ _ _ => True) (fun _ o p =>
    p.planEv (p.mcnt + controlTransit (dieOfTile o.tile) (some o.tile) portDie none) rkArrive .heartbeatArrival
      (Arg.of (helmGraph o.tile) (dieOfTile o.tile) (o.sa.toNat % 65536) 0 0))
  ∧ Does .audit 0x17 (fun _ p o => requestable (o.sa.toNat % 1024) = true ∧ (p.ctx (p.ctxOfTile o.tile)).audit = none)
    (fun _ o p => (p.modCtx (p.ctxOfTile o.tile) (fun x => { x with audit := some (o.sa.toNat % 1024, none, false) })).planEv
      (p.mcnt + tileTransit o.tile (tileAt 2 1 0)) rkArrive .auditRun (Arg.of (o.sa.toNat % 1024) 0 (p.ctxOfTile o.tile) 0 0))
  ∧ Does .course 0x11 (fun _ p o => (mfind (p.ctx (p.ctxOfTile o.tile)).alms (o.sa.toNat % 256)).isSome = true)
    (fun _ o p => p.modCtx (p.ctxOfTile o.tile) (fun x => { x with
      courses := x.courses ++ [{ at_ := p.mcnt, key := courseKey p o.slot, alm := o.sa.toNat % 256 }] }))
  ∧ Does .launch 0x12 (fun _ _ _ => True) (fun _ o p =>
    { p with nextId := p.nextId + 1, launches := mset p.launches p.nextId (childLaunch p o) }.planEv p.mcnt rkArrive .deviceLaunchArrival
      (Arg.of p.nextId 0 o.slot o.seq o.tile))
  ∧ Does .sign 0x15 (fun _ _ _ => True) (fun _ o p => p.planEv (p.mcnt + 2) rkComplete .assayEarlyCompare
      { Arg.of o.tile (p.slot o.slot).assayGroup 0 0 0 with v := blend o.mask o.a 0 })
  ∧ Does .assayArm 0x16 (fun _ _ _ => True) (fun _ o p =>
      p.planEv (p.mcnt + 2) rkComplete .assayEarlyCompare { Arg.of o.tile (o.sa.toNat % 8) 2 0 0 with v := 0 })
  ∧ Does .assayClr 0x16 (fun _ _ _ => True) (fun _ o p =>
      p.planEv (p.mcnt + 2) rkComplete .assayEarlyCompare { Arg.of o.tile (o.sa.toNat % 8) 1 0 0 with v := 0 })

/-! ## Holds, barriers, counters, the event queue and the mint (R150, R153, R167 to R174, R232) -/

/-- Arrivals, counter updates, records and seeds: BAR.ARV arrives once, and the barrier keeps in mind which of its arrivers still have
accesses under way (R252); CTR.ADD and CTR.ARVX update a counter; EVPOST appends a record while the queue has room, or looks again in
each cycle until what it releases has been performed; MSEED writes the mint's key words (R167, R168, R172, R174).
A barrier counts its arrivals and inverts its phase when the count reaches N; a counter that is armed and comes to zero
completes its phase, disarms and inverts it, and one above zero is over-credited; a credit adds to C and an announcement takes
from it, adds to E and arms (R167, R168). -/
def Obligations.SyncActs : Prop :=
  (Does .barArv 0xC0 (fun _ _ _ => True) (fun _ o p => arriveSlot p o)
  ∧ (∀ (p : State) (o : Opnds),
      let r := p.bar o.tile (o.sa.toNat % 32)
      (arriveSlot p o).bar o.tile (o.sa.toNat % 32)
          = { r.arrive p.mcnt with owe := (r.owe ++ [(o.slot, o.seq)]).filter (fun x => releasePending p x.1 x.2) }
        ∧ (∀ u b, (u ≠ o.tile ∨ b ≠ o.sa.toNat % 32) → (arriveSlot p o).bar u b = p.bar u b)
        ∧ (arriveSlot p o).slots = p.slots ∧ (arriveSlot p o).mem = p.mem)
  ∧ Does .ctrAdd 0xC1 (fun _ p o => (p.credit o.tile (o.sa.toNat % 16) o.sb.toInt).2 = false)
      (fun _ o p => (p.credit o.tile (o.sa.toNat % 16) o.sb.toInt).1)
  ∧ Does .ctrArvx 0xC1 (fun _ p o => (p.announce o.tile (o.sa.toNat % 16) o.sb).2 = false)
      (fun _ o p => (p.announce o.tile (o.sa.toNat % 16) o.sb).1)
  ∧ Does .evpost 0xC3 (fun _ p o => (p.tile o.tile).evq.length < 64 ∧ (p.tile o.tile).evWait = []
        ∧ releasePending p o.slot o.seq = true)
      (fun _ o p => p.planEv (p.mcnt + 1) rkArrive .eventRecordDeferredEnqueue
        { Arg.of o.slot 1 o.seq 0 0 with v := BitVec.setWidth 512 (0x03#8 ++ o.a.extractLsb' 0 120 : BitVec 128) })
  ∧ Does .evpost 0xC3 (fun _ p o => (p.tile o.tile).evq.length < 64 ∧ (p.tile o.tile).evWait = []
        ∧ releasePending p o.slot o.seq = false)
      (fun _ o p => p.modTile o.tile (fun x => { x with evq := x.evq ++ [(p.mcnt, 0x03#8 ++ o.a.extractLsb' 0 120)] }))
  ∧ Does .mseed 0xC5 (fun _ _ _ => True) (fun op o p => p.modSlot o.slot (fun x =>
      if op.var = 0 then { x with mk0 := o.sa, mk1 := o.sb } else { x with mtid := o.sa, mcz := o.sb })))
  ∧ ((∀ (r : Barrier) (now : Nat), 1 ≤ r.n → r.n ≤ 63 → r.a < r.n →
    ((r.a + 1 = r.n → (r.arrive now).a = 0 ∧ (r.arrive now).phase = !r.phase ∧ (∀ c, c ≠ now → (r.arrive now).seen c = !r.phase))
    ∧ (r.a + 1 < r.n → (r.arrive now).a = r.a + 1 ∧ (r.arrive now).phase = r.phase) ∧ (r.arrive now).n = r.n))
  ∧ ∀ (s : State) (t k : Nat) (x : Int) (b : Word),
    let r := s.ctr t k
    let c := r.now.c + BitVec.ofInt 48 x
    let m := r.now.c - b.setWidth 48
    ((s.credit t k x).1.ctr t k).now = (if r.now.armed = true ∧ c = 0#48 then { c := c, armed := false, phase := !r.now.phase }
      else { r.now with c := c })
    ∧ ((s.credit t k x).2 = true ↔ r.now.armed = true ∧ 0 < c.toInt)
    ∧ ((s.announce t k b).1.ctr t k).now = (if m = 0#48 then { c := m, armed := false, phase := !r.now.phase }
      else { c := m, armed := true, phase := r.now.phase })
    ∧ ((s.announce t k b).1.ctr t k).e = (if m = 0#48 then 0#48 else r.e + b.setWidth 48)
    ∧ ((s.announce t k b).2 = true ↔ 0 < m.toInt))

/-- The queries BAR.PH, CTR.RD and EVWAIT.PEEK and the MINT deliver (R167, R169, R172, R174).
HOPS and VDQ deliver what the virtual-die table says (R235). -/
def Obligations.QueriesDeliver : Prop :=
  (YieldsOne .barPh 0xC0 (fun _ => 2) (fun _ p o =>
    scalarOut o (BitVec.ofNat 32 ((p.bar o.tile (o.sa.toNat % 32)).seen p.mcnt).toNat))
  ∧ YieldsOne .ctrRd 0xC1 (fun _ => 2) (fun _ p o => scalarOut o (ctrWord ((p.ctr o.tile (o.sa.toNat % 16)).seen p.mcnt)))
  ∧ YieldsOne .evwaitPeek 0xC2 (fun _ => 2) (fun _ p o => scalarOut o (BitVec.ofNat 32 (p.records o.tile).length))
  ∧ Yields .mint 0xC4 10 (fun op s o l => ((mint (s.slot s.cur).mk0 (s.slot s.cur).mk1 (s.slot s.cur).mtid (lane o.a l) (lane o.b l)
      (s.slot s.cur).mcz 0).word op.var.toNat, noFlags)))
  ∧ (YieldsOne .hops 0x13 (fun _ => 2) (fun _ p o => scalarOut o (hopsWord p (p.ctxOfTile o.tile) (o.sa.toNat % 4) (o.sb.toNat % 4)))
  ∧ YieldsOne .vdq 0x14 (fun _ => 2) (fun _ p o => scalarOut o (vdqWord p (p.ctxOfTile o.tile) (o.sa.toNat % 4)))
  ∧ ∀ (a b : Nat), a < 4 → b < 4 → hopCount a b = (if a % 2 = b % 2 then 0 else 1) + (if a / 2 = b / 2 then 0 else 1))


/-! ## Memory, capabilities and streams (R143 to R166) -/

/-- A scratchpad access whose checks find an adjacent ME that accepts it takes its banks and is on its way: it reads its bank
at the start of issue + 3 and is performed at the end of it. A load's result has latency 7 and an atomic's 9, and stores and
atomics without .RET have none (R93, R143 to R148, R151, R152, R159).
The checks of an access trap in order: rights missing 0x040, misaligned 0x041, outside the bounds 0x042. The slot freezes
at the instruction with that cause, and memory is as it was (R36, R146). -/
def Obligations.AccessesAreChecked : Prop :=
  (∀ (s : State) (op : Op),
  let sent (i : Op → Instr) (maj : Nat) (kind : AccKind) (lat : Option Nat) : Prop :=
    let o := opndsOf s maj op
    let p := afterPops s op
    ∀ me addr ord, Ready s maj op → o.on = true → (maj = 0xA2 → releaseOut p s.cur = false) →
      checkAccess p o maj = .hit me addr ord → orderBlocks p s.cur me ord addr (accessSize maj op.var) = false →
      accepts p o me (banksOf (accessSize maj op.var) addr) = true →
      ∃ t, exec (i op) s = .next t
        ∧ Acts s t maj op (sendAccess (takeBanks p (8 * tileOfSlot s.cur + me) (banksOf (accessSize maj op.var) addr))
            (accessOf p o maj kind
              (8 * tileOfSlot s.cur + me) addr))
          (lat.map (fun n => (.value, n, perLane o (fun _ => (0#32, noFlags)))))
  let ret : Option Nat := if op.var = 1 then some 9 else none
  let retM : Option Nat := if 2 ≤ op.var.toNat then some 9 else none
  sent .ld 0xA0 .load (some 7) ∧ sent .st 0xA1 .store none ∧ sent .lda 0xA2 .load (some 7) ∧ sent .strl 0xA3 .release none
  ∧ sent .aadd 0xB0 .atomic ret ∧ sent .asub 0xB1 .atomic ret ∧ sent .aand 0xB2 .atomic ret ∧ sent .aor 0xB3 .atomic ret
  ∧ sent .axor 0xB4 .atomic ret ∧ sent .amin 0xB5 .atomic retM ∧ sent .amax 0xB6 .atomic retM ∧ sent .axch 0xB7 .atomic ret
  ∧ sent .acas 0xB8 .atomic (some 9) ∧ sent .afadd 0xB9 .atomic ret)
  ∧ (∀ (s : State) (op : Op) (i : Op → Instr) (maj : Nat),
  (i, maj) ∈ [(Instr.ld, 0xA0), (.st, 0xA1), (.lda, 0xA2), (.strl, 0xA3), (.aadd, 0xB0), (.acas, 0xB8)] →
  Ready s maj op → (opndsOf s maj op).on = true → (maj = 0xA2 → releaseOut (afterPops s op) s.cur = false) →
  let o := opndsOf s maj op
  let ea := eaOf maj o
  let size := accessSize maj op.var
  let traps (c : Nat) : Prop := ∃ t, exec (i op) s = .next t ∧ (t.slot s.cur).st = .frozen
    ∧ (t.slot s.cur).cause = BitVec.ofNat 32 c ∧ (t.slot s.cur).epc = s.position s.cur ∧ t.mem = s.mem
    ∧ ∀ m, m ≠ s.cur → t.slot m = s.slot m
  (hasRights o.cap (accessNeed maj) = false → traps 0x040)
  ∧ (hasRights o.cap (accessNeed maj) = true → ea % size ≠ 0 → traps 0x041)
  ∧ (hasRights o.cap (accessNeed maj) = true → ea % size = 0 → (ea < capLo o.cap ∨ capHi o.cap < ea + size) → traps 0x042))

/-- What an access does when it is performed: a load gives its result the bytes, a store writes them, an atomic delivers the
old word and writes its function of the old word and the operand; every other byte of memory is as it was (R147, R148, R159).
What the atomics make of the old word x and the operand b (R159). -/
def Obligations.AccessesPerform : Prop :=
  (∀ (s : State) (a : Access), Memory.wf s.mem = true →
  mfind s.accs s.arg.a = some a → s.arg.b ≠ 0 →
  (a.kind = .load → ∃ t, exec .bankAccessPerform s = .next t ∧ t.mem = s.mem ∧ mfind t.accs s.arg.a = none
    ∧ ∀ r ∈ (s.elem (veOfSlot a.slot)).flight, r.slot = a.slot → r.seq = a.seq →
      { r with value := bankValue r a.size (s.readTok a.addr) (BitVec.ofNat 32 (s.read a.addr a.size)) }
        ∈ (t.elem (veOfSlot a.slot)).flight)
  ∧ (a.kind = .store → a.size ≠ 64 → ∃ t, exec .bankAccessPerform s = .next t ∧ mfind t.accs s.arg.a = none
    ∧ t.read a.addr a.size = (lane a.data 0).toNat % 2 ^ (8 * a.size)
    ∧ ∀ k, k < a.addr ∨ a.addr + a.size ≤ k → readByte t.mem k = readByte s.mem k)
  ∧ (a.kind = .store → a.size = 64 → ∃ t, exec .bankAccessPerform s = .next t ∧ mfind t.accs s.arg.a = none
    ∧ (∀ l < 16, t.read32 (a.addr + 4 * l) = if a.lanes.getLsbD l then lane a.data l else s.read32 (a.addr + 4 * l))
    ∧ ∀ k, k < a.addr ∨ a.addr + 64 ≤ k → readByte t.mem k = readByte s.mem k)
  ∧ (a.kind = .atomic → ∃ t, exec .bankAccessPerform s = .next t ∧ mfind t.accs s.arg.a = none
    ∧ t.read32 a.addr = atomicFn a.maj a.var a.cmp (s.read32 a.addr) (lane a.data 0)
    ∧ ∀ k, k < a.addr ∨ a.addr + 4 ≤ k → readByte t.mem k = readByte s.mem k))
  ∧ (∀ (x b c : Word) (v : Nat),
  atomicFn 0xB0 v c x b = x + b ∧ atomicFn 0xB1 v c x b = x - b ∧ atomicFn 0xB2 v c x b = x &&& b
  ∧ atomicFn 0xB3 v c x b = x ||| b ∧ atomicFn 0xB4 v c x b = x ^^^ b
  ∧ (v % 2 = 0 → (atomicFn 0xB5 v c x b).toInt = min x.toInt b.toInt ∧ (atomicFn 0xB6 v c x b).toInt = max x.toInt b.toInt)
  ∧ (v % 2 = 1 → (atomicFn 0xB5 v c x b).toNat = min x.toNat b.toNat ∧ (atomicFn 0xB6 v c x b).toNat = max x.toNat b.toNat)
  ∧ atomicFn 0xB7 v c x b = b ∧ atomicFn 0xB8 v c x b = (if x = c then b else x))

/-- CBND narrows bounds, CRGT drops rights, CMOV copies, CGET reads a field, CCHK tests without a trap (R156 to R158).
No instruction makes a capability wider: the bounds that CBND writes lie within those it reads, the rights that CRGT writes
are among those it reads, and neither changes the object, its version or the other fields (R155, R156). -/
def Obligations.CapabilitiesDeliver : Prop :=
  (∀ (s : State) (op : Op),
  (Ready s 0xA8 op → ∀ lo hi, cbndBounds op.var (opndsOf s 0xA8 op).cap (opndsOf s 0xA8 op).b = some (lo, hi) →
    ∃ t, exec (.cbnd op) s = .next t ∧ Delivers s t 0xA8 op .capability 3
      (capOut (opndsOf s 0xA8 op) (capBounds (opndsOf s 0xA8 op).cap lo hi)))
  ∧ (Ready s 0xA9 op → ∃ t, exec (.crgt op) s = .next t ∧ Delivers s t 0xA9 op .capability 3
      (capOut (opndsOf s 0xA9 op) (capRights (opndsOf s 0xA9 op).cap
        (capRgt (opndsOf s 0xA9 op).cap &&& (opndsOf s 0xA9 op).sb.setWidth 8))))
  ∧ (Ready s 0xAB op → ∃ t, exec (.cmov op) s = .next t ∧ Delivers s t 0xAB op .capability 2
      (capOut (opndsOf s 0xAB op) (opndsOf s 0xAB op).cap))
  ∧ (Ready s 0xAA op → ∃ t, exec (.cget op) s = .next t ∧ Delivers s t 0xAA op .value 2
      (scalarOut (opndsOf s 0xAA op) (cgetField op.var (opndsOf s 0xAA op).cap)))
  ∧ (Ready s 0xAC op → (s.levelOf (tileOfSlot s.cur) = .t ∨ (opndsOf s 0xAC op).on = false
        ∨ ∀ c x, checkObj s (tileOfSlot s.cur) (opndsOf s 0xAC op).cap ≠ .error (.fetch c x)) →
    ∃ t, exec (.cchk op) s = .next t ∧ Delivers s t 0xAC op .predicate 2
      (maskOut (opndsOf s 0xAC op) (cchkLane s (opndsOf s 0xAC op)) (fun _ => noFlags))))
  ∧ (∀ (v : BitVec 3) (c : BitVec 128) (b : Vec) (lo hi : Nat) (r : BitVec 8),
  (cbndBounds v c b = some (lo, hi) → capLo c ≤ lo ∧ hi ≤ capHi c ∧ lo ≤ hi
    ∧ capLo (capBounds c lo hi) = lo ∧ capHi (capBounds c lo hi) = hi
    ∧ capRgt (capBounds c lo hi) = capRgt c ∧ capObj (capBounds c lo hi) = capObj c ∧ capVer (capBounds c lo hi) = capVer c)
  ∧ (let d := capRights c (capRgt c &&& r)
     capRgt d = capRgt c &&& r ∧ capLo d = capLo c ∧ capHi d = capHi c ∧ capObj d = capObj c ∧ capVer d = capVer c))

/-- The port instructions: TMSEL selects a map, ARM begins a walk of the map selected when its checks pass, STOP and REWIND end
and restart a walk, SPSTAT reads the port, SPWIN writes a window entry of an idle port, PREF may start a translation (R154, R164,
R165). -/
def Obligations.PortInstructionsAct : Prop :=
  Does .tmsel 0xA6 (fun _ _ _ => True) (fun _ o p => p.modSport (8 * o.tile + o.sa.toNat % 8) (fun q => { q with sel := o.sb.toNat % 32 }))
  ∧ (∀ r : ObjRec, Does .sportArm 0xA5 (fun _ p o =>
      let m := 8 * o.tile + o.sa.toNat % 8
      let ws := mget [] (p.tile o.tile).tmaps (p.sport m).sel
      hasRights (mapCap ws) (rSP ||| (if mapWrite ws then rWR else rRD)) = true
        ∧ p.objLook o.tile (p.ctxOfTile o.tile) (capObj (mapCap ws)) = .hit r ∧ r.ver = capVer (mapCap ws) ∧ armKind p m r = true)
      (fun _ o p =>
        let m := 8 * o.tile + o.sa.toNat % 8
        beginPort ((endWalk p m).modSport m (fun q => { q with
          mapw := mget [] (p.tile o.tile).tmaps (p.sport m).sel, map := (p.sport m).sel, owner := o.slot, armed := o.seq, ord := r.ord, toks := 0 })) m))
  ∧ Does .sportStop 0xA5 (fun _ _ _ => True) (fun _ o p =>
      (endWalk p (8 * o.tile + o.sa.toNat % 8)).modSport (8 * o.tile + o.sa.toNat % 8) (fun q => { q with state := 0 }))
  ∧ Does .sportRewind 0xA5 (fun _ p o => (p.sport (8 * o.tile + o.sa.toNat % 8)).state ≠ 0) (fun _ o p =>
      let m := 8 * o.tile + o.sa.toNat % 8
      beginPort ((endWalk p m).modSport m (fun q => { q with armed := if q.owner = o.slot then o.seq else (p.slot q.owner).seq })) m)
  ∧ YieldsOne .spstat 0xA7 (fun _ => 2) (fun _ p o => scalarOut o (spstatWord p (8 * o.tile + o.sa.toNat % 8)))
  ∧ Does .spwin 0xAE (fun _ p o => o.sa.toNat < 2 ^ 16 ∧ o.sa.toNat / 64 % 16 ≤ 11 ∧ o.sa.toNat / 1024 % 16 ≤ 11
        ∧ (p.sport (8 * tileAt (o.sa.toNat / 2 ^ 14) (o.sa.toNat / 64 % 16) (o.sa.toNat / 1024 % 16) + o.sa.toNat / 8 % 8)).state = 0)
      (fun _ o p => p.modSport (8 * tileAt (o.sa.toNat / 2 ^ 14) (o.sa.toNat / 64 % 16) (o.sa.toNat / 1024 % 16) + o.sa.toNat / 8 % 8)
        (fun q => { q with win := mset q.win (o.sa.toNat % 8) [lane o.b 0 &&& 0x0FFF_FFFF#32, lane o.b 1 &&& 0x0FFF_FFFF#32,
          lane o.b 2 &&& 0x0FFF_FFFF#32, lane o.b 3 &&& 0xF000_0000#32] }))
  ∧ Does .pref 0xAD (fun _ _ _ => True) (fun _ o p => prefetch p o)

/-! ## Engines: matrix node, Lodestone, block transfers (R186, R195, R215) -/

/-- The matrix instructions: a command of its own kind whose fields are in range enters a node that is not frozen and has
room, in the first cycle that no other command and no table entry takes. In such a cycle of the node, at once or later, MXARM starts the
modulo table unless another block's runs, MXTAB writes an entry, and MXSTOP stops the table and discards what is queued. MXSTAT and
MXRPR read the node (R88, R179, R186, R188). -/
def Obligations.MatrixInstructionsAct : Prop :=
  let hand (i : Op → Instr) (maj kind : Nat) : Prop := ∀ c : Nat,
    Does i maj (fun _ p o => cmdKind (o.sb ++ o.sa) = kind ∧ cmdOk (p.mnode o.tile) (o.sb ++ o.sa) = true ∧ (p.mnode o.tile).frozen = false
        ∧ (liveQueue p o.tile).length < 16 ∧ acceptAt p o.tile = some c)
      (fun _ o p => acceptMatrix p o.tile (o.sb ++ o.sa) 0xFFFF o.slot c)
  let took (o : Opnds) (p : State) (c : Nat) : State := p.modNode o.tile (fun x => { x with free := max x.free (c + 1) })
  hand .mxwld 0xD1 1 ∧ hand .mxact 0xD2 2 ∧ hand .mxdrn 0xD3 3 ∧ hand .mxnorm 0xD4 4 ∧ hand .mxquad 0xD5 5
  ∧ (∀ (s : State) (op : Op), Ready s 0xD0 op → let o := opndsOf s 0xD0 op
      let x := s.mnode o.tile
      o.on = true → (x.counter = none ∨ sameBlock s x.owner s.cur = true) → x.frozen = false → acceptAt s o.tile = some s.mcnt →
      ∃ t, exec (.mxarm op) s = .next t ∧ (t.slot s.cur) = advance (s.slot s.cur) op none
        ∧ (t.mnode o.tile).period = o.sa.toNat % 2 ^ 16 + 1 ∧ (t.mnode o.tile).owner = s.cur
        ∧ (t.mnode o.tile).counter = some (if o.sb.toNat % 2 ^ 20 = 0xFFFFF then s.mcnt
            else max s.mcnt ((s.slot s.cur).start + o.sb.toNat % 2 ^ 20)))
  ∧ (∀ c : Nat, Does .mxarm 0xD0 (fun _ p o => ((p.mnode o.tile).counter = none ∨ sameBlock p (p.mnode o.tile).owner o.slot = true)
        ∧ (p.mnode o.tile).frozen = false ∧ acceptAt p o.tile = some c ∧ c ≠ p.mcnt)
      (fun _ o p => (took o p c).planEv c rkHold .matrixTableFire (Arg.of o.tile 1 o.slot o.sa.toNat o.sb.toNat)))
  ∧ YieldsOne .mxstat 0xD6 (fun _ => 2) (fun _ p o => scalarOut o (mxstatWord p o.tile))
  ∧ YieldsOne .mxrpr 0xD7 (fun _ => 2) (fun _ p o => scalarOut o (mxrprWord (p.mnode o.tile)))
  ∧ Does .mxtab 0xD8 (fun _ p o => let w : BitVec 64 := lane o.b 1 ++ lane o.b 0
        (cmdKind w = 0 ∨ cmdOk (p.mnode o.tile) w = true) ∧ (p.mnode o.tile).frozen = false ∧ (p.tile o.tile).badCfg = []
          ∧ (acceptAt p o.tile).getD p.mcnt = p.mcnt)
      (fun _ o p => planTable ((took o p p.mcnt).modNode o.tile (fun x =>
        { x with table := mset x.table (o.sa.toNat % 256) (BitVec.ofNat 64 (lane o.b 1 ++ lane o.b 0).toNat) })) o.tile (p.mcnt + 1))
  ∧ (∀ c : Nat, Does .mxtab 0xD8 (fun _ p o => let w : BitVec 64 := lane o.b 1 ++ lane o.b 0
        (cmdKind w = 0 ∨ cmdOk (p.mnode o.tile) w = true) ∧ (p.mnode o.tile).frozen = false ∧ acceptAt p o.tile = some c ∧ c ≠ p.mcnt)
      (fun _ o p => (took o p c).planEv c rkHold .matrixTableFire
        (Arg.of o.tile 2 o.slot o.sa.toNat (lane o.b 1 ++ lane o.b 0).toNat)))
  ∧ Does .mxstop 0xD9 (fun _ p o => (p.mnode o.tile).frozen = false ∧ (acceptAt p o.tile).getD p.mcnt = p.mcnt)
      (fun _ o p => discardQueue (stopTable (took o p p.mcnt) o.tile) o.tile p.nextId)
  ∧ (∀ c : Nat, Does .mxstop 0xD9 (fun _ p o => (p.mnode o.tile).frozen = false ∧ acceptAt p o.tile = some c ∧ c ≠ p.mcnt)
      (fun _ o p => (took o p c).planEv c rkHold .matrixTableFire (Arg.of o.tile 3 o.slot o.sa.toNat p.nextId)))
  ∧ (∀ (i : Op → Instr) (maj : Nat), (i = .mxstop ∧ maj = 0xD9) ∨ (i = .mxtab ∧ maj = 0xD8) →
      Does i maj (fun _ p o => (maj = 0xD9 ∨ cmdOk (p.mnode o.tile) (lane o.b 1 ++ lane o.b 0) = true) ∧ (p.mnode o.tile).frozen = true)
        (fun _ _ p => p))

/-- The Lodestone instructions: a command enters a node that is not frozen and holds fewer than 8, one with a capability operand
once its extent is checked; LREAD reads an idle node four cycles on, LSTAT its status (R195, R196). -/
def Obligations.LodestoneInstructionsAct : Prop :=
  let room (p : State) (o : Opnds) : Prop := (p.lnode o.tile).frozen = false ∧ (liveLode p o.tile).length < 8
  let put (o : Opnds) (maj addr : Nat) (a : Vec) (p : State) : State :=
    let x := p.lnode o.tile
    kickLode (State.modLode { p with nextId := p.nextId + 1, cmds := mset p.cmds p.nextId ({ slot := o.slot, offset := false, engine := 1, channel := 0, begun := false } : Command) }
      o.tile (fun y => { y with
        queue := y.queue ++ [{ maj := maj, var := o.op.var.toNat, a := a, b := o.sb, addr := addr, slot := o.slot, id := p.nextId, acc := max p.mcnt x.free }]
        free := max p.mcnt x.free + 1 })) o.tile
  let plain (i : Op → Instr) (maj : Nat) : Prop := Does i maj (fun _ p o => room p o) (fun _ o p => put o maj 0 o.a p)
  let loads (i : Op → Instr) (maj unit align : Nat) : Prop := ∀ a : Nat,
    Does i maj (fun _ p o => room p o ∧ firstOf o.sb + countOf o.sb ≤ 4096 ∧ lodeExtent o rRD align (unit * countOf o.sb) p = .ok a)
      (fun _ o p => put o maj a (splat (BitVec.ofNat 32 (eaOf maj o))) p)
  loads .lwgt 0xE0 16 1 ∧ loads .lbias 0xE1 2 2
  ∧ plain .lbeta 0xE2 ∧ plain .lseed 0xE2 ∧ plain .lclamp 0xE3 ∧ plain .lfree 0xE3 ∧ plain .lsweep 0xE4 ∧ plain .lmag 0xE5
  ∧ (∀ (s : State) (op : Op), Ready s 0xE6 op → let o := opndsOf s 0xE6 op
      let p := afterPops s op
      (o.on = false ∨ ((p.lnode o.tile).run = none ∧ liveLode p o.tile = [] ∧ (p.lnode o.tile).frozen = false)) →
      ∃ t, exec (.lread op) s = .next t ∧ Delivers s t 0xE6 op .value 4 (perLane o (fun l => (lane (lreadValue (p.lnode o.tile) o.sa) l, noFlags))))
  ∧ (∀ a : Nat, Does .lreadMe 0xE6 (fun _ p o => room p o ∧ lodeExtent o rWR 64 (if o.sb.getLsbD 0 then 8192 else 512) p = .ok a)
      (fun _ o p => put o 0xE6 a (splat (BitVec.ofNat 32 (eaOf 0xE6 o))) p))
  ∧ YieldsOne .lstat 0xE7 (fun _ => 2) (fun _ p o => scalarOut o (lstatWord p o.tile))

/-- The block-transfer instructions: a start is accepted while the engine has room and no start waits, with the template as it
stands, its start offset or its patched words; CPYQ reads a channel; TMPLW writes words 8 to 15 (R215, R217). -/
def Obligations.CopyInstructionsAct : Prop :=
  let free (p : State) (o : Opnds) : Prop := copiesOn p o.tile < 256 ∧ (p.bte o.tile).waiting = []
  Does .cpy 0xE8 (fun _ p o => free p o) (fun _ o p => acceptCopy p o.tile (o.sa.toNat % 16) (o.sb.toNat % 64) o.slot o.seq
      (p.tmpl o.tile (o.sb.toNat % 64)) (tmStart (p.tmpl o.tile (o.sb.toNat % 64))))
  ∧ Does .cpyat 0xE9 (fun _ p o => free p o) (fun _ o p => acceptCopy p o.tile (o.sa.toNat % 16) (o.sa.toNat / 16 % 64) o.slot o.seq
      (p.tmpl o.tile (o.sa.toNat / 16 % 64)) (o.sb.toNat % 2 ^ 20))
  ∧ Does .cpyx 0xEB (fun _ p o => free p o) (fun _ o p => acceptCopy p o.tile (o.sa.toNat % 16) (o.sa.toNat / 16 % 64) o.slot o.seq
      (patched (p.tmpl o.tile (o.sa.toNat / 16 % 64)) o.b) 0xFFFFF)
  ∧ YieldsOne .cpyq 0xEA (fun _ => 2) (fun _ p o => scalarOut o (cpyqWord p o.tile (o.sa.toNat % 16)))
  ∧ Does .tmplw 0xEC (fun _ p o => (p.tile o.tile).badCfg = []) (fun _ o p => (p.modTile o.tile (fun x => { x with
      tmpls := mset x.tmpls (o.sa.toNat % 64) ((p.tmpl o.tile (o.sa.toNat % 64)).take 8
        ++ [lane o.b 8, lane o.b 9, lane o.b 10, lane o.b 11, lane o.b 12 &&& 0xFF7F_FFFF#32, lane o.b 13,
          lane o.b 14 &&& 0x8000_03FF#32, 0]) })).modBte o.tile (fun x => { x with free := max p.mcnt x.free + 1 }))

/-- With every lane off an instruction that only acts issues, and leaves everything but its slot's position alone (R99, R145,
R226). -/
def Obligations.OffInstructionsPass : Prop :=
  IdleWhenOff .doneI 0x06 ∧ IdleWhenOff .doneAbandon 0x06 ∧ IdleWhenOff .callI 0x03 ∧ IdleWhenOff .retI 0x04 ∧ IdleWhenOff .loopI 0x05 ∧ IdleWhenOff .trapI 0x0E ∧ IdleWhenOff .rte 0x0F
  ∧ IdleWhenOff .course 0x11 ∧ IdleWhenOff .launch 0x12 ∧ IdleWhenOff .sign 0x15 ∧ IdleWhenOff .assayArm 0x16
  ∧ IdleWhenOff .assayClr 0x16 ∧ IdleWhenOff .audit 0x17 ∧ IdleWhenOff .escrowGrant 0x18 ∧ IdleWhenOff .escrowRevoke 0x18
  ∧ IdleWhenOff .escrowDrain 0x18 ∧ IdleWhenOff .genup 0x19 ∧ IdleWhenOff .remap 0x1A ∧ IdleWhenOff .cfgOpen 0x1B
  ∧ IdleWhenOff .cfgWr 0x1B ∧ IdleWhenOff .cfgSeal 0x1B ∧ IdleWhenOff .cfgClear 0x1B ∧ IdleWhenOff .vrfy 0x1C
  ∧ IdleWhenOff .hbt 0x1D ∧ IdleWhenOff .barArv 0xC0 ∧ IdleWhenOff .ctrAdd 0xC1 ∧ IdleWhenOff .ctrArvx 0xC1
  ∧ IdleWhenOff .evpost 0xC3 ∧ IdleWhenOff .mseed 0xC5 ∧ IdleWhenOff .sportArm 0xA5 ∧ IdleWhenOff .sportStop 0xA5
  ∧ IdleWhenOff .sportRewind 0xA5 ∧ IdleWhenOff .tmsel 0xA6 ∧ IdleWhenOff .pref 0xAD ∧ IdleWhenOff .spwin 0xAE
  ∧ IdleWhenOff .st 0xA1 ∧ IdleWhenOff .strl 0xA3 ∧ IdleWhenOff .mxarm 0xD0 ∧ IdleWhenOff .mxwld 0xD1 ∧ IdleWhenOff .mxact 0xD2
  ∧ IdleWhenOff .mxdrn 0xD3 ∧ IdleWhenOff .mxnorm 0xD4 ∧ IdleWhenOff .mxquad 0xD5 ∧ IdleWhenOff .mxtab 0xD8
  ∧ IdleWhenOff .mxstop 0xD9 ∧ IdleWhenOff .lwgt 0xE0 ∧ IdleWhenOff .lbias 0xE1 ∧ IdleWhenOff .lbeta 0xE2 ∧ IdleWhenOff .lseed 0xE2
  ∧ IdleWhenOff .lclamp 0xE3 ∧ IdleWhenOff .lfree 0xE3 ∧ IdleWhenOff .lsweep 0xE4 ∧ IdleWhenOff .lmag 0xE5
  ∧ IdleWhenOff .lreadMe 0xE6 ∧ IdleWhenOff .cpy 0xE8 ∧ IdleWhenOff .cpyat 0xE9 ∧ IdleWhenOff .cpyx 0xEB ∧ IdleWhenOff .tmplw 0xEC


/-! ## Tokens, links and holds (R67, R96, R138, R153, R172, R343 to R348) -/

/-- A token that has come to the far end of its circuit joins the input queue there, and one token fewer is under way to it; the
queue of a blocked element takes none (R67, R68, R96). The first record held at its source enters the event queue where an entry is
free, and else the queue stays (R172); the record of an EVPOST enters once what it releases has been performed, and is looked at again
in the next cycle before (R252). A token of a QBLK block shifts the last-result file of its slot when it completes, the first once
the block has been quantised; a block that is gone completes nothing (R138). -/
def Obligations.TokensArrive : Prop := ∀ s : State,
  (let q := s.inqHome s.arg.a
   let e := s.elem (elemOfInq q)
   (e.blocked = false → ∃ t, exec .tokenCircuitArrival s = .next t ∧ t.inq q = { toks := (s.inq q).toks ++ [s.arg.tok], pend := (s.inq q).pend - 1 }
     ∧ (∀ r, r ≠ q → t.inq r = s.inq r) ∧ t.agenda = s.agenda ∧ t.slots = s.slots ∧ t.elems = s.elems ∧ t.tiles = s.tiles ∧ t.mem = s.mem)
   ∧ (e.blocked = true → exec .tokenCircuitArrival s = .next s))
  ∧ (let x := s.tile s.arg.a
     (∀ r rest, s.arg.b ≠ 1 → x.evWait = r :: rest → x.evq.length < 64 → ∃ t, exec .eventRecordDeferredEnqueue s = .next t
        ∧ t.tile s.arg.a = { x with evq := x.evq ++ [(s.mcnt, r.2)], evWait := rest }
        ∧ (∀ u, u ≠ s.arg.a → t.tile u = s.tile u) ∧ t.agenda = s.agenda ∧ t.slots = s.slots ∧ t.elems = s.elems ∧ t.mem = s.mem)
     ∧ (s.arg.b ≠ 1 → (x.evWait = [] ∨ 64 ≤ x.evq.length) → ∃ t, exec .eventRecordDeferredEnqueue s = .next t ∧ (∀ u, t.tile u = s.tile u)
        ∧ t.agenda = s.agenda ∧ t.slots = s.slots ∧ t.elems = s.elems ∧ t.mem = s.mem))
  ∧ (let u := tileOfSlot s.arg.a
     (s.arg.b = 1 → releasePending s s.arg.a s.arg.c = false → (s.tile u).evq.length < 64 → (s.tile u).evWait = [] →
        ∃ t, exec .eventRecordDeferredEnqueue s = .next t
          ∧ t.tile u = { s.tile u with evq := (s.tile u).evq ++ [(s.mcnt, s.arg.v.setWidth 128)] }
          ∧ (∀ k, k ≠ u → t.tile k = s.tile k) ∧ t.agenda = s.agenda ∧ t.slots = s.slots ∧ t.elems = s.elems ∧ t.mem = s.mem)
     ∧ (s.arg.b = 1 → releasePending s s.arg.a s.arg.c = true →
        exec .eventRecordDeferredEnqueue s = .next (s.planEv (s.mcnt + 1) rkArrive .eventRecordDeferredEnqueue s.arg)))
  ∧ (∀ b, (s.elem s.arg.a).quant.find? (fun b => b.id == s.arg.b) = some b →
      let n := b.slot
      let x := s.slot n
      let out := if s.arg.c = 0 then (quantOut b x.dth).getD 0 0 else b.outs.getD s.arg.c 0
      ∃ t, exec .qblkTokenRelease s = .next t ∧ (t.slot n).q0 = out ∧ (t.slot n).q1 = x.q0 ∧ (t.slot n).q2 = x.q1 ∧ (t.slot n).q3 = x.q2
        ∧ (s.arg.c ≠ 0 → (t.slot n).dth = x.dth ∧ (t.slot n).flg = x.flg) ∧ (t.slot n).p = x.p ∧ (t.slot n).o = x.o ∧ (t.slot n).st = x.st
        ∧ (∀ m, m ≠ n → t.slot m = s.slot m) ∧ (∀ v, (t.elem v).pv = (s.elem v).pv ∧ (t.elem v).ps = (s.elem v).ps) ∧ t.mem = s.mem)
  ∧ ((s.elem s.arg.a).quant.find? (fun b => b.id == s.arg.b) = none → exec .qblkTokenRelease s = .next s)

/-- A held slot looks again on its turn: with no pre-emption that is due it issues in this cycle, with one at levels D and F it is
saved; a frozen slot holds its coupled group for another turn. A hold that is still in force when HOLD_OVERRUN comes stops its slot with
cause 0x082, and one that is over leaves the state alone. An illegal or poisoned word blocks its element, which discards what it has in
flight (R18, R30, R96, R153). -/
def Obligations.HoldsEnd : Prop := ∀ s : State,
  let n := s.arg.a
  let x := s.slot n
  let held : Bool := x.st == .running && x.heldSince.isSome
  (held = true → (s.levelOf (tileOfSlot n) = .t ∨ savedHeld s n = false) →
    exec .wKindHoldRelease s = .next (s.plan s.mcnt (rkIssue (veOfSlot n)) (.issue n)))
  ∧ (held = true → s.levelOf (tileOfSlot n) ≠ .t → savedHeld s n = true →
    Leads .wKindHoldRelease s (fun t => t.slot n = { x with st := .saved, keep := keepAll } ∧ t.mem = s.mem
      ∧ ∀ m, m ≠ n → t.slot m = s.slot m))
  ∧ (held = false → (x.st ≠ .frozen → exec .wKindHoldRelease s = .next s) ∧ exec .holdOverrun s = .next s)
  ∧ (x.st = .frozen → exec .wKindHoldRelease s = .next ((s.delay n).holdGroup n (s.mcnt + 1)))
  ∧ (held = true → Leads .holdOverrun s (fun t => (t.slot n).st = .frozen ∧ (t.slot n).cause = 0x082#32
      ∧ (t.slot n).epc = s.position n ∧ t.mem = s.mem ∧ ∀ m, m ≠ n → t.slot m = s.slot m))
  ∧ Leads .illegalWordIssue s (fun t => (t.elem (veOfSlot n)).blocked = true ∧ (t.elem (veOfSlot n)).flight = []
      ∧ (t.elem (veOfSlot n)).record = [] ∧ t.slots = s.slots ∧ t.mem = s.mem
      ∧ ∀ v, v ≠ veOfSlot n → t.elem v = s.elem v)

/-- A packet that is ready at a link crosses it in the first beat that its traffic owns: it is received 40 cycles after it was sent,
and goes on once its check is good, after the last link to what happens at the end of its path. A beat that is sent again finds
its beat in the same way. At its turn a failing lane is moved to a spare lane where one is left; else the link is down and the contexts
that own pairs of it end (R265, R344, R345, R347, R348). -/
def Obligations.LinksCarry : Prop := ∀ s : State,
  (∀ (p : Packet) (h : Hop) (rest : List Hop) (c m : Nat), mfind s.packets s.arg.a = some p → p.hops = h :: rest →
    (s.link h.link).down = false → findBeat (s.link h.link) h.back p.kind p.ctx p.circ 8192 s.mcnt = some (c, m) →
    let sent (t : State) : Prop :=
      t.link h.link = { s.link h.link with sent := keepBeats (s.link h.link).sent { back := h.back, cycle := c, module_ := m, pkt := s.arg.a } }
      ∧ ({ time := 16 * (c + 40) + rkArrive, act := .ev .linkBeatReceive (Arg.of s.arg.a 1 0 0 0) } : Item) ∈ t.agenda
      ∧ t.mem = s.mem ∧ t.slots = s.slots ∧ t.packets = s.packets
    (s.arg.b = 0 → Leads .linkBeatReceive s sent) ∧ Leads .linkRetrySend s sent)
  ∧ (∀ (p : Packet) (h : Hop) (i : Instr) (a : Arg), mfind s.packets s.arg.a = some p → p.hops = [h] → p.act = .ev i a →
    s.arg.b = 1 → s.arg.i = [] → checkBeat p (s.mcnt - 40) (errorBits s.arg.bytes) = .good → (s.link h.link).retry = [] →
    Leads .linkBeatReceive s (fun t => mfind t.packets s.arg.a = none ∧ t.mem = s.mem ∧ t.slots = s.slots
      ∧ ({ time := 16 * (s.mcnt + h.after + p.extra) + p.rank, act := .ev i { a with tok := p.tok } } : Item) ∈ t.agenda))
  ∧ (let k := s.link s.arg.a
     let used := mget 0 k.fixed (s.arg.b / 64)
     let moved := { k with toFix := k.toFix.filter (fun x => x != s.arg.b), lanes := mdel k.lanes s.arg.b }
     (used < Config.spareLanes → Leads .linkLaneRepair s (fun t => t.mem = s.mem ∧ t.slots = s.slots ∧ t.ctxs = s.ctxs
        ∧ t.link s.arg.a = { moved with fixed := mset k.fixed (s.arg.b / 64) (used + 1), faulty := false }
        ∧ ∀ l, l ≠ s.arg.a → t.link l = s.link l))
     ∧ (Config.spareLanes ≤ used → Leads .linkLaneRepair s (fun t =>
        t = ((List.range 8).filter (fun c => (s.ctx c).live && crosses k c)).foldl endContext
          ((s.modLink s.arg.a (fun _ => moved)).modLink s.arg.a (fun u => { u with down := true })))))

/-! ## Stream ports, the Vault and translations (R151, R162 to R165, R283, R285, R288, R293 to R295) -/

/-- A read walk presents the token at its position once it has come, one per cycle; a write walk takes the oldest token of its
stream input, sends what it writes, and the writes are performed in memory; merged UN tokens are sent (R164, R249, R295). -/
def Obligations.StreamPortsWalk : Prop := ∀ s : State,
  let m := s.arg.a
  let p := s.sport m
  (∀ tok, p.walk = s.arg.b → p.state = 1 → p.dir = false → s.arg.c = 2 → p.bfp = false → p.walking = false →
    mfind p.got p.pos = some tok → p.lastShown ≠ s.mcnt + 1 →
    Leads .readWalkTokenPresent s (fun t => t.sport m = { p with
        present := p.present ++ [tok], got := mdel p.got p.pos, asked := p.asked - 1, pos := p.pos + 1, toks := (p.toks + 1) % 2 ^ 24
        lastShown := s.mcnt + 1, state := if p.pos + 1 = walkTokens p.mapw then 2 else 1 }
      ∧ t.mem = s.mem ∧ t.slots = s.slots ∧ ∀ k, k ≠ m → t.sport k = s.sport k))
  ∧ (∀ k rest ps, s.arg.c = 0 → p.state = 1 → p.dir = true → p.walking = false → p.bfp = false → p.input = k :: rest →
    writeParts s m p.pos k.tok = .ok ps → (∀ x ∈ ps, x.2 ≠ 2) → writeWaits s m k ps = false →
    2 ^ 40 ≤ ((plainParts ps).headD ⟨0, 0, 0, 0⟩).pa → bankTaken s m = 0#16 →
    Leads .meStreamInputToken s (fun t => (t.sport m).pos = p.pos + 1 ∧ (t.sport m).toks = (p.toks + 1) % 2 ^ 24
      ∧ (t.sport m).accepted = p.accepted ++ [{ k with pos := p.pos, id := s.nextId, parts := (plainParts ps).flatMap cutPart }]
      ∧ ({ time := 16 * (s.mcnt + 3) + rkPerform, act := .ev .writeWalkTokenPerform (Arg.of m s.nextId 0 0 0) } : Item) ∈ t.agenda
      ∧ t.mem = s.mem ∧ t.slots = s.slots))
  ∧ (Memory.wf s.mem = true → Leads .writeWalkTokenPerform s (fun t =>
      (t.sport m).accepted = p.accepted.filter (fun k => k.id != s.arg.b) ∧ t.slots = s.slots
      ∧ (∀ a, (∀ q ∈ (writesOf s m s.arg.b).1, a < q.pa ∨ q.pa + q.n ≤ a) → readByte t.mem a = readByte s.mem a)
      ∧ ∀ q, (writesOf s m s.arg.b).1 = [q] → q.val < 2 ^ (8 * q.n) → t.read q.pa q.n = q.val))
  ∧ (s.arg.b = 0 → p.bfp = false → Leads .writePortUnFlush s (fun t => (t.sport m).merge = []
      ∧ (t.sport m).accepted = p.accepted ++ p.merge ∧ t.mem = s.mem))
  ∧ (s.arg.b ≠ 0 → bankTaken s m = 0#16 → Leads .writePortUnFlush s (fun t =>
      ({ time := 16 * (s.mcnt + 3) + rkPerform, act := .ev .writeWalkTokenPerform (Arg.of m (s.arg.b - 1) 0 0 0) } : Item) ∈ t.agenda
      ∧ t.sports = s.sports ∧ t.mem = s.mem ∧ t.slots = s.slots))

/-- A Vault bank performs one request a cycle: a write changes the bytes that it names and no others, a read sends back what the
bank holds, 14 cycles on to a master of its own die; what comes back to a host function is a completion. A walk of the
radix table that finds its page puts it into the tile's translation cache. An object-cache fill enters the entry of the
die's copy. A STRL that was held is performed once its slot's accesses before it have been (R151, R283, R285, R288, R294). -/
def Obligations.MemoryRequestsEnd : Prop := ∀ s : State,
  (∀ r, mfind s.reqs s.arg.a = some r → mfind s.banks (reqBank r) ≠ some s.mcnt → outranked s s.arg.a r = false →
    (r.write = true → parkedAt s r = none → (∀ id ix, r.who ≠ .copy id ix) → Memory.wf s.mem = true →
      Leads .vaultBankEvent s (fun t => mfind t.reqs s.arg.a = none ∧ mfind t.banks (reqBank r) = some s.mcnt
        ∧ (∀ a, (∀ q ∈ r.parts, a < q.pa ∨ q.pa + q.n ≤ a) → readByte t.mem a = readByte s.mem a)
        ∧ ∀ q, r.parts = [q] → q.val < 2 ^ (8 * q.n) → t.read q.pa q.n = q.val))
    ∧ (r.write = false → r.die = reqBank r / 32 → r.die < 4 → Leads .vaultBankEvent s (fun t =>
        ({ time := 16 * (s.mcnt + 14) + rkArrive
           act := .ev .vaultReadReply { Arg.of s.arg.a 0 0 0 0 with tok := gatherTok s r.valid r.parts } } : Item) ∈ t.agenda
        ∧ mfind t.banks (reqBank r) = some s.mcnt ∧ t.reqs = s.reqs ∧ t.mem = s.mem ∧ t.slots = s.slots)))
  ∧ (∀ r fn tag, mfind s.reqs s.arg.a = some r → r.who = .host fn tag → s.arg.b ≠ 1 →
      exec .vaultReadReply s = .next { s with
        reqs := mdel s.reqs s.arg.a
        hostOut := s.hostOut ++ [{ fn := fn, tag := tag, status := 0, data := s.arg.tok.data, poison := s.arg.tok.poison }] })
  ∧ (s.arg.b = 1 → exec .translationWalkComplete s
      = .next (prefetchHit s s.arg.a (s.ctxOfTile s.arg.a) s.arg.d s.arg.e s.arg.c))
  ∧ (∀ w base size pa ord ro, s.arg.b = 0 → (s.tile s.arg.a).walks = [w] → w.id = s.arg.c →
      radixEntry w.va (radixBits.getD w.level (12, 4)).1 (decide (3 ≤ w.level)) (s.arg.tok.data.setWidth 64) = .inl (.page base size pa ord ro) →
      Leads .translationWalkComplete s (fun t => (t.tile s.arg.a).walks = [] ∧ t.mem = s.mem ∧ t.slots = s.slots
        ∧ (t.tile s.arg.a).tcache = (if (s.tile s.arg.a).tcache.length < 64 then (s.tile s.arg.a).tcache
            else (s.tile s.arg.a).tcache.tail)
          ++ [{ ctx := w.ctx, gen := s.genOn (dieOfTile s.arg.a) w.ctx, base := base, size := size, pa := pa, ord := ord, ro := ro }]))
  ∧ (∀ w rest table, s.arg.b = 0 → (s.tile s.arg.a).walks = w :: rest → w.id = s.arg.c →
      radixEntry w.va (radixBits.getD w.level (12, 4)).1 (decide (3 ≤ w.level)) (s.arg.tok.data.setWidth 64) = .inr table →
      Leads .translationWalkComplete s (fun t =>
        (t.tile s.arg.a).walks = { w with table := table, level := w.level + 1, busy := true } :: rest
        ∧ (t.tile s.arg.a).tcache = (s.tile s.arg.a).tcache ∧ t.mem = s.mem ∧ t.slots = s.slots))
  ∧ (isPoisoned s.poison (objEntryPa s (dieOfTile s.arg.a) s.arg.b s.arg.c) 32 = false →
      Leads .objectCacheFill s (fun t => (s.arg.b, s.arg.c) ∉ (t.tile s.arg.a).ofetch ∧ t.mem = s.mem ∧ t.slots = s.slots
        ∧ ({ ctx := s.arg.b, obj := s.arg.c, gen := s.genOn (dieOfTile s.arg.a) s.arg.b
             words := objWords s (dieOfTile s.arg.a) s.arg.b s.arg.c } : ObjEntry) ∈ (t.tile s.arg.a).ocache))
  ∧ (∀ a, mfind s.accs s.arg.a = some a → a.kind = .release → a.size ≠ 64 → priorPending s a.slot a.seq = false →
      Memory.wf s.mem = true → Leads .strlHeldPerform s (fun t => mfind t.accs s.arg.a = none ∧ t.slots = s.slots
        ∧ t.read a.addr a.size = (lane a.data 0).toNat % 2 ^ (8 * a.size)
        ∧ ∀ k, k < a.addr ∨ a.addr + a.size ≤ k → readByte t.mem k = readByte s.mem k))


/-! ## Tellers and copies (R198 to R223, R281, R285) -/

/-- A Teller's command whose row of R206 passes in its CK is issued: ACT opens its bank's row, PRE, PREA and auto-precharge close,
refreshes lower the debt, a read burst brings the bytes of its address back RL + 3 CK on, a write burst writes its 32 bytes
WL + 3 CK on, MRW writes a mode register and MRR reads one. CEND issues nothing (R202, R204, R206, R209, R219).
A command that its row of R206 refuses does not reach the DRAM, and its run is in violation (R206, R207). -/
def Obligations.TellerCommandsIssue : Prop :=
  (let does (i : Instr) (off : BitVec 9) (cmd : TRun → TCmd) (ok : State → TRun → Prop) (more : State → State → TRun → Nat → Prop) : Prop :=
    ∀ (s : State) (r : TRun), activeRun (s.tel s.cur) (ckOf s s.mcnt) = some r → ok s r →
      passes (s.tel s.cur) r false (cmd r) (r.start + off.toNat) = true →
      ∃ t, exec i s = .next t ∧ TellerIssues s t r (cmd r) (r.start + off.toNat) ∧ more s t r (r.start + off.toNat)
  let still (s t : State) (_ : TRun) (_ : Nat) : Prop := t.mem = s.mem ∧ (t.tel s.cur).mrs = (s.tel s.cur).mrs
    ∧ (t.tel s.cur).mrr = (s.tel s.cur).mrr
  let good (_ : State) (r : TRun) : Prop := r.bad = false
  let any (_ : State) (_ : TRun) : Prop := True
  let at_ (s : State) (r : TRun) (bank : BitVec 4) (col : BitVec 6) : Nat :=
    burstAddr (s.tel s.cur) s.cur (bankOf r bank) (r.col0 + col.toNat)
  let reads (bank : BitVec 4) (col : BitVec 6) (s t : State) (r : TRun) (ck : Nat) : Prop := t.mem = s.mem ∧ (r.kind ≠ 3 →
    ({ time := 16 * cycleOf s (ck + readLat (s.tel s.cur) + 3) + rkArrive
       act := .ev .tellerReadDataReturn { Arg.of s.cur r.copy (burstNo s r)
         ((s.tel s.cur).rlapse || isPoisoned s.poison (at_ s r bank col) 32).toNat 0 with
           v := BitVec.ofNat 512 (s.read (at_ s r bank col) 32) } } : Item) ∈ t.agenda)
  let writes (bank : BitVec 4) (col : BitVec 6) (s t : State) (r : TRun) (ck : Nat) : Prop :=
    (r.kind = 3 → Memory.wf s.mem = true → ∀ k, k < at_ s r bank col ∨ at_ s r bank col + 32 ≤ k → readByte t.mem k = readByte s.mem k)
    ∧ (r.kind ≠ 3 → t.mem = s.mem ∧ ∀ c d, s.copyOf r.copy = some c → c.stop = none → burstData c (burstNo s r) = some d →
      ({ time := 16 * cycleOf s (ck + writeLat (s.tel s.cur) + 3) + rkPerform
         act := .ev .copyTokenWrite { Arg.of r.copy 3 (at_ s r bank col) 0 0 with v := BitVec.ofNat 512 d } } : Item) ∈ t.agenda)
  (∀ (off : BitVec 9) (bank : BitVec 4) (row : BitVec 14) (col : BitVec 6) (ma mop : BitVec 8),
    does (.tellerAct off bank row) off (fun r => .act (bankOf r bank) (r.row0 + row.toNat)) good still
    ∧ does (.tellerRd off bank col) off (fun r => .burst (bankOf r bank) (r.col0 + col.toNat) false false)
        (fun s r => r.bad = false ∧ burstOk bank col s s.cur r = true) (reads bank col)
    ∧ does (.tellerRda off bank col) off (fun r => .burst (bankOf r bank) (r.col0 + col.toNat) false true)
        (fun s r => r.bad = false ∧ burstOk bank col s s.cur r = true) (reads bank col)
    ∧ does (.tellerWr off bank col) off (fun r => .burst (bankOf r bank) (r.col0 + col.toNat) true false)
        (fun s r => r.bad = false ∧ burstOk bank col s s.cur r = true ∧ dataHeld s r = true) (writes bank col)
    ∧ does (.tellerWra off bank col) off (fun r => .burst (bankOf r bank) (r.col0 + col.toNat) true true)
        (fun s r => r.bad = false ∧ burstOk bank col s s.cur r = true ∧ dataHeld s r = true) (writes bank col)
    ∧ does (.tellerPre off bank) off (fun r => .pre (bankOf r bank)) any still
    ∧ does (.tellerPrea off) off (fun _ => .prea) any still
    ∧ does (.tellerRefab off) off (fun _ => .refab) (fun s _ => -((s.tel s.cur).maxpost : Int) ≤ (s.tel s.cur).debt.toInt - 1) still
    ∧ does (.tellerRefpb off bank) off (fun _ => .refpb bank.toNat) (fun s _ => -((s.tel s.cur).maxpost : Int) ≤ (s.tel s.cur).debt.toInt - 1) still
    ∧ does (.tellerMrw off ma mop) off (fun _ => .mrw) any (fun s t _ _ =>
        (t.tel s.cur).mrs = mset (s.tel s.cur).mrs ma.toNat mop ∧ (t.tel s.cur).mrr = (s.tel s.cur).mrr ∧ t.mem = s.mem)
    ∧ does (.tellerMrr off ma) off (fun _ => .mrr) any (fun s t _ _ =>
        (∀ v, mfind (s.tel s.cur).mrs ma.toNat = some v → (t.tel s.cur).mrr = v) ∧ (t.tel s.cur).mrs = (s.tel s.cur).mrs ∧ t.mem = s.mem)
    ∧ does (.tellerZqs off) off (fun _ => .zqs) any still
    ∧ does (.tellerZql off) off (fun _ => .zql) any still
    ∧ ∀ s, exec (.tellerCend off) s = .next s))
  ∧ (∀ (s : State) (r : TRun) (off : BitVec 9) (i : Instr) (c : TCmd),
  activeRun (s.tel s.cur) (ckOf s s.mcnt) = some r → r.bad = false →
  ((∃ bank row, i = .tellerAct off bank row ∧ c = .act (bankOf r bank) (r.row0 + row.toNat))
    ∨ (∃ bank, i = .tellerPre off bank ∧ c = .pre (bankOf r bank))
    ∨ (∃ bank col, i = .tellerRd off bank col ∧ c = .burst (bankOf r bank) (r.col0 + col.toNat) false false)
    ∨ (∃ bank col, i = .tellerWr off bank col ∧ c = .burst (bankOf r bank) (r.col0 + col.toNat) true false)
    ∨ (i = .tellerRefab off ∧ c = .refab)) →
  passes (s.tel s.cur) r false c (r.start + off.toNat) = false → passes (s.tel s.cur) r true c (r.start + off.toNat) = false →
  ∃ t, exec i s = .next t ∧ (t.tel s.cur).hist = (s.tel s.cur).hist ∧ (t.tel s.cur).openRow = (s.tel s.cur).openRow
    ∧ (t.tel s.cur).debt = (s.tel s.cur).debt ∧ t.mem = s.mem ∧ t.slots = s.slots
    ∧ ∀ q ∈ (t.tel s.cur).runs, q.id = r.id → q.bad = true)

/-- Runs are posted, begin, and leave; data comes back by halves of a token; a bank that a run left open is precharged; timing
words are written while no graph or host program is pending; the refresh debt rises by 1 each interval, and above MAXPOST
sets RLAPSE; host and stream accesses queue and are served (R205, R208, R209, R212, R219, R281). -/
def Obligations.TellersRun : Prop := ∀ s : State,
  let tl := s.arg.a
  let x := s.tel tl
  let ck := ckOf s s.mcnt
  (s.arg.d = 1 → (∀ k < progNs (mget 0#32 x.progs s.arg.b), slotOwner x (s.arg.c + k) = (3, 0)) → Leads .tellerRunPost s (fun t => ∃ r, (t.tel tl).runs = x.runs ++ [r] ∧ r.kind = 3 ∧ r.prog = s.arg.b
      ∧ r.id = s.nextId ∧ r.ns = progNs (mget 0#32 x.progs s.arg.b) ∧ r.start = runStart x s.arg.c r.ns 3 0 (ck + 16)
      ∧ ({ time := 16 * max s.mcnt (cycleOf s r.start) + rkHold, act := .ev .tellerRunStart (Arg.of tl s.nextId 0 0 0) } : Item) ∈ t.agenda
      ∧ t.mem = s.mem ∧ t.slots = s.slots))
  ∧ (∀ r, x.runs.find? (fun q => q.id == s.arg.b) = some r → ownerFrozen s tl r = false → runOwned x r = true → (x.trdy = true ∨ r.kind = 3) →
      Leads .tellerRunStart s (fun t => t.tels = s.tels ∧ t.mem = s.mem ∧ t.slots = s.slots
        ∧ ({ time := 16 * max s.mcnt (cycleOf s (r.start + 64 * r.ns) - 1) + rkArrive
             act := .ev .tellerRunEndCheck (Arg.of tl r.id 0 0 0) } : Item) ∈ t.agenda
        ∧ (r.ix < progCmds (mget 0#32 x.progs r.prog) →
          ({ time := 16 * max s.mcnt (cycleOf s (r.start + bitsOf (runWord x r).toNat 26 18)) + rkPort, act := .teller tl } : Item) ∈ t.agenda)))
  ∧ (∀ c, s.copyOf s.arg.b = some c → s.arg.c % 2 = 0 →
      let h := mget (⟨0, 0xFFFF#16, false⟩ : Token) c.half (s.arg.c / 2)
      let tok : Token := { data := h.data ||| BitVec.ofNat 512 (s.arg.v.toNat % 2 ^ 256), valid := 0xFFFF#16, poison := h.poison || s.arg.d != 0 }
      exec .tellerReadDataReturn s = .next (s.setCopy s.arg.b { c with half := mset c.half (s.arg.c / 2) tok }))
  ∧ (∀ r, x.runs.find? (fun q => q.id == s.arg.b) = some r → r.kind = 3 → spilled x r = [] → s.copyOf r.copy = none → x.ttq = [] →
      Leads .tellerRunEndCheck s (fun t => (t.tel tl).runs = x.runs.filter (fun q => q.id != r.id) ∧ t.mem = s.mem ∧ t.slots = s.slots
        ∧ ∀ k, k ≠ tl → t.tel k = s.tel k))
  ∧ ((mfind x.openRow s.arg.b).isSome = true → mayPre x s.arg.b ck = true → x.bus ≤ ck → anyCommand x ck = true →
      exec .tellerRecoveryPrecharge s = .next (s.setTel tl { x with
        hist := mset x.hist (80 + s.arg.b) ck, openRow := mdel x.openRow s.arg.b, openRun := mdel x.openRun s.arg.b
        recov := x.recov.filter (fun k => k != s.arg.b), bus := ck + 1 }))
  ∧ (s.arg.b < 10 → (∀ r ∈ x.runs, r.kind = 3) → x.hostq = [] →
      exec .tellerTimingWrite s = .next (s.setTel tl { x with tt := mset x.tt s.arg.b (BitVec.ofNat 32 s.arg.c) }))
  ∧ (s.arg.b < 10 → x.hostq ≠ [] →
      exec .tellerTimingWrite s = .next (s.setTel tl { x with ttq := x.ttq ++ [(s.arg.b, BitVec.ofNat 32 s.arg.c)] }))
  ∧ Leads .refreshWatchdogTick s (fun t => t.tel tl = { x with debt := x.debt + 1, rlapse := x.rlapse || decide ((x.maxpost : Int) < x.debt.toInt + 1) }
      ∧ (x.trefi ≠ 0 → ({ time := 16 * cycleOf s (ck + x.trefi) + rkStart, act := .ev .refreshWatchdogTick (Arg.of tl 0 0 0 0) } : Item) ∈ t.agenda)
      ∧ t.mem = s.mem ∧ t.slots = s.slots)
  ∧ (s.arg.b ≠ 1 ∨ x.debt.toInt ≤ x.maxpost → exec .rlapseClear s = .next (s.setTel tl { x with rlapse := false }))
  ∧ (∀ r x2, s.arg.d = 0 → (s.arg.b, s.arg.c) ∈ x.hostq → mfind s.reqs s.arg.b = some r → x.trdy = true → s.fnFrozen.contains (fnOf r) = false → x.ttq = [] →
      closedPage { x with hostq := x.hostq.filter (fun q => q.1 != s.arg.b) } { pageRun s.arg.b 2 (fnOf r) s.arg.c with opened := [bankOfPa (r.parts.headD ⟨0, 0, 0, 0⟩).pa] }
        (r.parts.headD ⟨0, 0, 0, 0⟩).pa s.arg.c r.write = some x2 →
      Leads .hostSlotService s (fun t => t.tel tl = x2 ∧ t.mem = s.mem ∧ t.slots = s.slots
        ∧ ({ time := 16 * max s.mcnt (cycleOf s (pageEnd x s.arg.c r.write)) + rkPerform
             act := .ev .hostSlotService (Arg.of tl s.arg.b 0 1 0) } : Item) ∈ t.agenda))
  ∧ (∀ r, s.arg.c = 0 → mfind s.reqs s.arg.b = some r →
      Leads .tellerStreamAccess s (fun t => t.tel tl = { x with streamq := x.streamq ++ [(s.arg.b, ck)] } ∧ t.mem = s.mem ∧ t.slots = s.slots))

/-- A copy begins on its free channel with the channel's next number, or stops at once with STATUS 0x02 where a check of R214
fails; a token that has been read waits to be written; a token write is performed at its ME; completion credits the counter
and frees the channel; an aperture start that finds room is accepted, and one that finds none waits (R214 to R221). -/
def Obligations.CopiesRun : Prop := ∀ s : State,
  (∀ c, s.copyOf s.arg.a = some c → c.running = false → c.stop = none → c.begin_ ≤ s.mcnt →
    (s.chan c.tile c.chan).frozen = false → (s.chan c.tile c.chan).run = none →
    (firstCopy (chanQueue s c.tile c.chan)).map (fun p => p.1) = some s.arg.a → priorPending s c.slot c.bound = false →
    s.recordHeld c.tile 2 = false → copyMiss s c = none →
    Leads .copyBegin s (fun t => t.mem = s.mem ∧ t.slots = s.slots ∧ (t.chan c.tile c.chan).run = some s.arg.a
      ∧ (t.chan c.tile c.chan).seq = ((s.chan c.tile c.chan).seq + 1) % 4096
      ∧ (t.chan c.tile c.chan).frozen = (copyChecks s (withEnds s c)).isSome
      ∧ ∃ d, t.copyOf s.arg.a = some d ∧ d.running = true ∧ d.seq = (s.chan c.tile c.chan).seq))
  ∧ (∀ c, s.copyOf s.arg.a = some c → s.arg.b = 3 → s.arg.c < c.lim → s.arg.tok.poison = false →
    Leads .copyTokenRead s (fun t => t.copies = mset s.copies s.arg.a { c with held := mset c.held s.arg.c s.arg.tok }
      ∧ ({ time := 16 * (s.mcnt + 1) + rkBte, act := .ev .copyTokenWrite (Arg.of s.arg.a 0 0 0 0) } : Item) ∈ t.agenda
      ∧ t.mem = s.mem ∧ t.slots = s.slots))
  ∧ (∀ c u m a, s.copyOf s.arg.a = some c → s.arg.b = 2 → siteOf s c false (64 * s.arg.c) = .ok (.me u m a) → Memory.wf s.mem = true →
    Leads .copyTokenWrite s (fun t => t.copies = mset s.copies s.arg.a { c with done := c.done + 1 } ∧ t.slots = s.slots
      ∧ (∀ l < 16, t.read32 (a + 4 * l) = if s.arg.tok.valid.getLsbD l then lane s.arg.tok.data l else s.read32 (a + 4 * l))
      ∧ ∀ k, k < a ∨ a + 64 ≤ k → readByte t.mem k = readByte s.mem k))
  ∧ (∀ c, s.copyOf s.arg.a = some c → Leads .copyComplete s (fun t => t.copyOf s.arg.a = none ∧ mfind t.cmds s.arg.a = none
      ∧ (t.chan c.tile c.chan).run ≠ some s.arg.a ∧ t.mem = s.mem ∧ t.slots = s.slots
      ∧ ∀ k, tmCtr c.ws = some k → (t.ctrOf (creditHome s c) k).now.c
        = (s.ctrOf (creditHome s c) k).now.c + BitVec.ofInt 48 (bytesDone c)))
  ∧ (s.arg.e = 1 → copiesOn s s.arg.a < 256 → (s.bte s.arg.a).waiting = [] →
      s.badWord s.arg.a .template (fun i => i / 16 == s.arg.c) = none → Leads .bteDeferredAccept s (fun t =>
      ∃ d, t.copyOf s.nextId = some d ∧ d.tile = s.arg.a ∧ d.chan = s.arg.b ∧ d.tmpl = s.arg.c ∧ d.slot = s.arg.d
        ∧ d.ws = s.tmpl s.arg.a s.arg.c ∧ d.running = false ∧ t.mem = s.mem ∧ t.slots = s.slots))
  ∧ (s.arg.e = 1 → 256 ≤ copiesOn s s.arg.a → Leads .bteDeferredAccept s (fun t =>
      (t.bte s.arg.a).waiting = (s.bte s.arg.a).waiting ++ [(s.arg.b, s.arg.c, s.arg.d, (s.arg.i.headD 0).toNat)]
        ∧ t.copies = s.copies ∧ t.mem = s.mem ∧ t.slots = s.slots))


/-! ## The matrix node and the Lodestone node (R175 to R197) -/

/-- The first command of a node's queue begins when its cycle has come and its resource is free: it leaves the queue and runs
with none of its work done. It counts as begun among the commands of its slot (R179 to R181). -/
def Obligations.MatrixCommandsBegin : Prop := ∀ (s : State) (c : MCmd) (i : Instr),
  let t := s.arg.a
  let x := s.mnode t
  let run : MRun := { cmd := { c with begin_ := s.mcnt }, next := 0, take := 0, buf := [], pois := false, wait := false, toks := [] }
  let begun (u : State) (node : MNode) : Prop :=
    u.mnode t = { node with queue := x.queue.filter (fun d => d.id != c.id) }
      ∧ mfind u.cmds c.id = some { slot := c.slot, offset := false, engine := 0, channel := 0, begun := true }
      ∧ u.mem = s.mem ∧ u.slots = s.slots
  s.arg.b = 0 → headOf s t = some c → beginEvent c.word = i → c.begin_ ≤ s.mcnt → badDesc s t c.word = none → mayBegin s t c.word = true →
    tileOfSlot c.slot = t →
  (i = .matrixWld → Leads .matrixWld s (fun u => begun u { x with
      wld := x.wld ++ [run], mw0 := if cmdBank c.word = 0 then cmdWidth c.word else x.mw0
      mw1 := if cmdBank c.word = 1 then cmdWidth c.word else x.mw1 }))
  ∧ (i = .matrixAct → Leads .matrixAct s (fun u => begun u { x with act := some run, pipe := [] }))
  ∧ (i = .matrixQuad → Leads .matrixQuad s (fun u => begun u { x with act := some run, pipe := [] }))
  ∧ (i = .matrixDrnMx → Leads .matrixDrnMx s (fun u => begun u { x with drn := some run }))
  ∧ (i = .matrixDrnRaw → Leads .matrixDrnRaw s (fun u => begun u { x with drn := some run }))
  ∧ (i = .matrixNorm → Leads .matrixNorm s (fun u => begun u { x with norm := x.norm ++ [run] }))

/-- Weight blocks enter their bank, one per cycle; a group of activations computes and is applied 8·MA + 5 cycles on: each
accumulator token of its rows, or the empty token where INIT is 0, gains the partials of K-blocks 0 and 1 of its column; a drain
pushes a row of normalised tokens into the MX queues of VEs 4 to 7, or writes the tokens two by two, to DRAM through its Teller
(R175, R177, R178, R181, R183, R281). -/
def Obligations.MatrixCommandsRun : Prop := ∀ s : State,
  let t := s.arg.a
  let x := s.mnode t
  (∀ r blk, 0 < s.arg.b → wldRun s t s.arg.c = some r → r.wait = false →
    (let d := opdOf s t (cmdOpd r.cmd.word)
     runBlocks s t r (capAt d 0) (cmdWidth r.cmd.word)
      [planeOffs d (cmdWidth r.cmd.word) 128 (wldTile r.cmd.word) (s.arg.b - 1)] = .ok ([blk], 0)) →
    Leads .matrixWld s (fun u => (u.mnode t).wts = mset x.wts (128 * s.arg.c + (s.arg.b - 1)) blk ∧ u.mem = s.mem ∧ u.slots = s.slots))
  ∧ (∀ r tok rest, s.arg.c = 1 → wldRun s t s.arg.d = some r → r.buf = tok :: rest → tok.poison = false →
    Leads .matrixWeightTokenWrite s (fun u => u.mem = s.mem ∧ u.slots = s.slots ∧ ∀ l < 16,
      let k := 128 * s.arg.d + (16 * (s.arg.b / 33) + l)
      mget Blk.zero (u.mnode t).wts k = addMember (cmdWidth r.cmd.word) (s.arg.b % 33) tok l (mget Blk.zero x.wts k)))
  ∧ (∀ (r : MRun) (bs : List Blk) (i : Instr), 0 < s.arg.b → x.act = some r → i = groupEvent r.cmd.word →
    heldUp x = false → badBank s t (cmdBank r.cmd.word) = false → groupBlksOf s t (s.arg.b - 1) r = .held bs 0 →
    (∀ m ∈ partners s t r.cmd.word, heldUp (s.mnode m) = false ∧ (memberGroup s m (s.arg.b - 1)).isMissing = false
      ∧ (memberGroup s m (s.arg.b - 1)).isHalt = false) →
    Leads i s (fun u => (u.mnode t).pipe = mset x.pipe (s.arg.b - 1) bs ∧ u.mem = s.mem ∧ u.slots = s.slots
      ∧ ({ time := 16 * (s.mcnt + 8 * cmdWidth r.cmd.word + 5) + rkPerform
           act := .ev .matrixGroupApply (Arg.of t (s.arg.b - 1) 0 0 0) } : Item) ∈ u.agenda))
  ∧ (∀ r, x.act = some r → cmdKind r.cmd.word = 2 → Leads .matrixGroupApply s (fun u =>
      let w := r.cmd.word
      let base := 8 * (actAccg w + s.arg.b)
      (u.mnode t).act = some { r with next := s.arg.b + 1 } ∧ u.mem = s.mem ∧ u.slots = s.slots
      ∧ (∀ j < 8, ∀ n < 64, mget CsTok.empty (u.mnode t).acc (64 * (base + j) + n) =
          addRow x (cmdBank w) (cmdWidth w) n (mget [] x.pipe s.arg.b) j
            (if actInit w then mget CsTok.empty x.acc (64 * (base + j) + n) else CsTok.empty))
      ∧ ∀ k, (k < 64 * base ∨ 64 * base + 512 ≤ k) → mget CsTok.empty (u.mnode t).acc k = mget CsTok.empty x.acc k))
  ∧ (∀ d, x.drn = some d → (∀ q < 4, takesRow s (8 * t + 4 + q) = true) → Leads .matrixDrnRowPush s (fun u =>
      let row := 8 * drnAccg d.cmd.word + s.arg.b
      u.mem = s.mem ∧ u.slots = s.slots ∧ (u.mnode t).nflags = x.nflags ||| (normRow x row).2
      ∧ ∀ q < 4, (u.elem (8 * t + 4 + q)).mx = (s.elem (8 * t + 4 + q)).mx
          ++ [{ data := (normRow x row).1.getD q 0, valid := 0xFFFF#16, poison := false }]))
  ∧ (∀ r a, 0 < s.arg.b → x.drn = some r → s.arg.b ≤ 256 * drnGroups r.cmd.word → isDram a = false → Memory.wf s.mem = true →
    (let i := s.arg.b - 1
     let d := opdOf s t (drnOpd r.cmd.word)
     let row := 8 * drnAccg r.cmd.word + i / 32
     let n := 2 * (i % 32)
     pipeRun s t r.cmd.slot (capAt d 0) true ((opdBase d + 2048 * row + 32 * n : Nat) : Int) 64 = .ok [(a, 64)] →
     Leads .matrixDrnRaw s (fun u => u.slots = s.slots ∧ u.read a 32 = csBytes (mget CsTok.empty x.acc (64 * row + n))
       ∧ u.read (a + 32) 32 = csBytes (mget CsTok.empty x.acc (64 * row + (n + 1)))
       ∧ ∀ k, k < a ∨ a + 64 ≤ k → readByte u.mem k = readByte s.mem k)))
  ∧ (∀ r ps, 0 < s.arg.b → x.drn = some r → s.arg.b ≤ 256 * drnGroups r.cmd.word →
    (let i := s.arg.b - 1
     let d := opdOf s t (drnOpd r.cmd.word)
     let row := 8 * drnAccg r.cmd.word + i / 32
     let n := 2 * (i % 32)
     pipeRun s t r.cmd.slot (capAt d 0) true ((opdBase d + 2048 * row + 32 * n : Nat) : Int) 64 = .ok ps →
     Leads .matrixDrnRaw s (fun u => u.slots = s.slots
       ∧ ((∀ p ∈ ps, isDram p.1 = true) → u.mem = s.mem)
       ∧ ((∀ p ∈ ps, isDram p.1 = false) → u.mem = (writePieces s ps (csBytes (mget CsTok.empty x.acc (64 * row + n))
         + csBytes (mget CsTok.empty x.acc (64 * row + (n + 1))) * 2 ^ 256)).mem))))

/-- A table entry that fires joins the queue in that cycle with the node's owner as its slot, and what MXARM, MXTAB and MXSTOP have
handed over acts in the cycle in which the node accepts it; the activation buffer frees the space
of a group; a command that completes leaves its unit and the commands of its slot; missing operands gate the clock of the node, or
at level T freeze it, and the clock runs again once they have come; a stop is due at the next row-progress point (R179, R181,
R182, R185, R188). -/
def Obligations.MatrixNodesFollow : Prop := ∀ s : State,
  let t := s.arg.a
  let x := s.mnode t
  (∀ k w, s.arg.b = 0 → firing x s.mcnt = [(k, w)] → k < 256 → s.badWord t .table (fun i => i / 2 == k) = none → Leads .matrixTableFire s (fun u => (u.mnode t).last = k
      ∧ (u.mnode t).queue = x.queue ++ [{ word := w, entry := k, slot := x.owner, id := s.nextId, begin_ := s.mcnt, order := s.nextId }]
      ∧ mfind u.cmds s.nextId = some { slot := x.owner, offset := false, engine := 0, channel := 0, begun := false }
      ∧ u.mem = s.mem ∧ u.slots = s.slots))
  ∧ (x.frozen = true → s.arg.b ≠ 0 → exec .matrixTableFire s = .next s)
  ∧ (s.arg.b = 1 → x.frozen = false → Leads .matrixTableFire s (fun u => (u.mnode t).period = s.arg.d % 2 ^ 16 + 1 ∧ (u.mnode t).owner = s.arg.c
      ∧ (u.mnode t).counter = some (if s.arg.e % 2 ^ 20 = 0xFFFFF then s.mcnt else max s.mcnt ((s.slot s.arg.c).start + s.arg.e % 2 ^ 20))
      ∧ (u.mnode t).table = x.table ∧ u.mem = s.mem ∧ u.slots = s.slots))
  ∧ (s.arg.b = 2 → x.frozen = false → (s.tile t).badCfg = [] → Leads .matrixTableFire s (fun u =>
      u.mnode t = { x with table := mset x.table (s.arg.d % 256) (BitVec.ofNat 64 s.arg.e) } ∧ u.mem = s.mem ∧ u.slots = s.slots))
  ∧ (s.arg.b = 3 → x.frozen = false → Leads .matrixTableFire s (fun u => (u.mnode t).counter = none
      ∧ (u.mnode t).queue = x.queue.filter (fun c => decide (256 ≤ c.entry) && decide (s.arg.e ≤ c.id)) ∧ (u.mnode t).act = x.act
      ∧ (u.mnode t).wld = x.wld ∧ (u.mnode t).drn = x.drn ∧ u.mem = s.mem ∧ u.slots = s.slots))
  ∧ (s.arg.b = 1 → Leads .matrixActivationPop s (fun u => u.mem = s.mem ∧ u.slots = s.slots
      ∧ (let freed := x.feed.map (fun f => if f.id = some s.arg.d then { f with groups := mdel f.groups s.arg.c } else f)
         u.mnode t = { x with feed := freed.filter (fun f => !(f.todo.isEmpty && f.groups.isEmpty)), popAt := s.mcnt + 1 })))
  ∧ (∀ r y, takeRun x s.arg.b s.arg.c = (some r, y) → Leads .matrixCommandComplete s (fun u =>
      u.mnode t = y ∧ mfind u.cmds r.cmd.id = none ∧ u.mem = s.mem ∧ u.slots = s.slots
      ∧ (s.arg.b = 2 ∨ s.arg.b = 5 → (u.mnode t).act = none) ∧ (s.arg.b = 3 → (u.mnode t).drn = none)
      ∧ (s.arg.b = 4 → (u.mnode t).nmode = cmdBits r.cmd.word 39 37
          ∧ (u.mnode t).nflags = if r.cmd.word.getLsbD 36 then noFlags else x.nflags)))
  ∧ (isJoint x = false →
      (s.levelOf t ≠ .t → x.gated = true → s.arg.b = 0 → exec .matrixOperandLate s = .next s)
      ∧ (s.levelOf t ≠ .t → x.gated = false → Leads .matrixOperandLate s (fun u => (u.mnode t).gated = true ∧ u.mem = s.mem ∧ u.slots = s.slots
        ∧ ({ time := 16 * (s.mcnt + 1) + rkHold, act := .ev .matrixOperandArrived s.arg } : Item) ∈ u.agenda))
      ∧ (s.levelOf t = .t → Leads .matrixOperandLate s (fun u => (u.mnode t).frozen = true ∧ (u.mnode t).queue = []
        ∧ (u.mnode t).counter = none ∧ (u.mnode t).acc = x.acc ∧ (u.mnode t).wts = x.wts ∧ u.mem = s.mem ∧ u.slots = s.slots))
      ∧ (arrived s t s.arg.b s.arg.c s.arg.d = true → Leads .matrixOperandArrived s (fun u =>
        u.mnode t = { x with gated := false } ∧ u.mem = s.mem ∧ u.slots = s.slots)))
  ∧ exec .matrixRowProgressStop s = .next (s.setNode t { x with stopping := true })

/-- The oldest command of an idle Lodestone node begins; the updates of a colour change only its p-bits that are not clamped, and the
end of a sweep counts it; the tokens of LWGT, LBIAS and LREAD.ME go through port 5 of their ME one a cycle where no other access
has taken a bank; a command completes with its effect and leaves the commands of its slot (R147, R192, R194, R195). -/
def Obligations.LodestoneNodesRun : Prop := ∀ s : State,
  let t := s.arg.a
  let x := s.lnode t
  (∀ c rest, liveLode s t = c :: rest → x.run = none → x.frozen = false → x.stopped = false → c.acc ≤ s.mcnt → s.recordHeld t 1 = false →
    Leads .lodestoneCommandBegin s (fun u => (u.lnode t).run = some c ∧ (u.lnode t).sweeps = 0 ∧ (u.lnode t).m = x.m
      ∧ (u.lnode t).queue = x.queue.filter (fun d => d.id != c.id)
      ∧ mfind u.cmds c.id = some { slot := c.slot, offset := false, engine := 1, channel := 0, begun := true }
      ∧ (c.maj ≠ 0xE4 → c.maj ≠ 0xE5 → usesPad c.maj = false →
          ({ time := 16 * s.mcnt + rkComplete, act := .ev .lodestoneCommandComplete (Arg.of t 0 0 0 0) } : Item) ∈ u.agenda)
      ∧ (usesPad c.maj = true →
          ({ time := 16 * s.mcnt + rkPerform, act := .ev .lodestoneCommandComplete (Arg.of t 1 0 0 0) } : Item) ∈ u.agenda)
      ∧ u.mem = s.mem ∧ u.slots = s.slots))
  ∧ (∀ c, x.run = some c → s.arg.b < x.ncol → colourPoisoned x s.arg.b = false → Leads .lodestoneColourUpdate s (fun u =>
      u.mem = s.mem ∧ u.slots = s.slots ∧ (u.lnode t).next = s.arg.b + 1 ∧ (u.lnode t).swn = x.swn
      ∧ (∀ i < 4096, mget 0 x.colour i = s.arg.b → x.clamp.getLsbD i = false → (u.lnode t).m.getLsbD i = updateBit x s.arg.b i)
      ∧ ∀ i < 4096, (mget 0 x.colour i ≠ s.arg.b ∨ x.clamp.getLsbD i = true) → (u.lnode t).m.getLsbD i = x.m.getLsbD i))
  ∧ (∀ c, x.run = some c → x.ncol ≤ s.arg.b → Leads .lodestoneColourUpdate s (fun u => (u.lnode t).swn = x.swn + 1
      ∧ (u.lnode t).sweeps = x.sweeps + 1 ∧ (u.lnode t).m = x.m ∧ u.mem = s.mem ∧ u.slots = s.slots))
  ∧ (∀ c, x.run = some c → s.arg.b = 0 → Leads .lodestoneCommandComplete s (fun u => (u.lnode t).run = none ∧ mfind u.cmds c.id = none
      ∧ u.slots = s.slots ∧ u.mem = s.mem
      ∧ (c.maj = 0xE2 → c.var = 0 → (u.lnode t).beta = (lane c.a 0).setWidth 16)
      ∧ (c.maj = 0xE2 → c.var ≠ 0 → (u.lnode t).seed = c.b ++ lane c.a 0 ∧ (u.lnode t).swn = 0)))
  ∧ (∀ c, x.run = some c → s.arg.b = 1 → Leads .lodestoneCommandComplete s (fun u =>
      u.lnode t = x ∧ u.mem = s.mem ∧ u.slots = s.slots
      ∧ (bankTaken s (meOfAddr c.addr) ≠ 0 →
          ({ time := 16 * (s.mcnt + 1) + rkPerform, act := .ev .lodestoneCommandComplete (Arg.of t 1 s.arg.c 0 0) } : Item) ∈ u.agenda)
      ∧ (bankTaken s (meOfAddr c.addr) = 0 → bankTaken u (meOfAddr c.addr) = 0xFFFF#16
          ∧ ({ time := 16 * (s.mcnt + 3) + if c.maj = 0xE6 then rkPerform else rkComplete
               act := .ev .lodestoneCommandComplete (Arg.of t 2 s.arg.c 0 0) } : Item) ∈ u.agenda
          ∧ (s.arg.c + 1 < lodeTokens c →
              ({ time := 16 * (s.mcnt + 1) + rkPerform, act := .ev .lodestoneCommandComplete (Arg.of t 1 (s.arg.c + 1) 0 0) } : Item) ∈ u.agenda)
          ∧ (lodeTokens c ≤ s.arg.c + 1 → ({ time := 16 * (s.mcnt + if c.maj = 0xE6 then 4 else 8) + rkComplete
                                             act := .ev .lodestoneCommandComplete (Arg.of t 0 0 0 0) } : Item) ∈ u.agenda))))
  ∧ (∀ c, x.run = some c → s.arg.b = 2 → Leads .lodestoneCommandComplete s (fun u =>
      u.slots = s.slots ∧ (u.lnode t).m = x.m ∧ (u.lnode t).run = some c ∧ (c.maj = 0xE0 ∨ c.maj = 0xE1 → u.mem = s.mem)
      ∧ (c.maj = 0xE6 → Memory.wf s.mem = true →
          (∀ w < 16, u.read32 (c.addr + 64 * s.arg.c + 4 * w)
            = if c.b.getLsbD 0 then countWord x (16 * s.arg.c + w) else x.m.extractLsb' (32 * (16 * s.arg.c + w)) 32)
          ∧ ∀ k, k < c.addr + 64 * s.arg.c ∨ c.addr + 64 * s.arg.c + 64 ≤ k → readByte u.mem k = readByte s.mem k)))


/-! ## From launch to retirement (R230, R302 to R320) -/

/-- An arm request that reaches a BOUND slot arms it with the values of R15 and the launch's argument in s0; at M a launch whose
slots are all armed runs; a slot starts at its first wheel cycle, one whose logical tile waits then with its quantum; one with nothing
outstanding drains to BOUND; a launch whose slots have all retired and whose writes have been performed leaves; a task end discards its
slots, and a restartable kernel is admitted once more after a class 3 cause; a save takes the state of slots that have stopped (R15, R107,
R252, R278, R311 to R313, R318, R319). -/
def Obligations.LaunchesRun : Prop := ∀ s : State,
  let n := presentName s s.arg.a
  let x := s.slot n
  (∀ l, mfind s.launches s.arg.b = some l → s.arg.c = 0 → x.st = .bound →
    Leads .armRequestArrival s (fun t =>
      let y := t.slot n
      y.st = .armed ∧ y.q0 = 0#512 ∧ y.q1 = 0#512 ∧ y.q2 = 0#512 ∧ y.q3 = 0#512 ∧ (∀ k, mget 0xFFFF#16 y.p k = 0xFFFF#16) ∧ y.ic = 0#32
      ∧ y.flg = noFlags ∧ y.opp = 0 ∧ y.rtp = 0 ∧ y.rap = 0 ∧ y.ia = BitVec.ofNat 11 (x.blockAt x.kernBlock).1 ∧ y.block = x.kernBlock ∧ y.hrw = 0#16 ∧ y.haw = 0#16 ∧ y.cause = 0#32 ∧ y.epc = 0#32
      ∧ y.dth = x.dthSeed ∧ y.mk0 = x.gseed.setWidth 32 ∧ y.mk1 = x.gseed.extractLsb' 32 32 ∧ y.mtid = 0#32 ∧ y.mcz = 0#32
      ∧ y.launch = some s.arg.b ∧ y.o = x.o ∧ y.k = x.k ∧ (l.saves = [] → t.sreg n 0 = l.arg)
      ∧ (t.elem (veOfSlot n)).pv = (s.elem (veOfSlot n)).pv ∧ t.mem = s.mem ∧ ∀ m, m ≠ n → t.slot m = s.slot m))
  ∧ (∀ l, mfind s.launches s.arg.b = some l → s.arg.c ≠ 0 → (∀ k ∈ l.slots, (s.elem (veOfSlot k)).blocked = false) →
      (∀ k ∈ l.slots, (s.slot k).st = .armed ∧ (s.slot k).launch = some s.arg.b) →
    Leads .armRequestArrival s (fun t => (∃ l2, mfind t.launches s.arg.b = some l2 ∧ l2.st = .running ∧ l2.slots = l.slots)
      ∧ t.mem = s.mem ∧ t.slots = s.slots))
  ∧ (s.arg.c = 1 → x.st = .armed → parkedHome n = none →
    Leads .slotStart s (fun t => t.slot n = { x with st := .running, start := s.arg.d } ∧ t.mem = s.mem
      ∧ ({ time := 16 * s.turnOf n s.mcnt + rkIssue (veOfSlot n), act := .issue n } : Item) ∈ t.agenda ∧ ∀ m, m ≠ n → t.slot m = s.slot m))
  ∧ (s.arg.c = 2 → x.st = .armed → parkedHome n = none →
    Leads .slotStart s (fun t => t.slot n = { x with st := .running, start := s.mcnt } ∧ t.mem = s.mem ∧ ∀ m, m ≠ n → t.slot m = s.slot m))
  ∧ (∀ h, s.arg.c = 1 ∨ s.arg.c = 2 → x.st = .armed → parkedHome n = some h →
    exec .slotStart s = .next (s.defer h .slotStart (Arg.of (64 * physTile (tileOfSlot n) + n % 64) 0 2 0 0)))
  ∧ (∀ l, s.arg.c ≠ 1 → s.arg.c ≠ 2 → mfind s.launches s.arg.b = some l → l.saves = [] → x.st = .armed → parkedHome n = none →
    Leads .slotStart s (fun t => t.slot n = { x with st := .running, start := if s.arg.c = 3 then s.mcnt else l.start } ∧ t.mem = s.mem
      ∧ ({ time := 16 * s.turnOf n s.mcnt + rkIssue (veOfSlot n), act := .issue n } : Item) ∈ t.agenda ∧ ∀ m, m ≠ n → t.slot m = s.slot m))
  ∧ ((s.slot s.arg.a).st = .draining → drained s s.arg.a = true → Leads .slotDrainComplete s (fun t =>
      t.slot s.arg.a = { s.slot s.arg.a with st := .bound, preempt := none } ∧ t.mem = s.mem ∧ ∀ m, m ≠ s.arg.a → t.slot m = s.slot m))
  ∧ (∀ l, mfind s.launches s.arg.b = some l → l.done.length = l.slots.length → schedDown s = false → tableLeft s l = false →
      (∀ m ∈ l.slots, releasePending s m (s.slot m).seq = false) → l.host = false → l.w0.getLsbD 23 = false → l.mark = none → l.credit = none →
      exec .launchRetire s = .next { s with launches := mdel s.launches s.arg.b })
  ∧ (∀ l, mfind s.launches s.arg.b = some l → l.done.length = l.slots.length → schedDown s = false → tableLeft s l = false →
      (∀ m ∈ l.slots, releasePending s m (s.slot m).seq = false) → (l.host = true ∨ l.w0.getLsbD 23 = false ∨ (s.logical l.parent).evq.length < 64) →
      Leads .launchRetire s (fun t => mfind t.launches s.arg.b = none ∧ t.slots = s.slots))
  ∧ (∀ l, mfind s.launches s.arg.b = some l →
      let stopped (t : State) : Prop := ∀ k ∈ l.slots, (t.slot k).st = .bound ∨ (t.slot k).st = .unbound
      let restart : Prop := s.arg.c / 512 = 5 ∧ s.arg.c % 512 / 64 = 3 ∧ l.again = false
        ∧ ((s.ctx l.ctx).image.map (fun i => i.restart.contains l.kern)).getD false = true
      (¬restart → Leads .taskEnd s (fun t => mfind t.launches s.arg.b = none ∧ stopped t))
      ∧ (restart → Leads .taskEnd s (fun t => stopped t ∧ ∃ u, mfind t.launches s.arg.b = some u ∧ u.st = .pending ∧ u.again = true
          ∧ u.kern = l.kern ∧ u.slots = l.slots)))
  ∧ (∀ l, mfind s.launches s.arg.b = some l → Leads .preemptRequest s (fun t => t.mem = s.mem ∧ ∀ k ∈ l.slots, (s.slot k).st = .running →
      ((s.slot k).heldSince = none → t.slot k = { s.slot k with preempt := some s.mcnt })
      ∧ (l.slots = [k] → savedHeld (s.modSlot k (fun y => { y with preempt := some s.mcnt })) k = true → (t.slot k).st = .saved)))
  ∧ (∀ l, mfind s.launches s.arg.b = some l → l.st = .saving → l.slots.all (savedHere s l) = true → l.done.length ≠ l.slots.length →
      s.cmds.any (fun c => l.slots.contains c.2.slot && c.2.begun && !parked s (ownNodes s s.arg.b l) c.1) = false →
      Leads .launchSaved s (fun t => t.mem = s.mem ∧ (∀ k ∈ l.slots, k ∉ l.done → (t.slot k).st = .bound)
        ∧ ∃ l2, mfind t.launches s.arg.b = some l2 ∧ l2.st = .pending
          ∧ l2.saves = (l.slots.filter (fun k => !l.done.contains k)).map (savedOf s)))

/-- The doorbell latches NTAIL; the scan takes the latch, reads packets one after another and looks again 512 cycles on; a launch packet
that passes its checks joins the pending set, and one for a context at level T completes with status 0x07; a fence without PRE completes
as it is taken; a device launch travels to the scheduler and joins the pending set (R303 to R309). -/
def Obligations.SchedulerReads : Prop := ∀ s : State,
  let c := s.arg.a % 8
  (fnOfCtx s c ∉ s.fnFrozen → hostTurn s (fnOfCtx s c) none = true → exec .doorbellWrite s
      = .next (if (s.ctx c).live then s.setCtx c { s.ctx c with latch := s.arg.b % 4096, pend := true } else s))
  ∧ ((s.ctx c).live = true → (hostTurn s (fnOfCtx s c) none = false → Leads .doorbellWrite s (fun t => t.ctxs = s.ctxs
        ∧ ∃ i, ({ time := 16 * (s.mcnt + 1) + rkHold, act := .ev .doorbellWrite { s.arg with i := i } } : Item) ∈ t.agenda))
      ∧ (fnOfCtx s c ∈ s.fnFrozen → Leads .doorbellWrite s (fun t => t.ctxs = s.ctxs)))
  ∧ (s.arg.b = 0 → Leads .schedulerScan s (fun t =>
      ({ time := 16 * (s.mcnt + 512) + rkArrive, act := .ev .schedulerScan (Arg.of c 0 0 0 0) } : Item) ∈ t.agenda
      ∧ t.mem = s.mem ∧ t.slots = s.slots
      ∧ (schedUp s = true → (s.ctx c).live = true → (s.ctx c).pend = true →
        (let x := s.ctx c
         let k := queueSize x.policy
         ((x.latch % k + k - x.tail) % k ≤ (x.head + k - x.tail + k - 1) % k → (t.ctx c).tail = x.latch % k ∧ (t.ctx c).pend = false)
         ∧ (¬(x.latch % k + k - x.tail) % k ≤ (x.head + k - x.tail + k - 1) % k → (t.ctx c).tail = x.tail ∧ (t.ctx c).ovf = true)))))
  ∧ (s.arg.b = 1 → mayRead s c = true →
      (let x := s.ctx c
       let v : Vec := BitVec.ofNat 512 (s.read (queueAt s c (64 * x.head)) 64)
       packetOk s c v = true → Leads .schedulerScan s (fun t =>
         (t.ctx c).head = (x.head + 1) % queueSize x.policy ∧ (t.ctx c).outst = x.outst + 1 ∧ t.mem = s.mem ∧ t.slots = s.slots
         ∧ (isBarrier (packetType v) = true → (t.ctx c).barrier = some v)
         ∧ (isBarrier (packetType v) = false →
           ({ time := 16 * s.mcnt + rkArrive, act := .ev (packetEvent (packetType v)) { Arg.of c 0 0 0 0 with v := v } } : Item) ∈ t.agenda))))
  ∧ ((s.ctx s.arg.a).level = .t → exec .launchPacket s
      = .next (completePacket s s.arg.a (lane s.arg.v 0) ((lane s.arg.v 1).toNat % 65536) 0 7 0))
  ∧ ((s.ctx s.arg.a).level ≠ .t → (lane s.arg.v 5).getLsbD 31 = false → depBad s s.arg.a (lane s.arg.v 3) = false →
      depBad s s.arg.a (lane s.arg.v 4) = false → kernSlots s s.arg.a ((lane s.arg.v 1).toNat % 65536) ≠ [] →
      Leads .launchPacket s (fun t => t.mem = s.mem ∧ t.slots = s.slots ∧ ∃ l, mfind t.launches s.nextId = some l ∧ l.st = .pending
        ∧ l.ctx = s.arg.a ∧ l.host = true ∧ l.kern = (lane s.arg.v 1).toNat % 65536 ∧ l.prio = ((lane s.arg.v 1).extractLsb' 16 2).toNat
        ∧ l.arg = lane s.arg.v 2 ∧ l.credit = none))
  ∧ (∀ v, (s.ctx s.arg.a).barrier = some v → ((lane s.arg.v 1).getLsbD 0 = false ∨ launchesRun s s.arg.a = false) →
      Leads .fencePacket s (fun t => (t.ctx s.arg.a).barrier = none ∧ (t.ctx s.arg.a).begun = false
        ∧ (t.ctx s.arg.a).outst = (s.ctx s.arg.a).outst - 1 ∧ t.slots = s.slots))
  ∧ (∀ l, mfind s.launches s.arg.a = some l →
      (s.arg.b = 0 → priorPending s s.arg.c s.arg.d = false → Leads .deviceLaunchArrival s (fun t => t.launches = s.launches ∧ t.mem = s.mem
        ∧ ({ time := 16 * (s.mcnt + schedTransit s s.arg.e) + rkArrive, act := .ev .deviceLaunchArrival { s.arg with b := 1 } } : Item) ∈ t.agenda))
      ∧ (s.arg.b ≠ 0 → deviceQueue s l.ctx < 32 → schedDown s = false →
        exec .deviceLaunchArrival s = .next { s with nextId := s.nextId + 1, launches := mset s.launches s.arg.a { l with st := .pending, order := s.nextId } }))

/-! ## Almanacs (R233, R236, R237, R266 to R276) -/

/-- An arm packet at level T is kept until its tick A, at which its Almanac becomes active; entries are armed a tick early, start at S,
are sampled 160 cycles before D and P, and are published or give way to the dead-reckoning block; signatures fold, clear and arm; a
course is decided before a waypoint and becomes active at it; a level changes at once, or at the next waypoint out of level T
(R233, R236, R267, R268, R271, R272, R274, R275). -/
def Obligations.AlmanacsRun : Prop := ∀ s : State,
  let c := s.arg.a
  let k := s.arg.b
  let alm := (lane s.arg.v 1).toNat % 256
  let at_ := (lane s.arg.v 2).toNat + 2 ^ 32 * (lane s.arg.v 3).toNat
  (s.arg.b ≠ 1 → (s.ctx c).level = .t → (mfind (s.ctx c).alms alm).isSome = true → s.mcnt / 2900 + 2 ≤ at_ →
    Leads .armAlmanacPacket s (fun t => (t.ctx c).armReq = (s.ctx c).armReq ++ [(alm, at_)] ∧ t.mem = s.mem ∧ t.slots = s.slots
      ∧ ({ time := 16 * (2900 * at_) + rkStart, act := .ev .armAlmanacPacket { s.arg with b := 1 } } : Item) ∈ t.agenda))
  ∧ (s.arg.b = 1 → (alm, at_) ∈ (s.ctx c).armReq → Leads .armAlmanacPacket s (fun t =>
      (t.ctx c).active = some alm ∧ (t.ctx c).base = at_ ∧ (alm, at_) ∉ (t.ctx c).armReq ∧ t.slots = s.slots))
  ∧ (∀ b, (s.ctx c).active = some b → (s.ctx c).level = .t → (almOf s c b).waypoints ≠ [] → (mfind (s.ctx c).alms alm).isSome = true →
      exec .courseChangePacket s = .next (s.setCtx c { s.ctx c with hostCourse := (s.ctx c).hostCourse ++ [(alm, lane s.arg.v 0, s.mcnt)] }))
  ∧ (let l := levelOfNo (lane s.arg.v 1).toNat
     levelReport s c l = none →
      (((s.ctx c).level ≠ .t ∨ (s.ctx c).active = none) → Leads .determinismLevelPacket s (fun t => (t.ctx c).level = l ∧ t.slots = s.slots))
      ∧ ((s.ctx c).level = .t → l ≠ .t → (s.ctx c).active ≠ none →
          exec .determinismLevelPacket s = .next (s.setCtx c { s.ctx c with newLevel := some l })))
  ∧ (∀ e, almEntry s k = some e → entAudit e = false → entReconf e = false → frameDue s (keyCtx k) (keyAlm k) s.arg.c = true →
      mfind s.walkers k = none → (∀ n ∈ primarySlots s k e, armable s k n = true) → meetBad s k e = s →
      (∀ u ∈ entryHomes s k e, (s.tile u).loadBad = false ∧ (s.tile u).load = some e.load) →
      Leads .walkerArm s (fun t => t.mem = s.mem ∧ (∀ n ∈ primarySlots s k e, (t.slot n).st = .armed ∧ (t.slot n).entry = some k)
        ∧ ∃ w, mfind t.walkers k = some w ∧ w.st = .armed ∧ w.s = 2900 * (s.arg.c + entStart e) ∧ w.d = 2900 * (s.arg.c + entDln e)
          ∧ w.p = w.d + 2900 * entRsv e))
  ∧ (∀ e w, almEntry s k = some e → mfind s.walkers k = some w →
      (entAudit e = false → entReconf e = false → (s.ctx (keyCtx k)).active = some (keyAlm k) → w.s = s.mcnt → w.st ≠ .failed →
        Leads .entryStart s (fun t => (mfind t.walkers k).map (fun y => y.st) = some .run ∧ t.mem = s.mem
          ∧ ∀ n ∈ primarySlots s k e, (s.slot n).entry = some k → (s.slot n).st = .armed → parkedHome n = none →
              (t.slot n).st = .running ∧ (t.slot n).start = w.s))
      ∧ (entTwin e = false → w.st = .run → w.d = s.mcnt + 160 → Leads .primarySample s (fun t => t.mem = s.mem
          ∧ (mfind t.walkers k).map (fun y => y.st) = some (if blockOnTime s k (primarySlots s k e) then .onTime else .late)
          ∧ (blockOnTime s k (primarySlots s k e) = true → t.slots = s.slots)))
      ∧ (entTwin e = false → w.st = .reserve → w.p = s.mcnt + 160 → Leads .drbSample s (fun t => t.mem = s.mem
          ∧ (mfind t.walkers k).map (fun y => y.st) = some (if blockOnTime s k (drbSlots s k e) then .rOnTime else .rLate)))
      ∧ (w.d = s.mcnt → w.st = .onTime → Memory.wf s.mem = true → Leads .entryDeadline s (fun t => mfind t.walkers k = none
          ∧ (csetOf s k = [] → t.mem = s.mem)
          ∧ ∀ o d, csetOf s k = [o] → diesOf s (keyCtx k) = [d] → t.read32 (objEntryPa s d (keyCtx k) o)
            = s.read32 (objEntryPa s d (keyCtx k) o) ^^^ 0x0100_0000#32))
      ∧ (w.d = s.mcnt → (w.st = .late ∨ w.st = .failed) → hasDrb e = true → w.drbOk = true → Leads .entryDeadline s (fun t =>
          (mfind t.walkers k).map (fun y => y.st) = some .reserve))
      ∧ (w.p = s.mcnt → w.st = .rOnTime → csetOf s k = [] → Leads .entryPublication s (fun t => mfind t.walkers k = none ∧ t.mem = s.mem
          ∧ t.slots = s.slots)))
  ∧ (let a := s.assay s.arg.a s.arg.b
     (s.arg.c = 0 → a.armed = false → exec .assayEarlyCompare s = .next (s.setAssay s.arg.a s.arg.b { a with sig := foldVec a.sig s.arg.v }))
     ∧ (s.arg.c = 1 → exec .assayEarlyCompare s = .next (s.setAssay s.arg.a s.arg.b { sig := 0, armed := false }))
     ∧ (s.arg.c = 2 → Leads .assayEarlyCompare s (fun t => t.assay s.arg.a s.arg.b = { a with armed := true } ∧ t.mem = s.mem ∧ t.slots = s.slots)))
  ∧ (∀ h, waypointHeld s c s.arg.b = true → (s.ctx c).hostCourse = [h] → (mfind (s.ctx c).alms h.1).isSome = true →
      (s.ctx c).active ≠ some h.1 → alive s schedTiles ≠ [] → Leads .waypointDecision s (fun t => (t.ctx c).decided = some h.1
        ∧ (t.ctx c).hostCourse = [] ∧ t.slots = s.slots
        ∧ ({ time := 16 * (2900 * s.arg.b) + rkStart, act := .ev .courseChangeApply (Arg.of c s.arg.b 0 0 0) } : Item) ∈ t.agenda))
  ∧ (∀ a b, waypointHeld s c s.arg.b = true → ((applyPending s c).ctx c).newLevel = none → ((applyPending s c).ctx c).decided = some b →
      ((applyPending s c).ctx c).active = some a → Leads .courseChangeApply s (fun t => (t.ctx c).active = some b ∧ (t.ctx c).base = s.arg.b
        ∧ (t.ctx c).decided = none))

/-! ## Loads, quanta, contexts and host functions (R262, R263, R278, R279, R284, R355 to R361) -/

/-- A load packet whose load passes its checks becomes the context's resident load, to be configured tile by tile; a drained tile is
configured for its logical tile; at the end of a quantum the tile's state is saved whole and the next place runs 96 cycles later
(R262, R263, R278, R279). -/
def Obligations.LoadsAndQuanta : Prop := ∀ s : State,
  (∀ i ld, let n := (lane s.arg.v 3).toNat % 256
    let lv := (s.ctx s.arg.a).level
    (imageBytes s s.arg.a (lane s.arg.v 1).toNat (lane s.arg.v 2).toNat).bind Config.readImage = some i → mfind i.loads n = some ld →
    (∀ k, loadingOf s s.arg.a n lv i ld = some k → k.reports = [] → ld.tiles ≠ [] →
      Leads .loadGraphPacket s (fun t => (t.ctx s.arg.a).image = some i ∧ (t.ctx s.arg.a).resident = some n
        ∧ (t.ctx s.arg.a).csets = i.csets ∧ (t.ctx s.arg.a).energy = ld.energy
        ∧ (t.ctx s.arg.a).toLoad = (k.place.filter (fun p => ld.tiles.any (fun g => g.lt == p.1))).map Prod.fst ∧ t.slots = s.slots))
    ∧ (∀ r, firstReport s s.arg.a n lv i ld = some r → Leads .loadGraphPacket s (fun t =>
        (t.ctx s.arg.a).report = some r ∧ (t.ctx s.arg.a).image = (s.ctx s.arg.a).image ∧ t.tiles = s.tiles ∧ t.slots = s.slots)))
  ∧ (let l := BitVec.ofNat 10 s.arg.c
     (s.ctx s.arg.b).toLoad.contains l = true → ownedBeside s s.arg.b s.arg.a = false → placeIx s s.arg.a 0 = none →
      (∀ vs, namedElems s s.arg.b s.arg.d s.arg.a l = some vs →
        (partDrained s s.arg.a vs = false → exec .reconfigurationTokenPass s = .next ((flushTile s s.arg.a).planEv (s.mcnt + 1) rkArrive .reconfigurationTokenPass s.arg))
        ∧ (partDrained s s.arg.a vs = true → (∃ m, m ∈ (s.ctx s.arg.b).toLoad ∧ m ≠ l) → Leads .reconfigurationTokenPass s (fun t =>
            (t.ctx s.arg.b).toLoad = (s.ctx s.arg.b).toLoad.filter (fun m => m != l) ∧ (t.tile s.arg.a).load = some s.arg.d
            ∧ t.mem = s.mem ∧ ∀ v, (∀ k ∈ vs, v ≠ 8 * s.arg.a + k) → t.elem v = s.elem v)))
      ∧ (namedElems s s.arg.b s.arg.d s.arg.a l = none → tileDrained s s.arg.a = true → (∃ m, m ∈ (s.ctx s.arg.b).toLoad ∧ m ≠ l) → Leads .reconfigurationTokenPass s (fun t =>
        (t.ctx s.arg.b).toLoad = (s.ctx s.arg.b).toLoad.filter (fun m => m != l)
        ∧ ∀ i ld g, tileImage s s.arg.b s.arg.d l = some (i, ld, g) → (t.tile s.arg.a).ctx = some s.arg.b
          ∧ (t.tile s.arg.a).ltid = g.lt ∧ (t.tile s.arg.a).load = some s.arg.d))
      ∧ (namedElems s s.arg.b s.arg.d s.arg.a l = none → tileDrained s s.arg.a = false → (s.levelOf s.arg.a = .t ∨ (s.mnode s.arg.a).counter = none) →
        exec .reconfigurationTokenPass s = .next ((flushTile s s.arg.a).planEv (s.mcnt + 1) rkArrive .reconfigurationTokenPass s.arg)))
  ∧ (∀ r l w, mfind s.rots s.arg.a = some r →
      (s.arg.b = 1 → s.runsOn s.arg.a (s.tile s.arg.a).ltid = true → ∀ j, nextPlace s s.arg.a r.ix = some j → Leads .quantumBoundary s (fun t =>
        mfind t.rots s.arg.a = some { r with ix := j } ∧ t.mem = s.mem
        ∧ mfind t.saved (homeOf s.arg.a (s.tile s.arg.a).ltid) = some (saveTile s s.arg.a (s.mcnt + 1))
        ∧ (∀ n, tileOfSlot n = s.arg.a → t.slot n = Slot.reset)
        ∧ ({ time := 16 * (s.mcnt + 1 + 96) + rkStart, act := .ev .quantumBoundary (Arg.of s.arg.a 2 0 0 0) } : Item) ∈ t.agenda))
      ∧ (s.arg.b = 2 → placeIx s s.arg.a r.ix = some (l, w) → Leads .quantumBoundary s (fun t => t.mem = s.mem
        ∧ mfind t.rots s.arg.a = some { r with since := s.mcnt, owed := mdel r.owed r.ix }
        ∧ (∀ x, mfind s.saved (homeOf s.arg.a l) = some x → (t.tile s.arg.a).ltid = (s.tile (parkedTile s.arg.a l)).ltid
          ∧ (t.tile s.arg.a).qoff = (s.tile (parkedTile s.arg.a l)).qoff + (s.mcnt - x.base))
        ∧ ({ time := 16 * (s.mcnt + quantumOf w - mget 0 r.owed r.ix - 1) + rkArrive
             act := .ev .quantumBoundary (Arg.of s.arg.a 0 0 0 0) } : Item) ∈ t.agenda)))

/-- A partition word that overlaps no other is written; a context is created from the descriptor, and ends with nothing left of it but
its generation; a function level reset ends the function's contexts; host accesses within the function's partitions and extents are
requested (R284, R356, R357, R360, R361). -/
def Obligations.ContextsAndHosts : Prop := ∀ s : State,
  let c := s.arg.a % 8
  (partOk s s.arg.a s.arg.b (BitVec.ofNat 32 s.arg.c) = true →
    exec .vaultPartitionWrite s = .next (s.setDie s.arg.a { s.die s.arg.a with
      parts := mset (s.die s.arg.a).parts s.arg.b (BitVec.ofNat 32 s.arg.c &&& 0x9FF0_03FF#32) }))
  ∧ (partOk s s.arg.a s.arg.b (BitVec.ofNat 32 s.arg.c) = false → Leads .vaultPartitionWrite s (fun t =>
      (t.die s.arg.a).parts = (s.die s.arg.a).parts ∧ t.mem = s.mem ∧ t.slots = s.slots))
  ∧ (s.arg.b ≠ 1 → s.port.stat.getLsbD 31 = false → 0 ∉ s.fnFrozen →
      Leads .ctxCreate s (fun t => t.port.stat = BitVec.ofNat 32 (2 ^ 31 + c) ∧ t.ctxs = s.ctxs ∧ t.mem = s.mem ∧ t.slots = s.slots)
      ∧ Leads .ctxEnd s (fun t => t.port.stat = BitVec.ofNat 32 (2 ^ 31 + c) ∧ t.ctxs = s.ctxs ∧ t.mem = s.mem ∧ t.slots = s.slots))
  ∧ (s.arg.b = 1 → schedUp s = true →
      (createResult s c = 0 → Leads .ctxCreate s (fun t => t.port.stat = BitVec.ofNat 32 c ∧ (t.ctx c).live = true
        ∧ (t.ctx c).level = levelOfNo ((descWord s 0).extractLsb' 3 2).toNat ∧ (t.ctx c).policy = descWord s 1 ∧ (t.ctx c).gen = (s.ctx c).gen
        ∧ (t.ctx c).otlen = ((descWord s 10).extractLsb' 0 17).toNat ∧ (t.ctx c).otoff = ((descWord s 11).extractLsb' 0 25).toNat
        ∧ t.mem = s.mem ∧ t.slots = s.slots))
      ∧ (createResult s c ≠ 0 → Leads .ctxCreate s (fun t => t.port.stat = BitVec.ofNat 32 (createResult s c * 2 ^ 16 + c) ∧ t.ctxs = s.ctxs))
      ∧ ((s.ctx c).live = true → Leads .ctxEnd s (fun t => t.ctx c = { Ctx.reset with gen := (s.ctx c).gen } ∧ t.port.stat = BitVec.ofNat 32 c))
      ∧ ((s.ctx c).live = false → Leads .ctxEnd s (fun t => t.ctxs = s.ctxs ∧ t.port.stat = BitVec.ofNat 32 (2 * 2 ^ 16 + c))))
  ∧ Leads .functionLevelReset s (fun t => s.arg.a % 8 ∉ t.fnFrozen ∧ ∀ d ∈ contextsOf s (s.arg.a % 8), (t.ctx d).live = false)
  ∧ (∀ d ∈ contextsOf s c, ∀ base size, partition s (s.arg.b / 2 ^ 25 % 4) d = (true, base, size) →
      base ≤ s.arg.b % 2 ^ 25 → s.arg.b % 2 ^ 25 + 64 ≤ base + size → s.arg.b % 64 = 0 → s.arg.d = 0 → c ∉ s.fnFrozen →
      hostTurn s c none = true →
      Leads .hostVaultAccess s (fun t => mfind t.reqs s.nextId
          = some (hostReq c s.arg.e (vaultAddr (s.arg.b / 2 ^ 25 % 4) (s.arg.b % 2 ^ 25)) 64 (s.arg.c == 1) s.arg.v)
        ∧ t.mem = s.mem ∧ t.slots = s.slots))
  ∧ (c ∈ s.fnFrozen → Leads .hostVaultAccess s (fun t => t.reqs = s.reqs ∧ t.mem = s.mem ∧ t.slots = s.slots))
  ∧ (∀ tl pa, extentAt s c s.arg.b = some (tl, pa) → c ∉ s.fnFrozen → s.arg.c ≠ 1 → (s.tel tl).hostq.length < 8 →
      hostTurn s c (some tl) = true →
      Leads .hostDramAccess s (fun t => (t.tel tl).hostq = (s.tel tl).hostq ++ [(s.nextId, hostPlan (s.tel tl) (ckOf s s.mcnt))]
        ∧ mfind t.reqs s.nextId = some (hostReq c s.arg.e (pa / 64 * 64) 64 false s.arg.v) ∧ t.mem = s.mem ∧ t.slots = s.slots))

/-! ## Results and faults (R21, R24, R31, R36, R229, R230, R323, R324) -/

/-- A result in flight completes at its cycle: it writes its destination in the lanes that are on, ORs its flags into FLG, shifts
the last-result file where its kind does, with zero in lanes that are off, and nothing else of any register or of memory changes; a result that has been diverted or
discarded does nothing; the stop of a TRAP freezes its slot with CAUSE and EPC (R21, R24, R31, R76, R86, R229). -/
def Obligations.ResultsComplete : Prop := ∀ s : State,
  let n := s.arg.a
  let v := veOfSlot n
  let x := s.slot n
  let mine (q : Result) : Bool := q.slot == n && q.seq == s.arg.b && q.due == s.mcnt
  (∀ r : Result, s.arg.c = 0 → (s.elem v).flight.find? mine = some r → Leads .resultCompletion s (fun t =>
    let y := t.slot n
    (t.elem v).flight = (s.elem v).flight.filter (fun q => !(q.slot == n && q.seq == s.arg.b))
    ∧ (shifts r = true → (∀ l < 16, lane y.q0 l = if r.lanes.getLsbD l then lane r.value l else 0#32) ∧ y.q1 = x.q0 ∧ y.q2 = x.q1 ∧ y.q3 = x.q2)
    ∧ (shifts r = false → y.q0 = x.q0 ∧ y.q1 = x.q1 ∧ y.q2 = x.q2 ∧ y.q3 = x.q3)
    ∧ (r.kind ≠ .flags → y.flg = x.flg ||| r.flags)
    ∧ (r.kind = .flags → r.flags = noFlags → anyOn r.lanes = true → y.flg = flgMerge x.flg (some ((lane r.value 0).setWidth 6))
        (if x.flgAt = s.mcnt then x.flgNow else noFlags))
    ∧ (r.kind = .value → (r.dcls = 0 ∨ r.dcls = 4) → t.vreg n r.didx = blend r.lanes r.value (s.vreg n r.didx)
        ∧ ∀ j, j ≠ s.vbase n + r.didx → mget 0 (t.elem v).pv j = mget 0 (s.elem v).pv j)
    ∧ (¬(r.kind = .value ∧ (r.dcls = 0 ∨ r.dcls = 4)) → (t.elem v).pv = (s.elem v).pv)
    ∧ ((r.kind = .value ∧ (r.dcls = 1 ∨ r.dcls = 5) ∨ r.kind = .link) → anyOn r.lanes = true → t.sreg n r.didx = lane r.value 0)
    ∧ ((r.kind = .value ∧ (r.dcls = 1 ∨ r.dcls = 5) ∨ r.kind = .link) →
        ∀ j, j ≠ s.sbase n + r.didx → mget 0 (t.elem v).ps j = mget 0 (s.elem v).ps j)
    ∧ (¬(r.kind = .value ∧ (r.dcls = 1 ∨ r.dcls = 5) ∨ r.kind = .link) → (t.elem v).ps = (s.elem v).ps)
    ∧ (r.kind = .value → r.dcls = 2 → y.o = mset x.o r.didx (blend r.lanes r.value (mget 0 x.o r.didx)))
    ∧ (¬(r.kind = .value ∧ r.dcls = 2) → y.o = x.o)
    ∧ (r.kind = .predicate → r.dcls ≠ 3 → mget 0xFFFF#16 y.p r.didx
        = (mget 0xFFFF#16 x.p r.didx &&& ~~~r.lanes) ||| (ofMask (fun l => (lane r.value l) != 0#32) &&& r.lanes))
    ∧ (¬(r.kind = .predicate ∧ r.dcls ≠ 3) → y.p = x.p)
    ∧ (r.kind = .capability → anyOn r.lanes = true → y.c = mset x.c r.didx (r.value.setWidth 128))
    ∧ (r.kind ≠ .capability → y.c = x.c)
    ∧ y.k = x.k ∧ y.ia = x.ia ∧ y.ic = x.ic ∧ y.dth = x.dth ∧ y.cause = x.cause ∧ y.epc = x.epc ∧ y.hrw = x.hrw ∧ y.haw = x.haw ∧ y.st = x.st
    ∧ (∀ m, m ≠ n → t.slot m = s.slot m) ∧ (∀ u, u ≠ v → (t.elem u).unqueued = (s.elem u).unqueued)
    ∧ (∀ k, (t.tile k).unqueued = (s.tile k).unqueued) ∧ t.mem = s.mem))
  ∧ (s.arg.c = 0 → (s.elem v).flight.find? mine = none → exec .resultCompletion s = .next s)
  ∧ (s.arg.c ≠ 0 → (x.st = .running ∨ x.st = .draining) → Leads .resultCompletion s (fun t =>
      (t.slot n).st = .frozen ∧ (t.slot n).cause = BitVec.ofNat 32 s.arg.c ∧ (t.slot n).epc = s.position n
      ∧ (∀ m, m ≠ n → t.slot m = s.slot m) ∧ t.mem = s.mem))

/-- Taking a fault: the slot freezes with its cause in CAUSE and its position in EPC, nothing of it issues any more, the results that
complete at the freeze cycle or later enter the flight record with what remains of their latency, and registers and memory stay; a
second cause against a frozen slot leaves it as it is. Resuming replays the flight record at those counts and issues the instruction
at the slot's position; discarding empties the record and leaves the slot BOUND. A record takes the next number of its die and enters
the FIFO, or is counted as lost (R31, R36, R230, R323, R324). -/
def Obligations.FaultsFreeze : Prop := ∀ (s : State) (n cause detail c : Nat),
  let v := veOfSlot n
  ((s.slot n).st = .running ∨ (s.slot n).st = .draining →
    let t := s.trapAt n cause detail c
    (t.slot n).st = .frozen ∧ (t.slot n).cause = BitVec.ofNat 32 cause ∧ (t.slot n).epc = s.position n
    ∧ (t.slot n).o = (s.slot n).o ∧ (t.slot n).p = (s.slot n).p ∧ (t.slot n).q0 = (s.slot n).q0 ∧ (t.slot n).ia = (s.slot n).ia
    ∧ (t.slot n).flg = (s.slot n).flg
    ∧ (∀ m, m ≠ n → t.slot m = s.slot m) ∧ t.mem = s.mem ∧ (t.elem v).pv = (s.elem v).pv ∧ (t.elem v).ps = (s.elem v).ps
    ∧ (∀ r ∈ (s.elem v).flight, r.slot = n → c ≤ r.due → ({ res := r, nrem := r.due - c } : Held) ∈ (t.elem v).record ∧ r ∉ (t.elem v).flight)
    ∧ (∀ r ∈ (s.elem v).flight, (r.slot ≠ n ∨ r.due < c) → r ∈ (t.elem v).flight)
    ∧ (∀ it ∈ t.agenda, it.act ≠ .issue n))
  ∧ ((s.slot n).st = .frozen →
      (s.trapAt n cause detail c).slots = s.slots ∧ (s.trapAt n cause detail c).elems = s.elems ∧ (s.trapAt n cause detail c).mem = s.mem
      ∧ (let t := s.resumeSlot n c
         t.slot n = { s.slot n with st := if (s.slot n).ended then .draining else .running } ∧ (∀ m, m ≠ n → t.slot m = s.slot m)
         ∧ t.mem = s.mem
         ∧ (∀ h ∈ (s.elem v).record, h.res.slot = n → (∀ b p, h.res.kind ≠ .quant b p) →
             { h.res with due := c + h.nrem } ∈ (t.elem v).flight)
         ∧ (∀ h ∈ (t.elem v).record, h.res.slot ≠ n)
         ∧ ((s.slot n).ended = false → ({ time := 16 * s.turnOf n c + rkIssue v, act := .issue n } : Item) ∈ t.agenda))
      ∧ (let t := s.discardSlot n
         (t.slot n).st = .bound ∧ (∀ m, m ≠ n → t.slot m = s.slot m) ∧ t.mem = s.mem ∧ (∀ h ∈ (t.elem v).record, h.res.slot ≠ n)
         ∧ (∀ r ∈ (t.elem v).flight, r.slot ≠ n) ∧ (∀ it ∈ t.agenda, it.act ≠ .issue n)))
  ∧ (∀ (d : Nat) (m : Master),
      let t := s.raise d cause m c detail
      (t.die d).seq = ((s.die d).seq + 1) % 4096
      ∧ ((s.die d).fifo.length < 512 → (t.die d).fifo.length = (s.die d).fifo.length + 1 ∧ (t.die d).lost = (s.die d).lost)
      ∧ (512 ≤ (s.die d).fifo.length → (t.die d).fifo = (s.die d).fifo ∧ (t.die d).lost = (s.die d).lost + 1)
      ∧ t.mem = s.mem ∧ t.slots = s.slots)

/-! ## Requests of the Helm region at their targets (R230, R231, R239 to R241, R297, R298, R395, R397, R398) -/

/-- The copies of a request that agree act once: RTE resumes or discards the frozen slot that it names; ESCROW grants an entry, and
credits a revocation once no launch is under the entry; GENUP raises the generation on every die of the context; REMAP writes the entry,
at level T only at a waypoint; a request whose copies differ, or that is stale, does nothing but leave; the escrow packet acts 256 cycles
on; a configuration port opens, seals and clears; a verification ends with its record. Completion: rteAction, helmRequestCredit,
genupArrival, remapApply, escrowDeclarationPacket, cfgPortRequest and verifyEngineComplete. -/
def Obligations.RequestsTakeEffect : Prop := ∀ s : State,
  let id := s.arg.a
  (∀ r, mfind s.helm id = some r →
    (r.kind = 0 → combined s r = .act → rteTarget s r.a = true → (s.slot (rteSlot r.a)).st = .frozen →
      ((lane r.b 0).extractLsb' 0 2 = 0#2 → s.levelOf (tileOfSlot (rteSlot r.a)) ≠ .t → Leads .rteAction s (fun t =>
        t.slot (rteSlot r.a) = { s.slot (rteSlot r.a) with st := if (s.slot (rteSlot r.a)).ended then .draining else .running } ∧ (∀ m, m ≠ rteSlot r.a → t.slot m = s.slot m)
        ∧ t.helm = mdel s.helm id ∧ t.mem = s.mem))
      ∧ ((lane r.b 0).extractLsb' 0 2 = 2#2 → Leads .rteAction s (fun t => (t.slot (rteSlot r.a)).st = .bound
        ∧ (∀ m, m ≠ rteSlot r.a → t.slot m = s.slot m) ∧ t.helm = mdel s.helm id ∧ t.mem = s.mem)))
    ∧ (combined s r = .act → (rteTarget s r.a = false ∨ (s.slot (rteSlot r.a)).st ≠ .frozen) → Leads .rteAction s (fun t =>
        t.helm = mdel s.helm id ∧ t.slots = s.slots ∧ t.mem = s.mem))
    ∧ (combined s r = .differ → Leads .rteAction s (fun t => t.helm = mdel s.helm id ∧ t.slots = s.slots ∧ t.mem = s.mem))
    ∧ (let c := bitsOf r.a.toNat 10 8
       let e := r.a.toNat % 256
       (s.arg.b = 0 → combined s r = .act → r.kind = 1 → (s.ctx c).live = true → Leads .helmRequestCredit s (fun t =>
          mfind (t.ctx c).escrow e = some ((List.range 4).map (fun i => lane r.b i)) ∧ e ∈ (t.ctx c).escrowOk
          ∧ t.helm = mdel s.helm id ∧ t.slots = s.slots ∧ t.mem = s.mem))
       ∧ (s.arg.b ≠ 0 → underEscrow s c e (r.kind != 2) = false → (∀ k ∈ r.wait, mfind s.reqs k = none) → Leads .helmRequestCredit s (fun t => t.helm = mdel s.helm id ∧ t.slots = s.slots ∧ t.mem = s.mem))
       ∧ (s.arg.b ≠ 0 → underEscrow s c e (r.kind != 2) = true → exec .helmRequestCredit s = .next (again s id { r with wait := translated s c })))
    ∧ (let c := r.a.toNat % 8
       (s.arg.b = 0 → combined s r = .act → (s.ctx c).gen.toNat < (lane r.b 0).toNat → Leads .genupArrival s (fun t =>
          (t.ctx c).gen = lane r.b 0 ∧ (∀ d ∈ diesOf s c, mfind (t.die d).gens c = some (lane r.b 0)) ∧ t.slots = s.slots ∧ t.mem = s.mem))
       ∧ (s.arg.b ≠ 0 → (∀ k ∈ r.wait, mfind s.reqs k = none) → Leads .genupArrival s (fun t => t.helm = mdel s.helm id ∧ t.slots = s.slots
          ∧ t.mem = s.mem)))
    ∧ (let c := bitsOf r.a.toNat 12 10
       ∀ l, remapTarget r.a = some l → s.arg.b = 0 → combined s r = .act →
         (remapOk s c l (lane r.b 0) = true →
           ((s.ctx c).level = .t → exec .remapApply s = .next { s with helm := mset s.helm id { r with acted := true } })
           ∧ ((s.ctx c).level ≠ .t → tileIdle s c l = false → exec .remapApply s = .next (again s id r))
           ∧ ((s.ctx c).level ≠ .t → tileIdle s c l = true → Leads .remapApply s (fun t =>
               mfind t.remap (remapKey c l) = some (lane r.b 0 &&& 0xFEFF_3FFF#32) ∧ t.helm = mdel s.helm id)))
         ∧ (remapOk s c l (lane r.b 0) = false → Leads .remapApply s (fun t =>
             t.remap = s.remap ∧ t.helm = mdel s.helm id ∧ t.slots = s.slots ∧ t.mem = s.mem))))
  ∧ (let c := s.arg.a
     let e := (lane s.arg.v 1).toNat % 256
     (s.ctx c).live = true →
      (s.arg.b = 0 → exec .escrowDeclarationPacket s = .next (s.planEv (s.mcnt + 256) rkHold .escrowDeclarationPacket
        { s.arg with b := 1, i := (translated s c).map Int.ofNat }))
      ∧ (s.arg.b = 1 → (lane s.arg.v 1).getLsbD 8 = true → Leads .escrowDeclarationPacket s (fun t => e ∉ (t.ctx c).escrowOk ∧ t.slots = s.slots
          ∧ t.mem = s.mem))
      ∧ (s.arg.b = 1 → (lane s.arg.v 1).getLsbD 8 = false →
          (∀ i, i < ((lane s.arg.v 3).extractLsb' 0 28).toNat → pageHeld s c (4096 * (((lane s.arg.v 2).extractLsb' 0 28).toNat + i)) = true) →
          Leads .escrowDeclarationPacket s (fun t => mfind (t.ctx c).escrow e = some [lane s.arg.v 2, lane s.arg.v 3, lane s.arg.v 4, lane s.arg.v 5]
            ∧ e ∈ (t.ctx c).escrowOk ∧ t.slots = s.slots)))
  ∧ (let k := s.arg.a
     let p := s.cport k
     ∀ r rest, s.arg.b ≠ 1 → p.queue = r :: rest → cfgFixed k = false →
      (p.st = .empty → r.op = 0 → Leads .cfgPortRequest s (fun t => (t.cport k).st = .loading ∧ (t.cport k).cbase = (lane r.b 0).toNat % 2048
        ∧ (t.cport k).crc = 0xFFFF_FFFF#32 ∧ (t.cport k).queue = rest ∧ t.slots = s.slots ∧ t.elems = s.elems ∧ t.mem = s.mem))
      ∧ (p.st = .loading → r.op = 2 → p.err = false → p.pois = false → p.crc ^^^ 0xFFFF_FFFF#32 = lane r.b 0 →
        Leads .cfgPortRequest s (fun t => (t.cport k).st = .sealed
          ∧ ({ time := 16 * (s.mcnt + tileTransit k r.src) + rkArrive
               act := .ev .cfgPortRequest { Arg.of k 1 r.src 0 0 with
                 v := (cfgRecord r.a (p.crc ^^^ 0xFFFF_FFFF#32) 2 p.written.length 0).setWidth 512 } } : Item) ∈ t.agenda))
      ∧ ((p.st = .loading ∨ p.st = .sealed) → r.op = 3 → Leads .cfgPortRequest s (fun t => (t.cport k).st = .empty
          ∧ (∀ n < 64, t.slot (64 * k + n) = Slot.reset) ∧ (∀ j < 8, t.elem (8 * k + j) = Elem.reset) ∧ t.mem = s.mem))
      ∧ ((p.st = .empty ∨ p.st = .sealed) → r.op = 1 → exec .cfgPortRequest s = .next (s.modPort k (fun q => { q with queue := rest }))))
  ∧ (s.arg.b = 1 → (s.tile s.arg.c).evq.length < 64 → (s.tile s.arg.c).evWait = [] → Leads .cfgPortRequest s (fun t =>
      (t.tile s.arg.c).evq = (s.tile s.arg.c).evq ++ [(s.mcnt, s.arg.v.setWidth 128)] ∧ t.slots = s.slots ∧ t.mem = s.mem))
  ∧ (s.arg.b = 1 → (s.tile s.arg.a).evq.length < 64 → (s.tile s.arg.a).evWait = [] → Leads .verifyEngineComplete s (fun t =>
      (t.tile s.arg.a).evq = (s.tile s.arg.a).evq ++ [(s.mcnt, recordOf (BitVec.ofNat 32 s.arg.c) (BitVec.ofNat 32 s.arg.d) 0x041C_FFFF#32
        (BitVec.ofNat 32 (4 * 2 ^ 24 + s.arg.e * 2 ^ 16)))] ∧ t.slots = s.slots ∧ t.mem = s.mem))
  ∧ (s.arg.b ≠ 1 → Leads .verifyEngineComplete s (fun t => t.mem = s.mem ∧ t.slots = s.slots
      ∧ ({ time := 16 * (s.mcnt + controlTransit portDie none (dieOfTile s.arg.a) (some s.arg.a)) + rkArrive
           act := .ev .verifyEngineComplete (Arg.of s.arg.a 1 s.arg.c s.arg.d (vrfyReason s (dieOfTile s.arg.a) s.arg.c s.arg.d)) } : Item) ∈ t.agenda))

/-- Fault records leave a die's FIFO in order for both handler copies and reach them as event records; the handler resumes a trapped
slot where the image's trap table says so and no QBLK block was lost; an audit ends after its cycles and writes a record if it fails; an interval that passes
without a run writes 0x17F; an audit packet's request is taken or refused (R238, R323, R328, R336 to R339). Completion:
faultRecordDelivery, auditRun, auditOverdue and auditRequestPacket. -/
def Obligations.FaultsAndAudits : Prop := ∀ s : State,
  let g := s.arg
  (∀ r rest, g.b = 0 → (s.die g.a).fifo = r :: rest → (s.die g.a).lost = 0 → handlerDown s = false → alive s faultTiles ≠ [] →
    (∀ u ∈ alive s faultTiles, (s.tile u).evq.length < 64) → Leads .faultRecordDelivery s (fun t => (t.die g.a).fifo = rest
      ∧ (∀ u ∈ alive s faultTiles, 
          ({ time := 16 * (s.mcnt + recordTransit g.a u) + rkArrive
             act := .ev .faultRecordDelivery { Arg.of g.a 1 u 0 0 with v := (packRec r).setWidth 512 } } : Item) ∈ t.agenda)
      ∧ t.slots = s.slots ∧ t.mem = s.mem))
  ∧ (g.b = 1 → (s.tile g.c).evq.length < 64 → (s.tile g.c).evWait = [] → Leads .faultRecordDelivery s (fun t =>
      (t.tile g.c).evq = (s.tile g.c).evq ++ [(s.mcnt, g.v.setWidth 128)] ∧ t.slots = s.slots ∧ t.mem = s.mem))
  ∧ (let r := unpackRec (g.v.setWidth 128) (g.i.map Int.toNat) (g.e == 1)
     let n := 64 * recTile r + r.mid % 64
     g.b = 2 → g.e ≠ 1 → r.cause / 64 = 6 → r.mkind = 0 → r.ctx < 8 → (s.ctx r.ctx).level ≠ .t → (s.slot n).st = .frozen →
      (s.ctx r.ctx).image.map (fun i => mget 2 i.traps (r.cause % 32)) = some 0 → Leads .faultRecordDelivery s (fun t =>
        t.slot n = { s.slot n with st := if (s.slot n).ended then .draining else .running } ∧ (∀ m, m ≠ n → t.slot m = s.slot m) ∧ t.mem = s.mem))
  ∧ (g.d = 1 → (managerDown s = false ∨ 9 ≤ g.c) → Leads .auditRun s (fun t => t.mem = s.mem ∧ t.slots = s.slots
      ∧ ({ time := 16 * (s.mcnt + auditCycles g.a) + rkArrive, act := .ev .auditRun (Arg.of g.a g.b g.c 2 0) } : Item) ∈ t.agenda))
  ∧ (g.d = 2 → auditDestroys g.a = false → g.c ≠ 9 → mfind s.audits (auditKey g.a g.b) = none →
      (Config.auditPasses g.a s.freeCtr = true → exec .auditRun s = .next { s with freeCtr := s.freeCtr + 1 })
      ∧ (Config.auditPasses g.a s.freeCtr = false → Leads .auditRun s (fun t =>
          (t.die (auditSite g.a g.b).1).seq = ((s.die (auditSite g.a g.b).1).seq + 1) % 4096 ∧ t.slots = s.slots ∧ t.mem = s.mem)))
  ∧ (∀ last, mfind s.auditRuns (auditKey g.a g.b) = some last → auditedBy s g.a g.b ≠ none → last + auditInterval g.a ≤ s.mcnt →
      Leads .auditOverdue s (fun t => (t.die (auditSite g.a g.b).1).seq = ((s.die (auditSite g.a g.b).1).seq + 1) % 4096
        ∧ ({ time := 16 * (s.mcnt + auditInterval g.a) + rkStart, act := .ev .auditOverdue (Arg.of g.a g.b 0 0 0) } : Item) ∈ t.agenda
        ∧ t.slots = s.slots ∧ t.mem = s.mem))
  ∧ (∀ last, mfind s.auditRuns (auditKey g.a g.b) = some last → auditedBy s g.a g.b ≠ none → s.mcnt < last + auditInterval g.a →
      exec .auditOverdue s = .next s)
  ∧ (let no := (lane g.v 1).toNat % 1024
     (requestable no = true → (s.ctx g.a).audit = none → Leads .auditRequestPacket s (fun t =>
        (t.ctx g.a).audit = some (no, some (lane g.v 0), false) ∧ t.slots = s.slots ∧ t.mem = s.mem))
     ∧ ((requestable no = false ∨ (s.ctx g.a).audit ≠ none) → Leads .auditRequestPacket s (fun t =>
        (t.ctx g.a).audit = (s.ctx g.a).audit ∧ (t.ctx g.a).outst = (s.ctx g.a).outst - 1 ∧ t.slots = s.slots)))

/-! ## Boot, the timebase, power, authentication and update (R333 to R335, R349 to R377, R402, R403) -/

/-- Boot passes its stages: sensors and clocks, the ROM, the verified slot's Helm graphs, training, then stage 5 in STANDBY with the scans
and the heartbeat; a slot that does not verify gives way to the other, and without one boot stops at stage 15; heartbeats are judged each
1,024 ticks, the second missed one in a row signals the host; a TRY that ends without a heartbeat boots the other slot; fuses are blown up
to the running image's RBIX; writes to flash and registers (R369, R371 to R373, R402; the stages' durations are assumption 129's). -/
def Obligations.BootsAndBeats : Prop := ∀ s : State,
  let g := s.arg
  let rec0 := ((flashBytes s 0 1).headD 0).toNat
  let first := rec0 % 2
  (g.b = 0 → Leads .bootSequence s (fun t => bootStage t = 1 ∧ t.port.power = 0 ∧ t.mem = s.mem ∧ t.slots = s.slots))
  ∧ (g.b = 1 → Leads .bootSequence s (fun t => bootStage t = 2 ∧ t.mem = s.mem ∧ t.slots = s.slots))
  ∧ (g.b = 2 → g.c = 0 → (verifySlot s first (g.d.testBit first)).1 = 0 → Leads .bootSequence s (fun t =>
      bootStage t = 3 ∧ t.port.boot.getLsbD 27 = decide (first = 1) ∧ t.port.boot.getLsbD 25 = false
      ∧ t.port.image = some (verifySlot s first (g.d.testBit first)).2))
  ∧ (g.b = 2 → g.c = 0 → (verifySlot s first (g.d.testBit first)).1 ≠ 0 →
      ((verifySlot s (1 - first) (g.d.testBit (1 - first))).1 = 0 → Leads .bootSequence s (fun t =>
        bootStage t = 3 ∧ t.port.boot.getLsbD 27 = decide (1 - first = 1) ∧ t.port.boot.getLsbD 25 = true
        ∧ t.port.image = some (verifySlot s (1 - first) (g.d.testBit (1 - first))).2))
      ∧ ((verifySlot s (1 - first) (g.d.testBit (1 - first))).1 ≠ 0 → Leads .bootSequence s (fun t => bootStage t = 15 ∧ t.slots = s.slots
        ∧ t.mem = s.mem ∧ t.agenda = s.agenda)))
  ∧ (g.b = 3 → Leads .bootSequence s (fun t => bootStage t = 4 ∧ (∀ k < 64, (t.tel k).trdy = true) ∧ t.mem = s.mem ∧ t.slots = s.slots))
  ∧ (4 ≤ g.b → Leads .bootSequence s (fun t => bootStage t = 5 ∧ t.port.power = 0 ∧ t.mem = s.mem ∧ t.slots = s.slots
      ∧ ∀ c < 8, ({ time := 16 * cycleMod (s.mcnt + 1) (64 * c) 512 + rkArrive, act := .ev .schedulerScan (Arg.of c 0 0 0 0) } : Item) ∈ t.agenda))
  ∧ Leads .heartbeatPeriod s (fun t => t.mem = s.mem ∧ t.slots = s.slots
      ∧ ({ time := 16 * (s.mcnt + 2969600) + rkStart, act := .ev .heartbeatPeriod (Arg.of 0 0 0 0 0) } : Item) ∈ t.agenda
      ∧ (s.port.hbHold = true → t.port = s.port)
      ∧ (s.port.hbHold = false → t.port.hb = s.port.hb &&& 0xFFFF#32
        ∧ (beatComplete s.port.hb = true → t.port.missed = 0 ∧ t.port.msix = s.port.msix)
        ∧ (beatComplete s.port.hb = false → s.port.missed = 0 → t.port.missed = 1 ∧ t.port.msix = s.port.msix)
        ∧ (beatComplete s.port.hb = false → s.port.missed = 1 → t.port.missed = 0 ∧ t.port.msix = s.port.msix ++ [(0, 0)])))
  ∧ (let slot := (s.port.boot.getLsbD 27).toNat
     Leads .bootTryTimeout s (fun t => bootStage t = 2 ∧ t.port.kept = s.port.kept ++ [0x1C9 + 512 * slot] ∧ t.port.msix = s.port.msix ++ [(0, 0)]
      ∧ t.mem = s.mem ∧ t.slots = [] ∧ t.port.rollback = s.port.rollback
      ∧ ({ time := 16 * (s.mcnt + 2900) + rkStart, act := .ev .bootSequence (Arg.of 0 2 (1 + (1 - slot)) 0 0) } : Item) ∈ t.agenda))
  ∧ (∀ h, s.port.image = some h →
      (g.a ≤ h.rbix → 0 ∉ s.fnFrozen → exec .fusecmtWrite s = .next { s with port := { s.port with rollback := max s.port.rollback (min g.a 64) } })
      ∧ (h.rbix < g.a → 0 ∉ s.fnFrozen → exec .fusecmtWrite s = .next s))
  ∧ (let off := s.port.flash + g.a % 65536 / 4 * 4
     0 ∉ s.fnFrozen → ((g.c = 0 ∨ g.c = 4) → (∀ k, runningSlot s = some k → ¬(slotAt k ≤ off ∧ off < slotAt k + slotSize k)) → Memory.wf s.mem = true →
      Leads .flashWindowWrite s (fun t => t.read (flashBase + off) 4 = g.b % 2 ^ 32 ∧ t.port = s.port ∧ t.slots = s.slots
        ∧ ∀ a, (a < flashBase + off ∨ flashBase + off + 4 ≤ a) → readByte t.mem a = readByte s.mem a))
     ∧ ((∃ k, runningSlot s = some k ∧ slotAt k ≤ off ∧ off < slotAt k + slotSize k) →
      exec .flashWindowWrite s = .next { s with port := { s.port with aborts := s.port.aborts + 1 } }))
  ∧ (0 ∉ s.fnFrozen → (g.c = 0 ∨ g.c = 4) →
      (16 ≤ g.a → g.a < 32 → exec .registerWrite s
        = .next { s with port := { s.port with desc := mset s.port.desc (g.a - 16) (BitVec.ofNat 32 g.b) } })
      ∧ (g.a < 8 → (s.ctx g.a).live = true → exec .registerWrite s = .next s)
      ∧ (g.a < 8 → (s.ctx g.a).live = false → exec .registerWrite s
        = .next { s with port := { s.port with ctxfn := mset s.port.ctxfn g.a (BitVec.ofNat 32 g.b &&& 0x8000_0007#32) } }))
  ∧ ((g.c ≠ 0 ∧ g.c ≠ 4 ∨ fnOfRegister s g.a ∈ s.fnFrozen) →
      exec .registerWrite s = .next { s with port := { s.port with aborts := s.port.aborts + 1 } })
  ∧ (0 ∈ s.fnFrozen → ∀ i ∈ [Instr.flashWindowWrite, .fusecmtWrite, .todbaseWrite, .sxofsWrite],
      exec i s = .next { s with port := { s.port with aborts := s.port.aborts + 1 } })

/-- The Meridian count is sent at each exchange, compared and forwarded, a difference writes 0x08A; a die rejoins with its count and its
audits passed; a sample moves IACC and the target by KI and KP; TRIM moves by at most SLEW each tick; holdover keeps IACC; 1PPS rises and
falls 100 µs later; time of day and timestamps (R333, R334, R349 to R353). -/
def Obligations.TimebaseRuns : Prop := ∀ s : State,
  let g := s.arg
  let d := g.a % 4
  let x := s.sextant
  let kp : Int := (x.gain.extractLsb' 16 16).toNat
  let ki : Int := (x.gain.extractLsb' 0 16).toNat
  let sampled (e : Int) (t : State) : Prop :=
    t.sextant.iacc = max (-204800) (min (x.iacc - Int.fdiv (ki * e) 65536) 204800)
    ∧ t.sextant.target = max (-204800) (min (t.sextant.iacc - Int.fdiv (kp * e) 65536) 204800)
    ∧ t.sextant.last = e ∧ t.sextant.trim = x.trim ∧ t.sextant.tod = x.tod ∧ t.mem = s.mem ∧ t.slots = s.slots
  (g.b ≠ 1 → Leads .meridianExchange s (fun t => t.mem = s.mem ∧ t.slots = s.slots
      ∧ (∀ k < 2, ({ time := 16 * (s.mcnt + 40) + rkArrive, act := .ev .meridianExchangeReceive (Arg.of k 0 s.mcnt 0 0) } : Item) ∈ t.agenda)
      ∧ ({ time := 16 * (s.mcnt + 2969600) + rkStart, act := .ev .meridianExchange (Arg.of 0 0 0 0 0) } : Item) ∈ t.agenda))
  ∧ ((s.die d).down = false → g.e ≠ 1 → meridianOf s d = (g.c : Int) + 40 →
      ((g.b = 0 ∧ d < 2) → exec .meridianExchangeReceive s
        = .next (s.planEv (s.mcnt + 41) rkArrive .meridianExchangeReceive (Arg.of (d + 2) (d + 1) (g.c + 41) g.d 0)))
      ∧ (¬(g.b = 0 ∧ d < 2) → exec .meridianExchangeReceive s = .next s))
  ∧ ((s.die d).down = false → g.e ≠ 1 → meridianOf s d ≠ (g.c : Int) + 40 → Leads .meridianExchangeReceive s (fun t =>
      (t.die d).seq = ((s.die d).seq + 1) % 4096 ∧ t.slots = s.slots ∧ t.mem = s.mem))
  ∧ ((s.die d).down = true →
      (g.b = 0 → Leads .dieRejoin s (fun t => (t.die d).skew = 0 ∧ (t.die d).down = true ∧ t.mem = s.mem ∧ t.slots = s.slots))
      ∧ (g.b ≠ 0 → (rejoinAudits s d).1 = true → (s.die d).skew = 0 → Leads .dieRejoin s (fun t => (t.die d).down = false
        ∧ (∀ c, (s.ctx c).live = true → mfind (t.die d).gens c = some (s.ctx c).gen) ∧ t.mem = s.mem ∧ t.slots = s.slots)))
  ∧ ((s.die d).down = false → exec .dieRejoin s = .next s)
  ∧ (sxSrc s = 1 → 0 ∉ s.fnFrozen → Leads .sxofsWrite s (sampled (BitVec.ofNat 32 g.a).toInt))
  ∧ (sxSrc s ≠ 1 → 0 ∉ s.fnFrozen → exec .sxofsWrite s = .next s)
  ∧ (let n := Int.emod (todNow s) 1000000000
     (sxSrc s = 2 → Leads .ppsInputEdge s (sampled ((if 500000000 ≤ n then n - 1000000000 else n) * 16))))
  ∧ (sxSrc s ≠ 2 → exec .ppsInputEdge s = .next s)
  ∧ (sxSrc s = 3 → Leads .ptmSample s (sampled ((todNow s - g.i.getD 0 0) * 16))) ∧ (sxSrc s ≠ 3 → exec .ptmSample s = .next s)
  ∧ (let slew : Int := (x.ctl.extractLsb' 8 8).toNat
     let target := if sxSrc s = 0 then 0 else x.target
     Leads .sextantTrimTick s (fun t => t.sextant.trim = x.trim + max (-slew) (min (target - x.trim) slew) ∧ t.sextant.iacc = x.iacc
      ∧ ({ time := 16 * (s.mcnt + 2900) + rkStart, act := .ev .sextantTrimTick (Arg.of 0 0 0 0 0) } : Item) ∈ t.agenda
      ∧ t.mem = s.mem ∧ t.slots = s.slots))
  ∧ Leads .sextantHoldoverEntry s (fun t => t.sextant.state = 3 ∧ t.sextant.target = x.iacc ∧ t.sextant.iacc = x.iacc ∧ t.sextant.trim = x.trim
      ∧ t.mem = s.mem ∧ t.slots = s.slots)
  ∧ Leads .ppsOutRise s (fun t => t.sextant = { x with pps := true } ∧ t.mem = s.mem ∧ t.slots = s.slots
      ∧ ({ time := 16 * (s.mcnt + 290000) + rkStart, act := .ev .ppsOutFall (Arg.of 0 0 0 0 0) } : Item) ∈ t.agenda)
  ∧ exec .ppsOutFall s = .next { s with sextant := { x with pps := false } }
  ∧ exec .ptpFrameTimestamp s = .next { s with sextant := { x with stamps := x.stamps ++ [(g.a % 2, (todNow s).toNat)] } }
  ∧ (timedArmed s = true → 0 ∉ s.fnFrozen → exec .todbaseWrite s = .next { s with port := { s.port with aborts := s.port.aborts + 1 } })
  ∧ (timedArmed s = false → 0 ∉ s.fnFrozen → Leads .todbaseWrite s (fun t => t.sextant.tod = ((g.a % 2 ^ 48 * 1000000000 + g.b % 2 ^ 30 : Nat) : Int)
      ∧ t.sextant.trim = x.trim ∧ t.mem = s.mem ∧ t.slots = s.slots))

/-- A power command joins the queue, takes effect as the state it names, or is refused with REFUSED set; the measured power and OVER; a
sensor at 135 °C or above stops the fabric and keeps the cause; supply is removed only from STANDBY or after a trip, and flash and
fuses remain (R335, R365 to R368). Completion: pwrcmdStandby, pwrcmdRun, pwrcmdDiag, pwrcmdInvalid, powerStatePacket,
powerMeasureTick, thermalSensorRead and supplyRemoval; a command of function 0 counts where the function is not frozen (R324). -/
def Obligations.PowerMoves : Prop := ∀ s : State,
  let g := s.arg
  let command (i : Instr) (code : Nat) : Prop :=
    (g.b = 0 → 0 ∉ s.fnFrozen → Leads i s (fun t => t.port.cmds = s.port.cmds ++ [(code, none)] ∧ t.port.power = s.port.power ∧ t.mem = s.mem ∧ t.slots = s.slots))
    ∧ (g.b = 1 → Leads i s (fun t => t.port.power = code ∧ t.port.refused = s.port.refused ∧ t.slots = s.slots
        ∧ ∀ k rest, s.port.cmds = k :: rest → t.port.cmds = rest))
    ∧ (2 ≤ g.b → ∀ k rest, s.port.cmds = k :: rest → Leads i s (fun t => t.port.power = s.port.power ∧ t.port.refused = true
        ∧ t.port.cmds = rest ∧ t.slots = s.slots))
  command .pwrcmdStandby 0 ∧ command .pwrcmdRun (max 1 (min g.a 5)) ∧ command .pwrcmdDiag 6 ∧ command .pwrcmdInvalid 7
  ∧ Leads .powerStatePacket s (fun t => t.port.cmds = s.port.cmds ++ [((lane g.v 1).toNat % 8, some (g.a, lane g.v 0))]
      ∧ t.port.power = s.port.power ∧ t.mem = s.mem ∧ t.slots = s.slots)
  ∧ (let w := Config.packagePower (s.mcnt / 2900) % 8192
     Leads .powerMeasureTick s (fun t => t.port.meas = w ∧ (s.port.overCap = true → t.port.overCap = true)
      ∧ (1 ≤ s.port.power → s.port.power ≤ 5 → powerCap s.port.power < w → t.port.overCap = true)
      ∧ (1 ≤ s.port.power → s.port.power ≤ 5 → w ≤ powerCap s.port.power → t.port.overCap = s.port.overCap)
      ∧ (s.port.power = 6 → 480 < w → t.port.overCap = true)
      ∧ ({ time := 16 * (s.mcnt + 2900) + rkStart, act := .ev .powerMeasureTick (Arg.of 0 0 0 0 0) } : Item) ∈ t.agenda ∧ t.mem = s.mem
      ∧ t.slots = s.slots))
  ∧ (g.e ≠ 1 → (∀ k < 8, Config.dieTemp (k / 2) (k % 2) (s.mcnt / 2900) < 135) →
      exec .thermalSensorRead s = .next (s.planN (s.mcnt + 2900) rkStart .thermalSensorRead 0 0))
  ∧ (g.e = 1 → 135 ≤ g.b → s.port.stopped = false → Leads .thermalSensorRead s (fun t => t.port.stopped = true
      ∧ t.port.kept = s.port.kept ++ [0x1C6 + 512 * (2 * (g.a % 4) + 256 * min g.b 255)] ∧ t.port.msix = s.port.msix ++ [(0, 0)]
      ∧ (∀ it ∈ t.agenda, portEvent it.act = true) ∧ t.mem = s.mem ∧ t.slots = s.slots))
  ∧ (bootStage s = 5 → s.port.power = 0 → Leads .supplyRemoval s (fun t => t.port.power = 7 ∧ t.port.rollback = s.port.rollback
      ∧ t.agenda = [] ∧ t.slots = [] ∧ (∀ a, 2 ^ 41 ≤ a → readByte t.mem a = readByte s.mem a)))
  ∧ (¬(bootStage s = 5 ∧ s.port.power = 0) → (∀ k ∈ s.port.kept, k % 512 ≠ 0x1C6) → exec .supplyRemoval s = .next s)

/-- Before stage 5 every request to the mailbox is answered Busy; from then on each has its response, and the requests and responses
since GET_VERSION make the transcript that signatures cover (R363, R364; the byte layouts are those of assumption 138). -/
def Obligations.MailboxAnswers : Prop := ∀ s : State,
  let q := s.arg.bytes
  let answers (i : Instr) (bs : List (BitVec 8)) : Prop := Leads i s (fun t => t.port.doe = bs ∧ t.mem = s.mem ∧ t.slots = s.slots)
  (¬(bootStage s = 5 ∧ s.port.stopped = false) → ∀ i ∈ [Instr.spdmGetVersion, .spdmGetCapabilities, .spdmNegotiateAlgorithms, .spdmGetDigests,
      .spdmGetCertificate, .spdmChallenge, .spdmGetMeasurements, .spdmUnsupported, .doeDiscovery], answers i [0x12, 0x7F, 3, 0])
  ∧ (bootStage s = 5 → s.port.stopped = false →
      Leads .spdmGetVersion s (fun t => t.port.doe = [0x10, 0x04, 0, 0, 0, 1, 0x00, 0x12] ∧ t.port.spdm = q ++ t.port.doe ∧ t.mem = s.mem
        ∧ t.slots = s.slots)
      ∧ answers .spdmGetCapabilities ([0x12, 0x61, 0, 0, 0, Config.spdmByte 0, 0, 0] ++ leBytes 0x16 4 ++ (List.range 8).map (fun i => Config.spdmByte (1 + i)))
      ∧ answers .spdmNegotiateAlgorithms ([0x12, 0x63, 0, 0] ++ leBytes 36 2 ++ [1, Config.spdmByte 9] ++ leBytes 4 4 ++ leBytes 0x80 4 ++ leBytes 2 4
          ++ List.replicate 16 0)
      ∧ answers .spdmGetDigests ([0x12, 0x01, 0, 1] ++ digestBytes (Config.sha384 (certChain s)))
      ∧ (let off := leAt q 4 2
         let chain := certChain s
         let part := (chain.drop off).take (leAt q 6 2)
         (q.getD 2 0 &&& 0x0F#8 = 0 → off < chain.length →
          answers .spdmGetCertificate ([0x12, 0x02, 0, 0] ++ leBytes part.length 2 ++ leBytes (chain.length - off - part.length) 2 ++ part))
         ∧ ((q.getD 2 0 &&& 0x0F#8 ≠ 0 ∨ chain.length ≤ off) → answers .spdmGetCertificate [0x12, 0x7F, 1, 0]))
      ∧ (q.getD 2 0 = 0 → Leads .spdmChallenge s (fun t => t.port.spdm = [] ∧ t.mem = s.mem ∧ t.slots = s.slots
          ∧ ∃ body, t.port.doe = body ++ (Config.deviceSign (s.port.spdm ++ q ++ body)).take 96
            ∧ body.take 4 = [0x12, 0x03, 0, 1] ∧ (body.drop 4).take 48 = digestBytes (Config.sha384 (certChain s))))
      ∧ (q.getD 2 0 ≠ 0 → answers .spdmChallenge [0x12, 0x7F, 1, 0])
      ∧ ((q.getD 3 0).toNat = 0 → (q.getD 2 0).getLsbD 0 = false →
          answers .spdmGetMeasurements ([0x12, 0x60, 6, 0, 0] ++ leBytes 0 3 ++ nonce s ++ [0, 0]))
      ∧ (∀ i, 1 ≤ i → i ≤ 6 → (q.getD 3 0).toNat = i → (q.getD 2 0).getLsbD 0 = true → Leads .spdmGetMeasurements s (fun t =>
          t.port.spdm = [] ∧ t.mem = s.mem ∧ t.slots = s.slots
          ∧ (let body := [0x12, 0x60, 0, 0, 1] ++ leBytes (measBlock s i).length 3 ++ measBlock s i ++ nonce s ++ [0, 0]
             t.port.doe = body ++ (Config.deviceSign (s.port.spdm ++ q ++ body)).take 96)))
      ∧ (7 ≤ (q.getD 3 0).toNat → (q.getD 3 0).toNat ≠ 255 → answers .spdmGetMeasurements [0x12, 0x7F, 1, 0])
      ∧ answers .spdmUnsupported [0x12, 0x7F, 7, q.getD 1 0]
      ∧ ((q.getD 0 0).toNat = 0 → answers .doeDiscovery [0x01, 0x00, 0x00, 0x01]) ∧ ((q.getD 0 0).toNat = 1 → answers .doeDiscovery [0x01, 0x00, 0x01, 0x00]))

/-- An update that passes its checks waits for Q, quiesces, reloads and waits for heartbeats; a heartbeat with the expected value sets
the bit of its copy; without them by the deadline the update rolls back with cause 0x1C9 (R374, R375, R377, R402, R403; the
durations of reload and rollback are the rule's bounds, assumption 135). -/
def Obligations.UpdatesRun : Prop := ∀ s : State,
  let g := s.arg
  let w1 := lane g.v 1
  (∀ reason h, verifySlot s (w1.toNat % 2) false = (reason, h) →
    ((s.port.update ≠ none ∨ updateOk s g.v reason h = false) → Leads .imageUpdatePacket s (fun t => t.port.update = s.port.update
      ∧ t.port.image = s.port.image ∧ t.slots = s.slots))
    ∧ (s.port.update = none → updateOk s g.v reason h = true → Leads .imageUpdatePacket s (fun t => t.mem = s.mem ∧ t.slots = s.slots
      ∧ ∃ q, t.port.update = some { ctx := g.a, w0 := lane g.v 0, w1 := w1, q := q, stage := 1, new := h, old := s.port.hb }
        ∧ (nextDecision s = none → q = nextTick s) ∧ (∀ c, nextDecision s = some c → q = c + 1)
        ∧ ({ time := 16 * q + rkHold, act := .ev .updateQuiesce (Arg.of 0 0 0 0 0) } : Item) ∈ t.agenda)))
  ∧ (∀ k, beatBit g.a g.b = some k →
      (g.c % 65536 = (s.port.hb.extractLsb' 0 16).toNat → s.port.update = none → Leads .heartbeatArrival s (fun t =>
        t.port.hb = s.port.hb ||| BitVec.ofNat 32 (2 ^ k) ∧ t.slots = s.slots))
      ∧ (g.c % 65536 ≠ (s.port.hb.extractLsb' 0 16).toNat → exec .heartbeatArrival s = .next s))
  ∧ (beatBit g.a g.b = none → exec .heartbeatArrival s = .next s)
  ∧ (∀ u, s.port.update = some u →
      (∀ run, s.port.image = some run → u.stage = 1 → u.q = s.mcnt → Leads .updateQuiesce s (fun t => t.port.update = some { u with stage := 2 }
        ∧ ({ time := 16 * (s.mcnt + 800 * 2900) + rkHold, act := .ev .updateReloadComplete (Arg.of 0 0 0 0 0) } : Item) ∈ t.agenda
        ∧ ({ time := 16 * (s.mcnt + 2000 * 2900) + rkHold, act := .ev .updateHeartbeatDeadline (Arg.of 0 0 0 0 0) } : Item) ∈ t.agenda
        ∧ t.slots = s.slots))
      ∧ (u.stage = 2 → beatsNeeded u.w1 ≠ 0 → Leads .updateReloadComplete s (fun t => t.port.update = some { u with stage := 3 }
        ∧ t.port.hb = (u.new.hovr.extractLsb' 0 16).setWidth 32 ∧ t.port.hbHold = true))
      ∧ ((u.stage = 2 ∨ u.stage = 3) → Leads .updateHeartbeatDeadline s (fun t => t.port.update = some { u with stage := 4 }
        ∧ (t.die 0).seq = ((s.die 0).seq + 1) % 4096 ∧ t.slots = s.slots ∧ t.mem = s.mem
        ∧ ({ time := 16 * (s.mcnt + 400 * 2900) + rkHold, act := .ev .updateRollbackComplete (Arg.of 0 0 0 0 0) } : Item) ∈ t.agenda))
      ∧ (∀ run, s.port.image = some run → u.stage = 4 → Leads .updateRollbackComplete s (fun t => t.port.update = none
        ∧ t.port.image = some run ∧ t.port.hb = u.old &&& 0xFFFF#32 ∧ t.port.hbHold = false)))

/-! ## The machine as a whole -/

/-- A step takes the head of the agenda at its cycle. A slot that runs executes the instruction that its words, or its ring entries,
decode to; a poisoned word, or words that decode to nothing, run as the illegal word; a slot that does not run does nothing. A
Teller executes the command that its run's word decodes to; an event runs with its operands; without an item a cycle passes
(R15, R30, R69, R71, R72, R96, R202). -/
def Obligations.StepRunsDecoded : Prop :=
  (∀ s : State, s.agenda = [] → step s = .next { s with mcnt := s.mcnt + 1 })
  ∧ ∀ (s : State) (it : Item) (rest : List Item), s.agenda = it :: rest →
    let u := { s with agenda := rest, mcnt := max s.mcnt (it.time / 16) }
    (∀ i a, it.act = .ev i a → step s = exec i { u with arg := a })
    ∧ (∀ n, it.act = .issue n → n < 4 * 144 * 64 →
        let x := u.slot n
        let e := u.elem (veOfSlot n)
        let w (k : Nat) : Word := mget 0 e.imem (x.ia.toNat + k)
        ((x.st ≠ .running ∨ e.blocked = true) → step s = .next u)
        ∧ (x.st = .running → e.blocked = false → fetchPoisoned u n = true →
            step s = exec .illegalWordIssue { u with cur := n, arg := Arg.of n 0 0 0 0 })
        ∧ (x.st = .running → e.blocked = false → fetchPoisoned u n = false → u.isSeq n = true →
            (∀ i, decodeSeq ((List.range (min 3 (2048 - x.ia.toNat))).map w) = .ok i →
              step s = exec i { u with cur := n, arg := Arg.of n 0 0 0 0 })
            ∧ (∀ why, decodeSeq ((List.range (min 3 (2048 - x.ia.toNat))).map w) = .error why →
              step s = exec .illegalWordIssue { u with cur := n, arg := Arg.of n 0 0 0 0 }))
        ∧ (x.st = .running → e.blocked = false → fetchPoisoned u n = false → u.isSeq n = false →
            (∀ i, decodeRing (mget 0 e.imem (x.rings.op + x.opp)) (halfAt e.imem (x.rings.rt + x.rtp))
                (halfAt e.imem (x.rings.ra + x.rap)) = .ok i →
              step s = exec i { u with cur := n, arg := Arg.of n 0 0 0 0 })
            ∧ (∀ why, decodeRing (mget 0 e.imem (x.rings.op + x.opp)) (halfAt e.imem (x.rings.rt + x.rtp))
                (halfAt e.imem (x.rings.ra + x.rap)) = .error why →
              step s = exec .illegalWordIssue { u with cur := n, arg := Arg.of n 0 0 0 0 })))
    ∧ (∀ n, it.act = .issue n → 4 * 144 * 64 ≤ n → step s = .fault .noSuchUnit)
    ∧ (∀ k, it.act = .teller k → 64 ≤ k → step s = .fault .noSuchUnit)
    ∧ (∀ k r, it.act = .teller k → k < 64 → activeRun (u.tel k) (ckOf u u.mcnt) = some r →
        (u.tel k).storePoison.contains (progBase (mget 0#32 (u.tel k).progs r.prog) + r.ix) = false →
        (∀ i, decodeTeller (runWord (u.tel k) r) = .ok i → step s = exec i { u with cur := k, arg := Arg.none })
        ∧ (∀ why, decodeTeller (runWord (u.tel k) r) = .error why → step s = .next (badWord u k false)))

/-- Right after reset: MCNT and TICK are zero, every slot is UNBOUND with q0 to q3 zero and FLG clear, every element's S2 is the 32-bit
width and S6 its reset value, no tile holds a load, barriers and counters are clear, every Teller's timing fields read 0xFFFF with
TRDY 0, SXCTL, SXGAIN and SXHLIM have their values, BOOTSTAT is 0 with the boot sequence about to begin, and the next fault record number
is 0 (R15, R29, R32, R167, R168, R205, R322, R349, R372). -/
def Obligations.ResetLeaves : Prop :=
  let s := State.reset
  s.mcnt = 0 ∧ s.agenda = [{ time := 0, act := .ev .bootSequence Arg.none }]
  ∧ (∀ n, (s.slot n).st = .unbound ∧ (s.slot n).q0 = 0#512 ∧ (s.slot n).q3 = 0#512 ∧ (s.slot n).flg = noFlags ∧ (s.slot n).hrw = 0#16
      ∧ (s.slot n).haw = 0#16)
  ∧ (∀ v, (s.elem v).s2 = 2#32 ∧ (s.elem v).s6 = 3#32 ∧ (s.elem v).blocked = false ∧ (s.elem v).flight = [])
  ∧ (∀ t b, (s.tile t).ctx = none ∧ (s.bar t b).a = 0 ∧ (s.bar t b).phase = false ∧ (s.ctr t b).now.armed = false)
  ∧ (∀ k i, i < 10 → ttWord (s.tel k) i = 0xFFFF_FFFF#32 ∧ (s.tel k).trdy = false ∧ (s.tel k).maxpost = 8)
  ∧ (∀ c, (s.ctx c).live = false) ∧ (∀ d, (s.die d).seq = 0 ∧ (s.die d).fifo = [])
  ∧ s.sextant.ctl = 0x0000_1020#32 ∧ s.sextant.gain = 0#32 ∧ s.sextant.hlim = 0xFFFF_FFFF#32 ∧ s.sextant.state = 0
  ∧ bootStage s = 0 ∧ s.port.stopped = false

/-- Words written out from the encoding tables decode to the instructions that they stand for: IADD with a literal, FFMA, LOOP, ACAS,
TRAP 5, a QBLK.B4 ring entry, and the Teller's RD and RDA (R61, R64, R69, R71, R72, R202). -/
def Obligations.WordsDecode : Prop :=
  let op (pred acls bcls dcls : BitVec 3) (gap : BitVec 6) (form : Form) : Op :=
    { var := 0, pred := pred, pinv := false, acls := acls, bcls := bcls, dcls := dcls, gap := gap, form := form }
  decodeTableWord 96 0x0000001F_00002080_81201C69 = some (.iadd (op 7 1 5 1 1 (.long 0x0000 0x2080 0x1F)))
  ∧ decodeTableWord 64 0x00201844_40560414 = some (.ffma (op 1 0 2 4 0 (.mid 0x0020 0x1844)))
  ∧ decodeTableWord 96 0x00000100_00000080_80051C6F = some (.loopI (op 7 1 5 7 0 (.long 0x0000 0x0080 0x100)))
  ∧ decodeTableWord 64 0x000038D2_40B81D89 = some (.acas (op 7 6 1 1 0 (.mid 0x0000 0x38D2)))
  ∧ decodeTableWord 96 0x00000005_00000000_800E1D7F = some (.trapI (op 7 5 7 7 0 (.long 0x0000 0x0000 5)))
  ∧ decodeTableWord 32 0x10788000 = some (.tellerRd 30 2 0) ∧ decodeTableWord 32 0x18CC8700 = some (.tellerRda 51 2 7)
  ∧ decodeRing 0x00885D3B 0x0080 0x0000
    = .ok (.qblk { var := 2, pred := 7, pinv := false, acls := 4, bcls := 7, dcls := 3, gap := 0, form := .ring 0x0080 0x0000 })

/-- Encoding loses nothing: what encode writes for a well-formed instruction, decoding reads back, every field at every value that the
encoding admits (R61, R69, R71, R72, R202). -/
def Obligations.EncodingReadsBack : Prop := ∀ i : Instr, i.wf = true →
  decodeAs i (encode i) = .ok i

/-- Memory reads what was last written to it: the bytes of a write, little-endian, and every other byte as before; the canonical
form is kept (R148). -/
def Obligations.MemoryReadsBack : Prop := ∀ (s : State) (a v n : Nat), Memory.wf s.mem = true →
  (s.write a v n).read a n = v % 256 ^ n
  ∧ (∀ b, (b < a ∨ a + n ≤ b) → readByte (s.write a v n).mem b = readByte s.mem b)
  ∧ Memory.wf (s.write a v n).mem = true ∧ (s.write a v n).slots = s.slots ∧ (s.write a v n).elems = s.elems

/-- The machine right after reset is sound: memory lists nothing and the agenda holds one item. -/
def Obligations.ResetIsSound : Prop := State.reset.Sound

/-- Every step keeps memory canonical and the agenda in order of time. -/
def Obligations.StepsStaySound : Prop := ∀ s t : State, s.Sound → step s = .next t → t.Sound
end

