-- ==== Sys2Proof/Laws/State.lean ====
section
/-! SUPPORT. Laws of sparse maps, and of the parts of the state: each update read back field by field. -/

namespace Sys2Proof

@[simp] theorem mget_mset {α : Type} (d : α) (m : Map α) (k j : Nat) (v : α) :
    mget d (mset m k v) j = if j = k then v else mget d m j := by
  induction m with
  | nil => by_cases h : j = k <;> simp [mset, mget, h, eq_comm (a := k)]
  | cons p r ih =>
    obtain ⟨k', v'⟩ := p
    by_cases h1 : k < k'
    · by_cases h : j = k
      · subst h; simp [mset, mget, h1]
      · simp [mset, mget, h1, h, Ne.symm h]
    · by_cases h2 : k' = k
      · subst h2; by_cases h : j = k'
        · subst h; simp [mset, mget]
        · simp [mset, mget, h, Ne.symm h]
      · by_cases h : j = k
        · subst h; simp [mset, mget, h1, h2, ih]
        · simp [mset, mget, h1, h2, ih, h]

end Sys2Proof

namespace Sys2Proof.Machine

/-! ## Updates built from others -/

@[simp] theorem State.modSlot_eq (s : State) (n : Nat) (f : Slot → Slot) : s.modSlot n f = s.setSlot n (f (s.slot n)) := rfl
@[simp] theorem State.modElem_eq (s : State) (n : Nat) (f : Elem → Elem) : s.modElem n f = s.setElem n (f (s.elem n)) := rfl
@[simp] theorem State.modTile_eq (s : State) (n : Nat) (f : Tile → Tile) : s.modTile n f = s.setTile n (f (s.tile n)) := rfl
@[simp] theorem State.modSport_eq (s : State) (n : Nat) (f : SPort → SPort) : s.modSport n f = s.setSport n (f (s.sport n)) := rfl
@[simp] theorem State.modNode_eq (s : State) (n : Nat) (f : MNode → MNode) : s.modNode n f = s.setNode n (f (s.mnode n)) := rfl
@[simp] theorem State.modLode_eq (s : State) (n : Nat) (f : LNode → LNode) : s.modLode n f = s.setLode n (f (s.lnode n)) := rfl
@[simp] theorem State.modTel_eq (s : State) (n : Nat) (f : Tel → Tel) : s.modTel n f = s.setTel n (f (s.tel n)) := rfl
@[simp] theorem State.modDie_eq (s : State) (n : Nat) (f : Die → Die) : s.modDie n f = s.setDie n (f (s.die n)) := rfl
@[simp] theorem State.modCtx_eq (s : State) (n : Nat) (f : Ctx → Ctx) : s.modCtx n f = s.setCtx n (f (s.ctx n)) := rfl
@[simp] theorem State.planEv_eq (s : State) (c r : Nat) (i : Instr) (a : Arg) : s.planEv c r i a = s.plan c r (.ev i a) := rfl
@[simp] theorem State.planN_eq (s : State) (c r : Nat) (i : Instr) (a b : Nat) :
    s.planN c r i a b = s.plan c r (.ev i (Arg.of a b 0 0 0)) := rfl
@[simp] theorem State.planIssue_eq (s : State) (n c : Nat) :
    s.planIssue n c = s.plan (s.turnOf n c) (rkIssue (veOfSlot n)) (.issue n) := rfl

/-! ## Fields that an update leaves alone -/

@[simp] theorem State.setSlot_mcnt (s : State) (n : Nat) (x : Slot) : (s.setSlot n x).mcnt = s.mcnt := rfl
@[simp] theorem State.setSlot_cur (s : State) (n : Nat) (x : Slot) : (s.setSlot n x).cur = s.cur := rfl
@[simp] theorem State.setSlot_arg (s : State) (n : Nat) (x : Slot) : (s.setSlot n x).arg = s.arg := rfl
@[simp] theorem State.setSlot_agenda (s : State) (n : Nat) (x : Slot) : (s.setSlot n x).agenda = s.agenda := rfl
@[simp] theorem State.setSlot_nextId (s : State) (n : Nat) (x : Slot) : (s.setSlot n x).nextId = s.nextId := rfl
@[simp] theorem State.setSlot_freeCtr (s : State) (n : Nat) (x : Slot) : (s.setSlot n x).freeCtr = s.freeCtr := rfl
@[simp] theorem State.setSlot_mem (s : State) (n : Nat) (x : Slot) : (s.setSlot n x).mem = s.mem := rfl
@[simp] theorem State.setSlot_poison (s : State) (n : Nat) (x : Slot) : (s.setSlot n x).poison = s.poison := rfl
@[simp] theorem State.setSlot_elems (s : State) (n : Nat) (x : Slot) : (s.setSlot n x).elems = s.elems := rfl
@[simp] theorem State.setSlot_mes (s : State) (n : Nat) (x : Slot) : (s.setSlot n x).mes = s.mes := rfl
@[simp] theorem State.setSlot_sports (s : State) (n : Nat) (x : Slot) : (s.setSlot n x).sports = s.sports := rfl
@[simp] theorem State.setSlot_circuits (s : State) (n : Nat) (x : Slot) : (s.setSlot n x).circuits = s.circuits := rfl
@[simp] theorem State.setSlot_inqs (s : State) (n : Nat) (x : Slot) : (s.setSlot n x).inqs = s.inqs := rfl
@[simp] theorem State.setSlot_accs (s : State) (n : Nat) (x : Slot) : (s.setSlot n x).accs = s.accs := rfl
@[simp] theorem State.setSlot_reqs (s : State) (n : Nat) (x : Slot) : (s.setSlot n x).reqs = s.reqs := rfl
@[simp] theorem State.setSlot_banks (s : State) (n : Nat) (x : Slot) : (s.setSlot n x).banks = s.banks := rfl
@[simp] theorem State.setSlot_cmds (s : State) (n : Nat) (x : Slot) : (s.setSlot n x).cmds = s.cmds := rfl
@[simp] theorem State.setSlot_tiles (s : State) (n : Nat) (x : Slot) : (s.setSlot n x).tiles = s.tiles := rfl
@[simp] theorem State.setSlot_mnodes (s : State) (n : Nat) (x : Slot) : (s.setSlot n x).mnodes = s.mnodes := rfl
@[simp] theorem State.setSlot_lnodes (s : State) (n : Nat) (x : Slot) : (s.setSlot n x).lnodes = s.lnodes := rfl
@[simp] theorem State.setSlot_copies (s : State) (n : Nat) (x : Slot) : (s.setSlot n x).copies = s.copies := rfl
@[simp] theorem State.setSlot_chans (s : State) (n : Nat) (x : Slot) : (s.setSlot n x).chans = s.chans := rfl
@[simp] theorem State.setSlot_btes (s : State) (n : Nat) (x : Slot) : (s.setSlot n x).btes = s.btes := rfl
@[simp] theorem State.setSlot_tels (s : State) (n : Nat) (x : Slot) : (s.setSlot n x).tels = s.tels := rfl
@[simp] theorem State.setSlot_hostOut (s : State) (n : Nat) (x : Slot) : (s.setSlot n x).hostOut = s.hostOut := rfl
@[simp] theorem State.setSlot_fnFrozen (s : State) (n : Nat) (x : Slot) : (s.setSlot n x).fnFrozen = s.fnFrozen := rfl
@[simp] theorem State.setSlot_nck (s : State) (n : Nat) (x : Slot) : (s.setSlot n x).nck = s.nck := rfl
@[simp] theorem State.setSlot_dies (s : State) (n : Nat) (x : Slot) : (s.setSlot n x).dies = s.dies := rfl
@[simp] theorem State.setSlot_ctxs (s : State) (n : Nat) (x : Slot) : (s.setSlot n x).ctxs = s.ctxs := rfl
@[simp] theorem State.setSlot_links (s : State) (n : Nat) (x : Slot) : (s.setSlot n x).links = s.links := rfl
@[simp] theorem State.setSlot_packets (s : State) (n : Nat) (x : Slot) : (s.setSlot n x).packets = s.packets := rfl
@[simp] theorem State.setSlot_helm (s : State) (n : Nat) (x : Slot) : (s.setSlot n x).helm = s.helm := rfl
@[simp] theorem State.setSlot_lost (s : State) (n : Nat) (x : Slot) : (s.setSlot n x).lost = s.lost := rfl
@[simp] theorem State.setSlot_ports (s : State) (n : Nat) (x : Slot) : (s.setSlot n x).ports = s.ports := rfl
@[simp] theorem State.setSlot_remap (s : State) (n : Nat) (x : Slot) : (s.setSlot n x).remap = s.remap := rfl
@[simp] theorem State.setSlot_launches (s : State) (n : Nat) (x : Slot) : (s.setSlot n x).launches = s.launches := rfl
@[simp] theorem State.setSlot_walkers (s : State) (n : Nat) (x : Slot) : (s.setSlot n x).walkers = s.walkers := rfl
@[simp] theorem State.setSlot_overruns (s : State) (n : Nat) (x : Slot) : (s.setSlot n x).overruns = s.overruns := rfl
@[simp] theorem State.setSlot_mismatches (s : State) (n : Nat) (x : Slot) : (s.setSlot n x).mismatches = s.mismatches := rfl
@[simp] theorem State.setSlot_rots (s : State) (n : Nat) (x : Slot) : (s.setSlot n x).rots = s.rots := rfl
@[simp] theorem State.setSlot_saved (s : State) (n : Nat) (x : Slot) : (s.setSlot n x).saved = s.saved := rfl
@[simp] theorem State.setSlot_audits (s : State) (n : Nat) (x : Slot) : (s.setSlot n x).audits = s.audits := rfl
@[simp] theorem State.setSlot_auditRuns (s : State) (n : Nat) (x : Slot) : (s.setSlot n x).auditRuns = s.auditRuns := rfl
@[simp] theorem State.setSlot_sextant (s : State) (n : Nat) (x : Slot) : (s.setSlot n x).sextant = s.sextant := rfl
@[simp] theorem State.setSlot_port (s : State) (n : Nat) (x : Slot) : (s.setSlot n x).port = s.port := rfl
@[simp] theorem State.setElem_mcnt (s : State) (v : Nat) (x : Elem) : (s.setElem v x).mcnt = s.mcnt := rfl
@[simp] theorem State.setElem_cur (s : State) (v : Nat) (x : Elem) : (s.setElem v x).cur = s.cur := rfl
@[simp] theorem State.setElem_arg (s : State) (v : Nat) (x : Elem) : (s.setElem v x).arg = s.arg := rfl
@[simp] theorem State.setElem_agenda (s : State) (v : Nat) (x : Elem) : (s.setElem v x).agenda = s.agenda := rfl
@[simp] theorem State.setElem_nextId (s : State) (v : Nat) (x : Elem) : (s.setElem v x).nextId = s.nextId := rfl
@[simp] theorem State.setElem_freeCtr (s : State) (v : Nat) (x : Elem) : (s.setElem v x).freeCtr = s.freeCtr := rfl
@[simp] theorem State.setElem_mem (s : State) (v : Nat) (x : Elem) : (s.setElem v x).mem = s.mem := rfl
@[simp] theorem State.setElem_poison (s : State) (v : Nat) (x : Elem) : (s.setElem v x).poison = s.poison := rfl
@[simp] theorem State.setElem_slots (s : State) (v : Nat) (x : Elem) : (s.setElem v x).slots = s.slots := rfl
@[simp] theorem State.setElem_mes (s : State) (v : Nat) (x : Elem) : (s.setElem v x).mes = s.mes := rfl
@[simp] theorem State.setElem_sports (s : State) (v : Nat) (x : Elem) : (s.setElem v x).sports = s.sports := rfl
@[simp] theorem State.setElem_circuits (s : State) (v : Nat) (x : Elem) : (s.setElem v x).circuits = s.circuits := rfl
@[simp] theorem State.setElem_inqs (s : State) (v : Nat) (x : Elem) : (s.setElem v x).inqs = s.inqs := rfl
@[simp] theorem State.setElem_accs (s : State) (v : Nat) (x : Elem) : (s.setElem v x).accs = s.accs := rfl
@[simp] theorem State.setElem_reqs (s : State) (v : Nat) (x : Elem) : (s.setElem v x).reqs = s.reqs := rfl
@[simp] theorem State.setElem_banks (s : State) (v : Nat) (x : Elem) : (s.setElem v x).banks = s.banks := rfl
@[simp] theorem State.setElem_cmds (s : State) (v : Nat) (x : Elem) : (s.setElem v x).cmds = s.cmds := rfl
@[simp] theorem State.setElem_tiles (s : State) (v : Nat) (x : Elem) : (s.setElem v x).tiles = s.tiles := rfl
@[simp] theorem State.setElem_mnodes (s : State) (v : Nat) (x : Elem) : (s.setElem v x).mnodes = s.mnodes := rfl
@[simp] theorem State.setElem_lnodes (s : State) (v : Nat) (x : Elem) : (s.setElem v x).lnodes = s.lnodes := rfl
@[simp] theorem State.setElem_copies (s : State) (v : Nat) (x : Elem) : (s.setElem v x).copies = s.copies := rfl
@[simp] theorem State.setElem_chans (s : State) (v : Nat) (x : Elem) : (s.setElem v x).chans = s.chans := rfl
@[simp] theorem State.setElem_btes (s : State) (v : Nat) (x : Elem) : (s.setElem v x).btes = s.btes := rfl
@[simp] theorem State.setElem_tels (s : State) (v : Nat) (x : Elem) : (s.setElem v x).tels = s.tels := rfl
@[simp] theorem State.setElem_hostOut (s : State) (v : Nat) (x : Elem) : (s.setElem v x).hostOut = s.hostOut := rfl
@[simp] theorem State.setElem_fnFrozen (s : State) (v : Nat) (x : Elem) : (s.setElem v x).fnFrozen = s.fnFrozen := rfl
@[simp] theorem State.setElem_nck (s : State) (v : Nat) (x : Elem) : (s.setElem v x).nck = s.nck := rfl
@[simp] theorem State.setElem_dies (s : State) (v : Nat) (x : Elem) : (s.setElem v x).dies = s.dies := rfl
@[simp] theorem State.setElem_ctxs (s : State) (v : Nat) (x : Elem) : (s.setElem v x).ctxs = s.ctxs := rfl
@[simp] theorem State.setElem_links (s : State) (v : Nat) (x : Elem) : (s.setElem v x).links = s.links := rfl
@[simp] theorem State.setElem_packets (s : State) (v : Nat) (x : Elem) : (s.setElem v x).packets = s.packets := rfl
@[simp] theorem State.setElem_helm (s : State) (v : Nat) (x : Elem) : (s.setElem v x).helm = s.helm := rfl
@[simp] theorem State.setElem_lost (s : State) (v : Nat) (x : Elem) : (s.setElem v x).lost = s.lost := rfl
@[simp] theorem State.setElem_ports (s : State) (v : Nat) (x : Elem) : (s.setElem v x).ports = s.ports := rfl
@[simp] theorem State.setElem_remap (s : State) (v : Nat) (x : Elem) : (s.setElem v x).remap = s.remap := rfl
@[simp] theorem State.setElem_launches (s : State) (v : Nat) (x : Elem) : (s.setElem v x).launches = s.launches := rfl
@[simp] theorem State.setElem_walkers (s : State) (v : Nat) (x : Elem) : (s.setElem v x).walkers = s.walkers := rfl
@[simp] theorem State.setElem_overruns (s : State) (v : Nat) (x : Elem) : (s.setElem v x).overruns = s.overruns := rfl
@[simp] theorem State.setElem_mismatches (s : State) (v : Nat) (x : Elem) : (s.setElem v x).mismatches = s.mismatches := rfl
@[simp] theorem State.setElem_rots (s : State) (v : Nat) (x : Elem) : (s.setElem v x).rots = s.rots := rfl
@[simp] theorem State.setElem_saved (s : State) (v : Nat) (x : Elem) : (s.setElem v x).saved = s.saved := rfl
@[simp] theorem State.setElem_audits (s : State) (v : Nat) (x : Elem) : (s.setElem v x).audits = s.audits := rfl
@[simp] theorem State.setElem_auditRuns (s : State) (v : Nat) (x : Elem) : (s.setElem v x).auditRuns = s.auditRuns := rfl
@[simp] theorem State.setElem_sextant (s : State) (v : Nat) (x : Elem) : (s.setElem v x).sextant = s.sextant := rfl
@[simp] theorem State.setElem_port (s : State) (v : Nat) (x : Elem) : (s.setElem v x).port = s.port := rfl
@[simp] theorem State.setTile_mcnt (s : State) (k : Nat) (x : Tile) : (s.setTile k x).mcnt = s.mcnt := rfl
@[simp] theorem State.setTile_cur (s : State) (k : Nat) (x : Tile) : (s.setTile k x).cur = s.cur := rfl
@[simp] theorem State.setTile_arg (s : State) (k : Nat) (x : Tile) : (s.setTile k x).arg = s.arg := rfl
@[simp] theorem State.setTile_agenda (s : State) (k : Nat) (x : Tile) : (s.setTile k x).agenda = s.agenda := rfl
@[simp] theorem State.setTile_nextId (s : State) (k : Nat) (x : Tile) : (s.setTile k x).nextId = s.nextId := rfl
@[simp] theorem State.setTile_freeCtr (s : State) (k : Nat) (x : Tile) : (s.setTile k x).freeCtr = s.freeCtr := rfl
@[simp] theorem State.setTile_mem (s : State) (k : Nat) (x : Tile) : (s.setTile k x).mem = s.mem := rfl
@[simp] theorem State.setTile_poison (s : State) (k : Nat) (x : Tile) : (s.setTile k x).poison = s.poison := rfl
@[simp] theorem State.setTile_slots (s : State) (k : Nat) (x : Tile) : (s.setTile k x).slots = s.slots := rfl
@[simp] theorem State.setTile_elems (s : State) (k : Nat) (x : Tile) : (s.setTile k x).elems = s.elems := rfl
@[simp] theorem State.setTile_mes (s : State) (k : Nat) (x : Tile) : (s.setTile k x).mes = s.mes := rfl
@[simp] theorem State.setTile_sports (s : State) (k : Nat) (x : Tile) : (s.setTile k x).sports = s.sports := rfl
@[simp] theorem State.setTile_circuits (s : State) (k : Nat) (x : Tile) : (s.setTile k x).circuits = s.circuits := rfl
@[simp] theorem State.setTile_inqs (s : State) (k : Nat) (x : Tile) : (s.setTile k x).inqs = s.inqs := rfl
@[simp] theorem State.setTile_accs (s : State) (k : Nat) (x : Tile) : (s.setTile k x).accs = s.accs := rfl
@[simp] theorem State.setTile_reqs (s : State) (k : Nat) (x : Tile) : (s.setTile k x).reqs = s.reqs := rfl
@[simp] theorem State.setTile_banks (s : State) (k : Nat) (x : Tile) : (s.setTile k x).banks = s.banks := rfl
@[simp] theorem State.setTile_cmds (s : State) (k : Nat) (x : Tile) : (s.setTile k x).cmds = s.cmds := rfl
@[simp] theorem State.setTile_mnodes (s : State) (k : Nat) (x : Tile) : (s.setTile k x).mnodes = s.mnodes := rfl
@[simp] theorem State.setTile_lnodes (s : State) (k : Nat) (x : Tile) : (s.setTile k x).lnodes = s.lnodes := rfl
@[simp] theorem State.setTile_copies (s : State) (k : Nat) (x : Tile) : (s.setTile k x).copies = s.copies := rfl
@[simp] theorem State.setTile_chans (s : State) (k : Nat) (x : Tile) : (s.setTile k x).chans = s.chans := rfl
@[simp] theorem State.setTile_btes (s : State) (k : Nat) (x : Tile) : (s.setTile k x).btes = s.btes := rfl
@[simp] theorem State.setTile_tels (s : State) (k : Nat) (x : Tile) : (s.setTile k x).tels = s.tels := rfl
@[simp] theorem State.setTile_hostOut (s : State) (k : Nat) (x : Tile) : (s.setTile k x).hostOut = s.hostOut := rfl
@[simp] theorem State.setTile_fnFrozen (s : State) (k : Nat) (x : Tile) : (s.setTile k x).fnFrozen = s.fnFrozen := rfl
@[simp] theorem State.setTile_nck (s : State) (k : Nat) (x : Tile) : (s.setTile k x).nck = s.nck := rfl
@[simp] theorem State.setTile_dies (s : State) (k : Nat) (x : Tile) : (s.setTile k x).dies = s.dies := rfl
@[simp] theorem State.setTile_ctxs (s : State) (k : Nat) (x : Tile) : (s.setTile k x).ctxs = s.ctxs := rfl
@[simp] theorem State.setTile_links (s : State) (k : Nat) (x : Tile) : (s.setTile k x).links = s.links := rfl
@[simp] theorem State.setTile_packets (s : State) (k : Nat) (x : Tile) : (s.setTile k x).packets = s.packets := rfl
@[simp] theorem State.setTile_helm (s : State) (k : Nat) (x : Tile) : (s.setTile k x).helm = s.helm := rfl
@[simp] theorem State.setTile_lost (s : State) (k : Nat) (x : Tile) : (s.setTile k x).lost = s.lost := rfl
@[simp] theorem State.setTile_ports (s : State) (k : Nat) (x : Tile) : (s.setTile k x).ports = s.ports := rfl
@[simp] theorem State.setTile_remap (s : State) (k : Nat) (x : Tile) : (s.setTile k x).remap = s.remap := rfl
@[simp] theorem State.setTile_launches (s : State) (k : Nat) (x : Tile) : (s.setTile k x).launches = s.launches := rfl
@[simp] theorem State.setTile_walkers (s : State) (k : Nat) (x : Tile) : (s.setTile k x).walkers = s.walkers := rfl
@[simp] theorem State.setTile_overruns (s : State) (k : Nat) (x : Tile) : (s.setTile k x).overruns = s.overruns := rfl
@[simp] theorem State.setTile_mismatches (s : State) (k : Nat) (x : Tile) : (s.setTile k x).mismatches = s.mismatches := rfl
@[simp] theorem State.setTile_rots (s : State) (k : Nat) (x : Tile) : (s.setTile k x).rots = s.rots := rfl
@[simp] theorem State.setTile_saved (s : State) (k : Nat) (x : Tile) : (s.setTile k x).saved = s.saved := rfl
@[simp] theorem State.setTile_audits (s : State) (k : Nat) (x : Tile) : (s.setTile k x).audits = s.audits := rfl
@[simp] theorem State.setTile_auditRuns (s : State) (k : Nat) (x : Tile) : (s.setTile k x).auditRuns = s.auditRuns := rfl
@[simp] theorem State.setTile_sextant (s : State) (k : Nat) (x : Tile) : (s.setTile k x).sextant = s.sextant := rfl
@[simp] theorem State.setTile_port (s : State) (k : Nat) (x : Tile) : (s.setTile k x).port = s.port := rfl
@[simp] theorem State.setSport_mcnt (s : State) (m : Nat) (x : SPort) : (s.setSport m x).mcnt = s.mcnt := rfl
@[simp] theorem State.setSport_cur (s : State) (m : Nat) (x : SPort) : (s.setSport m x).cur = s.cur := rfl
@[simp] theorem State.setSport_arg (s : State) (m : Nat) (x : SPort) : (s.setSport m x).arg = s.arg := rfl
@[simp] theorem State.setSport_agenda (s : State) (m : Nat) (x : SPort) : (s.setSport m x).agenda = s.agenda := rfl
@[simp] theorem State.setSport_nextId (s : State) (m : Nat) (x : SPort) : (s.setSport m x).nextId = s.nextId := rfl
@[simp] theorem State.setSport_freeCtr (s : State) (m : Nat) (x : SPort) : (s.setSport m x).freeCtr = s.freeCtr := rfl
@[simp] theorem State.setSport_mem (s : State) (m : Nat) (x : SPort) : (s.setSport m x).mem = s.mem := rfl
@[simp] theorem State.setSport_poison (s : State) (m : Nat) (x : SPort) : (s.setSport m x).poison = s.poison := rfl
@[simp] theorem State.setSport_slots (s : State) (m : Nat) (x : SPort) : (s.setSport m x).slots = s.slots := rfl
@[simp] theorem State.setSport_elems (s : State) (m : Nat) (x : SPort) : (s.setSport m x).elems = s.elems := rfl
@[simp] theorem State.setSport_mes (s : State) (m : Nat) (x : SPort) : (s.setSport m x).mes = s.mes := rfl
@[simp] theorem State.setSport_circuits (s : State) (m : Nat) (x : SPort) : (s.setSport m x).circuits = s.circuits := rfl
@[simp] theorem State.setSport_inqs (s : State) (m : Nat) (x : SPort) : (s.setSport m x).inqs = s.inqs := rfl
@[simp] theorem State.setSport_accs (s : State) (m : Nat) (x : SPort) : (s.setSport m x).accs = s.accs := rfl
@[simp] theorem State.setSport_reqs (s : State) (m : Nat) (x : SPort) : (s.setSport m x).reqs = s.reqs := rfl
@[simp] theorem State.setSport_banks (s : State) (m : Nat) (x : SPort) : (s.setSport m x).banks = s.banks := rfl
@[simp] theorem State.setSport_cmds (s : State) (m : Nat) (x : SPort) : (s.setSport m x).cmds = s.cmds := rfl
@[simp] theorem State.setSport_tiles (s : State) (m : Nat) (x : SPort) : (s.setSport m x).tiles = s.tiles := rfl
@[simp] theorem State.setSport_mnodes (s : State) (m : Nat) (x : SPort) : (s.setSport m x).mnodes = s.mnodes := rfl
@[simp] theorem State.setSport_lnodes (s : State) (m : Nat) (x : SPort) : (s.setSport m x).lnodes = s.lnodes := rfl
@[simp] theorem State.setSport_copies (s : State) (m : Nat) (x : SPort) : (s.setSport m x).copies = s.copies := rfl
@[simp] theorem State.setSport_chans (s : State) (m : Nat) (x : SPort) : (s.setSport m x).chans = s.chans := rfl
@[simp] theorem State.setSport_btes (s : State) (m : Nat) (x : SPort) : (s.setSport m x).btes = s.btes := rfl
@[simp] theorem State.setSport_tels (s : State) (m : Nat) (x : SPort) : (s.setSport m x).tels = s.tels := rfl
@[simp] theorem State.setSport_hostOut (s : State) (m : Nat) (x : SPort) : (s.setSport m x).hostOut = s.hostOut := rfl
@[simp] theorem State.setSport_fnFrozen (s : State) (m : Nat) (x : SPort) : (s.setSport m x).fnFrozen = s.fnFrozen := rfl
@[simp] theorem State.setSport_nck (s : State) (m : Nat) (x : SPort) : (s.setSport m x).nck = s.nck := rfl
@[simp] theorem State.setSport_dies (s : State) (m : Nat) (x : SPort) : (s.setSport m x).dies = s.dies := rfl
@[simp] theorem State.setSport_ctxs (s : State) (m : Nat) (x : SPort) : (s.setSport m x).ctxs = s.ctxs := rfl
@[simp] theorem State.setSport_links (s : State) (m : Nat) (x : SPort) : (s.setSport m x).links = s.links := rfl
@[simp] theorem State.setSport_packets (s : State) (m : Nat) (x : SPort) : (s.setSport m x).packets = s.packets := rfl
@[simp] theorem State.setSport_helm (s : State) (m : Nat) (x : SPort) : (s.setSport m x).helm = s.helm := rfl
@[simp] theorem State.setSport_lost (s : State) (m : Nat) (x : SPort) : (s.setSport m x).lost = s.lost := rfl
@[simp] theorem State.setSport_ports (s : State) (m : Nat) (x : SPort) : (s.setSport m x).ports = s.ports := rfl
@[simp] theorem State.setSport_remap (s : State) (m : Nat) (x : SPort) : (s.setSport m x).remap = s.remap := rfl
@[simp] theorem State.setSport_launches (s : State) (m : Nat) (x : SPort) : (s.setSport m x).launches = s.launches := rfl
@[simp] theorem State.setSport_walkers (s : State) (m : Nat) (x : SPort) : (s.setSport m x).walkers = s.walkers := rfl
@[simp] theorem State.setSport_overruns (s : State) (m : Nat) (x : SPort) : (s.setSport m x).overruns = s.overruns := rfl
@[simp] theorem State.setSport_mismatches (s : State) (m : Nat) (x : SPort) : (s.setSport m x).mismatches = s.mismatches := rfl
@[simp] theorem State.setSport_rots (s : State) (m : Nat) (x : SPort) : (s.setSport m x).rots = s.rots := rfl
@[simp] theorem State.setSport_saved (s : State) (m : Nat) (x : SPort) : (s.setSport m x).saved = s.saved := rfl
@[simp] theorem State.setSport_audits (s : State) (m : Nat) (x : SPort) : (s.setSport m x).audits = s.audits := rfl
@[simp] theorem State.setSport_auditRuns (s : State) (m : Nat) (x : SPort) : (s.setSport m x).auditRuns = s.auditRuns := rfl
@[simp] theorem State.setSport_sextant (s : State) (m : Nat) (x : SPort) : (s.setSport m x).sextant = s.sextant := rfl
@[simp] theorem State.setSport_port (s : State) (m : Nat) (x : SPort) : (s.setSport m x).port = s.port := rfl
@[simp] theorem State.setNode_mcnt (s : State) (k : Nat) (x : MNode) : (s.setNode k x).mcnt = s.mcnt := rfl
@[simp] theorem State.setNode_cur (s : State) (k : Nat) (x : MNode) : (s.setNode k x).cur = s.cur := rfl
@[simp] theorem State.setNode_arg (s : State) (k : Nat) (x : MNode) : (s.setNode k x).arg = s.arg := rfl
@[simp] theorem State.setNode_agenda (s : State) (k : Nat) (x : MNode) : (s.setNode k x).agenda = s.agenda := rfl
@[simp] theorem State.setNode_nextId (s : State) (k : Nat) (x : MNode) : (s.setNode k x).nextId = s.nextId := rfl
@[simp] theorem State.setNode_freeCtr (s : State) (k : Nat) (x : MNode) : (s.setNode k x).freeCtr = s.freeCtr := rfl
@[simp] theorem State.setNode_mem (s : State) (k : Nat) (x : MNode) : (s.setNode k x).mem = s.mem := rfl
@[simp] theorem State.setNode_poison (s : State) (k : Nat) (x : MNode) : (s.setNode k x).poison = s.poison := rfl
@[simp] theorem State.setNode_slots (s : State) (k : Nat) (x : MNode) : (s.setNode k x).slots = s.slots := rfl
@[simp] theorem State.setNode_elems (s : State) (k : Nat) (x : MNode) : (s.setNode k x).elems = s.elems := rfl
@[simp] theorem State.setNode_mes (s : State) (k : Nat) (x : MNode) : (s.setNode k x).mes = s.mes := rfl
@[simp] theorem State.setNode_sports (s : State) (k : Nat) (x : MNode) : (s.setNode k x).sports = s.sports := rfl
@[simp] theorem State.setNode_circuits (s : State) (k : Nat) (x : MNode) : (s.setNode k x).circuits = s.circuits := rfl
@[simp] theorem State.setNode_inqs (s : State) (k : Nat) (x : MNode) : (s.setNode k x).inqs = s.inqs := rfl
@[simp] theorem State.setNode_accs (s : State) (k : Nat) (x : MNode) : (s.setNode k x).accs = s.accs := rfl
@[simp] theorem State.setNode_reqs (s : State) (k : Nat) (x : MNode) : (s.setNode k x).reqs = s.reqs := rfl
@[simp] theorem State.setNode_banks (s : State) (k : Nat) (x : MNode) : (s.setNode k x).banks = s.banks := rfl
@[simp] theorem State.setNode_cmds (s : State) (k : Nat) (x : MNode) : (s.setNode k x).cmds = s.cmds := rfl
@[simp] theorem State.setNode_tiles (s : State) (k : Nat) (x : MNode) : (s.setNode k x).tiles = s.tiles := rfl
@[simp] theorem State.setNode_lnodes (s : State) (k : Nat) (x : MNode) : (s.setNode k x).lnodes = s.lnodes := rfl
@[simp] theorem State.setNode_copies (s : State) (k : Nat) (x : MNode) : (s.setNode k x).copies = s.copies := rfl
@[simp] theorem State.setNode_chans (s : State) (k : Nat) (x : MNode) : (s.setNode k x).chans = s.chans := rfl
@[simp] theorem State.setNode_btes (s : State) (k : Nat) (x : MNode) : (s.setNode k x).btes = s.btes := rfl
@[simp] theorem State.setNode_tels (s : State) (k : Nat) (x : MNode) : (s.setNode k x).tels = s.tels := rfl
@[simp] theorem State.setNode_hostOut (s : State) (k : Nat) (x : MNode) : (s.setNode k x).hostOut = s.hostOut := rfl
@[simp] theorem State.setNode_fnFrozen (s : State) (k : Nat) (x : MNode) : (s.setNode k x).fnFrozen = s.fnFrozen := rfl
@[simp] theorem State.setNode_nck (s : State) (k : Nat) (x : MNode) : (s.setNode k x).nck = s.nck := rfl
@[simp] theorem State.setNode_dies (s : State) (k : Nat) (x : MNode) : (s.setNode k x).dies = s.dies := rfl
@[simp] theorem State.setNode_ctxs (s : State) (k : Nat) (x : MNode) : (s.setNode k x).ctxs = s.ctxs := rfl
@[simp] theorem State.setNode_links (s : State) (k : Nat) (x : MNode) : (s.setNode k x).links = s.links := rfl
@[simp] theorem State.setNode_packets (s : State) (k : Nat) (x : MNode) : (s.setNode k x).packets = s.packets := rfl
@[simp] theorem State.setNode_helm (s : State) (k : Nat) (x : MNode) : (s.setNode k x).helm = s.helm := rfl
@[simp] theorem State.setNode_lost (s : State) (k : Nat) (x : MNode) : (s.setNode k x).lost = s.lost := rfl
@[simp] theorem State.setNode_ports (s : State) (k : Nat) (x : MNode) : (s.setNode k x).ports = s.ports := rfl
@[simp] theorem State.setNode_remap (s : State) (k : Nat) (x : MNode) : (s.setNode k x).remap = s.remap := rfl
@[simp] theorem State.setNode_launches (s : State) (k : Nat) (x : MNode) : (s.setNode k x).launches = s.launches := rfl
@[simp] theorem State.setNode_walkers (s : State) (k : Nat) (x : MNode) : (s.setNode k x).walkers = s.walkers := rfl
@[simp] theorem State.setNode_overruns (s : State) (k : Nat) (x : MNode) : (s.setNode k x).overruns = s.overruns := rfl
@[simp] theorem State.setNode_mismatches (s : State) (k : Nat) (x : MNode) : (s.setNode k x).mismatches = s.mismatches := rfl
@[simp] theorem State.setNode_rots (s : State) (k : Nat) (x : MNode) : (s.setNode k x).rots = s.rots := rfl
@[simp] theorem State.setNode_saved (s : State) (k : Nat) (x : MNode) : (s.setNode k x).saved = s.saved := rfl
@[simp] theorem State.setNode_audits (s : State) (k : Nat) (x : MNode) : (s.setNode k x).audits = s.audits := rfl
@[simp] theorem State.setNode_auditRuns (s : State) (k : Nat) (x : MNode) : (s.setNode k x).auditRuns = s.auditRuns := rfl
@[simp] theorem State.setNode_sextant (s : State) (k : Nat) (x : MNode) : (s.setNode k x).sextant = s.sextant := rfl
@[simp] theorem State.setNode_port (s : State) (k : Nat) (x : MNode) : (s.setNode k x).port = s.port := rfl
@[simp] theorem State.setLode_mcnt (s : State) (k : Nat) (x : LNode) : (s.setLode k x).mcnt = s.mcnt := rfl
@[simp] theorem State.setLode_cur (s : State) (k : Nat) (x : LNode) : (s.setLode k x).cur = s.cur := rfl
@[simp] theorem State.setLode_arg (s : State) (k : Nat) (x : LNode) : (s.setLode k x).arg = s.arg := rfl
@[simp] theorem State.setLode_agenda (s : State) (k : Nat) (x : LNode) : (s.setLode k x).agenda = s.agenda := rfl
@[simp] theorem State.setLode_nextId (s : State) (k : Nat) (x : LNode) : (s.setLode k x).nextId = s.nextId := rfl
@[simp] theorem State.setLode_freeCtr (s : State) (k : Nat) (x : LNode) : (s.setLode k x).freeCtr = s.freeCtr := rfl
@[simp] theorem State.setLode_mem (s : State) (k : Nat) (x : LNode) : (s.setLode k x).mem = s.mem := rfl
@[simp] theorem State.setLode_poison (s : State) (k : Nat) (x : LNode) : (s.setLode k x).poison = s.poison := rfl
@[simp] theorem State.setLode_slots (s : State) (k : Nat) (x : LNode) : (s.setLode k x).slots = s.slots := rfl
@[simp] theorem State.setLode_elems (s : State) (k : Nat) (x : LNode) : (s.setLode k x).elems = s.elems := rfl
@[simp] theorem State.setLode_mes (s : State) (k : Nat) (x : LNode) : (s.setLode k x).mes = s.mes := rfl
@[simp] theorem State.setLode_sports (s : State) (k : Nat) (x : LNode) : (s.setLode k x).sports = s.sports := rfl
@[simp] theorem State.setLode_circuits (s : State) (k : Nat) (x : LNode) : (s.setLode k x).circuits = s.circuits := rfl
@[simp] theorem State.setLode_inqs (s : State) (k : Nat) (x : LNode) : (s.setLode k x).inqs = s.inqs := rfl
@[simp] theorem State.setLode_accs (s : State) (k : Nat) (x : LNode) : (s.setLode k x).accs = s.accs := rfl
@[simp] theorem State.setLode_reqs (s : State) (k : Nat) (x : LNode) : (s.setLode k x).reqs = s.reqs := rfl
@[simp] theorem State.setLode_banks (s : State) (k : Nat) (x : LNode) : (s.setLode k x).banks = s.banks := rfl
@[simp] theorem State.setLode_cmds (s : State) (k : Nat) (x : LNode) : (s.setLode k x).cmds = s.cmds := rfl
@[simp] theorem State.setLode_tiles (s : State) (k : Nat) (x : LNode) : (s.setLode k x).tiles = s.tiles := rfl
@[simp] theorem State.setLode_mnodes (s : State) (k : Nat) (x : LNode) : (s.setLode k x).mnodes = s.mnodes := rfl
@[simp] theorem State.setLode_copies (s : State) (k : Nat) (x : LNode) : (s.setLode k x).copies = s.copies := rfl
@[simp] theorem State.setLode_chans (s : State) (k : Nat) (x : LNode) : (s.setLode k x).chans = s.chans := rfl
@[simp] theorem State.setLode_btes (s : State) (k : Nat) (x : LNode) : (s.setLode k x).btes = s.btes := rfl
@[simp] theorem State.setLode_tels (s : State) (k : Nat) (x : LNode) : (s.setLode k x).tels = s.tels := rfl
@[simp] theorem State.setLode_hostOut (s : State) (k : Nat) (x : LNode) : (s.setLode k x).hostOut = s.hostOut := rfl
@[simp] theorem State.setLode_fnFrozen (s : State) (k : Nat) (x : LNode) : (s.setLode k x).fnFrozen = s.fnFrozen := rfl
@[simp] theorem State.setLode_nck (s : State) (k : Nat) (x : LNode) : (s.setLode k x).nck = s.nck := rfl
@[simp] theorem State.setLode_dies (s : State) (k : Nat) (x : LNode) : (s.setLode k x).dies = s.dies := rfl
@[simp] theorem State.setLode_ctxs (s : State) (k : Nat) (x : LNode) : (s.setLode k x).ctxs = s.ctxs := rfl
@[simp] theorem State.setLode_links (s : State) (k : Nat) (x : LNode) : (s.setLode k x).links = s.links := rfl
@[simp] theorem State.setLode_packets (s : State) (k : Nat) (x : LNode) : (s.setLode k x).packets = s.packets := rfl
@[simp] theorem State.setLode_helm (s : State) (k : Nat) (x : LNode) : (s.setLode k x).helm = s.helm := rfl
@[simp] theorem State.setLode_lost (s : State) (k : Nat) (x : LNode) : (s.setLode k x).lost = s.lost := rfl
@[simp] theorem State.setLode_ports (s : State) (k : Nat) (x : LNode) : (s.setLode k x).ports = s.ports := rfl
@[simp] theorem State.setLode_remap (s : State) (k : Nat) (x : LNode) : (s.setLode k x).remap = s.remap := rfl
@[simp] theorem State.setLode_launches (s : State) (k : Nat) (x : LNode) : (s.setLode k x).launches = s.launches := rfl
@[simp] theorem State.setLode_walkers (s : State) (k : Nat) (x : LNode) : (s.setLode k x).walkers = s.walkers := rfl
@[simp] theorem State.setLode_overruns (s : State) (k : Nat) (x : LNode) : (s.setLode k x).overruns = s.overruns := rfl
@[simp] theorem State.setLode_mismatches (s : State) (k : Nat) (x : LNode) : (s.setLode k x).mismatches = s.mismatches := rfl
@[simp] theorem State.setLode_rots (s : State) (k : Nat) (x : LNode) : (s.setLode k x).rots = s.rots := rfl
@[simp] theorem State.setLode_saved (s : State) (k : Nat) (x : LNode) : (s.setLode k x).saved = s.saved := rfl
@[simp] theorem State.setLode_audits (s : State) (k : Nat) (x : LNode) : (s.setLode k x).audits = s.audits := rfl
@[simp] theorem State.setLode_auditRuns (s : State) (k : Nat) (x : LNode) : (s.setLode k x).auditRuns = s.auditRuns := rfl
@[simp] theorem State.setLode_sextant (s : State) (k : Nat) (x : LNode) : (s.setLode k x).sextant = s.sextant := rfl
@[simp] theorem State.setLode_port (s : State) (k : Nat) (x : LNode) : (s.setLode k x).port = s.port := rfl
@[simp] theorem State.modChan_mcnt (s : State) (k c : Nat) (f : Chan → Chan) : (s.modChan k c f).mcnt = s.mcnt := rfl
@[simp] theorem State.modChan_cur (s : State) (k c : Nat) (f : Chan → Chan) : (s.modChan k c f).cur = s.cur := rfl
@[simp] theorem State.modChan_arg (s : State) (k c : Nat) (f : Chan → Chan) : (s.modChan k c f).arg = s.arg := rfl
@[simp] theorem State.modChan_agenda (s : State) (k c : Nat) (f : Chan → Chan) : (s.modChan k c f).agenda = s.agenda := rfl
@[simp] theorem State.modChan_nextId (s : State) (k c : Nat) (f : Chan → Chan) : (s.modChan k c f).nextId = s.nextId := rfl
@[simp] theorem State.modChan_freeCtr (s : State) (k c : Nat) (f : Chan → Chan) : (s.modChan k c f).freeCtr = s.freeCtr := rfl
@[simp] theorem State.modChan_mem (s : State) (k c : Nat) (f : Chan → Chan) : (s.modChan k c f).mem = s.mem := rfl
@[simp] theorem State.modChan_poison (s : State) (k c : Nat) (f : Chan → Chan) : (s.modChan k c f).poison = s.poison := rfl
@[simp] theorem State.modChan_slots (s : State) (k c : Nat) (f : Chan → Chan) : (s.modChan k c f).slots = s.slots := rfl
@[simp] theorem State.modChan_elems (s : State) (k c : Nat) (f : Chan → Chan) : (s.modChan k c f).elems = s.elems := rfl
@[simp] theorem State.modChan_mes (s : State) (k c : Nat) (f : Chan → Chan) : (s.modChan k c f).mes = s.mes := rfl
@[simp] theorem State.modChan_sports (s : State) (k c : Nat) (f : Chan → Chan) : (s.modChan k c f).sports = s.sports := rfl
@[simp] theorem State.modChan_circuits (s : State) (k c : Nat) (f : Chan → Chan) : (s.modChan k c f).circuits = s.circuits := rfl
@[simp] theorem State.modChan_inqs (s : State) (k c : Nat) (f : Chan → Chan) : (s.modChan k c f).inqs = s.inqs := rfl
@[simp] theorem State.modChan_accs (s : State) (k c : Nat) (f : Chan → Chan) : (s.modChan k c f).accs = s.accs := rfl
@[simp] theorem State.modChan_reqs (s : State) (k c : Nat) (f : Chan → Chan) : (s.modChan k c f).reqs = s.reqs := rfl
@[simp] theorem State.modChan_banks (s : State) (k c : Nat) (f : Chan → Chan) : (s.modChan k c f).banks = s.banks := rfl
@[simp] theorem State.modChan_cmds (s : State) (k c : Nat) (f : Chan → Chan) : (s.modChan k c f).cmds = s.cmds := rfl
@[simp] theorem State.modChan_tiles (s : State) (k c : Nat) (f : Chan → Chan) : (s.modChan k c f).tiles = s.tiles := rfl
@[simp] theorem State.modChan_mnodes (s : State) (k c : Nat) (f : Chan → Chan) : (s.modChan k c f).mnodes = s.mnodes := rfl
@[simp] theorem State.modChan_lnodes (s : State) (k c : Nat) (f : Chan → Chan) : (s.modChan k c f).lnodes = s.lnodes := rfl
@[simp] theorem State.modChan_copies (s : State) (k c : Nat) (f : Chan → Chan) : (s.modChan k c f).copies = s.copies := rfl
@[simp] theorem State.modChan_btes (s : State) (k c : Nat) (f : Chan → Chan) : (s.modChan k c f).btes = s.btes := rfl
@[simp] theorem State.modChan_tels (s : State) (k c : Nat) (f : Chan → Chan) : (s.modChan k c f).tels = s.tels := rfl
@[simp] theorem State.modChan_hostOut (s : State) (k c : Nat) (f : Chan → Chan) : (s.modChan k c f).hostOut = s.hostOut := rfl
@[simp] theorem State.modChan_fnFrozen (s : State) (k c : Nat) (f : Chan → Chan) : (s.modChan k c f).fnFrozen = s.fnFrozen := rfl
@[simp] theorem State.modChan_nck (s : State) (k c : Nat) (f : Chan → Chan) : (s.modChan k c f).nck = s.nck := rfl
@[simp] theorem State.modChan_dies (s : State) (k c : Nat) (f : Chan → Chan) : (s.modChan k c f).dies = s.dies := rfl
@[simp] theorem State.modChan_ctxs (s : State) (k c : Nat) (f : Chan → Chan) : (s.modChan k c f).ctxs = s.ctxs := rfl
@[simp] theorem State.modChan_links (s : State) (k c : Nat) (f : Chan → Chan) : (s.modChan k c f).links = s.links := rfl
@[simp] theorem State.modChan_packets (s : State) (k c : Nat) (f : Chan → Chan) : (s.modChan k c f).packets = s.packets := rfl
@[simp] theorem State.modChan_helm (s : State) (k c : Nat) (f : Chan → Chan) : (s.modChan k c f).helm = s.helm := rfl
@[simp] theorem State.modChan_lost (s : State) (k c : Nat) (f : Chan → Chan) : (s.modChan k c f).lost = s.lost := rfl
@[simp] theorem State.modChan_ports (s : State) (k c : Nat) (f : Chan → Chan) : (s.modChan k c f).ports = s.ports := rfl
@[simp] theorem State.modChan_remap (s : State) (k c : Nat) (f : Chan → Chan) : (s.modChan k c f).remap = s.remap := rfl
@[simp] theorem State.modChan_launches (s : State) (k c : Nat) (f : Chan → Chan) : (s.modChan k c f).launches = s.launches := rfl
@[simp] theorem State.modChan_walkers (s : State) (k c : Nat) (f : Chan → Chan) : (s.modChan k c f).walkers = s.walkers := rfl
@[simp] theorem State.modChan_overruns (s : State) (k c : Nat) (f : Chan → Chan) : (s.modChan k c f).overruns = s.overruns := rfl
@[simp] theorem State.modChan_mismatches (s : State) (k c : Nat) (f : Chan → Chan) : (s.modChan k c f).mismatches = s.mismatches := rfl
@[simp] theorem State.modChan_rots (s : State) (k c : Nat) (f : Chan → Chan) : (s.modChan k c f).rots = s.rots := rfl
@[simp] theorem State.modChan_saved (s : State) (k c : Nat) (f : Chan → Chan) : (s.modChan k c f).saved = s.saved := rfl
@[simp] theorem State.modChan_audits (s : State) (k c : Nat) (f : Chan → Chan) : (s.modChan k c f).audits = s.audits := rfl
@[simp] theorem State.modChan_auditRuns (s : State) (k c : Nat) (f : Chan → Chan) : (s.modChan k c f).auditRuns = s.auditRuns := rfl
@[simp] theorem State.modChan_sextant (s : State) (k c : Nat) (f : Chan → Chan) : (s.modChan k c f).sextant = s.sextant := rfl
@[simp] theorem State.modChan_port (s : State) (k c : Nat) (f : Chan → Chan) : (s.modChan k c f).port = s.port := rfl
@[simp] theorem State.modBte_mcnt (s : State) (k : Nat) (f : Bte → Bte) : (s.modBte k f).mcnt = s.mcnt := rfl
@[simp] theorem State.modBte_cur (s : State) (k : Nat) (f : Bte → Bte) : (s.modBte k f).cur = s.cur := rfl
@[simp] theorem State.modBte_arg (s : State) (k : Nat) (f : Bte → Bte) : (s.modBte k f).arg = s.arg := rfl
@[simp] theorem State.modBte_agenda (s : State) (k : Nat) (f : Bte → Bte) : (s.modBte k f).agenda = s.agenda := rfl
@[simp] theorem State.modBte_nextId (s : State) (k : Nat) (f : Bte → Bte) : (s.modBte k f).nextId = s.nextId := rfl
@[simp] theorem State.modBte_freeCtr (s : State) (k : Nat) (f : Bte → Bte) : (s.modBte k f).freeCtr = s.freeCtr := rfl
@[simp] theorem State.modBte_mem (s : State) (k : Nat) (f : Bte → Bte) : (s.modBte k f).mem = s.mem := rfl
@[simp] theorem State.modBte_poison (s : State) (k : Nat) (f : Bte → Bte) : (s.modBte k f).poison = s.poison := rfl
@[simp] theorem State.modBte_slots (s : State) (k : Nat) (f : Bte → Bte) : (s.modBte k f).slots = s.slots := rfl
@[simp] theorem State.modBte_elems (s : State) (k : Nat) (f : Bte → Bte) : (s.modBte k f).elems = s.elems := rfl
@[simp] theorem State.modBte_mes (s : State) (k : Nat) (f : Bte → Bte) : (s.modBte k f).mes = s.mes := rfl
@[simp] theorem State.modBte_sports (s : State) (k : Nat) (f : Bte → Bte) : (s.modBte k f).sports = s.sports := rfl
@[simp] theorem State.modBte_circuits (s : State) (k : Nat) (f : Bte → Bte) : (s.modBte k f).circuits = s.circuits := rfl
@[simp] theorem State.modBte_inqs (s : State) (k : Nat) (f : Bte → Bte) : (s.modBte k f).inqs = s.inqs := rfl
@[simp] theorem State.modBte_accs (s : State) (k : Nat) (f : Bte → Bte) : (s.modBte k f).accs = s.accs := rfl
@[simp] theorem State.modBte_reqs (s : State) (k : Nat) (f : Bte → Bte) : (s.modBte k f).reqs = s.reqs := rfl
@[simp] theorem State.modBte_banks (s : State) (k : Nat) (f : Bte → Bte) : (s.modBte k f).banks = s.banks := rfl
@[simp] theorem State.modBte_cmds (s : State) (k : Nat) (f : Bte → Bte) : (s.modBte k f).cmds = s.cmds := rfl
@[simp] theorem State.modBte_tiles (s : State) (k : Nat) (f : Bte → Bte) : (s.modBte k f).tiles = s.tiles := rfl
@[simp] theorem State.modBte_mnodes (s : State) (k : Nat) (f : Bte → Bte) : (s.modBte k f).mnodes = s.mnodes := rfl
@[simp] theorem State.modBte_lnodes (s : State) (k : Nat) (f : Bte → Bte) : (s.modBte k f).lnodes = s.lnodes := rfl
@[simp] theorem State.modBte_copies (s : State) (k : Nat) (f : Bte → Bte) : (s.modBte k f).copies = s.copies := rfl
@[simp] theorem State.modBte_chans (s : State) (k : Nat) (f : Bte → Bte) : (s.modBte k f).chans = s.chans := rfl
@[simp] theorem State.modBte_tels (s : State) (k : Nat) (f : Bte → Bte) : (s.modBte k f).tels = s.tels := rfl
@[simp] theorem State.modBte_hostOut (s : State) (k : Nat) (f : Bte → Bte) : (s.modBte k f).hostOut = s.hostOut := rfl
@[simp] theorem State.modBte_fnFrozen (s : State) (k : Nat) (f : Bte → Bte) : (s.modBte k f).fnFrozen = s.fnFrozen := rfl
@[simp] theorem State.modBte_nck (s : State) (k : Nat) (f : Bte → Bte) : (s.modBte k f).nck = s.nck := rfl
@[simp] theorem State.modBte_dies (s : State) (k : Nat) (f : Bte → Bte) : (s.modBte k f).dies = s.dies := rfl
@[simp] theorem State.modBte_ctxs (s : State) (k : Nat) (f : Bte → Bte) : (s.modBte k f).ctxs = s.ctxs := rfl
@[simp] theorem State.modBte_links (s : State) (k : Nat) (f : Bte → Bte) : (s.modBte k f).links = s.links := rfl
@[simp] theorem State.modBte_packets (s : State) (k : Nat) (f : Bte → Bte) : (s.modBte k f).packets = s.packets := rfl
@[simp] theorem State.modBte_helm (s : State) (k : Nat) (f : Bte → Bte) : (s.modBte k f).helm = s.helm := rfl
@[simp] theorem State.modBte_lost (s : State) (k : Nat) (f : Bte → Bte) : (s.modBte k f).lost = s.lost := rfl
@[simp] theorem State.modBte_ports (s : State) (k : Nat) (f : Bte → Bte) : (s.modBte k f).ports = s.ports := rfl
@[simp] theorem State.modBte_remap (s : State) (k : Nat) (f : Bte → Bte) : (s.modBte k f).remap = s.remap := rfl
@[simp] theorem State.modBte_launches (s : State) (k : Nat) (f : Bte → Bte) : (s.modBte k f).launches = s.launches := rfl
@[simp] theorem State.modBte_walkers (s : State) (k : Nat) (f : Bte → Bte) : (s.modBte k f).walkers = s.walkers := rfl
@[simp] theorem State.modBte_overruns (s : State) (k : Nat) (f : Bte → Bte) : (s.modBte k f).overruns = s.overruns := rfl
@[simp] theorem State.modBte_mismatches (s : State) (k : Nat) (f : Bte → Bte) : (s.modBte k f).mismatches = s.mismatches := rfl
@[simp] theorem State.modBte_rots (s : State) (k : Nat) (f : Bte → Bte) : (s.modBte k f).rots = s.rots := rfl
@[simp] theorem State.modBte_saved (s : State) (k : Nat) (f : Bte → Bte) : (s.modBte k f).saved = s.saved := rfl
@[simp] theorem State.modBte_audits (s : State) (k : Nat) (f : Bte → Bte) : (s.modBte k f).audits = s.audits := rfl
@[simp] theorem State.modBte_auditRuns (s : State) (k : Nat) (f : Bte → Bte) : (s.modBte k f).auditRuns = s.auditRuns := rfl
@[simp] theorem State.modBte_sextant (s : State) (k : Nat) (f : Bte → Bte) : (s.modBte k f).sextant = s.sextant := rfl
@[simp] theorem State.modBte_port (s : State) (k : Nat) (f : Bte → Bte) : (s.modBte k f).port = s.port := rfl
@[simp] theorem State.setTel_mcnt (s : State) (l : Nat) (x : Tel) : (s.setTel l x).mcnt = s.mcnt := rfl
@[simp] theorem State.setTel_cur (s : State) (l : Nat) (x : Tel) : (s.setTel l x).cur = s.cur := rfl
@[simp] theorem State.setTel_arg (s : State) (l : Nat) (x : Tel) : (s.setTel l x).arg = s.arg := rfl
@[simp] theorem State.setTel_agenda (s : State) (l : Nat) (x : Tel) : (s.setTel l x).agenda = s.agenda := rfl
@[simp] theorem State.setTel_nextId (s : State) (l : Nat) (x : Tel) : (s.setTel l x).nextId = s.nextId := rfl
@[simp] theorem State.setTel_freeCtr (s : State) (l : Nat) (x : Tel) : (s.setTel l x).freeCtr = s.freeCtr := rfl
@[simp] theorem State.setTel_mem (s : State) (l : Nat) (x : Tel) : (s.setTel l x).mem = s.mem := rfl
@[simp] theorem State.setTel_poison (s : State) (l : Nat) (x : Tel) : (s.setTel l x).poison = s.poison := rfl
@[simp] theorem State.setTel_slots (s : State) (l : Nat) (x : Tel) : (s.setTel l x).slots = s.slots := rfl
@[simp] theorem State.setTel_elems (s : State) (l : Nat) (x : Tel) : (s.setTel l x).elems = s.elems := rfl
@[simp] theorem State.setTel_mes (s : State) (l : Nat) (x : Tel) : (s.setTel l x).mes = s.mes := rfl
@[simp] theorem State.setTel_sports (s : State) (l : Nat) (x : Tel) : (s.setTel l x).sports = s.sports := rfl
@[simp] theorem State.setTel_circuits (s : State) (l : Nat) (x : Tel) : (s.setTel l x).circuits = s.circuits := rfl
@[simp] theorem State.setTel_inqs (s : State) (l : Nat) (x : Tel) : (s.setTel l x).inqs = s.inqs := rfl
@[simp] theorem State.setTel_accs (s : State) (l : Nat) (x : Tel) : (s.setTel l x).accs = s.accs := rfl
@[simp] theorem State.setTel_reqs (s : State) (l : Nat) (x : Tel) : (s.setTel l x).reqs = s.reqs := rfl
@[simp] theorem State.setTel_banks (s : State) (l : Nat) (x : Tel) : (s.setTel l x).banks = s.banks := rfl
@[simp] theorem State.setTel_cmds (s : State) (l : Nat) (x : Tel) : (s.setTel l x).cmds = s.cmds := rfl
@[simp] theorem State.setTel_tiles (s : State) (l : Nat) (x : Tel) : (s.setTel l x).tiles = s.tiles := rfl
@[simp] theorem State.setTel_mnodes (s : State) (l : Nat) (x : Tel) : (s.setTel l x).mnodes = s.mnodes := rfl
@[simp] theorem State.setTel_lnodes (s : State) (l : Nat) (x : Tel) : (s.setTel l x).lnodes = s.lnodes := rfl
@[simp] theorem State.setTel_copies (s : State) (l : Nat) (x : Tel) : (s.setTel l x).copies = s.copies := rfl
@[simp] theorem State.setTel_chans (s : State) (l : Nat) (x : Tel) : (s.setTel l x).chans = s.chans := rfl
@[simp] theorem State.setTel_btes (s : State) (l : Nat) (x : Tel) : (s.setTel l x).btes = s.btes := rfl
@[simp] theorem State.setTel_hostOut (s : State) (l : Nat) (x : Tel) : (s.setTel l x).hostOut = s.hostOut := rfl
@[simp] theorem State.setTel_fnFrozen (s : State) (l : Nat) (x : Tel) : (s.setTel l x).fnFrozen = s.fnFrozen := rfl
@[simp] theorem State.setTel_nck (s : State) (l : Nat) (x : Tel) : (s.setTel l x).nck = s.nck := rfl
@[simp] theorem State.setTel_dies (s : State) (l : Nat) (x : Tel) : (s.setTel l x).dies = s.dies := rfl
@[simp] theorem State.setTel_ctxs (s : State) (l : Nat) (x : Tel) : (s.setTel l x).ctxs = s.ctxs := rfl
@[simp] theorem State.setTel_links (s : State) (l : Nat) (x : Tel) : (s.setTel l x).links = s.links := rfl
@[simp] theorem State.setTel_packets (s : State) (l : Nat) (x : Tel) : (s.setTel l x).packets = s.packets := rfl
@[simp] theorem State.setTel_helm (s : State) (l : Nat) (x : Tel) : (s.setTel l x).helm = s.helm := rfl
@[simp] theorem State.setTel_lost (s : State) (l : Nat) (x : Tel) : (s.setTel l x).lost = s.lost := rfl
@[simp] theorem State.setTel_ports (s : State) (l : Nat) (x : Tel) : (s.setTel l x).ports = s.ports := rfl
@[simp] theorem State.setTel_remap (s : State) (l : Nat) (x : Tel) : (s.setTel l x).remap = s.remap := rfl
@[simp] theorem State.setTel_launches (s : State) (l : Nat) (x : Tel) : (s.setTel l x).launches = s.launches := rfl
@[simp] theorem State.setTel_walkers (s : State) (l : Nat) (x : Tel) : (s.setTel l x).walkers = s.walkers := rfl
@[simp] theorem State.setTel_overruns (s : State) (l : Nat) (x : Tel) : (s.setTel l x).overruns = s.overruns := rfl
@[simp] theorem State.setTel_mismatches (s : State) (l : Nat) (x : Tel) : (s.setTel l x).mismatches = s.mismatches := rfl
@[simp] theorem State.setTel_rots (s : State) (l : Nat) (x : Tel) : (s.setTel l x).rots = s.rots := rfl
@[simp] theorem State.setTel_saved (s : State) (l : Nat) (x : Tel) : (s.setTel l x).saved = s.saved := rfl
@[simp] theorem State.setTel_audits (s : State) (l : Nat) (x : Tel) : (s.setTel l x).audits = s.audits := rfl
@[simp] theorem State.setTel_auditRuns (s : State) (l : Nat) (x : Tel) : (s.setTel l x).auditRuns = s.auditRuns := rfl
@[simp] theorem State.setTel_sextant (s : State) (l : Nat) (x : Tel) : (s.setTel l x).sextant = s.sextant := rfl
@[simp] theorem State.setTel_port (s : State) (l : Nat) (x : Tel) : (s.setTel l x).port = s.port := rfl
@[simp] theorem State.setDie_mcnt (s : State) (d : Nat) (x : Die) : (s.setDie d x).mcnt = s.mcnt := rfl
@[simp] theorem State.setDie_cur (s : State) (d : Nat) (x : Die) : (s.setDie d x).cur = s.cur := rfl
@[simp] theorem State.setDie_arg (s : State) (d : Nat) (x : Die) : (s.setDie d x).arg = s.arg := rfl
@[simp] theorem State.setDie_agenda (s : State) (d : Nat) (x : Die) : (s.setDie d x).agenda = s.agenda := rfl
@[simp] theorem State.setDie_nextId (s : State) (d : Nat) (x : Die) : (s.setDie d x).nextId = s.nextId := rfl
@[simp] theorem State.setDie_freeCtr (s : State) (d : Nat) (x : Die) : (s.setDie d x).freeCtr = s.freeCtr := rfl
@[simp] theorem State.setDie_mem (s : State) (d : Nat) (x : Die) : (s.setDie d x).mem = s.mem := rfl
@[simp] theorem State.setDie_poison (s : State) (d : Nat) (x : Die) : (s.setDie d x).poison = s.poison := rfl
@[simp] theorem State.setDie_slots (s : State) (d : Nat) (x : Die) : (s.setDie d x).slots = s.slots := rfl
@[simp] theorem State.setDie_elems (s : State) (d : Nat) (x : Die) : (s.setDie d x).elems = s.elems := rfl
@[simp] theorem State.setDie_mes (s : State) (d : Nat) (x : Die) : (s.setDie d x).mes = s.mes := rfl
@[simp] theorem State.setDie_sports (s : State) (d : Nat) (x : Die) : (s.setDie d x).sports = s.sports := rfl
@[simp] theorem State.setDie_circuits (s : State) (d : Nat) (x : Die) : (s.setDie d x).circuits = s.circuits := rfl
@[simp] theorem State.setDie_inqs (s : State) (d : Nat) (x : Die) : (s.setDie d x).inqs = s.inqs := rfl
@[simp] theorem State.setDie_accs (s : State) (d : Nat) (x : Die) : (s.setDie d x).accs = s.accs := rfl
@[simp] theorem State.setDie_reqs (s : State) (d : Nat) (x : Die) : (s.setDie d x).reqs = s.reqs := rfl
@[simp] theorem State.setDie_banks (s : State) (d : Nat) (x : Die) : (s.setDie d x).banks = s.banks := rfl
@[simp] theorem State.setDie_cmds (s : State) (d : Nat) (x : Die) : (s.setDie d x).cmds = s.cmds := rfl
@[simp] theorem State.setDie_tiles (s : State) (d : Nat) (x : Die) : (s.setDie d x).tiles = s.tiles := rfl
@[simp] theorem State.setDie_mnodes (s : State) (d : Nat) (x : Die) : (s.setDie d x).mnodes = s.mnodes := rfl
@[simp] theorem State.setDie_lnodes (s : State) (d : Nat) (x : Die) : (s.setDie d x).lnodes = s.lnodes := rfl
@[simp] theorem State.setDie_copies (s : State) (d : Nat) (x : Die) : (s.setDie d x).copies = s.copies := rfl
@[simp] theorem State.setDie_chans (s : State) (d : Nat) (x : Die) : (s.setDie d x).chans = s.chans := rfl
@[simp] theorem State.setDie_btes (s : State) (d : Nat) (x : Die) : (s.setDie d x).btes = s.btes := rfl
@[simp] theorem State.setDie_tels (s : State) (d : Nat) (x : Die) : (s.setDie d x).tels = s.tels := rfl
@[simp] theorem State.setDie_hostOut (s : State) (d : Nat) (x : Die) : (s.setDie d x).hostOut = s.hostOut := rfl
@[simp] theorem State.setDie_fnFrozen (s : State) (d : Nat) (x : Die) : (s.setDie d x).fnFrozen = s.fnFrozen := rfl
@[simp] theorem State.setDie_nck (s : State) (d : Nat) (x : Die) : (s.setDie d x).nck = s.nck := rfl
@[simp] theorem State.setDie_ctxs (s : State) (d : Nat) (x : Die) : (s.setDie d x).ctxs = s.ctxs := rfl
@[simp] theorem State.setDie_links (s : State) (d : Nat) (x : Die) : (s.setDie d x).links = s.links := rfl
@[simp] theorem State.setDie_packets (s : State) (d : Nat) (x : Die) : (s.setDie d x).packets = s.packets := rfl
@[simp] theorem State.setDie_helm (s : State) (d : Nat) (x : Die) : (s.setDie d x).helm = s.helm := rfl
@[simp] theorem State.setDie_lost (s : State) (d : Nat) (x : Die) : (s.setDie d x).lost = s.lost := rfl
@[simp] theorem State.setDie_ports (s : State) (d : Nat) (x : Die) : (s.setDie d x).ports = s.ports := rfl
@[simp] theorem State.setDie_remap (s : State) (d : Nat) (x : Die) : (s.setDie d x).remap = s.remap := rfl
@[simp] theorem State.setDie_launches (s : State) (d : Nat) (x : Die) : (s.setDie d x).launches = s.launches := rfl
@[simp] theorem State.setDie_walkers (s : State) (d : Nat) (x : Die) : (s.setDie d x).walkers = s.walkers := rfl
@[simp] theorem State.setDie_overruns (s : State) (d : Nat) (x : Die) : (s.setDie d x).overruns = s.overruns := rfl
@[simp] theorem State.setDie_mismatches (s : State) (d : Nat) (x : Die) : (s.setDie d x).mismatches = s.mismatches := rfl
@[simp] theorem State.setDie_rots (s : State) (d : Nat) (x : Die) : (s.setDie d x).rots = s.rots := rfl
@[simp] theorem State.setDie_saved (s : State) (d : Nat) (x : Die) : (s.setDie d x).saved = s.saved := rfl
@[simp] theorem State.setDie_audits (s : State) (d : Nat) (x : Die) : (s.setDie d x).audits = s.audits := rfl
@[simp] theorem State.setDie_auditRuns (s : State) (d : Nat) (x : Die) : (s.setDie d x).auditRuns = s.auditRuns := rfl
@[simp] theorem State.setDie_sextant (s : State) (d : Nat) (x : Die) : (s.setDie d x).sextant = s.sextant := rfl
@[simp] theorem State.setDie_port (s : State) (d : Nat) (x : Die) : (s.setDie d x).port = s.port := rfl
@[simp] theorem State.setCtx_mcnt (s : State) (c : Nat) (x : Ctx) : (s.setCtx c x).mcnt = s.mcnt := rfl
@[simp] theorem State.setCtx_cur (s : State) (c : Nat) (x : Ctx) : (s.setCtx c x).cur = s.cur := rfl
@[simp] theorem State.setCtx_arg (s : State) (c : Nat) (x : Ctx) : (s.setCtx c x).arg = s.arg := rfl
@[simp] theorem State.setCtx_agenda (s : State) (c : Nat) (x : Ctx) : (s.setCtx c x).agenda = s.agenda := rfl
@[simp] theorem State.setCtx_nextId (s : State) (c : Nat) (x : Ctx) : (s.setCtx c x).nextId = s.nextId := rfl
@[simp] theorem State.setCtx_freeCtr (s : State) (c : Nat) (x : Ctx) : (s.setCtx c x).freeCtr = s.freeCtr := rfl
@[simp] theorem State.setCtx_mem (s : State) (c : Nat) (x : Ctx) : (s.setCtx c x).mem = s.mem := rfl
@[simp] theorem State.setCtx_poison (s : State) (c : Nat) (x : Ctx) : (s.setCtx c x).poison = s.poison := rfl
@[simp] theorem State.setCtx_slots (s : State) (c : Nat) (x : Ctx) : (s.setCtx c x).slots = s.slots := rfl
@[simp] theorem State.setCtx_elems (s : State) (c : Nat) (x : Ctx) : (s.setCtx c x).elems = s.elems := rfl
@[simp] theorem State.setCtx_mes (s : State) (c : Nat) (x : Ctx) : (s.setCtx c x).mes = s.mes := rfl
@[simp] theorem State.setCtx_sports (s : State) (c : Nat) (x : Ctx) : (s.setCtx c x).sports = s.sports := rfl
@[simp] theorem State.setCtx_circuits (s : State) (c : Nat) (x : Ctx) : (s.setCtx c x).circuits = s.circuits := rfl
@[simp] theorem State.setCtx_inqs (s : State) (c : Nat) (x : Ctx) : (s.setCtx c x).inqs = s.inqs := rfl
@[simp] theorem State.setCtx_accs (s : State) (c : Nat) (x : Ctx) : (s.setCtx c x).accs = s.accs := rfl
@[simp] theorem State.setCtx_reqs (s : State) (c : Nat) (x : Ctx) : (s.setCtx c x).reqs = s.reqs := rfl
@[simp] theorem State.setCtx_banks (s : State) (c : Nat) (x : Ctx) : (s.setCtx c x).banks = s.banks := rfl
@[simp] theorem State.setCtx_cmds (s : State) (c : Nat) (x : Ctx) : (s.setCtx c x).cmds = s.cmds := rfl
@[simp] theorem State.setCtx_tiles (s : State) (c : Nat) (x : Ctx) : (s.setCtx c x).tiles = s.tiles := rfl
@[simp] theorem State.setCtx_mnodes (s : State) (c : Nat) (x : Ctx) : (s.setCtx c x).mnodes = s.mnodes := rfl
@[simp] theorem State.setCtx_lnodes (s : State) (c : Nat) (x : Ctx) : (s.setCtx c x).lnodes = s.lnodes := rfl
@[simp] theorem State.setCtx_copies (s : State) (c : Nat) (x : Ctx) : (s.setCtx c x).copies = s.copies := rfl
@[simp] theorem State.setCtx_chans (s : State) (c : Nat) (x : Ctx) : (s.setCtx c x).chans = s.chans := rfl
@[simp] theorem State.setCtx_btes (s : State) (c : Nat) (x : Ctx) : (s.setCtx c x).btes = s.btes := rfl
@[simp] theorem State.setCtx_tels (s : State) (c : Nat) (x : Ctx) : (s.setCtx c x).tels = s.tels := rfl
@[simp] theorem State.setCtx_hostOut (s : State) (c : Nat) (x : Ctx) : (s.setCtx c x).hostOut = s.hostOut := rfl
@[simp] theorem State.setCtx_fnFrozen (s : State) (c : Nat) (x : Ctx) : (s.setCtx c x).fnFrozen = s.fnFrozen := rfl
@[simp] theorem State.setCtx_nck (s : State) (c : Nat) (x : Ctx) : (s.setCtx c x).nck = s.nck := rfl
@[simp] theorem State.setCtx_dies (s : State) (c : Nat) (x : Ctx) : (s.setCtx c x).dies = s.dies := rfl
@[simp] theorem State.setCtx_links (s : State) (c : Nat) (x : Ctx) : (s.setCtx c x).links = s.links := rfl
@[simp] theorem State.setCtx_packets (s : State) (c : Nat) (x : Ctx) : (s.setCtx c x).packets = s.packets := rfl
@[simp] theorem State.setCtx_helm (s : State) (c : Nat) (x : Ctx) : (s.setCtx c x).helm = s.helm := rfl
@[simp] theorem State.setCtx_lost (s : State) (c : Nat) (x : Ctx) : (s.setCtx c x).lost = s.lost := rfl
@[simp] theorem State.setCtx_ports (s : State) (c : Nat) (x : Ctx) : (s.setCtx c x).ports = s.ports := rfl
@[simp] theorem State.setCtx_remap (s : State) (c : Nat) (x : Ctx) : (s.setCtx c x).remap = s.remap := rfl
@[simp] theorem State.setCtx_launches (s : State) (c : Nat) (x : Ctx) : (s.setCtx c x).launches = s.launches := rfl
@[simp] theorem State.setCtx_walkers (s : State) (c : Nat) (x : Ctx) : (s.setCtx c x).walkers = s.walkers := rfl
@[simp] theorem State.setCtx_overruns (s : State) (c : Nat) (x : Ctx) : (s.setCtx c x).overruns = s.overruns := rfl
@[simp] theorem State.setCtx_mismatches (s : State) (c : Nat) (x : Ctx) : (s.setCtx c x).mismatches = s.mismatches := rfl
@[simp] theorem State.setCtx_rots (s : State) (c : Nat) (x : Ctx) : (s.setCtx c x).rots = s.rots := rfl
@[simp] theorem State.setCtx_saved (s : State) (c : Nat) (x : Ctx) : (s.setCtx c x).saved = s.saved := rfl
@[simp] theorem State.setCtx_audits (s : State) (c : Nat) (x : Ctx) : (s.setCtx c x).audits = s.audits := rfl
@[simp] theorem State.setCtx_auditRuns (s : State) (c : Nat) (x : Ctx) : (s.setCtx c x).auditRuns = s.auditRuns := rfl
@[simp] theorem State.setCtx_sextant (s : State) (c : Nat) (x : Ctx) : (s.setCtx c x).sextant = s.sextant := rfl
@[simp] theorem State.setCtx_port (s : State) (c : Nat) (x : Ctx) : (s.setCtx c x).port = s.port := rfl
@[simp] theorem State.setInq_mcnt (s : State) (q : Nat) (x : InQueue) : (s.setInq q x).mcnt = s.mcnt := rfl
@[simp] theorem State.setInq_cur (s : State) (q : Nat) (x : InQueue) : (s.setInq q x).cur = s.cur := rfl
@[simp] theorem State.setInq_arg (s : State) (q : Nat) (x : InQueue) : (s.setInq q x).arg = s.arg := rfl
@[simp] theorem State.setInq_agenda (s : State) (q : Nat) (x : InQueue) : (s.setInq q x).agenda = s.agenda := rfl
@[simp] theorem State.setInq_nextId (s : State) (q : Nat) (x : InQueue) : (s.setInq q x).nextId = s.nextId := rfl
@[simp] theorem State.setInq_freeCtr (s : State) (q : Nat) (x : InQueue) : (s.setInq q x).freeCtr = s.freeCtr := rfl
@[simp] theorem State.setInq_mem (s : State) (q : Nat) (x : InQueue) : (s.setInq q x).mem = s.mem := rfl
@[simp] theorem State.setInq_poison (s : State) (q : Nat) (x : InQueue) : (s.setInq q x).poison = s.poison := rfl
@[simp] theorem State.setInq_slots (s : State) (q : Nat) (x : InQueue) : (s.setInq q x).slots = s.slots := rfl
@[simp] theorem State.setInq_elems (s : State) (q : Nat) (x : InQueue) : (s.setInq q x).elems = s.elems := rfl
@[simp] theorem State.setInq_mes (s : State) (q : Nat) (x : InQueue) : (s.setInq q x).mes = s.mes := rfl
@[simp] theorem State.setInq_sports (s : State) (q : Nat) (x : InQueue) : (s.setInq q x).sports = s.sports := rfl
@[simp] theorem State.setInq_circuits (s : State) (q : Nat) (x : InQueue) : (s.setInq q x).circuits = s.circuits := rfl
@[simp] theorem State.setInq_accs (s : State) (q : Nat) (x : InQueue) : (s.setInq q x).accs = s.accs := rfl
@[simp] theorem State.setInq_reqs (s : State) (q : Nat) (x : InQueue) : (s.setInq q x).reqs = s.reqs := rfl
@[simp] theorem State.setInq_banks (s : State) (q : Nat) (x : InQueue) : (s.setInq q x).banks = s.banks := rfl
@[simp] theorem State.setInq_cmds (s : State) (q : Nat) (x : InQueue) : (s.setInq q x).cmds = s.cmds := rfl
@[simp] theorem State.setInq_tiles (s : State) (q : Nat) (x : InQueue) : (s.setInq q x).tiles = s.tiles := rfl
@[simp] theorem State.setInq_mnodes (s : State) (q : Nat) (x : InQueue) : (s.setInq q x).mnodes = s.mnodes := rfl
@[simp] theorem State.setInq_lnodes (s : State) (q : Nat) (x : InQueue) : (s.setInq q x).lnodes = s.lnodes := rfl
@[simp] theorem State.setInq_copies (s : State) (q : Nat) (x : InQueue) : (s.setInq q x).copies = s.copies := rfl
@[simp] theorem State.setInq_chans (s : State) (q : Nat) (x : InQueue) : (s.setInq q x).chans = s.chans := rfl
@[simp] theorem State.setInq_btes (s : State) (q : Nat) (x : InQueue) : (s.setInq q x).btes = s.btes := rfl
@[simp] theorem State.setInq_tels (s : State) (q : Nat) (x : InQueue) : (s.setInq q x).tels = s.tels := rfl
@[simp] theorem State.setInq_hostOut (s : State) (q : Nat) (x : InQueue) : (s.setInq q x).hostOut = s.hostOut := rfl
@[simp] theorem State.setInq_fnFrozen (s : State) (q : Nat) (x : InQueue) : (s.setInq q x).fnFrozen = s.fnFrozen := rfl
@[simp] theorem State.setInq_nck (s : State) (q : Nat) (x : InQueue) : (s.setInq q x).nck = s.nck := rfl
@[simp] theorem State.setInq_dies (s : State) (q : Nat) (x : InQueue) : (s.setInq q x).dies = s.dies := rfl
@[simp] theorem State.setInq_ctxs (s : State) (q : Nat) (x : InQueue) : (s.setInq q x).ctxs = s.ctxs := rfl
@[simp] theorem State.setInq_links (s : State) (q : Nat) (x : InQueue) : (s.setInq q x).links = s.links := rfl
@[simp] theorem State.setInq_packets (s : State) (q : Nat) (x : InQueue) : (s.setInq q x).packets = s.packets := rfl
@[simp] theorem State.setInq_helm (s : State) (q : Nat) (x : InQueue) : (s.setInq q x).helm = s.helm := rfl
@[simp] theorem State.setInq_lost (s : State) (q : Nat) (x : InQueue) : (s.setInq q x).lost = s.lost := rfl
@[simp] theorem State.setInq_ports (s : State) (q : Nat) (x : InQueue) : (s.setInq q x).ports = s.ports := rfl
@[simp] theorem State.setInq_remap (s : State) (q : Nat) (x : InQueue) : (s.setInq q x).remap = s.remap := rfl
@[simp] theorem State.setInq_launches (s : State) (q : Nat) (x : InQueue) : (s.setInq q x).launches = s.launches := rfl
@[simp] theorem State.setInq_walkers (s : State) (q : Nat) (x : InQueue) : (s.setInq q x).walkers = s.walkers := rfl
@[simp] theorem State.setInq_overruns (s : State) (q : Nat) (x : InQueue) : (s.setInq q x).overruns = s.overruns := rfl
@[simp] theorem State.setInq_mismatches (s : State) (q : Nat) (x : InQueue) : (s.setInq q x).mismatches = s.mismatches := rfl
@[simp] theorem State.setInq_rots (s : State) (q : Nat) (x : InQueue) : (s.setInq q x).rots = s.rots := rfl
@[simp] theorem State.setInq_saved (s : State) (q : Nat) (x : InQueue) : (s.setInq q x).saved = s.saved := rfl
@[simp] theorem State.setInq_audits (s : State) (q : Nat) (x : InQueue) : (s.setInq q x).audits = s.audits := rfl
@[simp] theorem State.setInq_auditRuns (s : State) (q : Nat) (x : InQueue) : (s.setInq q x).auditRuns = s.auditRuns := rfl
@[simp] theorem State.setInq_sextant (s : State) (q : Nat) (x : InQueue) : (s.setInq q x).sextant = s.sextant := rfl
@[simp] theorem State.setInq_port (s : State) (q : Nat) (x : InQueue) : (s.setInq q x).port = s.port := rfl
@[simp] theorem State.modLink_mcnt (s : State) (l : Nat) (f : Link → Link) : (s.modLink l f).mcnt = s.mcnt := rfl
@[simp] theorem State.modLink_cur (s : State) (l : Nat) (f : Link → Link) : (s.modLink l f).cur = s.cur := rfl
@[simp] theorem State.modLink_arg (s : State) (l : Nat) (f : Link → Link) : (s.modLink l f).arg = s.arg := rfl
@[simp] theorem State.modLink_agenda (s : State) (l : Nat) (f : Link → Link) : (s.modLink l f).agenda = s.agenda := rfl
@[simp] theorem State.modLink_nextId (s : State) (l : Nat) (f : Link → Link) : (s.modLink l f).nextId = s.nextId := rfl
@[simp] theorem State.modLink_freeCtr (s : State) (l : Nat) (f : Link → Link) : (s.modLink l f).freeCtr = s.freeCtr := rfl
@[simp] theorem State.modLink_mem (s : State) (l : Nat) (f : Link → Link) : (s.modLink l f).mem = s.mem := rfl
@[simp] theorem State.modLink_poison (s : State) (l : Nat) (f : Link → Link) : (s.modLink l f).poison = s.poison := rfl
@[simp] theorem State.modLink_slots (s : State) (l : Nat) (f : Link → Link) : (s.modLink l f).slots = s.slots := rfl
@[simp] theorem State.modLink_elems (s : State) (l : Nat) (f : Link → Link) : (s.modLink l f).elems = s.elems := rfl
@[simp] theorem State.modLink_mes (s : State) (l : Nat) (f : Link → Link) : (s.modLink l f).mes = s.mes := rfl
@[simp] theorem State.modLink_sports (s : State) (l : Nat) (f : Link → Link) : (s.modLink l f).sports = s.sports := rfl
@[simp] theorem State.modLink_circuits (s : State) (l : Nat) (f : Link → Link) : (s.modLink l f).circuits = s.circuits := rfl
@[simp] theorem State.modLink_inqs (s : State) (l : Nat) (f : Link → Link) : (s.modLink l f).inqs = s.inqs := rfl
@[simp] theorem State.modLink_accs (s : State) (l : Nat) (f : Link → Link) : (s.modLink l f).accs = s.accs := rfl
@[simp] theorem State.modLink_reqs (s : State) (l : Nat) (f : Link → Link) : (s.modLink l f).reqs = s.reqs := rfl
@[simp] theorem State.modLink_banks (s : State) (l : Nat) (f : Link → Link) : (s.modLink l f).banks = s.banks := rfl
@[simp] theorem State.modLink_cmds (s : State) (l : Nat) (f : Link → Link) : (s.modLink l f).cmds = s.cmds := rfl
@[simp] theorem State.modLink_tiles (s : State) (l : Nat) (f : Link → Link) : (s.modLink l f).tiles = s.tiles := rfl
@[simp] theorem State.modLink_mnodes (s : State) (l : Nat) (f : Link → Link) : (s.modLink l f).mnodes = s.mnodes := rfl
@[simp] theorem State.modLink_lnodes (s : State) (l : Nat) (f : Link → Link) : (s.modLink l f).lnodes = s.lnodes := rfl
@[simp] theorem State.modLink_copies (s : State) (l : Nat) (f : Link → Link) : (s.modLink l f).copies = s.copies := rfl
@[simp] theorem State.modLink_chans (s : State) (l : Nat) (f : Link → Link) : (s.modLink l f).chans = s.chans := rfl
@[simp] theorem State.modLink_btes (s : State) (l : Nat) (f : Link → Link) : (s.modLink l f).btes = s.btes := rfl
@[simp] theorem State.modLink_tels (s : State) (l : Nat) (f : Link → Link) : (s.modLink l f).tels = s.tels := rfl
@[simp] theorem State.modLink_hostOut (s : State) (l : Nat) (f : Link → Link) : (s.modLink l f).hostOut = s.hostOut := rfl
@[simp] theorem State.modLink_fnFrozen (s : State) (l : Nat) (f : Link → Link) : (s.modLink l f).fnFrozen = s.fnFrozen := rfl
@[simp] theorem State.modLink_nck (s : State) (l : Nat) (f : Link → Link) : (s.modLink l f).nck = s.nck := rfl
@[simp] theorem State.modLink_dies (s : State) (l : Nat) (f : Link → Link) : (s.modLink l f).dies = s.dies := rfl
@[simp] theorem State.modLink_ctxs (s : State) (l : Nat) (f : Link → Link) : (s.modLink l f).ctxs = s.ctxs := rfl
@[simp] theorem State.modLink_packets (s : State) (l : Nat) (f : Link → Link) : (s.modLink l f).packets = s.packets := rfl
@[simp] theorem State.modLink_helm (s : State) (l : Nat) (f : Link → Link) : (s.modLink l f).helm = s.helm := rfl
@[simp] theorem State.modLink_lost (s : State) (l : Nat) (f : Link → Link) : (s.modLink l f).lost = s.lost := rfl
@[simp] theorem State.modLink_ports (s : State) (l : Nat) (f : Link → Link) : (s.modLink l f).ports = s.ports := rfl
@[simp] theorem State.modLink_remap (s : State) (l : Nat) (f : Link → Link) : (s.modLink l f).remap = s.remap := rfl
@[simp] theorem State.modLink_launches (s : State) (l : Nat) (f : Link → Link) : (s.modLink l f).launches = s.launches := rfl
@[simp] theorem State.modLink_walkers (s : State) (l : Nat) (f : Link → Link) : (s.modLink l f).walkers = s.walkers := rfl
@[simp] theorem State.modLink_overruns (s : State) (l : Nat) (f : Link → Link) : (s.modLink l f).overruns = s.overruns := rfl
@[simp] theorem State.modLink_mismatches (s : State) (l : Nat) (f : Link → Link) : (s.modLink l f).mismatches = s.mismatches := rfl
@[simp] theorem State.modLink_rots (s : State) (l : Nat) (f : Link → Link) : (s.modLink l f).rots = s.rots := rfl
@[simp] theorem State.modLink_saved (s : State) (l : Nat) (f : Link → Link) : (s.modLink l f).saved = s.saved := rfl
@[simp] theorem State.modLink_audits (s : State) (l : Nat) (f : Link → Link) : (s.modLink l f).audits = s.audits := rfl
@[simp] theorem State.modLink_auditRuns (s : State) (l : Nat) (f : Link → Link) : (s.modLink l f).auditRuns = s.auditRuns := rfl
@[simp] theorem State.modLink_sextant (s : State) (l : Nat) (f : Link → Link) : (s.modLink l f).sextant = s.sextant := rfl
@[simp] theorem State.modLink_port (s : State) (l : Nat) (f : Link → Link) : (s.modLink l f).port = s.port := rfl
@[simp] theorem State.plan_mcnt (s : State) (c r : Nat) (a : Act) : (s.plan c r a).mcnt = s.mcnt := rfl
@[simp] theorem State.plan_cur (s : State) (c r : Nat) (a : Act) : (s.plan c r a).cur = s.cur := rfl
@[simp] theorem State.plan_arg (s : State) (c r : Nat) (a : Act) : (s.plan c r a).arg = s.arg := rfl
@[simp] theorem State.plan_nextId (s : State) (c r : Nat) (a : Act) : (s.plan c r a).nextId = s.nextId := rfl
@[simp] theorem State.plan_freeCtr (s : State) (c r : Nat) (a : Act) : (s.plan c r a).freeCtr = s.freeCtr := rfl
@[simp] theorem State.plan_mem (s : State) (c r : Nat) (a : Act) : (s.plan c r a).mem = s.mem := rfl
@[simp] theorem State.plan_poison (s : State) (c r : Nat) (a : Act) : (s.plan c r a).poison = s.poison := rfl
@[simp] theorem State.plan_slots (s : State) (c r : Nat) (a : Act) : (s.plan c r a).slots = s.slots := rfl
@[simp] theorem State.plan_elems (s : State) (c r : Nat) (a : Act) : (s.plan c r a).elems = s.elems := rfl
@[simp] theorem State.plan_mes (s : State) (c r : Nat) (a : Act) : (s.plan c r a).mes = s.mes := rfl
@[simp] theorem State.plan_sports (s : State) (c r : Nat) (a : Act) : (s.plan c r a).sports = s.sports := rfl
@[simp] theorem State.plan_circuits (s : State) (c r : Nat) (a : Act) : (s.plan c r a).circuits = s.circuits := rfl
@[simp] theorem State.plan_inqs (s : State) (c r : Nat) (a : Act) : (s.plan c r a).inqs = s.inqs := rfl
@[simp] theorem State.plan_accs (s : State) (c r : Nat) (a : Act) : (s.plan c r a).accs = s.accs := rfl
@[simp] theorem State.plan_reqs (s : State) (c r : Nat) (a : Act) : (s.plan c r a).reqs = s.reqs := rfl
@[simp] theorem State.plan_banks (s : State) (c r : Nat) (a : Act) : (s.plan c r a).banks = s.banks := rfl
@[simp] theorem State.plan_cmds (s : State) (c r : Nat) (a : Act) : (s.plan c r a).cmds = s.cmds := rfl
@[simp] theorem State.plan_tiles (s : State) (c r : Nat) (a : Act) : (s.plan c r a).tiles = s.tiles := rfl
@[simp] theorem State.plan_mnodes (s : State) (c r : Nat) (a : Act) : (s.plan c r a).mnodes = s.mnodes := rfl
@[simp] theorem State.plan_lnodes (s : State) (c r : Nat) (a : Act) : (s.plan c r a).lnodes = s.lnodes := rfl
@[simp] theorem State.plan_copies (s : State) (c r : Nat) (a : Act) : (s.plan c r a).copies = s.copies := rfl
@[simp] theorem State.plan_chans (s : State) (c r : Nat) (a : Act) : (s.plan c r a).chans = s.chans := rfl
@[simp] theorem State.plan_btes (s : State) (c r : Nat) (a : Act) : (s.plan c r a).btes = s.btes := rfl
@[simp] theorem State.plan_tels (s : State) (c r : Nat) (a : Act) : (s.plan c r a).tels = s.tels := rfl
@[simp] theorem State.plan_hostOut (s : State) (c r : Nat) (a : Act) : (s.plan c r a).hostOut = s.hostOut := rfl
@[simp] theorem State.plan_fnFrozen (s : State) (c r : Nat) (a : Act) : (s.plan c r a).fnFrozen = s.fnFrozen := rfl
@[simp] theorem State.plan_nck (s : State) (c r : Nat) (a : Act) : (s.plan c r a).nck = s.nck := rfl
@[simp] theorem State.plan_dies (s : State) (c r : Nat) (a : Act) : (s.plan c r a).dies = s.dies := rfl
@[simp] theorem State.plan_ctxs (s : State) (c r : Nat) (a : Act) : (s.plan c r a).ctxs = s.ctxs := rfl
@[simp] theorem State.plan_links (s : State) (c r : Nat) (a : Act) : (s.plan c r a).links = s.links := rfl
@[simp] theorem State.plan_packets (s : State) (c r : Nat) (a : Act) : (s.plan c r a).packets = s.packets := rfl
@[simp] theorem State.plan_helm (s : State) (c r : Nat) (a : Act) : (s.plan c r a).helm = s.helm := rfl
@[simp] theorem State.plan_lost (s : State) (c r : Nat) (a : Act) : (s.plan c r a).lost = s.lost := rfl
@[simp] theorem State.plan_ports (s : State) (c r : Nat) (a : Act) : (s.plan c r a).ports = s.ports := rfl
@[simp] theorem State.plan_remap (s : State) (c r : Nat) (a : Act) : (s.plan c r a).remap = s.remap := rfl
@[simp] theorem State.plan_launches (s : State) (c r : Nat) (a : Act) : (s.plan c r a).launches = s.launches := rfl
@[simp] theorem State.plan_walkers (s : State) (c r : Nat) (a : Act) : (s.plan c r a).walkers = s.walkers := rfl
@[simp] theorem State.plan_overruns (s : State) (c r : Nat) (a : Act) : (s.plan c r a).overruns = s.overruns := rfl
@[simp] theorem State.plan_mismatches (s : State) (c r : Nat) (a : Act) : (s.plan c r a).mismatches = s.mismatches := rfl
@[simp] theorem State.plan_rots (s : State) (c r : Nat) (a : Act) : (s.plan c r a).rots = s.rots := rfl
@[simp] theorem State.plan_saved (s : State) (c r : Nat) (a : Act) : (s.plan c r a).saved = s.saved := rfl
@[simp] theorem State.plan_audits (s : State) (c r : Nat) (a : Act) : (s.plan c r a).audits = s.audits := rfl
@[simp] theorem State.plan_auditRuns (s : State) (c r : Nat) (a : Act) : (s.plan c r a).auditRuns = s.auditRuns := rfl
@[simp] theorem State.plan_sextant (s : State) (c r : Nat) (a : Act) : (s.plan c r a).sextant = s.sextant := rfl
@[simp] theorem State.plan_port (s : State) (c r : Nat) (a : Act) : (s.plan c r a).port = s.port := rfl
@[simp] theorem State.unplan_mcnt (s : State) (p : Act → Bool) : (s.unplan p).mcnt = s.mcnt := rfl
@[simp] theorem State.unplan_cur (s : State) (p : Act → Bool) : (s.unplan p).cur = s.cur := rfl
@[simp] theorem State.unplan_arg (s : State) (p : Act → Bool) : (s.unplan p).arg = s.arg := rfl
@[simp] theorem State.unplan_nextId (s : State) (p : Act → Bool) : (s.unplan p).nextId = s.nextId := rfl
@[simp] theorem State.unplan_freeCtr (s : State) (p : Act → Bool) : (s.unplan p).freeCtr = s.freeCtr := rfl
@[simp] theorem State.unplan_mem (s : State) (p : Act → Bool) : (s.unplan p).mem = s.mem := rfl
@[simp] theorem State.unplan_poison (s : State) (p : Act → Bool) : (s.unplan p).poison = s.poison := rfl
@[simp] theorem State.unplan_slots (s : State) (p : Act → Bool) : (s.unplan p).slots = s.slots := rfl
@[simp] theorem State.unplan_elems (s : State) (p : Act → Bool) : (s.unplan p).elems = s.elems := rfl
@[simp] theorem State.unplan_mes (s : State) (p : Act → Bool) : (s.unplan p).mes = s.mes := rfl
@[simp] theorem State.unplan_sports (s : State) (p : Act → Bool) : (s.unplan p).sports = s.sports := rfl
@[simp] theorem State.unplan_circuits (s : State) (p : Act → Bool) : (s.unplan p).circuits = s.circuits := rfl
@[simp] theorem State.unplan_inqs (s : State) (p : Act → Bool) : (s.unplan p).inqs = s.inqs := rfl
@[simp] theorem State.unplan_accs (s : State) (p : Act → Bool) : (s.unplan p).accs = s.accs := rfl
@[simp] theorem State.unplan_reqs (s : State) (p : Act → Bool) : (s.unplan p).reqs = s.reqs := rfl
@[simp] theorem State.unplan_banks (s : State) (p : Act → Bool) : (s.unplan p).banks = s.banks := rfl
@[simp] theorem State.unplan_cmds (s : State) (p : Act → Bool) : (s.unplan p).cmds = s.cmds := rfl
@[simp] theorem State.unplan_tiles (s : State) (p : Act → Bool) : (s.unplan p).tiles = s.tiles := rfl
@[simp] theorem State.unplan_mnodes (s : State) (p : Act → Bool) : (s.unplan p).mnodes = s.mnodes := rfl
@[simp] theorem State.unplan_lnodes (s : State) (p : Act → Bool) : (s.unplan p).lnodes = s.lnodes := rfl
@[simp] theorem State.unplan_copies (s : State) (p : Act → Bool) : (s.unplan p).copies = s.copies := rfl
@[simp] theorem State.unplan_chans (s : State) (p : Act → Bool) : (s.unplan p).chans = s.chans := rfl
@[simp] theorem State.unplan_btes (s : State) (p : Act → Bool) : (s.unplan p).btes = s.btes := rfl
@[simp] theorem State.unplan_tels (s : State) (p : Act → Bool) : (s.unplan p).tels = s.tels := rfl
@[simp] theorem State.unplan_hostOut (s : State) (p : Act → Bool) : (s.unplan p).hostOut = s.hostOut := rfl
@[simp] theorem State.unplan_fnFrozen (s : State) (p : Act → Bool) : (s.unplan p).fnFrozen = s.fnFrozen := rfl
@[simp] theorem State.unplan_nck (s : State) (p : Act → Bool) : (s.unplan p).nck = s.nck := rfl
@[simp] theorem State.unplan_dies (s : State) (p : Act → Bool) : (s.unplan p).dies = s.dies := rfl
@[simp] theorem State.unplan_ctxs (s : State) (p : Act → Bool) : (s.unplan p).ctxs = s.ctxs := rfl
@[simp] theorem State.unplan_links (s : State) (p : Act → Bool) : (s.unplan p).links = s.links := rfl
@[simp] theorem State.unplan_packets (s : State) (p : Act → Bool) : (s.unplan p).packets = s.packets := rfl
@[simp] theorem State.unplan_helm (s : State) (p : Act → Bool) : (s.unplan p).helm = s.helm := rfl
@[simp] theorem State.unplan_lost (s : State) (p : Act → Bool) : (s.unplan p).lost = s.lost := rfl
@[simp] theorem State.unplan_ports (s : State) (p : Act → Bool) : (s.unplan p).ports = s.ports := rfl
@[simp] theorem State.unplan_remap (s : State) (p : Act → Bool) : (s.unplan p).remap = s.remap := rfl
@[simp] theorem State.unplan_launches (s : State) (p : Act → Bool) : (s.unplan p).launches = s.launches := rfl
@[simp] theorem State.unplan_walkers (s : State) (p : Act → Bool) : (s.unplan p).walkers = s.walkers := rfl
@[simp] theorem State.unplan_overruns (s : State) (p : Act → Bool) : (s.unplan p).overruns = s.overruns := rfl
@[simp] theorem State.unplan_mismatches (s : State) (p : Act → Bool) : (s.unplan p).mismatches = s.mismatches := rfl
@[simp] theorem State.unplan_rots (s : State) (p : Act → Bool) : (s.unplan p).rots = s.rots := rfl
@[simp] theorem State.unplan_saved (s : State) (p : Act → Bool) : (s.unplan p).saved = s.saved := rfl
@[simp] theorem State.unplan_audits (s : State) (p : Act → Bool) : (s.unplan p).audits = s.audits := rfl
@[simp] theorem State.unplan_auditRuns (s : State) (p : Act → Bool) : (s.unplan p).auditRuns = s.auditRuns := rfl
@[simp] theorem State.unplan_sextant (s : State) (p : Act → Bool) : (s.unplan p).sextant = s.sextant := rfl
@[simp] theorem State.unplan_port (s : State) (p : Act → Bool) : (s.unplan p).port = s.port := rfl
@[simp] theorem State.planResult_mcnt (s : State) (n q c : Nat) (i : Instr) (a : Arg) : (s.planResult n q c i a).mcnt = s.mcnt := rfl
@[simp] theorem State.planResult_cur (s : State) (n q c : Nat) (i : Instr) (a : Arg) : (s.planResult n q c i a).cur = s.cur := rfl
@[simp] theorem State.planResult_arg (s : State) (n q c : Nat) (i : Instr) (a : Arg) : (s.planResult n q c i a).arg = s.arg := rfl
@[simp] theorem State.planResult_nextId (s : State) (n q c : Nat) (i : Instr) (a : Arg) : (s.planResult n q c i a).nextId = s.nextId := rfl
@[simp] theorem State.planResult_freeCtr (s : State) (n q c : Nat) (i : Instr) (a : Arg) : (s.planResult n q c i a).freeCtr = s.freeCtr := rfl
@[simp] theorem State.planResult_mem (s : State) (n q c : Nat) (i : Instr) (a : Arg) : (s.planResult n q c i a).mem = s.mem := rfl
@[simp] theorem State.planResult_poison (s : State) (n q c : Nat) (i : Instr) (a : Arg) : (s.planResult n q c i a).poison = s.poison := rfl
@[simp] theorem State.planResult_slots (s : State) (n q c : Nat) (i : Instr) (a : Arg) : (s.planResult n q c i a).slots = s.slots := rfl
@[simp] theorem State.planResult_elems (s : State) (n q c : Nat) (i : Instr) (a : Arg) : (s.planResult n q c i a).elems = s.elems := rfl
@[simp] theorem State.planResult_mes (s : State) (n q c : Nat) (i : Instr) (a : Arg) : (s.planResult n q c i a).mes = s.mes := rfl
@[simp] theorem State.planResult_sports (s : State) (n q c : Nat) (i : Instr) (a : Arg) : (s.planResult n q c i a).sports = s.sports := rfl
@[simp] theorem State.planResult_circuits (s : State) (n q c : Nat) (i : Instr) (a : Arg) : (s.planResult n q c i a).circuits = s.circuits := rfl
@[simp] theorem State.planResult_inqs (s : State) (n q c : Nat) (i : Instr) (a : Arg) : (s.planResult n q c i a).inqs = s.inqs := rfl
@[simp] theorem State.planResult_accs (s : State) (n q c : Nat) (i : Instr) (a : Arg) : (s.planResult n q c i a).accs = s.accs := rfl
@[simp] theorem State.planResult_reqs (s : State) (n q c : Nat) (i : Instr) (a : Arg) : (s.planResult n q c i a).reqs = s.reqs := rfl
@[simp] theorem State.planResult_banks (s : State) (n q c : Nat) (i : Instr) (a : Arg) : (s.planResult n q c i a).banks = s.banks := rfl
@[simp] theorem State.planResult_cmds (s : State) (n q c : Nat) (i : Instr) (a : Arg) : (s.planResult n q c i a).cmds = s.cmds := rfl
@[simp] theorem State.planResult_tiles (s : State) (n q c : Nat) (i : Instr) (a : Arg) : (s.planResult n q c i a).tiles = s.tiles := rfl
@[simp] theorem State.planResult_mnodes (s : State) (n q c : Nat) (i : Instr) (a : Arg) : (s.planResult n q c i a).mnodes = s.mnodes := rfl
@[simp] theorem State.planResult_lnodes (s : State) (n q c : Nat) (i : Instr) (a : Arg) : (s.planResult n q c i a).lnodes = s.lnodes := rfl
@[simp] theorem State.planResult_copies (s : State) (n q c : Nat) (i : Instr) (a : Arg) : (s.planResult n q c i a).copies = s.copies := rfl
@[simp] theorem State.planResult_chans (s : State) (n q c : Nat) (i : Instr) (a : Arg) : (s.planResult n q c i a).chans = s.chans := rfl
@[simp] theorem State.planResult_btes (s : State) (n q c : Nat) (i : Instr) (a : Arg) : (s.planResult n q c i a).btes = s.btes := rfl
@[simp] theorem State.planResult_tels (s : State) (n q c : Nat) (i : Instr) (a : Arg) : (s.planResult n q c i a).tels = s.tels := rfl
@[simp] theorem State.planResult_hostOut (s : State) (n q c : Nat) (i : Instr) (a : Arg) : (s.planResult n q c i a).hostOut = s.hostOut := rfl
@[simp] theorem State.planResult_fnFrozen (s : State) (n q c : Nat) (i : Instr) (a : Arg) : (s.planResult n q c i a).fnFrozen = s.fnFrozen := rfl
@[simp] theorem State.planResult_nck (s : State) (n q c : Nat) (i : Instr) (a : Arg) : (s.planResult n q c i a).nck = s.nck := rfl
@[simp] theorem State.planResult_dies (s : State) (n q c : Nat) (i : Instr) (a : Arg) : (s.planResult n q c i a).dies = s.dies := rfl
@[simp] theorem State.planResult_ctxs (s : State) (n q c : Nat) (i : Instr) (a : Arg) : (s.planResult n q c i a).ctxs = s.ctxs := rfl
@[simp] theorem State.planResult_links (s : State) (n q c : Nat) (i : Instr) (a : Arg) : (s.planResult n q c i a).links = s.links := rfl
@[simp] theorem State.planResult_packets (s : State) (n q c : Nat) (i : Instr) (a : Arg) : (s.planResult n q c i a).packets = s.packets := rfl
@[simp] theorem State.planResult_helm (s : State) (n q c : Nat) (i : Instr) (a : Arg) : (s.planResult n q c i a).helm = s.helm := rfl
@[simp] theorem State.planResult_lost (s : State) (n q c : Nat) (i : Instr) (a : Arg) : (s.planResult n q c i a).lost = s.lost := rfl
@[simp] theorem State.planResult_ports (s : State) (n q c : Nat) (i : Instr) (a : Arg) : (s.planResult n q c i a).ports = s.ports := rfl
@[simp] theorem State.planResult_remap (s : State) (n q c : Nat) (i : Instr) (a : Arg) : (s.planResult n q c i a).remap = s.remap := rfl
@[simp] theorem State.planResult_launches (s : State) (n q c : Nat) (i : Instr) (a : Arg) : (s.planResult n q c i a).launches = s.launches := rfl
@[simp] theorem State.planResult_walkers (s : State) (n q c : Nat) (i : Instr) (a : Arg) : (s.planResult n q c i a).walkers = s.walkers := rfl
@[simp] theorem State.planResult_overruns (s : State) (n q c : Nat) (i : Instr) (a : Arg) : (s.planResult n q c i a).overruns = s.overruns := rfl
@[simp] theorem State.planResult_mismatches (s : State) (n q c : Nat) (i : Instr) (a : Arg) : (s.planResult n q c i a).mismatches = s.mismatches := rfl
@[simp] theorem State.planResult_rots (s : State) (n q c : Nat) (i : Instr) (a : Arg) : (s.planResult n q c i a).rots = s.rots := rfl
@[simp] theorem State.planResult_saved (s : State) (n q c : Nat) (i : Instr) (a : Arg) : (s.planResult n q c i a).saved = s.saved := rfl
@[simp] theorem State.planResult_audits (s : State) (n q c : Nat) (i : Instr) (a : Arg) : (s.planResult n q c i a).audits = s.audits := rfl
@[simp] theorem State.planResult_auditRuns (s : State) (n q c : Nat) (i : Instr) (a : Arg) : (s.planResult n q c i a).auditRuns = s.auditRuns := rfl
@[simp] theorem State.planResult_sextant (s : State) (n q c : Nat) (i : Instr) (a : Arg) : (s.planResult n q c i a).sextant = s.sextant := rfl
@[simp] theorem State.planResult_port (s : State) (n q c : Nat) (i : Instr) (a : Arg) : (s.planResult n q c i a).port = s.port := rfl

/-! ## Parts read back after an update -/

@[simp] theorem State.setSlot_slot (s : State) (n : Nat) (x : Slot) (j : Nat) : (s.setSlot n x).slot j = if j = n then x else s.slot j := by
  simp [State.setSlot, State.slot]
@[simp] theorem State.setSlot_elem (s : State) (n : Nat) (x : Slot) (j : Nat) : (s.setSlot n x).elem j = s.elem j := rfl
@[simp] theorem State.setSlot_tile (s : State) (n : Nat) (x : Slot) (j : Nat) : (s.setSlot n x).tile j = s.tile j := rfl
@[simp] theorem State.setSlot_sport (s : State) (n : Nat) (x : Slot) (j : Nat) : (s.setSlot n x).sport j = s.sport j := rfl
@[simp] theorem State.setSlot_mnode (s : State) (n : Nat) (x : Slot) (j : Nat) : (s.setSlot n x).mnode j = s.mnode j := rfl
@[simp] theorem State.setSlot_lnode (s : State) (n : Nat) (x : Slot) (j : Nat) : (s.setSlot n x).lnode j = s.lnode j := rfl
@[simp] theorem State.setSlot_tel (s : State) (n : Nat) (x : Slot) (j : Nat) : (s.setSlot n x).tel j = s.tel j := rfl
@[simp] theorem State.setSlot_die (s : State) (n : Nat) (x : Slot) (j : Nat) : (s.setSlot n x).die j = s.die j := rfl
@[simp] theorem State.setSlot_ctx (s : State) (n : Nat) (x : Slot) (j : Nat) : (s.setSlot n x).ctx j = s.ctx j := rfl
@[simp] theorem State.setSlot_inq (s : State) (n : Nat) (x : Slot) (j : Nat) : (s.setSlot n x).inq j = s.inq j := rfl
@[simp] theorem State.setSlot_link (s : State) (n : Nat) (x : Slot) (j : Nat) : (s.setSlot n x).link j = s.link j := rfl
@[simp] theorem State.setSlot_bte (s : State) (n : Nat) (x : Slot) (j : Nat) : (s.setSlot n x).bte j = s.bte j := rfl
@[simp] theorem State.setElem_slot (s : State) (v : Nat) (x : Elem) (j : Nat) : (s.setElem v x).slot j = s.slot j := rfl
@[simp] theorem State.setElem_elem (s : State) (v : Nat) (x : Elem) (j : Nat) : (s.setElem v x).elem j = if j = v then x else s.elem j := by
  simp [State.setElem, State.elem]
@[simp] theorem State.setElem_tile (s : State) (v : Nat) (x : Elem) (j : Nat) : (s.setElem v x).tile j = s.tile j := rfl
@[simp] theorem State.setElem_sport (s : State) (v : Nat) (x : Elem) (j : Nat) : (s.setElem v x).sport j = s.sport j := rfl
@[simp] theorem State.setElem_mnode (s : State) (v : Nat) (x : Elem) (j : Nat) : (s.setElem v x).mnode j = s.mnode j := rfl
@[simp] theorem State.setElem_lnode (s : State) (v : Nat) (x : Elem) (j : Nat) : (s.setElem v x).lnode j = s.lnode j := rfl
@[simp] theorem State.setElem_tel (s : State) (v : Nat) (x : Elem) (j : Nat) : (s.setElem v x).tel j = s.tel j := rfl
@[simp] theorem State.setElem_die (s : State) (v : Nat) (x : Elem) (j : Nat) : (s.setElem v x).die j = s.die j := rfl
@[simp] theorem State.setElem_ctx (s : State) (v : Nat) (x : Elem) (j : Nat) : (s.setElem v x).ctx j = s.ctx j := rfl
@[simp] theorem State.setElem_inq (s : State) (v : Nat) (x : Elem) (j : Nat) : (s.setElem v x).inq j = s.inq j := rfl
@[simp] theorem State.setElem_link (s : State) (v : Nat) (x : Elem) (j : Nat) : (s.setElem v x).link j = s.link j := rfl
@[simp] theorem State.setElem_bte (s : State) (v : Nat) (x : Elem) (j : Nat) : (s.setElem v x).bte j = s.bte j := rfl
@[simp] theorem State.setTile_slot (s : State) (k : Nat) (x : Tile) (j : Nat) : (s.setTile k x).slot j = s.slot j := rfl
@[simp] theorem State.setTile_elem (s : State) (k : Nat) (x : Tile) (j : Nat) : (s.setTile k x).elem j = s.elem j := rfl
@[simp] theorem State.setTile_tile (s : State) (k : Nat) (x : Tile) (j : Nat) : (s.setTile k x).tile j = if j = k then x else s.tile j := by
  simp [State.setTile, State.tile]
@[simp] theorem State.setTile_sport (s : State) (k : Nat) (x : Tile) (j : Nat) : (s.setTile k x).sport j = s.sport j := rfl
@[simp] theorem State.setTile_mnode (s : State) (k : Nat) (x : Tile) (j : Nat) : (s.setTile k x).mnode j = s.mnode j := rfl
@[simp] theorem State.setTile_lnode (s : State) (k : Nat) (x : Tile) (j : Nat) : (s.setTile k x).lnode j = s.lnode j := rfl
@[simp] theorem State.setTile_tel (s : State) (k : Nat) (x : Tile) (j : Nat) : (s.setTile k x).tel j = s.tel j := rfl
@[simp] theorem State.setTile_die (s : State) (k : Nat) (x : Tile) (j : Nat) : (s.setTile k x).die j = s.die j := rfl
@[simp] theorem State.setTile_ctx (s : State) (k : Nat) (x : Tile) (j : Nat) : (s.setTile k x).ctx j = s.ctx j := rfl
@[simp] theorem State.setTile_inq (s : State) (k : Nat) (x : Tile) (j : Nat) : (s.setTile k x).inq j = s.inq j := rfl
@[simp] theorem State.setTile_link (s : State) (k : Nat) (x : Tile) (j : Nat) : (s.setTile k x).link j = s.link j := rfl
@[simp] theorem State.setTile_bte (s : State) (k : Nat) (x : Tile) (j : Nat) : (s.setTile k x).bte j = s.bte j := rfl
@[simp] theorem State.setSport_slot (s : State) (m : Nat) (x : SPort) (j : Nat) : (s.setSport m x).slot j = s.slot j := rfl
@[simp] theorem State.setSport_elem (s : State) (m : Nat) (x : SPort) (j : Nat) : (s.setSport m x).elem j = s.elem j := rfl
@[simp] theorem State.setSport_tile (s : State) (m : Nat) (x : SPort) (j : Nat) : (s.setSport m x).tile j = s.tile j := rfl
@[simp] theorem State.setSport_sport (s : State) (m : Nat) (x : SPort) (j : Nat) : (s.setSport m x).sport j = if j = m then x else s.sport j := by
  simp [State.setSport, State.sport]
@[simp] theorem State.setSport_mnode (s : State) (m : Nat) (x : SPort) (j : Nat) : (s.setSport m x).mnode j = s.mnode j := rfl
@[simp] theorem State.setSport_lnode (s : State) (m : Nat) (x : SPort) (j : Nat) : (s.setSport m x).lnode j = s.lnode j := rfl
@[simp] theorem State.setSport_tel (s : State) (m : Nat) (x : SPort) (j : Nat) : (s.setSport m x).tel j = s.tel j := rfl
@[simp] theorem State.setSport_die (s : State) (m : Nat) (x : SPort) (j : Nat) : (s.setSport m x).die j = s.die j := rfl
@[simp] theorem State.setSport_ctx (s : State) (m : Nat) (x : SPort) (j : Nat) : (s.setSport m x).ctx j = s.ctx j := rfl
@[simp] theorem State.setSport_inq (s : State) (m : Nat) (x : SPort) (j : Nat) : (s.setSport m x).inq j = s.inq j := rfl
@[simp] theorem State.setSport_link (s : State) (m : Nat) (x : SPort) (j : Nat) : (s.setSport m x).link j = s.link j := rfl
@[simp] theorem State.setSport_bte (s : State) (m : Nat) (x : SPort) (j : Nat) : (s.setSport m x).bte j = s.bte j := rfl
@[simp] theorem State.setNode_slot (s : State) (k : Nat) (x : MNode) (j : Nat) : (s.setNode k x).slot j = s.slot j := rfl
@[simp] theorem State.setNode_elem (s : State) (k : Nat) (x : MNode) (j : Nat) : (s.setNode k x).elem j = s.elem j := rfl
@[simp] theorem State.setNode_tile (s : State) (k : Nat) (x : MNode) (j : Nat) : (s.setNode k x).tile j = s.tile j := rfl
@[simp] theorem State.setNode_sport (s : State) (k : Nat) (x : MNode) (j : Nat) : (s.setNode k x).sport j = s.sport j := rfl
@[simp] theorem State.setNode_mnode (s : State) (k : Nat) (x : MNode) (j : Nat) : (s.setNode k x).mnode j = if j = k then x else s.mnode j := by
  simp [State.setNode, State.mnode]
@[simp] theorem State.setNode_lnode (s : State) (k : Nat) (x : MNode) (j : Nat) : (s.setNode k x).lnode j = s.lnode j := rfl
@[simp] theorem State.setNode_tel (s : State) (k : Nat) (x : MNode) (j : Nat) : (s.setNode k x).tel j = s.tel j := rfl
@[simp] theorem State.setNode_die (s : State) (k : Nat) (x : MNode) (j : Nat) : (s.setNode k x).die j = s.die j := rfl
@[simp] theorem State.setNode_ctx (s : State) (k : Nat) (x : MNode) (j : Nat) : (s.setNode k x).ctx j = s.ctx j := rfl
@[simp] theorem State.setNode_inq (s : State) (k : Nat) (x : MNode) (j : Nat) : (s.setNode k x).inq j = s.inq j := rfl
@[simp] theorem State.setNode_link (s : State) (k : Nat) (x : MNode) (j : Nat) : (s.setNode k x).link j = s.link j := rfl
@[simp] theorem State.setNode_bte (s : State) (k : Nat) (x : MNode) (j : Nat) : (s.setNode k x).bte j = s.bte j := rfl
@[simp] theorem State.setLode_slot (s : State) (k : Nat) (x : LNode) (j : Nat) : (s.setLode k x).slot j = s.slot j := rfl
@[simp] theorem State.setLode_elem (s : State) (k : Nat) (x : LNode) (j : Nat) : (s.setLode k x).elem j = s.elem j := rfl
@[simp] theorem State.setLode_tile (s : State) (k : Nat) (x : LNode) (j : Nat) : (s.setLode k x).tile j = s.tile j := rfl
@[simp] theorem State.setLode_sport (s : State) (k : Nat) (x : LNode) (j : Nat) : (s.setLode k x).sport j = s.sport j := rfl
@[simp] theorem State.setLode_mnode (s : State) (k : Nat) (x : LNode) (j : Nat) : (s.setLode k x).mnode j = s.mnode j := rfl
@[simp] theorem State.setLode_lnode (s : State) (k : Nat) (x : LNode) (j : Nat) : (s.setLode k x).lnode j = if j = k then x else s.lnode j := by
  simp [State.setLode, State.lnode]
@[simp] theorem State.setLode_tel (s : State) (k : Nat) (x : LNode) (j : Nat) : (s.setLode k x).tel j = s.tel j := rfl
@[simp] theorem State.setLode_die (s : State) (k : Nat) (x : LNode) (j : Nat) : (s.setLode k x).die j = s.die j := rfl
@[simp] theorem State.setLode_ctx (s : State) (k : Nat) (x : LNode) (j : Nat) : (s.setLode k x).ctx j = s.ctx j := rfl
@[simp] theorem State.setLode_inq (s : State) (k : Nat) (x : LNode) (j : Nat) : (s.setLode k x).inq j = s.inq j := rfl
@[simp] theorem State.setLode_link (s : State) (k : Nat) (x : LNode) (j : Nat) : (s.setLode k x).link j = s.link j := rfl
@[simp] theorem State.setLode_bte (s : State) (k : Nat) (x : LNode) (j : Nat) : (s.setLode k x).bte j = s.bte j := rfl
@[simp] theorem State.modChan_slot (s : State) (k c : Nat) (f : Chan → Chan) (j : Nat) : (s.modChan k c f).slot j = s.slot j := rfl
@[simp] theorem State.modChan_elem (s : State) (k c : Nat) (f : Chan → Chan) (j : Nat) : (s.modChan k c f).elem j = s.elem j := rfl
@[simp] theorem State.modChan_tile (s : State) (k c : Nat) (f : Chan → Chan) (j : Nat) : (s.modChan k c f).tile j = s.tile j := rfl
@[simp] theorem State.modChan_sport (s : State) (k c : Nat) (f : Chan → Chan) (j : Nat) : (s.modChan k c f).sport j = s.sport j := rfl
@[simp] theorem State.modChan_mnode (s : State) (k c : Nat) (f : Chan → Chan) (j : Nat) : (s.modChan k c f).mnode j = s.mnode j := rfl
@[simp] theorem State.modChan_lnode (s : State) (k c : Nat) (f : Chan → Chan) (j : Nat) : (s.modChan k c f).lnode j = s.lnode j := rfl
@[simp] theorem State.modChan_tel (s : State) (k c : Nat) (f : Chan → Chan) (j : Nat) : (s.modChan k c f).tel j = s.tel j := rfl
@[simp] theorem State.modChan_die (s : State) (k c : Nat) (f : Chan → Chan) (j : Nat) : (s.modChan k c f).die j = s.die j := rfl
@[simp] theorem State.modChan_ctx (s : State) (k c : Nat) (f : Chan → Chan) (j : Nat) : (s.modChan k c f).ctx j = s.ctx j := rfl
@[simp] theorem State.modChan_inq (s : State) (k c : Nat) (f : Chan → Chan) (j : Nat) : (s.modChan k c f).inq j = s.inq j := rfl
@[simp] theorem State.modChan_link (s : State) (k c : Nat) (f : Chan → Chan) (j : Nat) : (s.modChan k c f).link j = s.link j := rfl
@[simp] theorem State.modChan_bte (s : State) (k c : Nat) (f : Chan → Chan) (j : Nat) : (s.modChan k c f).bte j = s.bte j := rfl
@[simp] theorem State.modBte_slot (s : State) (k : Nat) (f : Bte → Bte) (j : Nat) : (s.modBte k f).slot j = s.slot j := rfl
@[simp] theorem State.modBte_elem (s : State) (k : Nat) (f : Bte → Bte) (j : Nat) : (s.modBte k f).elem j = s.elem j := rfl
@[simp] theorem State.modBte_tile (s : State) (k : Nat) (f : Bte → Bte) (j : Nat) : (s.modBte k f).tile j = s.tile j := rfl
@[simp] theorem State.modBte_sport (s : State) (k : Nat) (f : Bte → Bte) (j : Nat) : (s.modBte k f).sport j = s.sport j := rfl
@[simp] theorem State.modBte_mnode (s : State) (k : Nat) (f : Bte → Bte) (j : Nat) : (s.modBte k f).mnode j = s.mnode j := rfl
@[simp] theorem State.modBte_lnode (s : State) (k : Nat) (f : Bte → Bte) (j : Nat) : (s.modBte k f).lnode j = s.lnode j := rfl
@[simp] theorem State.modBte_tel (s : State) (k : Nat) (f : Bte → Bte) (j : Nat) : (s.modBte k f).tel j = s.tel j := rfl
@[simp] theorem State.modBte_die (s : State) (k : Nat) (f : Bte → Bte) (j : Nat) : (s.modBte k f).die j = s.die j := rfl
@[simp] theorem State.modBte_ctx (s : State) (k : Nat) (f : Bte → Bte) (j : Nat) : (s.modBte k f).ctx j = s.ctx j := rfl
@[simp] theorem State.modBte_inq (s : State) (k : Nat) (f : Bte → Bte) (j : Nat) : (s.modBte k f).inq j = s.inq j := rfl
@[simp] theorem State.modBte_link (s : State) (k : Nat) (f : Bte → Bte) (j : Nat) : (s.modBte k f).link j = s.link j := rfl
@[simp] theorem State.setTel_slot (s : State) (l : Nat) (x : Tel) (j : Nat) : (s.setTel l x).slot j = s.slot j := rfl
@[simp] theorem State.setTel_elem (s : State) (l : Nat) (x : Tel) (j : Nat) : (s.setTel l x).elem j = s.elem j := rfl
@[simp] theorem State.setTel_tile (s : State) (l : Nat) (x : Tel) (j : Nat) : (s.setTel l x).tile j = s.tile j := rfl
@[simp] theorem State.setTel_sport (s : State) (l : Nat) (x : Tel) (j : Nat) : (s.setTel l x).sport j = s.sport j := rfl
@[simp] theorem State.setTel_mnode (s : State) (l : Nat) (x : Tel) (j : Nat) : (s.setTel l x).mnode j = s.mnode j := rfl
@[simp] theorem State.setTel_lnode (s : State) (l : Nat) (x : Tel) (j : Nat) : (s.setTel l x).lnode j = s.lnode j := rfl
@[simp] theorem State.setTel_tel (s : State) (l : Nat) (x : Tel) (j : Nat) : (s.setTel l x).tel j = if j = l then x else s.tel j := by
  simp [State.setTel, State.tel]
@[simp] theorem State.setTel_die (s : State) (l : Nat) (x : Tel) (j : Nat) : (s.setTel l x).die j = s.die j := rfl
@[simp] theorem State.setTel_ctx (s : State) (l : Nat) (x : Tel) (j : Nat) : (s.setTel l x).ctx j = s.ctx j := rfl
@[simp] theorem State.setTel_inq (s : State) (l : Nat) (x : Tel) (j : Nat) : (s.setTel l x).inq j = s.inq j := rfl
@[simp] theorem State.setTel_link (s : State) (l : Nat) (x : Tel) (j : Nat) : (s.setTel l x).link j = s.link j := rfl
@[simp] theorem State.setTel_bte (s : State) (l : Nat) (x : Tel) (j : Nat) : (s.setTel l x).bte j = s.bte j := rfl
@[simp] theorem State.setDie_slot (s : State) (d : Nat) (x : Die) (j : Nat) : (s.setDie d x).slot j = s.slot j := rfl
@[simp] theorem State.setDie_elem (s : State) (d : Nat) (x : Die) (j : Nat) : (s.setDie d x).elem j = s.elem j := rfl
@[simp] theorem State.setDie_tile (s : State) (d : Nat) (x : Die) (j : Nat) : (s.setDie d x).tile j = s.tile j := rfl
@[simp] theorem State.setDie_sport (s : State) (d : Nat) (x : Die) (j : Nat) : (s.setDie d x).sport j = s.sport j := rfl
@[simp] theorem State.setDie_mnode (s : State) (d : Nat) (x : Die) (j : Nat) : (s.setDie d x).mnode j = s.mnode j := rfl
@[simp] theorem State.setDie_lnode (s : State) (d : Nat) (x : Die) (j : Nat) : (s.setDie d x).lnode j = s.lnode j := rfl
@[simp] theorem State.setDie_tel (s : State) (d : Nat) (x : Die) (j : Nat) : (s.setDie d x).tel j = s.tel j := rfl
@[simp] theorem State.setDie_die (s : State) (d : Nat) (x : Die) (j : Nat) : (s.setDie d x).die j = if j = d then x else s.die j := by
  simp [State.setDie, State.die]
@[simp] theorem State.setDie_ctx (s : State) (d : Nat) (x : Die) (j : Nat) : (s.setDie d x).ctx j = s.ctx j := rfl
@[simp] theorem State.setDie_inq (s : State) (d : Nat) (x : Die) (j : Nat) : (s.setDie d x).inq j = s.inq j := rfl
@[simp] theorem State.setDie_link (s : State) (d : Nat) (x : Die) (j : Nat) : (s.setDie d x).link j = s.link j := rfl
@[simp] theorem State.setDie_bte (s : State) (d : Nat) (x : Die) (j : Nat) : (s.setDie d x).bte j = s.bte j := rfl
@[simp] theorem State.setCtx_slot (s : State) (c : Nat) (x : Ctx) (j : Nat) : (s.setCtx c x).slot j = s.slot j := rfl
@[simp] theorem State.setCtx_elem (s : State) (c : Nat) (x : Ctx) (j : Nat) : (s.setCtx c x).elem j = s.elem j := rfl
@[simp] theorem State.setCtx_tile (s : State) (c : Nat) (x : Ctx) (j : Nat) : (s.setCtx c x).tile j = s.tile j := rfl
@[simp] theorem State.setCtx_sport (s : State) (c : Nat) (x : Ctx) (j : Nat) : (s.setCtx c x).sport j = s.sport j := rfl
@[simp] theorem State.setCtx_mnode (s : State) (c : Nat) (x : Ctx) (j : Nat) : (s.setCtx c x).mnode j = s.mnode j := rfl
@[simp] theorem State.setCtx_lnode (s : State) (c : Nat) (x : Ctx) (j : Nat) : (s.setCtx c x).lnode j = s.lnode j := rfl
@[simp] theorem State.setCtx_tel (s : State) (c : Nat) (x : Ctx) (j : Nat) : (s.setCtx c x).tel j = s.tel j := rfl
@[simp] theorem State.setCtx_die (s : State) (c : Nat) (x : Ctx) (j : Nat) : (s.setCtx c x).die j = s.die j := rfl
@[simp] theorem State.setCtx_ctx (s : State) (c : Nat) (x : Ctx) (j : Nat) : (s.setCtx c x).ctx j = if j = c then x else s.ctx j := by
  simp [State.setCtx, State.ctx]
@[simp] theorem State.setCtx_inq (s : State) (c : Nat) (x : Ctx) (j : Nat) : (s.setCtx c x).inq j = s.inq j := rfl
@[simp] theorem State.setCtx_link (s : State) (c : Nat) (x : Ctx) (j : Nat) : (s.setCtx c x).link j = s.link j := rfl
@[simp] theorem State.setCtx_bte (s : State) (c : Nat) (x : Ctx) (j : Nat) : (s.setCtx c x).bte j = s.bte j := rfl
@[simp] theorem State.setInq_slot (s : State) (q : Nat) (x : InQueue) (j : Nat) : (s.setInq q x).slot j = s.slot j := rfl
@[simp] theorem State.setInq_elem (s : State) (q : Nat) (x : InQueue) (j : Nat) : (s.setInq q x).elem j = s.elem j := rfl
@[simp] theorem State.setInq_tile (s : State) (q : Nat) (x : InQueue) (j : Nat) : (s.setInq q x).tile j = s.tile j := rfl
@[simp] theorem State.setInq_sport (s : State) (q : Nat) (x : InQueue) (j : Nat) : (s.setInq q x).sport j = s.sport j := rfl
@[simp] theorem State.setInq_mnode (s : State) (q : Nat) (x : InQueue) (j : Nat) : (s.setInq q x).mnode j = s.mnode j := rfl
@[simp] theorem State.setInq_lnode (s : State) (q : Nat) (x : InQueue) (j : Nat) : (s.setInq q x).lnode j = s.lnode j := rfl
@[simp] theorem State.setInq_tel (s : State) (q : Nat) (x : InQueue) (j : Nat) : (s.setInq q x).tel j = s.tel j := rfl
@[simp] theorem State.setInq_die (s : State) (q : Nat) (x : InQueue) (j : Nat) : (s.setInq q x).die j = s.die j := rfl
@[simp] theorem State.setInq_ctx (s : State) (q : Nat) (x : InQueue) (j : Nat) : (s.setInq q x).ctx j = s.ctx j := rfl
@[simp] theorem State.setInq_inq (s : State) (q : Nat) (x : InQueue) (j : Nat) : (s.setInq q x).inq j = if j = q then x else s.inq j := by
  simp [State.setInq, State.inq]
@[simp] theorem State.setInq_link (s : State) (q : Nat) (x : InQueue) (j : Nat) : (s.setInq q x).link j = s.link j := rfl
@[simp] theorem State.setInq_bte (s : State) (q : Nat) (x : InQueue) (j : Nat) : (s.setInq q x).bte j = s.bte j := rfl
@[simp] theorem State.modLink_slot (s : State) (l : Nat) (f : Link → Link) (j : Nat) : (s.modLink l f).slot j = s.slot j := rfl
@[simp] theorem State.modLink_elem (s : State) (l : Nat) (f : Link → Link) (j : Nat) : (s.modLink l f).elem j = s.elem j := rfl
@[simp] theorem State.modLink_tile (s : State) (l : Nat) (f : Link → Link) (j : Nat) : (s.modLink l f).tile j = s.tile j := rfl
@[simp] theorem State.modLink_sport (s : State) (l : Nat) (f : Link → Link) (j : Nat) : (s.modLink l f).sport j = s.sport j := rfl
@[simp] theorem State.modLink_mnode (s : State) (l : Nat) (f : Link → Link) (j : Nat) : (s.modLink l f).mnode j = s.mnode j := rfl
@[simp] theorem State.modLink_lnode (s : State) (l : Nat) (f : Link → Link) (j : Nat) : (s.modLink l f).lnode j = s.lnode j := rfl
@[simp] theorem State.modLink_tel (s : State) (l : Nat) (f : Link → Link) (j : Nat) : (s.modLink l f).tel j = s.tel j := rfl
@[simp] theorem State.modLink_die (s : State) (l : Nat) (f : Link → Link) (j : Nat) : (s.modLink l f).die j = s.die j := rfl
@[simp] theorem State.modLink_ctx (s : State) (l : Nat) (f : Link → Link) (j : Nat) : (s.modLink l f).ctx j = s.ctx j := rfl
@[simp] theorem State.modLink_inq (s : State) (l : Nat) (f : Link → Link) (j : Nat) : (s.modLink l f).inq j = s.inq j := rfl
@[simp] theorem State.modLink_bte (s : State) (l : Nat) (f : Link → Link) (j : Nat) : (s.modLink l f).bte j = s.bte j := rfl
@[simp] theorem State.plan_slot (s : State) (c r : Nat) (a : Act) (j : Nat) : (s.plan c r a).slot j = s.slot j := rfl
@[simp] theorem State.plan_elem (s : State) (c r : Nat) (a : Act) (j : Nat) : (s.plan c r a).elem j = s.elem j := rfl
@[simp] theorem State.plan_tile (s : State) (c r : Nat) (a : Act) (j : Nat) : (s.plan c r a).tile j = s.tile j := rfl
@[simp] theorem State.plan_sport (s : State) (c r : Nat) (a : Act) (j : Nat) : (s.plan c r a).sport j = s.sport j := rfl
@[simp] theorem State.plan_mnode (s : State) (c r : Nat) (a : Act) (j : Nat) : (s.plan c r a).mnode j = s.mnode j := rfl
@[simp] theorem State.plan_lnode (s : State) (c r : Nat) (a : Act) (j : Nat) : (s.plan c r a).lnode j = s.lnode j := rfl
@[simp] theorem State.plan_tel (s : State) (c r : Nat) (a : Act) (j : Nat) : (s.plan c r a).tel j = s.tel j := rfl
@[simp] theorem State.plan_die (s : State) (c r : Nat) (a : Act) (j : Nat) : (s.plan c r a).die j = s.die j := rfl
@[simp] theorem State.plan_ctx (s : State) (c r : Nat) (a : Act) (j : Nat) : (s.plan c r a).ctx j = s.ctx j := rfl
@[simp] theorem State.plan_inq (s : State) (c r : Nat) (a : Act) (j : Nat) : (s.plan c r a).inq j = s.inq j := rfl
@[simp] theorem State.plan_link (s : State) (c r : Nat) (a : Act) (j : Nat) : (s.plan c r a).link j = s.link j := rfl
@[simp] theorem State.plan_bte (s : State) (c r : Nat) (a : Act) (j : Nat) : (s.plan c r a).bte j = s.bte j := rfl
@[simp] theorem State.unplan_slot (s : State) (p : Act → Bool) (j : Nat) : (s.unplan p).slot j = s.slot j := rfl
@[simp] theorem State.unplan_elem (s : State) (p : Act → Bool) (j : Nat) : (s.unplan p).elem j = s.elem j := rfl
@[simp] theorem State.unplan_tile (s : State) (p : Act → Bool) (j : Nat) : (s.unplan p).tile j = s.tile j := rfl
@[simp] theorem State.unplan_sport (s : State) (p : Act → Bool) (j : Nat) : (s.unplan p).sport j = s.sport j := rfl
@[simp] theorem State.unplan_mnode (s : State) (p : Act → Bool) (j : Nat) : (s.unplan p).mnode j = s.mnode j := rfl
@[simp] theorem State.unplan_lnode (s : State) (p : Act → Bool) (j : Nat) : (s.unplan p).lnode j = s.lnode j := rfl
@[simp] theorem State.unplan_tel (s : State) (p : Act → Bool) (j : Nat) : (s.unplan p).tel j = s.tel j := rfl
@[simp] theorem State.unplan_die (s : State) (p : Act → Bool) (j : Nat) : (s.unplan p).die j = s.die j := rfl
@[simp] theorem State.unplan_ctx (s : State) (p : Act → Bool) (j : Nat) : (s.unplan p).ctx j = s.ctx j := rfl
@[simp] theorem State.unplan_inq (s : State) (p : Act → Bool) (j : Nat) : (s.unplan p).inq j = s.inq j := rfl
@[simp] theorem State.unplan_link (s : State) (p : Act → Bool) (j : Nat) : (s.unplan p).link j = s.link j := rfl
@[simp] theorem State.unplan_bte (s : State) (p : Act → Bool) (j : Nat) : (s.unplan p).bte j = s.bte j := rfl
@[simp] theorem State.planResult_slot (s : State) (n q c : Nat) (i : Instr) (a : Arg) (j : Nat) : (s.planResult n q c i a).slot j = s.slot j := rfl
@[simp] theorem State.planResult_elem (s : State) (n q c : Nat) (i : Instr) (a : Arg) (j : Nat) : (s.planResult n q c i a).elem j = s.elem j := rfl
@[simp] theorem State.planResult_tile (s : State) (n q c : Nat) (i : Instr) (a : Arg) (j : Nat) : (s.planResult n q c i a).tile j = s.tile j := rfl
@[simp] theorem State.planResult_sport (s : State) (n q c : Nat) (i : Instr) (a : Arg) (j : Nat) : (s.planResult n q c i a).sport j = s.sport j := rfl
@[simp] theorem State.planResult_mnode (s : State) (n q c : Nat) (i : Instr) (a : Arg) (j : Nat) : (s.planResult n q c i a).mnode j = s.mnode j := rfl
@[simp] theorem State.planResult_lnode (s : State) (n q c : Nat) (i : Instr) (a : Arg) (j : Nat) : (s.planResult n q c i a).lnode j = s.lnode j := rfl
@[simp] theorem State.planResult_tel (s : State) (n q c : Nat) (i : Instr) (a : Arg) (j : Nat) : (s.planResult n q c i a).tel j = s.tel j := rfl
@[simp] theorem State.planResult_die (s : State) (n q c : Nat) (i : Instr) (a : Arg) (j : Nat) : (s.planResult n q c i a).die j = s.die j := rfl
@[simp] theorem State.planResult_ctx (s : State) (n q c : Nat) (i : Instr) (a : Arg) (j : Nat) : (s.planResult n q c i a).ctx j = s.ctx j := rfl
@[simp] theorem State.planResult_inq (s : State) (n q c : Nat) (i : Instr) (a : Arg) (j : Nat) : (s.planResult n q c i a).inq j = s.inq j := rfl
@[simp] theorem State.planResult_link (s : State) (n q c : Nat) (i : Instr) (a : Arg) (j : Nat) : (s.planResult n q c i a).link j = s.link j := rfl
@[simp] theorem State.planResult_bte (s : State) (n q c : Nat) (i : Instr) (a : Arg) (j : Nat) : (s.planResult n q c i a).bte j = s.bte j := rfl

/-! ## The agenda -/

theorem mem_insertItem (it x : Item) (l : List Item) : it ∈ insertItem x l ↔ it = x ∨ it ∈ l := by
  induction l with
  | nil => simp [insertItem]
  | cons y r ih =>
    simp only [insertItem]
    split
    · simp only [List.mem_cons, ih]; constructor <;> (rintro (h | h | h) <;> simp [h])
    · simp

@[simp] theorem mem_plan (s : State) (c r : Nat) (a : Act) (it : Item) :
    it ∈ (s.plan c r a).agenda ↔ it = { time := 16 * c + r, act := a } ∨ it ∈ s.agenda := by
  simp [State.plan, mem_insertItem]

theorem mem_insertBefore (p : Act → Bool) (it x : Item) (l : List Item) : it ∈ insertBefore p x l ↔ it = x ∨ it ∈ l := by
  induction l with
  | nil => simp [insertBefore]
  | cons y r ih =>
    simp only [insertBefore]
    split
    · simp only [List.mem_cons, ih]; constructor <;> (rintro (h | h | h) <;> simp [h])
    · simp

@[simp] theorem mem_planResult (s : State) (n q c : Nat) (i : Instr) (a : Arg) (it : Item) :
    it ∈ (s.planResult n q c i a).agenda ↔ it = { time := 16 * c + rkComplete, act := .ev i a } ∨ it ∈ s.agenda := by
  simp [State.planResult, mem_insertBefore]

@[simp] theorem mem_unplan (s : State) (p : Act → Bool) (it : Item) :
    it ∈ (s.unplan p).agenda ↔ it ∈ s.agenda ∧ p it.act = false := by
  simp [State.unplan]

end Sys2Proof.Machine
end

