-- ==== Sys2Proof/Laws/Issue.lean ====
section
/-! SUPPORT. Laws of issue: what popping a port changes, when the gate opens, and what an issue does once it is open. -/

namespace Sys2Proof.Machine

/-! ## Popping -/

theorem QueuesOnly.refl (s : State) : QueuesOnly s s := ⟨rfl, fun _ => rfl, fun _ => rfl, fun _ => rfl⟩

theorem QueuesOnly.trans {s t u : State} (h : QueuesOnly s t) (g : QueuesOnly t u) : QueuesOnly s u :=
  ⟨g.rest.trans h.rest, fun v => (g.elem v).trans (h.elem v), fun k => (g.tile k).trans (h.tile k),
    fun m => (g.sport m).trans (h.sport m)⟩

theorem QueuesOnly.plan {s t : State} (h : QueuesOnly s t) (c r : Nat) (a : Act) : QueuesOnly s (t.plan c r a) :=
  h.trans ⟨rfl, fun _ => rfl, fun _ => rfl, fun _ => rfl⟩

theorem QueuesOnly.setInq {s t : State} (h : QueuesOnly s t) (q : Nat) (x : InQueue) : QueuesOnly s (t.setInq q x) :=
  h.trans ⟨rfl, fun _ => rfl, fun _ => rfl, fun _ => rfl⟩

theorem QueuesOnly.setElem {s t : State} (h : QueuesOnly s t) (v : Nat) (x : Elem)
    (hx : x.unqueued = (t.elem v).unqueued) : QueuesOnly s (t.setElem v x) := by
  refine h.trans ⟨rfl, fun w => ?_, fun _ => rfl, fun _ => rfl⟩
  rw [State.setElem_elem]; split
  · rename_i hw; rw [hw, hx]
  · rfl

theorem QueuesOnly.setTile {s t : State} (h : QueuesOnly s t) (k : Nat) (x : Tile)
    (hx : x.unqueued = (t.tile k).unqueued) : QueuesOnly s (t.setTile k x) := by
  refine h.trans ⟨rfl, fun _ => rfl, fun w => ?_, fun _ => rfl⟩
  rw [State.setTile_tile]; split
  · rename_i hw; rw [hw, hx]
  · rfl

theorem QueuesOnly.setSport {s t : State} (h : QueuesOnly s t) (m : Nat) (x : SPort)
    (hx : x.unqueued = (t.sport m).unqueued) : QueuesOnly s (t.setSport m x) := by
  refine h.trans ⟨rfl, fun _ => rfl, fun _ => rfl, fun w => ?_⟩
  rw [State.setSport_sport]; split
  · rename_i hw; rw [hw, hx]
  · rfl

theorem QueuesOnly.planOnce {s t : State} (h : QueuesOnly s t) (c r : Nat) (i : Instr) (a b d : Nat) :
    QueuesOnly s (planOnce t c r i a b d) := by
  simp only [Machine.planOnce]; split
  · exact h
  · exact h.trans ⟨rfl, fun _ => rfl, fun _ => rfl, fun _ => rfl⟩

theorem QueuesOnly.sendFrom {s t : State} (h : QueuesOnly s t) (c : Nat) (p : Packet) (lead : Nat) :
    QueuesOnly s (t.sendFrom c p lead) := by
  simp only [State.sendFrom]; split
  · exact h.plan _ _ _
  · exact h.trans ⟨rfl, fun _ => rfl, fun _ => rfl, fun _ => rfl⟩

theorem QueuesOnly.drainCheck {s t : State} (h : QueuesOnly s t) (n : Nat) : QueuesOnly s (t.drainCheck n) := by
  simp only [State.drainCheck]; split
  · exact h.plan _ _ _
  · exact h

theorem QueuesOnly.sendOff {s t : State} (h : QueuesOnly s t) (v g : Nat) (x : OutTok) (c : Nat) :
    QueuesOnly s (sendOff t v g x c) := by
  simp only [Machine.sendOff]
  repeat' split
  · apply QueuesOnly.plan; apply h.setSport; rfl
  · exact h
  · exact (h.setInq _ _).sendFrom _ _ _
  · exact h

theorem QueuesOnly.drainOut {s t : State} (h : QueuesOnly s t) (v g n : Nat) : QueuesOnly s (drainOut t v g n) := by
  induction n generalizing t with
  | zero => exact h
  | succ n ih =>
    simp only [Machine.drainOut]
    repeat' split
    · exact h
    · apply ih; apply QueuesOnly.drainCheck; apply QueuesOnly.sendOff; apply h.setElem; rfl
    · exact h

theorem QueuesOnly.foldl {β : Type} (f : State → β → State) (hf : ∀ a b, QueuesOnly a (f a b)) (l : List β)
    {s t : State} (h : QueuesOnly s t) : QueuesOnly s (l.foldl f t) := by
  induction l generalizing t with
  | nil => exact h
  | cons b r ih => exact ih (h.trans (hf t b))

theorem QueuesOnly.wakeProducers {s t : State} (h : QueuesOnly s t) (q : Nat) : QueuesOnly s (wakeProducers t q) := by
  refine QueuesOnly.foldl _ (fun a b => ?_) _ h
  repeat' split
  · exact (QueuesOnly.refl a).drainOut _ _ _
  · exact QueuesOnly.refl a
  · exact QueuesOnly.refl a

theorem QueuesOnly.kickRead {s t : State} (h : QueuesOnly s t) (m n : Nat) : QueuesOnly s (kickRead t m n) := by
  induction n generalizing t with
  | zero => exact h
  | succ n ih =>
    simp only [Machine.kickRead]
    repeat' split
    · exact h
    · exact h.planOnce _ _ _ _ _ _
    · apply ih; apply QueuesOnly.plan; apply h.setSport; rfl
    · exact h

/-- A pop moves tokens and nothing else (R67). -/
theorem QueuesOnly.pop {s t : State} (h : QueuesOnly s t) (v port phase : Nat) : QueuesOnly s (t.pop v port phase) := by
  simp only [State.pop]
  repeat' split
  · exact (h.setInq _ _).wakeProducers _
  · exact h
  · apply h.setElem; rfl
  · apply h.setTile; rfl
  · apply QueuesOnly.plan; apply h.setTile; rfl
  · apply QueuesOnly.kickRead; apply h.setSport; rfl
  · exact h

/-! ## What an issue leaves alone -/

theorem Quiet.refl (n : Nat) (s : State) : Quiet n s s := ⟨rfl, fun _ _ => rfl, rfl, fun _ _ => rfl, fun _ => rfl, fun _ => rfl⟩

theorem Quiet.trans {n : Nat} {s t u : State} (h : Quiet n s t) (g : Quiet n t u) : Quiet n s u :=
  ⟨g.rest.trans h.rest, fun m hm => (g.slots m hm).trans (h.slots m hm), g.own.trans h.own,
    fun v hv => (g.elem v hv).trans (h.elem v hv), fun k => (g.tile k).trans (h.tile k),
    fun m => (g.sport m).trans (h.sport m)⟩

/-- Two states that agree up to queues agree up to slots. -/
theorem unslotted_of {s t : State} (h : t.unqueued = s.unqueued) : t.unslotted = s.unslotted :=
  congrArg (fun x : State => { x with slots := [] }) h

theorem QueuesOnly.slots {s t : State} (h : QueuesOnly s t) : t.slots = s.slots := (congrArg State.slots h.rest :)

theorem QueuesOnly.quiet {s t : State} (h : QueuesOnly s t) (n : Nat) : Quiet n s t :=
  ⟨unslotted_of h.rest, fun m _ => by simp only [State.slot, h.slots],
    congrArg (fun e : Elem => { e with flight := [], resv := [], iterUntil := 0 }) (h.elem _), fun v _ => h.elem v, h.tile, h.sport⟩

theorem QueuesOnly.flight {s t : State} (h : QueuesOnly s t) (v : Nat) : (t.elem v).flight = (s.elem v).flight :=
  (congrArg Elem.flight (h.elem v) :)

theorem QueuesOnly.iterUntil {s t : State} (h : QueuesOnly s t) (v : Nat) : (t.elem v).iterUntil = (s.elem v).iterUntil :=
  (congrArg Elem.iterUntil (h.elem v) :)

theorem Quiet.mcnt {n : Nat} {s t : State} (h : Quiet n s t) : t.mcnt = s.mcnt := (congrArg State.mcnt h.rest :)
theorem Quiet.cur {n : Nat} {s t : State} (h : Quiet n s t) : t.cur = s.cur := (congrArg State.cur h.rest :)
theorem Quiet.mem {n : Nat} {s t : State} (h : Quiet n s t) : t.mem = s.mem := (congrArg State.mem h.rest :)

theorem Quiet.s1 {n : Nat} {s t : State} (h : Quiet n s t) (v : Nat) : (t.elem v).s1 = (s.elem v).s1 := by
  by_cases hv : v = veOfSlot n
  · subst hv; exact (congrArg Elem.s1 h.own :)
  · exact (congrArg Elem.s1 (h.elem v hv) :)

theorem Quiet.wheel {n : Nat} {s t : State} (h : Quiet n s t) (v : Nat) : (t.elem v).wheel = (s.elem v).wheel := by
  simp only [Elem.wheel, h.s1]

theorem Quiet.turnOf {n : Nat} {s t : State} (h : Quiet n s t) (m c : Nat) : t.turnOf m c = s.turnOf m c := by
  have hq : (t.tile (tileOfSlot m)).qoff = (s.tile (tileOfSlot m)).qoff := (congrArg Tile.qoff (h.tile _) :)
  simp only [State.turnOf, h.wheel, hq]

theorem Quiet.planResult {n : Nat} {s t : State} (h : Quiet n s t) (m q c : Nat) (i : Instr) (a : Arg) :
    Quiet n s (t.planResult m q c i a) :=
  h.trans ⟨rfl, fun _ _ => rfl, rfl, fun _ _ => rfl, fun _ => rfl, fun _ => rfl⟩

theorem Quiet.plan {n : Nat} {s t : State} (h : Quiet n s t) (c r : Nat) (a : Act) : Quiet n s (t.plan c r a) :=
  h.trans ⟨rfl, fun _ _ => rfl, rfl, fun _ _ => rfl, fun _ => rfl, fun _ => rfl⟩

theorem Quiet.unplan {n : Nat} {s t : State} (h : Quiet n s t) (p : Act → Bool) : Quiet n s (t.unplan p) :=
  h.trans ⟨rfl, fun _ _ => rfl, rfl, fun _ _ => rfl, fun _ => rfl, fun _ => rfl⟩

theorem Quiet.setSlot {n : Nat} {s t : State} (h : Quiet n s t) (x : Slot) : Quiet n s (t.setSlot n x) := by
  refine h.trans ⟨rfl, fun m hm => ?_, rfl, fun _ _ => rfl, fun _ => rfl, fun _ => rfl⟩
  rw [State.setSlot_slot, if_neg hm]

theorem Quiet.setElem {n : Nat} {s t : State} (h : Quiet n s t) (x : Elem)
    (hx : x.unissued = (t.elem (veOfSlot n)).unissued) : Quiet n s (t.setElem (veOfSlot n) x) := by
  refine h.trans ⟨rfl, fun _ _ => rfl, ?_, fun v hv => ?_, fun _ => rfl, fun _ => rfl⟩
  · rw [State.setElem_elem, if_pos rfl, hx]
  · rw [State.setElem_elem, if_neg hv]

/-! ## The gate -/

/-- A ready instruction passes the gate. -/
theorem gate_go {s : State} {maj : Nat} {op : Op} (h : Ready s maj op) : gate s s.cur maj op = .go := by
  have ha : (popList op (tripOf s op)).any (fun p => (s.tokenOf (veOfSlot s.cur) op (tripOf s op) p).isNone) = false := by
    rw [List.any_eq_false]; intro p hp; obtain ⟨k, hk, -⟩ := h.tokens p hp; simp [hk]
  have hb : (popList op (tripOf s op)).find?
      (fun p => ((s.tokenOf (veOfSlot s.cur) op (tripOf s op) p).map Token.poison).getD false) = none := by
    rw [List.find?_eq_none]; intro p hp; obtain ⟨k, hk, hz⟩ := h.tokens p hp; simp [hk, hz]
  have hd : (reserves maj op && (List.range 6).any (fun g =>
      (tripOf s op).fan.getLsbD g && !hasRoom (s.elem (veOfSlot s.cur)) s.mcnt g)) = false := by
    cases hp : reserves maj op with
    | false => rfl
    | true =>
      rw [Bool.true_and, List.any_eq_false]; intro g hg
      cases hf : (tripOf s op).fan.getLsbD g with
      | false => simp
      | true => simp [h.room hp g (List.mem_range.mp hg) hf]
  have he : (isIterative maj && unitBusy (s.elem (veOfSlot s.cur)) s.mcnt) = false := by
    cases hi : isIterative maj with
    | false => rfl
    | true => rw [Bool.true_and]; exact h.unitFree hi
  have hf := h.legal
  have h1 := h.cleanA
  have h2 := h.cleanB
  unfold tripOf at *
  have hc := h.sound
  simp only [gate, h.running, h.unblocked, hf, hc, ha, hb, hd, he, h1, h2, ne_eq, not_true_eq_false, Bool.false_eq_true,
    or_self, Bool.or_false, if_false]

/-- The gate opens only for a ready instruction. -/
theorem ready_of_gate {s : State} {maj : Nat} {op : Op} (h : gate s s.cur maj op = .go) : Ready s maj op := by
  simp only [gate] at h
  split at h
  · cases h
  rename_i h1
  split at h
  · cases h
  rename_i h2
  split at h
  · cases h
  rename_i hu
  split at h
  · cases h
  rename_i h3
  split at h
  · cases h
  rename_i h4
  split at h
  · cases h
  rename_i h5
  split at h
  · cases h
  rename_i h6
  split at h
  · cases h
  rename_i h7
  simp only [not_or, Decidable.not_not, Bool.not_eq_true] at h1 h2 h5
  rw [Bool.or_eq_false_iff] at h5
  refine ⟨h1.1, h1.2, h2, hu, ?_, h5.1, h5.2, ?_, ?_⟩
  · intro p hp
    have ha := (List.any_eq_false.mp (Bool.not_eq_true _ ▸ h3)) p hp
    have hb := (List.find?_eq_none.mp h4) p hp
    cases hk : s.tokenOf (veOfSlot s.cur) op (resolve (s.slot s.cur) op) p with
    | none => simp [hk] at ha
    | some k => exact ⟨k, hk, by simpa [hk] using hb⟩
  · intro hp g hg hf
    rw [hp, Bool.true_and] at h6
    have := (List.any_eq_false.mp (Bool.not_eq_true _ ▸ h6)) g (List.mem_range.mpr hg)
    unfold tripOf at hf
    simpa [hf] using this
  · intro hi
    rw [hi, Bool.true_and] at h7
    simpa using h7

theorem queuesOnly_afterPops (s : State) (op : Op) : QueuesOnly s (afterPops s op) :=
  QueuesOnly.foldl _ (fun a _ => (QueuesOnly.refl a).pop _ _ _) _ (QueuesOnly.refl s)

/-- A ready instruction runs its body on the state after its pops, and its verdict decides. -/
theorem issueVE_ready {s : State} {maj : Nat} {op : Op} (h : Ready s maj op) (body : Opnds → State → Issued) :
    issueVE maj op body s =
      let o := opndsOf s maj op
      let r := body o (afterPops s op)
      match r.verdict with
      | .done => finish o r
      | .retry c => s.starve s.cur c
      | .flush c => (flushMerged s s.cur).starve s.cur c
      | .fetch c x => (s.fetchObject o.tile c x).bubble s.cur
      | .trap c d => s.trapSlot s.cur c d
      | .stops c d => (finish o r).trapAt s.cur c d (s.mcnt + 1)
      | .halts c => (finish o r).planEv (s.mcnt + 1) rkStart .resultCompletion (Arg.of s.cur o.seq c 0 0)
      | .hold => r.st.holdSlot s.cur := by
  simp only [issueVE, gate_go h]
  rfl

/-! ## Finishing an issue -/

theorem launchResult_quiet {n : Nat} {s t : State} (h : Quiet n s t) (r : Result) (hr : r.slot = n) :
    Quiet n s (t.launchResult r) := by
  subst hr
  simp only [State.launchResult]
  apply Quiet.planResult; apply h.setElem; rfl

/-- The issue ends: only the slot itself, the results of its element and the agenda change. -/
theorem finish_quiet (o : Opnds) (r : Issued) : Quiet o.slot r.st (finish o r) := by
  have h0 : Quiet o.slot r.st ((r.st.modSlot o.slot (fun x => advance x o.op r.jump)).unplan (fun a => match a with
      | .ev .holdOverrun g => g.a == o.slot
      | _ => false)) := by
    apply Quiet.unplan; apply Quiet.setSlot; exact Quiet.refl _ _
  simp only [finish]
  split
  · split
    · exact launchResult_quiet h0 _ rfl
    · exact h0
  · apply Quiet.plan
    split
    · exact launchResult_quiet h0 _ rfl
    · exact h0

/-- The slot stands at its next position. -/
theorem finish_slot (o : Opnds) (r : Issued) : (finish o r).slot o.slot = advance (r.st.slot o.slot) o.op r.jump := by
  simp only [finish]
  repeat' split
  all_goals simp [State.launchResult]

/-- The results in flight afterwards. -/
theorem finish_flight (o : Opnds) (r : Issued) : ((finish o r).elem (veOfSlot o.slot)).flight
    = (r.st.elem (veOfSlot o.slot)).flight ++ (match r.res with
      | some (k, lat, d) => [resultOf o r.st.mcnt k lat d]
      | none => []) := by
  simp only [finish]
  split <;> split <;> simp [State.launchResult, resultOf, *]

/-- The iterative unit of the element is as the instruction's own effect left it. -/
theorem finish_iter (o : Opnds) (r : Issued) : ((finish o r).elem (veOfSlot o.slot)).iterUntil
    = (r.st.elem (veOfSlot o.slot)).iterUntil := by
  simp only [finish]
  split <;> split <;> simp [State.launchResult, resultOf]

/-- The result's completion stands on the agenda. -/
theorem finish_done (o : Opnds) (r : Issued) (k : DestKind) (lat : Nat) (d : Delivery) (h : r.res = some (k, lat, d)) :
    { time := 16 * (r.st.mcnt + lat - 1) + rkComplete, act := .ev .resultCompletion (Arg.of o.slot o.seq 0 0 0) }
      ∈ (finish o r).agenda := by
  simp only [finish, h]
  split <;> simp [State.launchResult, resultOf]

/-- The slot's next issue stands on the agenda, unless the instruction ends its issue. -/
theorem finish_next (o : Opnds) (r : Issued) (hs : r.stop = false) (hv : o.ve = veOfSlot o.slot) :
    { time := 16 * r.st.turnOf o.slot (r.st.mcnt + (o.op.gap.toNat + 1) * (r.st.elem o.ve).wheel) + rkIssue (veOfSlot o.slot)
      act := .issue o.slot } ∈ (finish o r).agenda := by
  have hq : Quiet o.slot r.st (finish o { r with stop := true }) := finish_quiet o { r with stop := true }
  have he : finish o r = (finish o { r with stop := true }).planIssue o.slot ((finish o { r with stop := true }).mcnt
      + (o.op.gap.toNat + 1) * ((finish o { r with stop := true }).elem o.ve).wheel) := by
    simp only [finish, hs, if_true, Bool.false_eq_true, if_false]
  rw [he, State.planIssue_eq, mem_plan, hq.mcnt, hq.wheel, hq.turnOf]
  exact Or.inl rfl

/-! ## The two ordinary shapes of an issue -/

/-- A ready instruction whose body has a result and no effect but on its element's iterative unit delivers it. -/
theorem delivers_of {s : State} {maj : Nat} {op : Op} (h : Ready s maj op) {body : Opnds → State → Issued} {u : State}
    {kind : DestKind} {lat : Nat} {d : Delivery} {jump : Option (BitVec 11)}
    (hb : body (opndsOf s maj op) (afterPops s op)
      = { st := u, verdict := .done, res := some (kind, lat, d), jump := jump, stop := false })
    (hu : Quiet s.cur (afterPops s op) u) (hs : u.slots = (afterPops s op).slots)
    (hf : (u.elem (veOfSlot s.cur)).flight = ((afterPops s op).elem (veOfSlot s.cur)).flight) :
    Delivers s (issueVE maj op body s) maj op kind lat d jump
      ∧ ((issueVE maj op body s).elem (veOfSlot s.cur)).iterUntil = (u.elem (veOfSlot s.cur)).iterUntil := by
  have hq := queuesOnly_afterPops s op
  have hsu : Quiet s.cur s u := (hq.quiet s.cur).trans hu
  have hslot : u.slot s.cur = s.slot s.cur := by simp only [State.slot, hs, hq.slots]
  rw [issueVE_ready h]
  simp only [hb]
  generalize hr : ({ st := u, verdict := Verdict.done, res := some (kind, lat, d), jump := jump, stop := false } : Issued) = r
  have hst : r.st = u := by rw [← hr]
  have hfin := finish_quiet (opndsOf s maj op) r
  rw [hst] at hfin
  refine ⟨⟨?_, ?_, ?_, ?_, hsu.trans hfin⟩, ?_⟩
  · have := finish_slot (opndsOf s maj op) r
    rw [← hr] at this ⊢; exact this.trans (by rw [show (opndsOf s maj op).slot = s.cur from rfl, hslot]; rfl)
  · have := finish_flight (opndsOf s maj op) r
    rw [← hr] at this ⊢
    exact this.trans (by rw [show (opndsOf s maj op).slot = s.cur from rfl, hf, hq.flight, hsu.mcnt])
  · have := finish_done (opndsOf s maj op) r kind lat d (by rw [← hr])
    rw [hst, hsu.mcnt] at this; exact this
  · have := finish_next (opndsOf s maj op) r (by rw [← hr]) rfl
    rw [hst, hsu.mcnt, hsu.wheel, hsu.turnOf] at this; exact this
  · have := finish_iter (opndsOf s maj op) r
    rw [hst] at this; exact this

/-- A ready instruction whose body has neither result nor effect passes. -/
theorem passes_of {s : State} {maj : Nat} {op : Op} (h : Ready s maj op) {body : Opnds → State → Issued}
    {jump : Option (BitVec 11)}
    (hb : body (opndsOf s maj op) (afterPops s op)
      = { st := afterPops s op, verdict := .done, res := none, jump := jump, stop := false }) :
    Passes s (issueVE maj op body s) op jump := by
  have hq := queuesOnly_afterPops s op
  have hsu : Quiet s.cur s (afterPops s op) := hq.quiet s.cur
  have hslot : (afterPops s op).slot s.cur = s.slot s.cur := by simp only [State.slot, hq.slots]
  rw [issueVE_ready h]
  simp only [hb]
  generalize hr : ({ st := afterPops s op, verdict := Verdict.done, res := none, jump := jump, stop := false } : Issued) = r
  have hst : r.st = afterPops s op := by rw [← hr]
  have hfin := finish_quiet (opndsOf s maj op) r
  rw [hst] at hfin
  refine ⟨?_, ?_, ?_, ?_, hsu.trans hfin⟩
  · have := finish_slot (opndsOf s maj op) r
    rw [← hr] at this ⊢; exact this.trans (by rw [show (opndsOf s maj op).slot = s.cur from rfl, hslot]; rfl)
  · have := finish_flight (opndsOf s maj op) r
    rw [← hr] at this ⊢
    exact this.trans (by simp only [List.append_nil, show (opndsOf s maj op).slot = s.cur from rfl, hq.flight])
  · have := finish_iter (opndsOf s maj op) r
    rw [hst] at this; exact this.trans (hq.iterUntil _)
  · have := finish_next (opndsOf s maj op) r (by rw [← hr]) rfl
    rw [hst, hsu.mcnt, hsu.wheel, hsu.turnOf] at this; exact this

/-- A ready instruction whose body ends well with an effect `u`, in no time, acts so. -/
theorem acts_of {s : State} {maj : Nat} {op : Op} (h : Ready s maj op) {body : Opnds → State → Issued} {u : State}
    {res : Option Res} (hb : body (opndsOf s maj op) (afterPops s op)
      = { st := u, verdict := .done, res := res, jump := none, stop := false })
    (hm : u.mcnt = s.mcnt) : Acts s (issueVE maj op body s) maj op u res := by
  rw [issueVE_ready h]
  simp only [hb]
  generalize hr : ({ st := u, verdict := Verdict.done, res := res, jump := none, stop := false } : Issued) = r
  have hst : r.st = u := by rw [← hr]
  have hfin := finish_quiet (opndsOf s maj op) r
  rw [hst] at hfin
  refine ⟨?_, ?_, ?_, ?_, hm, hfin⟩
  · have := finish_slot (opndsOf s maj op) r
    rw [← hr] at this ⊢; exact this
  · have := finish_flight (opndsOf s maj op) r
    rw [← hr] at this ⊢; rw [← hm]; exact this
  · rintro ⟨k, lat, d⟩ hres
    have := finish_done (opndsOf s maj op) r k lat d (by rw [← hr]; exact hres)
    rw [hst, hm] at this; exact this
  · have := finish_next (opndsOf s maj op) r (by rw [← hr]) rfl
    rw [hst] at this; exact this

/-- A lane-wise instruction delivers its lanes. -/
theorem aluVE_delivers {s : State} {maj : Nat} {op : Op} (h : Ready s maj op) (lat : Nat) (f : State → Opnds → Nat → Word × Flags) :
    Delivers s (aluVE maj lat op f s) maj op .value lat (perLane (opndsOf s maj op) (f s (opndsOf s maj op))) :=
  (delivers_of h (body := fun o s1 => Issued.value s1 lat (perLane o (f s o))) rfl (Quiet.refl _ _) rfl rfl).1

/-- A compare-class instruction delivers its mask. -/
theorem cmpVE_delivers {s : State} {maj : Nat} {op : Op} (h : Ready s maj op) (m : State → Opnds → Nat → Bool × Flags) :
    Delivers s (cmpVE maj op m s) maj op .predicate 2
      (maskOut (opndsOf s maj op) (fun l => (m s (opndsOf s maj op) l).1) (fun l => (m s (opndsOf s maj op) l).2)) :=
  (delivers_of h (body := fun o s1 => { Issued.only s1 with
    res := some (.predicate, 2, maskOut o (fun l => (m s o l).1) (fun l => (m s o l).2)) }) rfl (Quiet.refl _ _) rfl rfl).1

/-- An instruction of the iterative unit delivers its lanes and holds the unit. -/
theorem iterVE_delivers {s : State} {maj : Nat} {op : Op} (h : Ready s maj op) (lat int : Nat) (f : State → Opnds → Nat → Word × Flags) :
    Delivers s (iterVE maj lat int op f s) maj op .value lat (perLane (opndsOf s maj op) (f s (opndsOf s maj op)))
      ∧ ((iterVE maj lat int op f s).elem (veOfSlot s.cur)).iterUntil = s.mcnt + int := by
  have := delivers_of h (body := fun o s1 =>
    Issued.value (s1.modElem o.ve (fun e => { e with iterUntil := s.mcnt + int })) lat (perLane o (f s o))) rfl
    (Quiet.setElem (n := s.cur) (Quiet.refl _ _) _ rfl) rfl (by simp [opndsOf, State.operands])
  exact ⟨this.1, this.2.trans (by simp [opndsOf, State.operands])⟩

end Sys2Proof.Machine
end

