-- ==== Sys2Proof/Laws/Memory.lean ====
section
/-! SUPPORT. Laws of memory: a byte read back after a write, other bytes unchanged, and the canonical form kept by every
memory operation. -/

namespace Sys2Proof.Machine

/-! ## One byte -/

/-- In canonical memory an address below the first entry reads as unlisted. -/
theorem readByte_below {l : List Host.Cell} (h : Memory.wf l = true) {a : Nat} (hl : ∀ c ∈ l.head?, a < c.1) :
    readByte l a = unlisted := by
  induction l with
  | nil => rfl
  | cons c r ih =>
    have hc : a < c.1 := hl c rfl
    simp only [readByte, if_neg (Nat.ne_of_gt hc)]
    cases r with
    | nil => rfl
    | cons d r =>
      simp only [Memory.wf, Bool.and_eq_true, decide_eq_true_eq] at h
      exact ih h.2 (by rintro e ⟨⟩; omega)

/-- The canonical form of the rest. -/
theorem wf_tail {c : Host.Cell} {r : List Host.Cell} (h : Memory.wf (c :: r) = true) : Memory.wf r = true := by
  cases r with
  | nil => rfl
  | cons d r => simp only [Memory.wf, Bool.and_eq_true] at h; exact h.2

/-- A canonical list from its first entry and the rest. -/
theorem wf_cons {c : Host.Cell} {r : List Host.Cell} (hb : c.2 ≠ unlisted) (hr : Memory.wf r = true)
    (hl : ∀ d ∈ r.head?, c.1 < d.1) : Memory.wf (c :: r) = true := by
  cases r with
  | nil => simpa [Memory.wf] using hb
  | cons d r => simp only [Memory.wf, Bool.and_eq_true, decide_eq_true_eq]; exact ⟨⟨by simpa using hb, hl d rfl⟩, hr⟩

/-- The first entry of a canonical list is listed, and lies below the next. -/
theorem wf_head {c : Host.Cell} {r : List Host.Cell} (h : Memory.wf (c :: r) = true) :
    c.2 ≠ unlisted ∧ ∀ d ∈ r.head?, c.1 < d.1 := by
  cases r with
  | nil => exact ⟨by simpa [Memory.wf] using h, by simp⟩
  | cons d r =>
    simp only [Memory.wf, Bool.and_eq_true, decide_eq_true_eq] at h
    exact ⟨by simpa using h.1.1, by rintro e ⟨⟩; exact h.1.2⟩

/-- The first address of a list after a write. -/
theorem head_writeByte (l : List Host.Cell) (a : Nat) (b : BitVec 8) (k : Nat) (hk : k < a)
    (h : ∀ c ∈ l.head?, k < c.1) (hw : Memory.wf l = true) : ∀ c ∈ (writeByte l a b).head?, k < c.1 := by
  cases l with
  | nil => simp only [writeByte]; split <;> simp_all
  | cons d r =>
    have hd : k < d.1 := h d rfl
    simp only [writeByte]
    split
    · split <;> simp [hk, hd]
    · split
      · split
        · intro c hc; exact Nat.lt_trans hd ((wf_head hw).2 c hc)
        · simp [hk]
      · simp [hd]

/-- A byte write keeps the canonical form. -/
theorem wf_writeByte {l : List Host.Cell} (h : Memory.wf l = true) (a : Nat) (b : BitVec 8) :
    Memory.wf (writeByte l a b) = true := by
  induction l with
  | nil => simp only [writeByte]; split <;> simp_all [Memory.wf]
  | cons c r ih =>
    simp only [writeByte]
    split
    · split
      · exact h
      · rename_i h1 h2; exact wf_cons h2 h (by rintro d ⟨⟩; exact h1)
    · split
      · rename_i h1 h2
        split
        · exact wf_tail h
        · rename_i h3; exact wf_cons h3 (wf_tail h) (fun d hd => h2 ▸ (wf_head h).2 d hd)
      · rename_i h1 h2
        exact wf_cons (wf_head h).1 (ih (wf_tail h))
          (head_writeByte r a b c.1 (by omega) (wf_head h).2 (wf_tail h))

/-- A byte reads as it was written, and no other byte changes. -/
theorem readByte_writeByte {l : List Host.Cell} (h : Memory.wf l = true) (a k : Nat) (b : BitVec 8) :
    readByte (writeByte l a b) k = if k = a then b else readByte l k := by
  induction l with
  | nil =>
    simp only [writeByte]
    by_cases hb : b = unlisted <;> by_cases hk : k = a <;> simp [readByte, hb, hk, eq_comm (a := a)]
  | cons c r ih =>
    simp only [writeByte]
    split
    · rename_i h1
      have hb : readByte (c :: r) a = unlisted := readByte_below h (by rintro d ⟨⟩; exact h1)
      split
      · rename_i h2; split
        · rename_i h3; subst h3; rw [hb, h2]
        · rfl
      · rw [readByte]; simp only [eq_comm]
    · split
      · rename_i h1 h2
        have hb : readByte r a = unlisted :=
          readByte_below (wf_tail h) (fun d hd => h2 ▸ (wf_head h).2 d hd)
        split
        · rename_i h3; split
          · rename_i h4; subst h4; rw [hb, h3]
          · rename_i h4; rw [readByte, if_neg (by omega)]
        · rw [readByte]
          by_cases hk : k = a
          · simp [hk]
          · rw [if_neg (Ne.symm hk), if_neg hk, readByte, if_neg (by omega)]
      · rename_i h1 h2
        rw [readByte, ih (wf_tail h), readByte]
        by_cases hk : k = a
        · subst hk; simp [h2]
        · simp [hk]

/-! ## Runs of bytes -/

theorem wf_writeNat {l : List Host.Cell} (h : Memory.wf l = true) (a v n : Nat) :
    Memory.wf (writeNat l a v n) = true := by
  induction n generalizing l a v with
  | zero => exact h
  | succ n ih => exact ih (wf_writeByte h a _) (a + 1) (v / 256)

theorem wf_writeBytes {l : List Host.Cell} (h : Memory.wf l = true) (a : Nat) (bs : List (BitVec 8)) :
    Memory.wf (writeBytes l a bs) = true := by
  induction bs generalizing l a with
  | nil => exact h
  | cons b r ih => exact ih (wf_writeByte h a b) (a + 1)

/-- Dropping entries keeps the canonical form. -/
theorem wf_filter {l : List Host.Cell} (h : Memory.wf l = true) (p : Host.Cell → Bool) :
    Memory.wf (l.filter p) = true ∧ ∀ k, (∀ c ∈ l.head?, k < c.1) → ∀ c ∈ (l.filter p).head?, k < c.1 := by
  induction l with
  | nil => exact ⟨rfl, by simp⟩
  | cons c r ih =>
    obtain ⟨h1, h2⟩ := ih (wf_tail h)
    obtain ⟨h3, h4⟩ := wf_head h
    by_cases hp : p c = true
    · rw [List.filter_cons_of_pos hp]
      exact ⟨wf_cons h3 h1 (h2 c.1 h4), by rintro k hk d ⟨⟩; exact hk _ rfl⟩
    · rw [List.filter_cons_of_neg hp]
      refine ⟨h1, fun k hk d hd => h2 k (fun e he => ?_) d hd⟩
      exact Nat.lt_trans (hk c rfl) (h4 e he)

theorem wf_write {s : State} (h : Memory.wf s.mem = true) (a v n : Nat) : Memory.wf (s.write a v n).mem = true :=
  wf_writeNat h a v n

theorem wf_writeLanes {s : State} (h : Memory.wf s.mem = true) (a : Nat) (m : Mask) (v : Vec) (n : Nat) :
    Memory.wf (writeLanes s a m v n).mem = true := by
  induction n with
  | zero => exact h
  | succ n ih =>
    simp only [writeLanes]
    split
    · exact wf_write ih _ _ _
    · exact ih

theorem wf_writeTok {s : State} (h : Memory.wf s.mem = true) (a : Nat) (t : Token) :
    Memory.wf (s.writeTok a t).mem = true := by
  simp only [State.writeTok]; split <;> exact wf_writeLanes h a _ _ 16

theorem wf_storeParts {m : List Host.Cell} (h : Memory.wf m = true) (ps : List Part) : Memory.wf (storeParts m ps) = true := by
  induction ps generalizing m with
  | nil => exact h
  | cons p r ih => exact ih (wf_writeNat h _ _ _)

theorem wf_scatter {s : State} (h : Memory.wf s.mem = true) (b : Bool) (ps : List Part) : Memory.wf (scatter s b ps).mem = true :=
  wf_storeParts h ps

/-- Bytes outside a run that is written read as before. -/
theorem readByte_writeNat {l : List Host.Cell} (h : Memory.wf l = true) (a v n k : Nat) (hk : k < a ∨ a + n ≤ k) :
    readByte (writeNat l a v n) k = readByte l k := by
  induction n generalizing l a v with
  | zero => rfl
  | succ n ih =>
    rw [writeNat, ih (wf_writeByte h a _) (a + 1) (v / 256) (by omega), readByte_writeByte h, if_neg (by omega)]

/-- Bytes outside every part of a token event read as before. -/
theorem readByte_storeParts {m : List Host.Cell} (h : Memory.wf m = true) (ps : List Part) (k : Nat)
    (hk : ∀ p ∈ ps, k < p.pa ∨ p.pa + p.n ≤ k) : readByte (storeParts m ps) k = readByte m k := by
  induction ps generalizing m with
  | nil => rfl
  | cons p r ih =>
    rw [storeParts, ih (wf_writeNat h _ _ _) (fun q hq => hk q (List.mem_cons_of_mem _ hq)),
      readByte_writeNat h _ _ _ _ (hk p List.mem_cons_self)]

end Sys2Proof.Machine
end

