-- ==== Sys2Proof/Laws/Shapes.lean ====
section
/-! SUPPORT. The common forms of a statement about an instruction, each from the equation that its meaning satisfies. -/

namespace Sys2Proof.Machine

theorem mcnt_afterPops (s : State) (op : Op) : (afterPops s op).mcnt = s.mcnt := ((queuesOnly_afterPops s op).quiet 0).mcnt
theorem cur_afterPops (s : State) (op : Op) : (afterPops s op).cur = s.cur := ((queuesOnly_afterPops s op).quiet 0).cur
theorem mem_afterPops (s : State) (op : Op) : (afterPops s op).mem = s.mem := ((queuesOnly_afterPops s op).quiet 0).mem
theorem slot_afterPops (s : State) (op : Op) (n : Nat) : (afterPops s op).slot n = s.slot n := by
  simp only [State.slot, (queuesOnly_afterPops s op).slots]

/-- A lane-wise instruction yields. -/
theorem yields_alu {i : Op → Instr} {maj lat : Nat} {f : Op → State → Opnds → Nat → Word × Flags}
    (h : ∀ op s, exec (i op) s = .next (aluVE maj lat op (f op) s)) : Yields i maj lat f :=
  fun s op hr => ⟨_, h op s, aluVE_delivers hr lat _⟩

theorem yields_iter {i : Op → Instr} {maj lat int : Nat} {f : Op → State → Opnds → Nat → Word × Flags}
    (h : ∀ op s, exec (i op) s = .next (iterVE maj lat int op (f op) s)) : YieldsIter i maj lat int f :=
  fun s op hr => ⟨_, h op s, iterVE_delivers hr lat int _⟩

theorem yields_cmp {i : Op → Instr} {maj : Nat} {f : Op → State → Opnds → Nat → Bool × Flags}
    (h : ∀ op s, exec (i op) s = .next (cmpVE maj op (f op) s)) : YieldsMask i maj f :=
  fun s op hr => ⟨_, h op s, cmpVE_delivers hr _⟩

theorem yields_one {i : Op → Instr} {maj : Nat} {lat : Op → Nat} {f : Op → State → Opnds → Delivery}
    (h : ∀ op s, exec (i op) s = .next (issueVE maj op (fun o s1 => Issued.value s1 (lat op) (f op s1 o)) s)) : YieldsOne i maj lat f :=
  fun s op hr => ⟨_, h op s, (delivers_of hr (body := fun o s1 => Issued.value s1 (lat op) (f op s1 o)) rfl (Quiet.refl _ _) rfl rfl).1⟩

/-- An instruction that acts only when a lane is on, where its condition holds. -/
theorem does_of {i : Op → Instr} {maj : Nat} {c : Op → State → Opnds → Prop} {u : Op → Opnds → State → State}
    {f : Op → Opnds → State → Issued} (h : ∀ op s, exec (i op) s = .next (actVE maj op (f op) s))
    (hc : ∀ op p o, c op p o → f op o p = Issued.only (u op o p)) (hm : ∀ op o p, (u op o p).mcnt = p.mcnt) : Does i maj c u := by
  intro s op hr ho hp
  refine ⟨_, h op s, acts_of hr ?_ ((hm _ _ _).trans (mcnt_afterPops s op))⟩
  simp only [ho, if_true, hc _ _ _ hp]
  rfl

/-- With every lane off it passes. -/
theorem idle_of {i : Op → Instr} {maj : Nat} {f : Op → Opnds → State → Issued}
    (h : ∀ op s, exec (i op) s = .next (actVE maj op (f op) s)) : IdleWhenOff i maj := by
  intro s op hr ho
  refine ⟨_, h op s, passes_of hr ?_⟩
  simp only [ho, Bool.false_eq_true, if_false]
  rfl

/-- An instruction that waits passes when it is not held. -/
theorem passes_unless {i : Op → Instr} {maj : Nat} {held : State → Opnds → Bool} {hold : Opnds → State → Bool}
    {v : Op → Opnds → State → Issued}
    (h : ∀ op s, exec (i op) s = .next (actVE maj op (fun o p => if hold o p then v op o p else Issued.only p) s))
    (hh : ∀ p o, held p o = (o.on && hold o p)) : PassesUnless i maj held := by
  intro s op hr ho
  refine ⟨_, h op s, passes_of hr ?_⟩
  rw [hh] at ho
  cases hon : (opndsOf s maj op).on
  · simp only [Bool.false_eq_true, if_false]
    rfl
  · simp only [hon, Bool.true_and] at ho
    simp only [if_true, ho, Bool.false_eq_true, if_false]
    rfl

end Sys2Proof.Machine
end

