-- ==== Sys2Proof/Tests/Slice0.lean ====
section
/-! SUPPORT. Small tests: what the checks refuse, words written out from the spec's encodings, one step on small states, worked
figures of the spec, and for each statement about the machine a state and operands that meet what it supposes. -/

namespace Sys2Proof.Tests

open Sys2Proof.Machine

/-! ## What the checks refuse (R20, R32, R69, R71, R85, R98, R121, R202) -/

/-- A triplet in sequenced form with every word present. -/
def triple (var pred acls bcls dcls : Nat) (raw : BitVec 16) (lit : Word) : Op :=
  { var := BitVec.ofNat 3 var, pred := BitVec.ofNat 3 pred, pinv := false, acls := BitVec.ofNat 3 acls, bcls := BitVec.ofNat 3 bcls
    dcls := BitVec.ofNat 3 dcls, gap := 0, form := .long 0 raw lit }

def refusal (r : Except IllFormed Instr) : Option IllFormed :=
  match r with
  | .ok _ => none
  | .error e => some e

def accepted (r : Except IllFormed Instr) : Option Instr :=
  match r with
  | .ok i => some i
  | .error _ => none

theorem test_refuses_reserved_length : refusal (decodeSeq [0xC020_1C69, 0, 0]) = some .reservedLength := by decide
theorem test_refuses_truncated : refusal (decodeSeq [0x8120_1C69, 0x2080]) = some .truncated := by decide
theorem test_refuses_ring_reserved : refusal (decodeRing 0x4088_5D3B 0x80 0) = some .ringReserved := by decide
theorem test_refuses_unassigned_major : refusal (decodeSeq [0x00FF_1C00]) = some .unassignedMajor := by decide
theorem test_refuses_unassigned_variant : (Instr.callI (triple 1 7 5 7 7 0 0)).illFormed = some .unassignedVariant := by decide
theorem test_refuses_wrong_constructor : (Instr.barArv (triple 1 7 5 7 7 0 0)).illFormed = some .unassignedVariant := by decide
theorem test_refuses_classes : (Instr.iadd (triple 0 7 6 1 1 0 0)).illFormed = some .classCombination := by decide
theorem test_refuses_predicate : (Instr.nop (triple 0 7 0 0 0 0 0)).illFormed = some .predicateField := by decide
theorem test_refuses_form : (Instr.loopI { triple 0 7 1 5 7 0 0 with form := .mid 0 0 }).illFormed = some .formNotAllowed := by decide
theorem test_refuses_index : (Instr.iadd (triple 0 7 2 1 1 0x0200 0)).illFormed = some .indexRange := by decide
theorem test_refuses_special : (Instr.mfsr (triple 0 7 7 7 1 0x0640 0)).illFormed = some .specialRegister := by decide
theorem test_refuses_addend : (Instr.ffma (triple 0 7 0 0 3 0 0)).illFormed = some .addend := by decide
theorem test_refuses_relation : (Instr.hcmp (triple 1 7 0 5 0 0x000C 0)).illFormed = some .relation := by decide
theorem test_refuses_event : Instr.linkBeatReceive.illFormed = some .notAnInstruction := by decide
theorem test_refuses_teller_opcode : refusal (decodeTeller 0x7000_0000) = some .tellerOpcode := by decide
theorem test_refuses_teller_reserved : refusal (decodeTeller 0x1078_8001) = some .tellerReserved := by decide
theorem test_refuses_word_count : refusal (decodeAs (.tellerPrea 0) []) = some .wordLength := by decide

/-! ## Words written out from the encodings (R61, R64, R69, R71, R72, R202) -/

def opw (var pred acls bcls dcls : Nat) (gap : Nat) (form : Form) : Op :=
  { var := BitVec.ofNat 3 var, pred := BitVec.ofNat 3 pred, pinv := false, acls := BitVec.ofNat 3 acls, bcls := BitVec.ofNat 3 bcls
    dcls := BitVec.ofNat 3 dcls, gap := BitVec.ofNat 6 gap, form := form }

theorem test_word_plog_andn : accepted (decodeSeq [0x400A_7C00, 0x0846]) = some (.plog (opw 3 7 0 0 0 0 (.mid 0 0x0846))) := by decide
theorem test_word_trap : accepted (decodeSeq [0x800E_1D7F, 0, 5]) = some (.trapI (opw 0 7 5 7 7 0 (.long 0 0 5))) := by decide
theorem test_word_mfsr_tick : accepted (decodeSeq [0x400C_1DF9, 0x2080]) = some (.mfsr (opw 0 7 7 7 1 0 (.mid 0 0x2080))) := by decide
theorem test_word_course : accepted (decodeSeq [0x8011_1D7F, 0, 1]) = some (.course (opw 0 7 5 7 7 0 (.long 0 0 1))) := by decide
theorem test_word_cfg_wr : accepted (decodeSeq [0x401B_3C47, 0x44A]) = some (.cfgWr (opw 1 7 1 0 7 0 (.mid 0 0x44A))) := by decide
theorem test_word_cfg_seal : accepted (decodeSeq [0x401B_5C4F, 0x3D8]) = some (.cfgSeal (opw 2 7 1 1 7 0 (.mid 0 0x3D8))) := by decide
theorem test_word_iadd : accepted (decodeSeq [0x8120_1C69, 0x2080, 0x1F]) = some (.iadd (opw 0 7 1 5 1 1 (.long 0 0x2080 0x1F))) := by decide
theorem test_word_ineg : accepted (decodeSeq [0x4126_1C79, 0x2940]) = some (.ineg (opw 0 7 1 7 1 1 (.mid 0 0x2940))) := by decide
theorem test_word_icmp : accepted (decodeSeq [0x803A_4A28, 0x2900, 0x64]) = some (.icmp { opw 2 2 0 5 0 0 (.long 0 0x2900 0x64) with pinv := true }) := by decide
theorem test_word_fmul : accepted (decodeSeq [0x4052_1D00, 0x8000_4000]) = some (.fmul (opw 0 7 4 0 0 0 (.mid 0x8000 0x4000))) := by decide
theorem test_word_hcmp : accepted (decodeSeq [0x8066_3C28, 0x1044, 0x3C00_3C00]) = some (.hcmp (opw 1 7 0 5 0 0 (.long 0 0x1044 0x3C00_3C00))) := by decide
theorem test_word_bcast : accepted (decodeSeq [0x4091_1C08, 0x3006]) = some (.bcast (opw 0 7 0 1 0 0 (.mid 0 0x3006))) := by decide
theorem test_word_ld : accepted (decodeSeq [0x80A0_1DA8, 0x2880, 0x40]) = some (.ld (opw 0 7 6 5 0 0 (.long 0 0x2880 0x40))) := by decide
theorem test_word_acas : accepted (decodeSeq [0x40B8_1D89, 0x38D2]) = some (.acas (opw 0 7 6 1 1 0 (.mid 0 0x38D2))) := by decide
theorem test_word_bar_wait : accepted (decodeSeq [0x80C0_3D4F, 0x0A, 0]) = some (.barWait (opw 1 7 5 1 7 0 (.long 0 0x000A 0))) := by decide
theorem test_word_mxact : accepted (decodeSeq [0x40D2_1C6F, 0x0104]) = some (.mxact (opw 0 7 1 5 7 0 (.mid 0 0x0104))) := by decide
theorem test_word_lsweep : accepted (decodeSeq [0x80E4_1D7F, 0, 0x64]) = some (.lsweep (opw 0 7 5 7 7 0 (.long 0 0 0x64))) := by decide
theorem test_word_lclamp : accepted (decodeSeq [0x40E3_1C0F, 0x4C]) = some (.lclamp (opw 0 7 0 1 7 0 (.mid 0 0x4C))) := by decide
theorem test_word_cpyat : accepted (decodeSeq [0x80E9_1C6F, 0x80, 0xC8]) = some (.cpyat (opw 0 7 1 5 7 0 (.long 0 0x80 0xC8))) := by decide
theorem test_word_qblk : accepted (decodeRing 0x0088_5D3B 0x80 0) = some (.qblk (opw 2 7 4 7 3 0 (.ring 0x80 0))) := by decide
theorem test_word_teller_act : decodeTableWord 32 0x0800_8000 = some (.tellerAct 0 2 0) := by decide
theorem test_word_teller_rda : decodeTableWord 32 0x18CC_8700 = some (.tellerRda 51 2 7) := by decide

theorem test_encode_iadd : encode (.iadd (opw 0 7 1 5 1 1 (.long 0 0x2080 0x1F))) = [0x8120_1C69, 0x2080, 0x1F] := by decide
theorem test_encode_teller_rd : encode (.tellerRd 30 2 0) = [0x1078_8000] := by decide
theorem test_encode_ring : encode (.qblk (opw 2 7 4 7 3 0 (.ring 0x80 0))) = [0x0088_5D3B, 0x0080_0000] := by decide

/-! ## A slot that may issue -/

/-- Slot 0 of VE 4 of tile (0, 0) of die 0, a Helm-region tile, runs and has the turn. -/
def ready : State := { State.reset with cur := 32, slots := [(32, { Slot.reset with st := .running })] }

/-- An operation of a major opcode in its first legal form, in sequenced mode with all three words. -/
def first (maj : Nat) : Op :=
  if maj = 0x66 then triple 1 7 0 5 0 0x1044 0x3C00_3C00
  else match formsOf maj with
  | r :: _ => triple (r.vars.headD 0) (if maj = 0 then 0 else 7) (r.a.headD 0) (r.b.headD 0) (r.d.headD 0) (if maj = 0x0D then 0x4800 else 0) 0
  | [] => triple 0 7 7 7 7 0 0

def majors : List Nat := (List.range 256).filter (fun m => !(formsOf m).isEmpty)

theorem test_majors : majors.length = 156 := by decide +kernel
theorem test_gates : majors.all (fun m => gate ready 32 m (first m) == .go) = true := by decide +kernel

/-- Every major opcode has an operation that may issue: the premise of every statement about an instruction is met. -/
theorem test_meets_ready (m : Nat) (h : m ∈ majors) : Ready ready m (first m) := by
  refine ready_of_gate ?_
  exact beq_iff_eq.mp (List.all_eq_true.mp test_gates m h)

/-- With every lane off it may issue too. -/
def firstOff (maj : Nat) : Op := { first maj with pinv := true }

theorem test_gates_off : (majors.filter (fun m => m != 0x00 && m != 0x88)).all (fun m =>
    gate ready 32 m (firstOff m) == .go && (opndsOf ready m (firstOff m)).on == false) = true := by decide +kernel

theorem test_meets_off (m : Nat) (h : m ∈ majors.filter (fun m => m != 0x00 && m != 0x88)) :
    Ready ready m (firstOff m) ∧ (opndsOf ready m (firstOff m)).on = false := by
  have := List.all_eq_true.mp test_gates_off m h
  simp only [Bool.and_eq_true, beq_iff_eq] at this
  exact ⟨ready_of_gate this.1, this.2⟩

theorem test_gates_on : (majors.filter (fun m => m != 0x00)).all (fun m => (opndsOf ready m (first m)).on) = true := by decide +kernel

/-! ## What statements about instructions suppose further -/

/-- A capability for 4,096 bytes from 0 of object 0 with every right. -/
def someCap : BitVec 128 := BitVec.ofNat 128 (0xFF * 2 ^ 100 + 0x1000 * 2 ^ 40)

/-- Slot 0 of VE 4 of tile (2, 0) runs for context 0 at level D; object 0 lies in the scratchpad of an adjacent ME. -/
def placed : State := { State.reset with
  cur := 160
  slots := [(160, { Slot.reset with st := .running, c := [(0, someCap)] })]
  tiles := [(2, { Tile.reset with
    ctx := some 0, ocache := [{ ctx := 0, obj := 0, gen := 0, words := [0x8000_0000, 0, 0, 0x1000, 0, 0x1000, 0, 0] }] })]
  ctxs := [(0, { Ctx.reset with live := true, otlen := 1 })] }

def op7 (var acls bcls dcls : Nat) : Op := triple var 7 acls bcls dcls 0 0

theorem test_meets_access_hit : Ready placed 0xA0 (op7 1 6 7 1) ∧ (opndsOf placed 0xA0 (op7 1 6 7 1)).on = true
    ∧ checkAccess (afterPops placed (op7 1 6 7 1)) (opndsOf placed 0xA0 (op7 1 6 7 1)) 0xA0 = .hit 4 (padAddr 20 0) 0
    ∧ orderBlocks (afterPops placed (op7 1 6 7 1)) 160 4 0 (padAddr 20 0) 4 = false
    ∧ accepts (afterPops placed (op7 1 6 7 1)) (opndsOf placed 0xA0 (op7 1 6 7 1)) 4 (banksOf 4 (padAddr 20 0)) = true
    ∧ releaseOut (afterPops placed (op7 1 6 7 1)) 160 = false :=
  ⟨ready_of_gate (by decide +kernel), by decide +kernel⟩
theorem test_meets_rights_missing : hasRights (opndsOf ready 0xA0 (first 0xA0)).cap (accessNeed 0xA0) = false := by decide +kernel
theorem test_meets_misaligned :
    let s := { placed with elems := [(20, { Elem.reset with ps := [(0, 2)] })] }
    Ready s 0xA1 (op7 1 6 0 7) ∧ hasRights (opndsOf s 0xA1 (op7 1 6 0 7)).cap (accessNeed 0xA1) = true
      ∧ eaOf 0xA1 (opndsOf s 0xA1 (op7 1 6 0 7)) % 4 ≠ 0 :=
  ⟨ready_of_gate (by decide +kernel), by decide +kernel⟩
theorem test_meets_out_of_bounds :
    let s := { placed with elems := [(20, { Elem.reset with ps := [(0, 0x1000)] })] }
    Ready s 0xA1 (op7 1 6 0 7) ∧ hasRights (opndsOf s 0xA1 (op7 1 6 0 7)).cap (accessNeed 0xA1) = true
      ∧ eaOf 0xA1 (opndsOf s 0xA1 (op7 1 6 0 7)) % 4 = 0 ∧ capHi (opndsOf s 0xA1 (op7 1 6 0 7)).cap < eaOf 0xA1 (opndsOf s 0xA1 (op7 1 6 0 7)) + 4 :=
  ⟨ready_of_gate (by decide +kernel), by decide +kernel⟩
theorem test_meets_bounds : cbndBounds 0 someCap (splat 4) = some (4, 0x1000) := by decide +kernel

/-- A slot with a pre-emption request that is due, and one that it stands in a hold of. -/
def asked : State := { ready with slots := [(32, { Slot.reset with st := .running, preempt := some 0 })] }

theorem test_meets_preempt : Ready asked 0x08 (first 0x08) ∧ asked.levelOf (tileOfSlot 32) ≠ .t ∧ (opndsOf asked 0x08 (first 0x08)).mask ≠ 0#16
    ∧ preemptDue asked 32 = true ∧ groupSafe (afterPops asked (first 0x08)) 32 = true ∧ preemptDue ready 32 = false :=
  ⟨ready_of_gate (by decide +kernel), by decide +kernel⟩

/-- A copy of slot 32 on channel 0 of tile 0 that has not begun. -/
def aCopy : Copy :=
  { tile := 0, lt := 0, chan := 0, tmpl := 0, slot := 32, bound := 0, ws := [], begin_ := 0, order := 0, seq := 0, running := false, read := 0
    held := [], wr := 0, acc := 0, done := 0, lim := 0, posted := 0, resv := 0, at_ := [], half := [], stop := none, sdram := false, ddram := false, tl := 0, holder := none }

theorem test_meets_holds :
    let tick := { first 0x10 with acls := 5, bcls := 7, form := .long 0 0 1 }
    let mcnt := { op7 1 1 1 7 with form := .long 0 0 0 }
    let s := { ready with elems := [(4, { Elem.reset with ps := [(0, 1)] })] }
    let u := { ready with copies := [(0, aCopy)] }
    waitTickHeld (afterPops ready tick) (opndsOf ready 0x10 tick) = true ∧ waitMcntHeld (afterPops s mcnt) (opndsOf s 0x10 mcnt) = true
    ∧ barWaitHeld (afterPops ready (op7 1 5 7 7)) (opndsOf ready 0xC0 (op7 1 5 7 7)) = true
    ∧ ctrWaitHeld (afterPops ready (op7 2 5 7 7)) (opndsOf ready 0xC1 (op7 2 5 7 7)) = true
    ∧ ((afterPops ready (op7 0 7 7 0)).records (opndsOf ready 0xC2 (op7 0 7 7 0)).tile).isEmpty = true
    ∧ cpybHeld (afterPops u (op7 0 5 7 7)) (opndsOf u 0xED (op7 0 5 7 7)) = true
    ∧ waitTickHeld (afterPops ready (op7 0 5 7 7)) (opndsOf ready 0x10 (op7 0 5 7 7)) = false
    ∧ priorPending (afterPops ready (first 0xA4)) 32 0 = false := by decide +kernel

theorem test_meets_abandon : State.levelOf { placed with ctxs := [(0, { Ctx.reset with level := .t })] } (tileOfSlot 160) = .t
    ∧ placed.levelOf (tileOfSlot 160) ≠ .t := by decide +kernel

theorem test_meets_cfg : cfgTile (opndsOf ready 0x1B (first 0x1B)).sa = some 0 ∧ (ready.cport 0).queue.length < 16 := by decide +kernel
theorem test_meets_helm : (twinTile ready 0).bind (fun u => ready.helm.find? (waitsFor ready 1 0 0 u)) = none
    ∧ (let u := tileAt 3 0 0
       let s := { ready with helm := [(7, { kind := 1, a := 0, b := 0, tile := u, due := 256, twin := none, acted := false, wait := [] })] }
       ((twinTile s (tileAt 0 1 0)).bind (fun v => s.helm.find? (waitsFor s 1 0 (tileAt 0 1 0) v))).map (fun p => p.1) = some 7) := by decide +kernel
theorem test_meets_audit : requestable 1 = true ∧ (ready.ctx (ready.ctxOfTile 0)).audit = none := by decide +kernel
theorem test_meets_course :
    let s := { ready with ctxs := [(8, { Ctx.reset with alms := [(0, Almanac.reset)] })] }
    (mfind (s.ctx (s.ctxOfTile (opndsOf s 0x11 (first 0x11)).tile)).alms ((opndsOf s 0x11 (first 0x11)).sa.toNat % 256)).isSome = true := by
  decide +kernel
theorem test_meets_sync : (ready.credit 0 0 0).2 = false ∧ (ready.announce 0 0 0).2 = false
    ∧ (ready.tile 0).evq.length < 64 ∧ (ready.tile 0).evWait = [] := by decide +kernel
theorem test_meets_barrier : (let r : Barrier := { Barrier.reset with n := 1 }; 1 ≤ r.n ∧ r.n ≤ 63 ∧ r.a < r.n ∧ r.a + 1 = r.n)
    ∧ (let r : Barrier := { Barrier.reset with n := 63 }; 1 ≤ r.n ∧ r.n ≤ 63 ∧ r.a < r.n ∧ r.a + 1 < r.n) := by decide
theorem test_meets_stop : (ready.slot 32).st = .running := by decide +kernel
theorem test_meets_cchk : (match checkObj placed 2 someCap with
    | .ok _ => true
    | .error _ => false) = true := by decide +kernel
theorem test_meets_taken : (opndsOf ready 0x01 { first 0x01 with pred := 7 }).mask = 0xFFFF#16 := by decide +kernel

/-! ## What statements about engines, ports and events suppose -/

def anAccess : Access :=
  { slot := 32, seq := 0, kind := .load, me := 4, addr := padAddr 4 0, size := 4, lanes := 0xFFFF, data := 0, maj := 0xA0, var := 1, cmp := 0
    scope := 0, issue := 0, epc := 0, held := false }

theorem test_meets_performs :
    let s (k : AccKind) (n : Nat) : State := { ready with arg := Arg.of 0 1 0 0 0, accs := [(0, { anAccess with kind := k, size := n })] }
    Memory.wf (s .load 4).mem = true ∧ (s .load 4).arg.b ≠ 0 ∧ (mfind (s .load 4).accs 0).map (fun a => a.kind) = some .load
    ∧ (mfind (s .store 4).accs 0).map (fun a => (a.kind, a.size)) = some (.store, 4)
    ∧ (mfind (s .store 64).accs 0).map (fun a => (a.kind, a.size)) = some (.store, 64)
    ∧ (mfind (s .atomic 4).accs 0).map (fun a => a.kind) = some .atomic
    ∧ (mfind (s .release 4).accs 0).map (fun a => (a.kind, a.size)) = some (.release, 4)
    ∧ priorPending (s .release 4) 32 0 = false := by decide +kernel

theorem test_meets_port :
    let ws : List Word := [0, 0, 0x1000 * 256, 0xFF0]
    let cap : BitVec 128 := someCap
    let map : List Word := [cap.extractLsb' 0 32, cap.extractLsb' 32 32, cap.extractLsb' 64 32, cap.extractLsb' 96 32]
    let s := { placed with
      tiles := [(2, { placed.tile 2 with
        tmaps := [(0, map)], ocache := [{ ctx := 0, obj := 0, gen := 0, words := [0x9000_0000, 0, 0, 0x1000, 0, 0, 0, 0] }] })] }
    ws.length = 4 ∧ hasRights (mapCap map) (rSP ||| rRD) = true ∧ mapWrite map = false ∧ (mget [] (s.tile 2).tmaps (s.sport 16).sel) = map
      ∧ (match s.objLook 2 0 (capObj (mapCap map)) with
        | .hit r => r.ver == capVer (mapCap map) && armKind s 16 r
        | _ => false) = true := by decide +kernel
theorem test_meets_rewind : (State.sport { ready with sports := [(0, { SPort.reset with state := 1 })] } 0).state ≠ 0 := by decide +kernel
theorem test_meets_window : ((0 : Word).toNat < 2 ^ 16 ∧ (0 : Word).toNat / 64 % 16 ≤ 11 ∧ (0 : Word).toNat / 1024 % 16 ≤ 11)
    ∧ ((0xEEC0 : Word).toNat < 2 ^ 16 ∧ (0xEEC0 : Word).toNat / 64 % 16 = 11 ∧ (0xEEC0 : Word).toNat / 1024 % 16 = 11)
    ∧ (ready.sport 0).state = 0 := by decide +kernel

theorem test_meets_matrix_hand : cmdKind 0x1000_0000_0000_0000 = 1 ∧ cmdFieldsOk 0x1000_0000_0000_0000 = true
    ∧ cmdKind 0x2000_0000_0000_0000 = 2 ∧ cmdFieldsOk 0x2000_0000_0000_0000 = true ∧ cmdKind 0x3000_0000_0000_0000 = 3
    ∧ cmdFieldsOk 0x3000_0000_0000_0000 = true ∧ cmdKind 0x4000_0000_0000_0000 = 4 ∧ cmdFieldsOk 0x4000_0000_0000_0000 = true
    ∧ cmdKind 0x5000_0000_0000_0000 = 5 ∧ cmdFieldsOk 0x5000_0000_0000_0000 = true
    ∧ (ready.mnode 0).frozen = false ∧ (liveQueue ready 0).length < 16 ∧ (ready.mnode 0).counter = none := by decide +kernel
theorem test_meets_lodestone : (ready.lnode 0).frozen = false ∧ (liveLode ready 0).length < 8 ∧ (ready.lnode 0).run = none ∧ liveLode ready 0 = []
    ∧ firstOf 0 + countOf 0 ≤ 4096 ∧ firstOf 0xFFF + countOf 0xFFF ≤ 4096
    ∧ (match lodeExtent (opndsOf placed 0xE0 (op7 0 6 5 7)) rRD 1 16 placed with
      | .ok _ => true
      | .error _ => false) = true := by decide +kernel
theorem test_meets_copy_room : copiesOn ready 0 < 256 ∧ (ready.bte 0).waiting = [] := by decide +kernel

theorem test_meets_tokens :
    let s := { ready with
      tiles := [(0, { Tile.reset with evWait := [(3, 0)] })]
      elems := [(0, { Elem.reset with blocked := true, quant := [{ id := 0, slot := 0, m := 2, s5 := 0, times := [], seqs := [], fans := [], inputs := [], outs := [] }] })] }
    (ready.elem (ready.inqHome 0 % 2 ^ 24 / 2048)).blocked = false ∧ (s.elem (s.inqHome 0 % 2 ^ 24 / 2048)).blocked = true
    ∧ (s.tile 0).evWait = [(3, 0)] ∧ (s.tile 0).evq.length < 64 ∧ ((s.elem 0).quant.find? (fun b => b.id == 0)).isSome = true := by decide +kernel

theorem test_meets_held :
    let s := { ready with slots := [(32, { Slot.reset with st := .running, heldSince := some 0 })] }
    let u := { ready with slots := [(32, { Slot.reset with st := .running, heldSince := some 0, preempt := some 0 })] }
    ((s.slot 32).st == .running && (s.slot 32).heldSince.isSome) = true ∧ preemptDue s 32 = false ∧ preemptDue u 32 = true
    ∧ u.levelOf (tileOfSlot 32) ≠ .t ∧ ((ready.slot 32).st == .running && (ready.slot 32).heldSince.isSome) = false := by decide +kernel

def aPacket : Packet :=
  { kind := 3, ctx := 0, circ := 0, hops := [{ link := 0, back := false, after := 3 }], tok := { data := 0, valid := 0xFFFF, poison := false }
    act := .ev .doorbellWrite Arg.none, rank := rkArrive, extra := 0, retried := false }

theorem test_meets_beat : findBeat Link.reset false 3 0 0 8192 4032 = some (4032, 0) := by
  show findBeat Link.reset false 3 0 0 (8191 + 1) 4032 = _
  rw [findBeat, if_pos (by decide), show freeModule Link.reset false 4032 3 0 0 = some 0 by decide]

theorem test_meets_check (c : Nat) : checkBeat aPacket c (errorBits []) = .good := by
  simp [checkBeat, errorBits, aPacket]

theorem test_meets_links :
    let s := { State.reset with mcnt := 4032, arg := Arg.of 0 1 0 0 0, packets := [(0, aPacket)] }
    mfind s.packets s.arg.a = some aPacket ∧ s.link 0 = Link.reset ∧ s.arg.i = []
    ∧ s.arg.bytes = [] ∧ (s.link 0).retry = [] := by decide +kernel

/-- A read walk over one token, its data there. -/
def aWalk : SPort := { SPort.reset with state := 1, got := [(0, { data := 5, valid := 0xFFFF, poison := false })], asked := 1 }

theorem test_meets_read_walk :
    let s := { State.reset with mcnt := 9, arg := Arg.of 0 0 2 0 0, sports := [(0, aWalk)] }
    aWalk.walk = s.arg.b ∧ aWalk.state = 1 ∧ aWalk.dir = false ∧ 2 ≤ s.arg.c ∧ aWalk.bfp = false ∧ aWalk.walking = false
    ∧ (mfind aWalk.got aWalk.pos).isSome = true ∧ aWalk.lastShown ≠ s.mcnt + 1 := by decide +kernel

/-- A write walk of one dimension of 16 words over object 0, in the scratchpad of ME 4. -/
def writeWords : List Word :=
  [someCap.extractLsb' 0 32, someCap.extractLsb' 32 32, someCap.extractLsb' 64 32, someCap.extractLsb' 96 32, 0x0000_8080, 0x0000_0010, 4, 0x0001_000F]
def writing : State := { placed with
  sports := [(20, { SPort.reset with state := 1, dir := true, owner := 160, mapw := writeWords
                                     input := [{ slot := 160, seq := 0, pos := 0, tok := { data := 7, valid := 0xFFFF, poison := false }, id := 0, parts := [] }] })]
  arg := Arg.of 20 0 0 0 0 }

theorem test_meets_write_walk : (match writeParts writing 20 0 { data := 7, valid := 0xFFFF, poison := false } with
    | .ok r => r.all (fun x => x.2 != 2) && decide (2 ^ 40 ≤ ((plainParts r).headD ⟨0, 0, 0, 0⟩).pa)
      && !writeWaits writing 20 { slot := 160, seq := 0, pos := 0, tok := { data := 7, valid := 0xFFFF, poison := false }, id := 0, parts := [] } r
    | .error _ => false) = true ∧ bankTaken writing 20 = 0 ∧ Memory.wf writing.mem = true := by decide +kernel

/-- A write of two bytes to the first bank of die 0's Vault. -/
def aReq : Req := { who := .port 0 0 0, ctx := 0, die := 0, tile := none, lt := 0, key := 0, write := true
                    parts := [{ pa := 2 ^ 39, n := 2, off := 0, val := 0xABCD }], valid := 0xFFFF, poison := false, tag := 0 }

theorem test_meets_vault :
    let s := { State.reset with reqs := [(0, aReq), (1, { aReq with write := false, who := .host 2 3 })] }
    mfind s.banks (reqBank aReq) ≠ some s.mcnt ∧ outranked s 0 aReq = false ∧ parkedAt s aReq = none ∧ aReq.die = reqBank aReq / 32
    ∧ (mfind s.reqs 1).map (fun r => r.who) = some (.host 2 3) ∧ isPoisoned s.poison (objEntryPa s 0 0 0) 32 = false := by decide +kernel

/-- The entries are written out from R292: a valid leaf at 0, and a valid pointer to a table at 0x2000. -/
theorem test_meets_walk :
    let w : WalkReq := { who := 0, ctx := 0, va := 0, table := 0, level := 0, write := false, id := 5, at_ := 0, busy := true }
    let s := { State.reset with tiles := [(2, { Tile.reset with walks := [w] })], arg := Arg.of 2 0 5 0 0 }
    (s.tile 2).walks = [w] ∧ w.id = s.arg.c ∧ radixEntry 0 30 false 0xC000_0000_0000_0000#64 = .inl (.page 0 (2 ^ 30) 0 0 false)
    ∧ radixEntry 0 30 false 0x8000_0000_0000_2000#64 = .inr 0x2000 := by decide +kernel

theorem test_meets_time : (ready.die 0).down = false ∧ meridianOf { ready with mcnt := 100 } 0 = (60 : Int) + 40
    ∧ meridianOf { ready with mcnt := 100 } 0 ≠ (61 : Int) + 40 ∧ (State.die { ready with dies := [(1, { Die.reset with down := true })] } 1).down = true
    ∧ sxSrc ready = 0 ∧ sxSrc { ready with sextant := { ready.sextant with ctl := 0x4000_1020 } } = 1
    ∧ sxSrc { ready with sextant := { ready.sextant with ctl := 0x8000_1020 } } = 2
    ∧ sxSrc { ready with sextant := { ready.sextant with ctl := 0xC000_1020 } } = 3 ∧ timedArmed ready = false
    ∧ timedArmed { ready with ctxs := [(0, { Ctx.reset with live := true, level := .t, active := some 0 })] } = true := by decide +kernel

def aRun : TRun := { id := 1, kind := 3, ctx := 0, copy := 0, tile := 0, chan := 0, rep := 0, prog := 0, start := 0, ns := 8, ix := 0, burst := 0, bank0 := 0, row0 := 0
                     col0 := 0, lo := 0, hi := 0, bad := false, displaced := false, opened := [] }
/-- Timing fields of zero: no command waits for another. -/
def eased : Tel := { Tel.reset with
  tt := (List.range 10).map (fun k => (k, 0)), trdy := true, runs := [aRun], owner := (List.range 8).map (fun k => (k, 0xC000#32)) }
def telling : State := { State.reset with tels := [(0, eased)] }

theorem test_meets_teller : activeRun (telling.tel 0) (ckOf telling telling.mcnt) = some aRun
    ∧ passes eased aRun false (.act 2 0) 0 = true ∧ passes { eased with openRow := [(2, 0)], openRun := [(2, 1)] } aRun false (.burst 2 0 false false) 0 = true
    ∧ passes { eased with openRow := [(2, 0)], openRun := [(2, 1)] } aRun false (.burst 2 0 true true) 0 = true ∧ passes eased aRun false .prea 0 = true
    ∧ passes eased aRun false (.pre 2) 0 = true ∧ passes eased aRun false .refab 0 = true ∧ passes eased aRun false (.refpb 2) 0 = true
    ∧ passes eased aRun false .mrw 0 = true ∧ passes eased aRun false .mrr 0 = true ∧ passes eased aRun false .zqs 0 = true
    ∧ passes eased aRun false .zql 0 = true ∧ burstOk 2 0 telling 0 aRun = true ∧ dataHeld telling aRun = true
    ∧ -((telling.tel 0).maxpost : Int) ≤ (telling.tel 0).debt.toInt - 1
    ∧ passes { eased with openRow := [(2, 0)] } aRun false (.act 2 0) 0 = false ∧ passes { eased with openRow := [(2, 0)] } aRun true (.act 2 0) 0 = false := by
  decide +kernel

theorem test_meets_teller_runs :
    let s := { telling with arg := Arg.of 0 1 0 0 0 }
    let o := { eased with openRow := [(2, 0)] }
    (s.tel 0).runs.find? (fun q => q.id == s.arg.b) = some aRun ∧ ownerFrozen s 0 aRun = false ∧ spilled (s.tel 0) aRun = []
    ∧ (s.copyOf aRun.copy).isNone = true ∧ (mfind o.openRow 2).isSome = true ∧ mayPre o 2 0 = true ∧ o.bus ≤ 0 ∧ anyCommand o 0 = true
    ∧ (∀ r ∈ (s.tel 0).runs, r.kind = 3) ∧ (s.tel 0).hostq = []
    ∧ (s.tel 0).ttq = [] ∧ (∀ k < progNs (mget 0#32 [(0, 0x0000_0100#32)] 0), slotOwner { eased with owner := [(0, 0xC000#32)] } (0 + k) = (3, 0))
    ∧ runOwned eased aRun = true ∧ s.fnFrozen.contains 0 = false
    ∧ (closedPage { eased with owner := [(0, 0x8000#32)], tt := (List.range 10).map (fun k => (k, if k = 0 then 0x0002_0000 else if k = 1 then 8 else if k = 5 then 0x0001_0000 else 0)) }
      (pageRun 0 2 0 0) 0 0 false).isSome = true := by decide +kernel

theorem test_meets_copies :
    let s := { State.reset with cmds := [(0, { slot := 32, offset := false, engine := 2, channel := 0, begun := false })], copies := [(0, aCopy)] }
    s.copyOf 0 = some aCopy ∧ aCopy.running = false ∧ aCopy.stop = none ∧ aCopy.begin_ ≤ s.mcnt ∧ (mfind s.cmds 0).isSome = true
    ∧ (s.chan 0 0).frozen = false ∧ (s.chan 0 0).run = none ∧ (firstCopy (chanQueue s 0 0)).map (fun p => p.1) = some 0
    ∧ priorPending s 32 0 = false ∧ s.recordHeld 0 2 = false ∧ copiesOn State.reset 0 < 256 ∧ (State.reset.bte 0).waiting = [] := by decide +kernel
theorem test_meets_full : 256 ≤ copiesOn { State.reset with copies := (List.range 256).map (fun i => (i, aCopy)) } 0 := by decide +kernel
theorem test_meets_copy_site : (match siteOf placed { aCopy with tile := 2, ws := List.replicate 4 0 ++ [someCap.extractLsb' 0 32, someCap.extractLsb' 32 32,
      someCap.extractLsb' 64 32, someCap.extractLsb' 96 32] ++ List.replicate 24 0 } false 0 with
    | .ok (.me t m _) => t == 2 && m == 4
    | _ => false) = true := by decide +kernel

/-- A command of kind `k`, and a node whose queue holds it. -/
def aCmd (k : Nat) : MCmd := { word := BitVec.ofNat 64 (k * 2 ^ 60), entry := 0xFFFF, slot := 32, id := 0, begin_ := 0, order := 0 }
def queued (k : Nat) : State :=
  { State.reset with mnodes := [(0, { MNode.reset with queue := [aCmd k] })]
                     cmds := [(0, { slot := 32, offset := false, engine := 0, channel := 0, begun := false })] }
theorem test_meets_matrix_begin : ∀ k < 6, 0 < k → headOf (queued k) 0 = some (aCmd k) ∧ (k = 5 ∨ mayBegin (queued k) 0 (aCmd k).word = true)
    ∧ tileOfSlot (aCmd k).slot = 0 ∧ beginEvent (aCmd k).word = [.matrixWld, .matrixWld, .matrixAct, .matrixDrnMx, .matrixNorm, .matrixQuad].getD k .matrixWld := by
  decide +kernel
theorem test_meets_matrix_run :
    let r : MRun := { cmd := aCmd 2, next := 0, take := 0, buf := [], pois := false, wait := false, toks := [] }
    let s := { State.reset with mnodes := [(0, { MNode.reset with act := some r, drn := some { r with cmd := aCmd 3 }, wld := [{ r with cmd := aCmd 1 }] })] }
    (s.mnode 0).act = some r ∧ cmdKind r.cmd.word = 2 ∧ (s.mnode 0).drn.isSome = true ∧ (wldRun s 0 0).isSome = true
    ∧ (∀ q < 4, takesRow s (4 + q) = true) ∧ heldUp (s.mnode 0) = false ∧ badBank s 0 0 = false ∧ acceptAt s 0 = some s.mcnt ∧ (takeRun (s.mnode 0) 2 0).1.isSome = true ∧ isJoint (s.mnode 0) = false
    ∧ s.levelOf 0 ≠ .t ∧ s.arg.b ≠ 1 := by decide +kernel
theorem test_meets_firing : firing { MNode.reset with table := [(0, (aCmd 2).word)], period := 4, counter := some 0 } 8 = [(0, (aCmd 2).word)] := by
  decide +kernel

def aToken : LCmd := { maj := 0xE6, var := 1, a := 0, b := 0, addr := 2 ^ 40, slot := 32, id := 0, acc := 0 }
/-- LREAD.ME is running: its tokens go one a cycle, the last is followed by the completion, and one is refused where a bank is taken. -/
theorem test_lode_tokens :
    let s (k : Nat) := { State.reset with agenda := [], lnodes := [(0, { LNode.reset with run := some aToken, m := 0xABCD })], arg := Arg.of 0 1 k 0 0 }
    let times (a : State) : List Nat := (lodeToken a 0 a.arg.c aToken).agenda.map (fun i => i.time)
    times (s 0) = [16 * 1 + 13, 16 * 3 + 13] ∧ times (s 7) = [16 * 3 + 13, 16 * 4 + 14]
    ∧ times (takeBanks (s 7) 0 1#16) = [16 * 1 + 13] ∧ (lodeBank (s 0) 0 0 aToken).read32 (2 ^ 40) = 0xABCD
    ∧ bankTaken (s 0) 0 = 0 ∧ bankTaken (takeBanks (s 0) 0 1#16) 0 ≠ 0 ∧ ((s 0).lnode 0).run = some aToken ∧ Memory.wf (s 0).mem = true := by
  decide +kernel

def aLode : LCmd := { maj := 0xE2, var := 0, a := 0, b := 0, addr := 0, slot := 32, id := 0, acc := 0 }
theorem test_meets_lode :
    let s := { State.reset with
      lnodes := [(0, { LNode.reset with queue := [aLode] })], cmds := [(0, { slot := 32, offset := false, engine := 1, channel := 0, begun := false })] }
    liveLode s 0 = [aLode] ∧ (s.lnode 0).run = none ∧ (s.lnode 0).frozen = false ∧ (s.lnode 0).stopped = false ∧ s.recordHeld 0 1 = false
    ∧ (0 : Nat) < LNode.reset.ncol ∧ colourPoisoned LNode.reset 0 = false := by decide +kernel

def aLaunch : Launch :=
  { ctx := 0, w0 := 0, host := false, parent := 0, kern := 0, prio := 0, arg := 0, caps := [], deps := [], credit := none, esc := [], order := 0
    passed := 0, st := .armed, slots := [32], done := [], abnd := 0, start := 5, mark := none, again := false, saves := [], ledger := []
    mcmds := [], lcmds := [], copies := [], savedAt := 0, nodes := [], lodes := [] }
def launched (x : SlotState) (l : Launch) : State :=
  { State.reset with launches := [(0, l)], slots := [(32, { Slot.reset with st := x, launch := some 0 })], arg := Arg.of 32 0 0 0 0 }
theorem test_meets_launches :
    ((launched .bound aLaunch).slot 32).st = .bound ∧ (∀ k ∈ aLaunch.slots, ((launched .armed aLaunch).slot k).st = .armed
      ∧ ((launched .armed aLaunch).slot k).launch = some 0 ∧ ((launched .armed aLaunch).elem (veOfSlot k)).blocked = false)
    ∧ drained (launched .draining aLaunch) 32 = true ∧ aLaunch.saves = []
    ∧ (let l := { aLaunch with done := [32] }
       l.done.length = l.slots.length ∧ schedDown (launched .bound l) = false ∧ tableLeft (launched .bound l) l = false ∧ l.w0.getLsbD 23 = false)
    ∧ (let l := { aLaunch with st := .saving }
       l.slots.all (savedHere (launched .saved l) l) = true ∧ l.done.length ≠ l.slots.length
        ∧ (launched .saved l).cmds.any (fun c => l.slots.contains c.2.slot && c.2.begun) = false) := by decide +kernel

theorem test_meets_scan :
    let s := { State.reset with
      port := { State.reset.port with boot := 0x5000_0000 }, ctxs := [(0, { Ctx.reset with live := true, policy := 0x40, pend := true, latch := 1, head := 0, tail := 1 })] }
    schedUp s = true ∧ (s.ctx 0).live = true ∧ (s.ctx 0).pend = true
    ∧ (let k := queueSize (s.ctx 0).policy
       k ≠ 0 ∧ ((s.ctx 0).latch % k + k - (s.ctx 0).tail) % k ≤ ((s.ctx 0).head + k - (s.ctx 0).tail + k - 1) % k) ∧ mayRead s 0 = true
    ∧ depBad s 0 0 = false ∧ (mfind (launched .bound aLaunch).launches 0) = some aLaunch ∧ priorPending s 0 0 = false ∧ deviceQueue s 0 < 32 := by
  decide +kernel

/-- An Almanac of one entry at tick 4 of its frame, due at tick 8, with a reserve of 2 ticks, no dead-reckoning block, commit set 255. -/
def anEntry (hi : Word) : AlmEntry := { words := [0, hi ||| 4, 8, 0x0002_FF00], tiles := [], load := 0 }
def anAlmanac : Almanac := { Almanac.reset with frame := 16, waypoints := [0], entries := [(0, anEntry 0)] }
def timed (w : Map Walker) (c : Nat) : State :=
  { State.reset with mcnt := c, walkers := w
                     ctxs := [(0, { Ctx.reset with live := true, level := .t, alms := [(0, anAlmanac), (1, anAlmanac)], active := some 0 })] }
def walking (st : WalkSt) : Walker := { st := st, s := 11600, d := 23200, p := 29000, drbOk := true, seen := 0, bad := 0 }

theorem test_meets_almanac :
    let s := timed [] 0
    (s.ctx 0).level = .t ∧ (mfind (s.ctx 0).alms 1).isSome = true ∧ (almOf s 0 0).waypoints ≠ [] ∧ levelReport s 0 .d = none
    ∧ almEntry s 0 = some (anEntry 0) ∧ entAudit (anEntry 0) = false ∧ entReconf (anEntry 0) = false ∧ entTwin (anEntry 0) = false
    ∧ frameDue s 0 0 16 = true ∧ (∀ n ∈ primarySlots s 0 (anEntry 0), armable s 0 n = true) ∧ (walking .run).d = 23040 + 160
    ∧ (walking .reserve).p = 28840 + 160 ∧ hasDrb { anEntry 0 with words := [0, 4, 8, 0] } = true ∧ csetOf s 0 = []
    ∧ waypointHeld s 0 16 = true ∧ alive s schedTiles ≠ [] ∧ ((applyPending s 0).ctx 0).newLevel = none ∧ (s.assay 0 0).armed = false := by
  decide +kernel
theorem test_meets_flip :
    let s := { timed [] 0 with ctxs := [(0, { Ctx.reset with alms := [(0, { anAlmanac with entries := [(0, { anEntry 0 with words := [0, 4, 8, 0x0002_0000] })] })]
                                                             csets := [(0, [3])], vdt := [(0, 0x8000_0000)] })] }
    csetOf s 0 = [3] ∧ diesOf s 0 = [0] := by decide +kernel

theorem test_meets_contexts :
    partOk State.reset 0 0 0x8000_0001 = true ∧ (0 : Word) = 0 ∧ State.reset.port.stat.getLsbD 31 = false
    ∧ (let s := { State.reset with port := { State.reset.port with boot := 0x5000_0000 } }
       schedUp s = true ∧ (s.ctx 0).live = false)
    ∧ (let s := { State.reset with
         port := { State.reset.port with ctxfn := [(0, 0x8000_0001)] }, ctxs := [(0, { Ctx.reset with live := true, vdt := [(0, 0x8000_0000)] })]
         dies := [(0, { Die.reset with parts := [(0, 0x8000_0001)] })] }
       contextsOf s 1 = [0] ∧ partition s 0 0 = (true, 0, 65536)) := by decide +kernel

def aResult : Result := { slot := 32, seq := 0, due := 1, kind := .value, dcls := 0, didx := 3, fan := 0, phase := 0, lanes := 0xFFFF, valid := 0
                          value := splat 7, flags := fNX, iter := false }
theorem test_meets_results :
    let s := { ready with mcnt := 1, arg := Arg.of 32 0 0 0 0, elems := [(4, { Elem.reset with flight := [aResult] })] }
    (s.elem 4).flight.find? (fun q => q.slot == 32 && q.seq == s.arg.b && q.due == s.mcnt) = some aResult ∧ shifts aResult = true
    ∧ shifts { aResult with kind := .predicate } = false ∧ anyOn aResult.lanes = true
    ∧ (State.slot { ready with slots := [(32, { Slot.reset with st := .frozen })] } 32).st = .frozen := by decide +kernel

def aHelm (kind : Nat) (a : Word) : HelmReq := { kind := kind, a := a, b := 0, tile := 0, due := 0, twin := none, acted := false, wait := [] }
theorem test_meets_requests :
    let s := { placed with helm := [(0, aHelm 0 0x80)], slots := [(128, { Slot.reset with st := .frozen })] }
    mfind s.helm 0 = some (aHelm 0 0x80) ∧ combined s (aHelm 0 0x80) = .act ∧ rteTarget s 0x80 = true ∧ (s.slot (rteSlot 0x80)).st = .frozen
    ∧ s.levelOf (tileOfSlot (rteSlot 0x80)) ≠ .t ∧ combined s { aHelm 0 0 with twin := some (1, 0, 1) } = .differ ∧ (s.ctx 0).live = true
    ∧ underEscrow s 0 0 true = false ∧ combined s (aHelm 1 0) = .act ∧ combined s { aHelm 4 0 with b := 1 } = .act
    ∧ (s.ctx 0).gen.toNat < (lane (1 : Vec) 0).toNat ∧ (remapTarget 0).isSome = true ∧ tileIdle s 0 0 = true := by decide +kernel
/-- An entry for a tile that is sealed may be written, one for a tile that is not may not (`0x800D0000` is invalid: x = 13). -/
theorem test_meets_remap :
    remapOk placed 0 0 0x0002_0000#32 = true ∧ remapOk placed 0 0 0x800D_0000#32 = false ∧ remapOk placed 0 0 0x8005_0000#32 = false := by decide +kernel
theorem test_meets_ports :
    let s := { State.reset with ports := [(2, { CfgPort.reset with queue := [{ op := 0, a := 0, b := 0, valid := 0xFFFF, src := 0 }] })] }
    (s.cport 2).queue.length = 1 ∧ isHelmTile 2 = false ∧ (s.cport 2).st = .empty ∧ (s.tile 0).evq.length < 64 := by decide +kernel

theorem test_meets_audits :
    let r : FaultRec := { cause := 0x180, mkind := 0, ctx := 0, mid := 0, ltid := 0, ptid := 0, seq := 0, mcnt := 0, detail := 0, launches := [], lost := false }
    let s := { State.reset with dies := [(0, { Die.reset with fifo := [r] })] }
    (s.die 0).fifo = [r] ∧ (s.die 0).lost = 0 ∧ handlerDown s = false ∧ alive s faultTiles ≠ [] ∧ (∀ u ∈ alive s faultTiles, (s.tile u).evq.length < 64)
    ∧ r.cause / 64 = 6 ∧ managerDown s = false ∧ auditDestroys 0 = false ∧ requestable 1 = true ∧ requestable 0 = false
    ∧ 0 + auditInterval 0 ≤ auditInterval 0 ∧ auditedBy { placed with ctxs := [(0, { Ctx.reset with live := true, resident := some 0 })] } 0 2 ≠ none := by decide +kernel

theorem test_meets_power : bootStage State.reset = 0 ∧ State.reset.port.stopped = false ∧ (∀ k ∈ State.reset.port.kept, k % 512 ≠ 0x1C6)
    ∧ bootStage { State.reset with port := { State.reset.port with boot := 0x5000_0000 } } = 5 ∧ State.reset.port.update = none
    ∧ beatBit 0 0 = some 31 ∧ beatBit 3 2 = some 27 ∧ beatBit 3 1 = none ∧ State.reset.port.hbHold = false ∧ beatComplete 0xFF00_0000 = beatComplete 0xFF00_0001 := by decide +kernel

/-! ## One step (R15, R30, R71, R96, R202) -/

theorem test_step_issues : (match step (State.reset.withFetchWord 96 0x0000001F_00002080_81201C69) with
    | .next t => (t.slot 32).ia == 3 && (t.elem 4).flight.length == 1
    | _ => false) = true := by decide +kernel
theorem test_step_blocks : (match step (State.reset.withFetchWord 64 0x00000000_00FF1C00) with
    | .next t => (t.elem 4).blocked
    | _ => false) = true := by decide +kernel
theorem test_step_teller : (match step (State.reset.withFetchWord 32 0x0800_8000) with
    | .next _ => true
    | _ => false) = true := by decide +kernel
theorem test_step_no_such_slot : (match step { State.reset with agenda := [{ time := 0, act := .issue 36864 }] } with
    | .fault .noSuchUnit => true
    | _ => false) = true := by decide +kernel
theorem test_step_last_slot : (match step { State.reset with agenda := [{ time := 0, act := .issue 36863 }] } with
    | .next _ => true
    | _ => false) = true := by decide +kernel
theorem test_reset_sound : State.reset.Sound := by
  refine ⟨by decide +kernel, ?_⟩
  show List.Pairwise _ [_]
  simp
theorem test_sound_after : ∃ t, step State.reset = .next t := ⟨_, rfl⟩

/-! ## Worked figures of the spec -/

/-- R126's table. -/
theorem test_fmin_zeros : (fMinMax fp32 false 0x0000_0000 0x8000_0000).1 = 0x8000_0000 := by decide +kernel
theorem test_fmax_signalling : fMinMax fp32 true 0x7F80_0001 0x4040_0000 = (0x4040_0000, fNV) := by decide +kernel
theorem test_fadd_overflow : fAdd fp32 0x7F7F_FFFF 0x7F7F_FFFF = (0x7F80_0000, fOF ||| fNX) := by decide +kernel
theorem test_fmul_underflow : fMul fp32 0x1A00_0000 0x1A00_0000 = (0x0000_0000, fUF ||| fNX) := by decide +kernel
theorem test_fdiv_by_zero : fDiv fp32 0xBF80_0000 0x0000_0000 = (0xFF80_0000, fDZ) := by decide +kernel
theorem test_fsqrt_negative : fSqrt fp32 0x8000_0001 = (0x7FC0_0000, fNV) := by decide +kernel
/-- R56's worked sum. -/
theorem test_worked_sum :
    let a := csaAdd CsTok.empty false 7 511
    let b := csaAdd a false 5 511
    let c := csaAdd b false 1 529
    (a.s, a.c, a.x) = (0x7_0000, 0, 511) ∧ (b.s, b.c, b.x) = (0x2_0000, 0xA_0000, 511) ∧ (c.s, c.c, c.x) = (0x1_0002, 0, 529)
      ∧ (normalise 0 c).1 = 0x4880_0100 := by decide +kernel
/-- R193's table. -/
theorem test_thresholds : ([0, 192, 384, 448, 480, 496, 512, 544, 576, 640, 832, 1023].map thresh)
    = [22, 439, 7812, 17625, 24743, 28693, 32768, 40793, 47911, 57724, 65097, 65514] := by decide +kernel
/-- R332's folded signature. -/
theorem test_fold : foldVec 0 (BitVec.ofNat 512 (2 ^ 504)) = 0x42F0_E1EB_A9EA_3693 := by decide +kernel
/-- A step of R23's register from an odd and an even state. -/
theorem test_dither : dthSteps 1 1 = 0x8020_0003 ∧ dthSteps 2 1 = 1 := by decide +kernel

/-! ## What the statements about holds, loads and launches suppose further -/

theorem test_meets_arrival_token : State.reset.tile 0 = Tile.reset ∧ Tile.reset.evWait = []
    ∧ (State.reset.elem 0).quant.find? (fun b => b.id == 0) = none := by decide +kernel

/-- Slots 32 and 33 of one element are coupled, and slot 33 stands at no safe point. -/
def coupledAsked : State :=
  { ready with slots := [(32, { Slot.reset with st := .running, preempt := some 0 }), (33, { Slot.reset with st := .running })]
               elems := [(4, { Elem.reset with coupled := [(0, 1), (1, 1)] })] }

theorem test_meets_arvw : Ready ready 0xC0 (op7 2 5 7 7) ∧ (opndsOf ready 0xC0 (op7 2 5 7 7)).on = true ∧ (ready.slot 32).arvw = none :=
  ⟨ready_of_gate (by decide +kernel), by decide +kernel⟩
theorem test_meets_arvw_held :
    let s := { ready with slots := [(32, { Slot.reset with st := .running, arvw := some false })] }
    Ready s 0xC0 (op7 2 5 7 7) ∧ ((s.slot 32).arvw.isSome && barArvwHeld (afterPops s (op7 2 5 7 7)) (opndsOf s 0xC0 (op7 2 5 7 7))) = true :=
  ⟨ready_of_gate (by decide +kernel), by decide +kernel⟩
theorem test_meets_fence_held :
    let s := { ready with accs := [(0, anAccess)], slots := [(32, { Slot.reset with st := .running, seq := 1 })] }
    Ready s 0xA4 (first 0xA4) ∧ fenceHeld (afterPops s (first 0xA4)) 32 = true :=
  ⟨ready_of_gate (by decide +kernel), by decide +kernel⟩
theorem test_meets_group_held : Ready coupledAsked 0x08 (first 0x08)
    ∧ ((opndsOf coupledAsked 0x08 (first 0x08)).level != .t && preemptDue (afterPops coupledAsked (first 0x08)) 32
      && !groupSafe (afterPops coupledAsked (first 0x08)) 32) = true ∧ coupledAsked.inGroup 32 = true :=
  ⟨ready_of_gate (by decide +kernel), by decide +kernel⟩

/-- A load that rewrites VE 0 of logical tile 0 alone, on a tile that holds a load of the same graph. -/
def partTile : Config.TileImg := { lt := 0, twin := none, named := some [0], words := [], slots := [] }
def partLoad : Config.LoadImg :=
  { tiles := [partTile, { partTile with lt := 1, named := none }], circuits := [], owners := [], progs := [], links := [], energy := 0, safe := none
    derived := [], keepMx := false }
def reloading (st : SlotState) : State :=
  { placed with arg := Arg.of 2 0 0 1 0, slots := [(128, { Slot.reset with st := st })]
                tiles := [(2, { placed.tile 2 with load := some 0, graph := some 0 })]
                ctxs := [(0, { placed.ctx 0 with
                  toLoad := [0, 1], image := some { seed := 0, loads := [(1, partLoad)], alms := [], csets := [], traps := [], restart := [3] } })] }

theorem test_meets_reload : ((reloading .bound).ctx 0).toLoad.contains 0 = true ∧ placeIx (reloading .bound) 2 0 = none
    ∧ namedElems (reloading .bound) 0 1 2 0 = some [0] ∧ partDrained (reloading .bound) 2 [0] = true ∧ partDrained (reloading .running) 2 [0] = false
    ∧ (1 : BitVec 10) ∈ ((reloading .bound).ctx 0).toLoad ∧ (let u := { reloading .bound with tiles := placed.tiles }
       namedElems u 0 1 2 0 = none ∧ tileDrained u 2 = true) ∧ namedElems placed 0 1 2 0 = none ∧ tileDrained placed 2 = false
    ∧ (placed.mnode 2).counter = none := by decide +kernel

/-- A kernel that its image marks restartable ends in the fault handler with a class 3 cause. -/
theorem test_meets_restart :
    let s := { reloading .running with arg := Arg.of 128 0 (5 * 512 + 3 * 64) 0 0, launches := [(0, { aLaunch with kern := 3 })] }
    s.arg.c / 512 = 5 ∧ s.arg.c % 512 / 64 = 3 ∧ mfind s.launches s.arg.b = some { aLaunch with kern := 3 }
    ∧ ((s.ctx aLaunch.ctx).image.map (fun i => i.restart.contains 3)).getD false = true := by decide +kernel

theorem test_meets_retire :
    let l := { aLaunch with host := true, done := [32], mark := some (2, 0) }
    l.done.length = l.slots.length ∧ tableLeft (launched .bound l) l = false ∧ schedDown (launched .bound l) = false
    ∧ (State.logical (launched .bound l) l.parent).evq.length < 64 := by decide +kernel

/-- A link that is up stays in use after one repair where no spare lane is used; `Config.spareLanes` of them make it go down. -/
theorem test_meets_repair : (Link.reset.down = false ∧ mget 0 Link.reset.fixed 0 = 0)
    ∧ Config.spareLanes ≤ mget 0 { Link.reset with fixed := [(0, Config.spareLanes)] }.fixed 0 :=
  ⟨by decide, Nat.le_refl _⟩

/-! ## The worked case of queue order (R317) -/

/-- P pushes n tokens into circuit 0 and then one into circuit 1; C pops circuit 1 first and then circuit 0: what is left to issue of each. -/
def workedQueues (n cap : Nat) : List Nat :=
  runFlows [List.replicate n { pops := [], pushes := [0] } ++ [{ pops := [], pushes := [1] }],
    { pops := [1], pushes := [] } :: List.replicate n { pops := [0], pushes := [] }] (fun _ => cap) (2 * (n + 1)) [0, 0]

/-- With QDEPTH 3 ten tokens wait in a cycle, six do not; with QDEPTH 7 ten pass (R317's worked case). -/
theorem test_queue_order : workedQueues 10 8 = [8, 0] ∧ workedQueues 6 8 = [7, 7] ∧ workedQueues 10 12 = [11, 11] := by decide +kernel

/-! ## What statements about releases, host requests, pipes and slices suppose -/

/-- Slot 32 has a store under way. -/
def storing : State := { ready with accs := [(0, { anAccess with kind := .store })] }

theorem test_meets_release : releasePending storing 32 1 = true ∧ releasePending ready 32 1 = false
    ∧ barOwes { storing with tiles := [(0, { Tile.reset with bars := [(0, { Barrier.reset with owe := [(32, 1)] })] })] }
      (opndsOf ready 0xC0 (op7 1 5 7 7)) = true ∧ barOwes ready (opndsOf ready 0xC0 (op7 1 5 7 7)) = false := by decide +kernel

/-- A posted write of function 0 holds the next request of the function, and none of another. -/
theorem test_meets_host_turn :
    let s := { ready with reqs := [(0, { aReq with who := .host 0 3 })], arg := Arg.none }
    hostTurn s 0 none = false ∧ hostTurn s 1 none = true ∧ hostTurn { s with fnFrozen := [0] } 0 none = true ∧ (0 : Nat) ∉ s.fnFrozen
    ∧ hostTurn ready 0 (some 0) = true ∧ fnOfCtx s 0 = 0 ∧ fnOfRegister s 20 = 0 := by decide +kernel

/-- Tile (2, 0) has an operand descriptor over object 0, which lies in a scratchpad of it, and a WLD and a raw DRN that run. -/
def piping : State :=
  let c := someCap
  let r : MRun := { cmd := { aCmd 1 with slot := 160 }, next := 0, take := 0, buf := [], pois := false, wait := false, toks := [] }
  { placed with mnodes := [(2, { MNode.reset with
      opd := [(0, [c.extractLsb' 0 32, c.extractLsb' 32 32, c.extractLsb' 64 32, c.extractLsb' 96 32, 0, 0, 0, 0x800])], wld := [r]
      drn := some { r with cmd := { aCmd 3 with slot := 160 } } })] }

theorem test_meets_pipes :
    (match runBlocks piping 2 ((wldRun piping 2 0).getD { cmd := aCmd 1, next := 0, take := 0, buf := [], pois := false, wait := false, toks := [] })
        (capAt (opdOf piping 2 0) 0) 2 [planeOffs (opdOf piping 2 0) 2 128 0 0] with
      | .ok ([_], n) => n == 0
      | _ => false) = true
    ∧ (match pipeRun piping 2 160 (capAt (opdOf piping 2 0) 0) true 0 64 with
      | .ok [(a, n)] => n == 64 && !isDram a
      | _ => false) = true ∧ (1 : Nat) ≤ 256 * drnGroups 0 ∧ isDram 0 = true ∧ State.badWord piping 2 .table (fun i => i / 2 == 0) = none := by decide +kernel

/-- A slot stays itself on a tile that is not sliced; logical tile 0 of tile 0 waits under tile number 16,384. -/
theorem test_meets_names : presentName ready 32 = 32 ∧ parkedHome 32 = none ∧ parkedHome (64 * 16384) = some (homeOf 16384 0)
    ∧ presentName { ready with tiles := [(0, { Tile.reset with ltid := 1 })] } (64 * 16384) = 64 * 16384 ∧ presentName ready (64 * 16384) = 0 ∧ elemOfInq 2048 = 1 := by decide +kernel

/-- A slot that a W-kind instruction holds is saved when its launch is asked. -/
theorem test_meets_held_save :
    let s := { ready with slots := [(32, { Slot.reset with st := .running, heldSince := some 0 })] }
    savedHeld (s.modSlot 32 (fun y => { y with preempt := some s.mcnt })) 32 = true ∧ releasePending s 32 (s.slot 32).seq = false := by decide +kernel

theorem test_meets_arming : meetBad (timed [] 0) 0 (anEntry 0) = timed [] 0 ∧ entryHomes (timed [] 0) 0 (anEntry 0) = [] := by decide +kernel

theorem test_meets_copy_objects : copyMiss { State.reset with copies := [(0, aCopy)] } aCopy = none
    ∧ State.badWord State.reset 0 .template (fun i => i / 16 == 0) = none ∧ State.reset.arg.e ≠ 1 := by decide +kernel

/-- R196: forty cycles on, the first of two one-sweep commands of the king's graph is over and the second has 36 cycles left. -/
theorem test_lode_queue_passes (c : Code) : (c.lodeWatch false).pass 40 [38, 38] = [36] := rfl

/-- R175, R184: an ACT adds two K-blocks to a row, a QUAD four on a member of odd y and none on one of even y. -/
theorem test_blocks_added : blocksAdded 0x010#10 (0x2000_0000_0000_0000#64) = 2 ∧ blocksAdded 0x010#10 (0x5000_0000_0000_0000#64) = 4
    ∧ blocksAdded 0x001#10 (0x5000_0000_0000_0000#64) = 0 := by decide
end Sys2Proof.Tests
end

section
/-! # Instruction words read back

What `encode` writes is a concatenation of fields, and every field that decoding extracts is one of them. So the operation word gives
back MAJ and the triplet, the first word LEN, the gap and the operation word, and a Teller word its code, offset and low field; MAJ and
VAR give back the constructor. -/

namespace Sys2Proof

/-! ## The fields of a concatenation -/

theorem extract_append3 {u v w : Nat} (x : BitVec u) (y : BitVec v) (z : BitVec w) :
    (x ++ y ++ z).extractLsb' (v + w) u = x ∧ (x ++ y ++ z).extractLsb' w v = y ∧ (x ++ y ++ z).extractLsb' 0 w = z := by
  refine ⟨?_, ?_, BitVec.extractLsb'_append_eq_right⟩
  · rw [BitVec.extractLsb'_append_eq_of_le (Nat.le_add_left w v), Nat.add_sub_cancel]
    exact BitVec.extractLsb'_append_eq_left
  · rw [BitVec.extractLsb'_append_eq_of_le (Nat.le_refl w), Nat.sub_self]
    exact BitVec.extractLsb'_append_eq_right

/-- The fields of the operation word, at their places in R61. -/
theorem operationWord_fields (m : BitVec 8) (v p : BitVec 3) (i : Bool) (a b d : BitVec 3) :
    let w := m ++ v ++ p ++ BitVec.ofBool i ++ a ++ b ++ d
    w.extractLsb' 16 8 = m ∧ w.extractLsb' 13 3 = v ∧ w.extractLsb' 10 3 = p ∧ w.getLsbD 9 = i ∧ w.extractLsb' 6 3 = a
    ∧ w.extractLsb' 3 3 = b ∧ w.extractLsb' 0 3 = d := by
  simp (disch := omega) only [BitVec.extractLsb'_append_eq_of_le, BitVec.extractLsb'_append_eq_of_add_le,
    BitVec.getLsbD_append]
  simp [BitVec.extractLsb'_eq_self]

/-- LEN, the gap and the operation word of a first word (R71). -/
theorem firstWord_fields (len : BitVec 2) (gap : BitVec 6) (opw : BitVec 24) :
    let w := len ++ gap ++ opw
    w.extractLsb' 30 2 = len ∧ w.extractLsb' 24 6 = gap ∧ w.extractLsb' 0 24 = opw :=
  extract_append3 len gap opw

/-- The route word above the register-address word (R71). -/
theorem secondWord_fields (r a : BitVec 16) : (r ++ a : Word).extractLsb' 16 16 = r ∧ (r ++ a : Word).extractLsb' 0 16 = a :=
  ⟨BitVec.extractLsb'_append_eq_left, BitVec.extractLsb'_append_eq_right⟩

/-! ## The operation word (R61) -/

theorem opOf_encodeOpw (maj : Nat) (op : Op) : opOf (encodeOpw maj op) op.gap op.form = op := by
  obtain ⟨-, hv, hp, hi, ha, hb, hd⟩ :=
    operationWord_fields (BitVec.ofNat 8 maj) op.var op.pred op.pinv op.acls op.bcls op.dcls
  exact Op.mk.injEq .. ▸ ⟨hv, hp, hi, ha, hb, hd, rfl, rfl⟩

theorem maj_encodeOpw {maj : Nat} (hm : maj < 256) (op : Op) : ((encodeOpw maj op).extractLsb' 16 8).toNat = maj := by
  obtain ⟨hw, -⟩ := operationWord_fields (BitVec.ofNat 8 maj) op.var op.pred op.pinv op.acls op.bcls op.dcls
  exact (congrArg BitVec.toNat hw).trans (BitVec.toNat_ofNat .. ▸ Nat.mod_eq_of_lt hm)

/-- An operation word decodes to the instruction that its MAJ and VAR select, where no check fails. -/
theorem decodeTriplet_encodeOpw {maj : Nat} {op : Op} {i : Instr} (hm : maj < 256) (hc : checkVE maj op = none)
    (hk : makeVE maj op.var.toNat op = some i) : decodeTriplet (encodeOpw maj op) op.gap op.form = .ok i := by
  simp only [decodeTriplet, maj_encodeOpw hm, opOf_encodeOpw, hc, hk]

/-! ## The constructor that MAJ and VAR select (R85) -/

theorem veView_maj_lt {i : Instr} {maj : Nat} {op : Op} (h : veView i = some (maj, op)) : maj < 256 := by
  cases i <;> cases h <;> decide

/-- Where a MAJ has several constructors, `ownVariant` gives the VAR that selects among them. -/
theorem makeVE_of_veView {i : Instr} {maj : Nat} {op : Op} (h : veView i = some (maj, op)) (ho : ownVariant i = true) :
    makeVE maj op.var.toNat op = some i := by
  cases i
  case doneI | doneAbandon | waittTick | waittMcnt | assayArm | assayClr | escrowGrant | escrowRevoke | escrowDrain
      | cfgOpen | cfgWr | cfgSeal | cfgClear | sportArm | sportStop | sportRewind | barArv | barWait | barArvw | barPh
      | ctrAdd | ctrArvx | ctrWait | ctrRd | evwaitWait | evwaitPeek | lbeta | lseed | lclamp | lfree | lread | lreadMe =>
    cases h
    rw [eq_of_beq ho]
    rfl
  all_goals cases h <;> rfl

/-! ## The words of a triplet (R69, R71, R72) -/

theorem decodeSeq_encodeTriplet (maj : Nat) {op : Op} (hr : op.isRing = false) :
    decodeSeq (encodeTriplet maj op) = decodeTriplet (encodeOpw maj op) op.gap op.form := by
  cases hf : op.form with
  | short => simp [decodeSeq, encodeTriplet, hf, firstWord_fields]
  | mid r a => simp [decodeSeq, encodeTriplet, hf, firstWord_fields, secondWord_fields]
  | long r a l => simp [decodeSeq, encodeTriplet, hf, firstWord_fields, secondWord_fields]
  | ring r a => simp [Op.isRing, hf] at hr

theorem encodeTriplet_of_isRing (maj : Nat) {op : Op} (hr : op.isRing = true) :
    ∃ e ra : Word, encodeTriplet maj op = [e, ra] ∧ decodeRing e (ra.extractLsb' 16 16) (ra.extractLsb' 0 16)
      = decodeTriplet (encodeOpw maj op) op.gap op.form := by
  cases hf : op.form with
  | ring r a =>
    refine ⟨_, r ++ a, by rw [encodeTriplet, hf], ?_⟩
    simp [decodeRing, firstWord_fields, secondWord_fields]
  | _ => simp [Op.isRing, hf] at hr

/-- Whatever its form, a triplet's words decode as its operation word does. -/
theorem decodeAs_encodeTriplet {i : Instr} {maj : Nat} {op : Op} (h : veView i = some (maj, op)) :
    decodeAs i (encodeTriplet maj op) = decodeTriplet (encodeOpw maj op) op.gap op.form := by
  cases hr : op.isRing with
  | false => simp [decodeAs, h, hr, decodeSeq_encodeTriplet]
  | true =>
    obtain ⟨e, ra, hw, hd⟩ := encodeTriplet_of_isRing maj hr
    simp [decodeAs, h, hr, hw, hd]

/-! ## Teller words (R202) -/

theorem tellerWord_fields (opc : BitVec 5) (off : BitVec 9) (low : BitVec 18) :
    (tellerWord opc off low).extractLsb' 27 5 = opc ∧ (tellerWord opc off low).extractLsb' 18 9 = off :=
  ⟨(extract_append3 opc off low).1, (extract_append3 opc off low).2.1⟩

/-- What is read below bit 18 is read from the low field. -/
theorem tellerWord_low (opc : BitVec 5) (off : BitVec 9) (low : BitVec 18) {lo n : Nat} (h : lo + n ≤ 18) :
    (tellerWord opc off low).extractLsb' lo n = low.extractLsb' lo n :=
  BitVec.extractLsb'_append_eq_of_add_le h

/-- The low field of ACT, PRE and REFPB. -/
theorem bankRow_fields (b : BitVec 4) (r : BitVec 14) :
    (b ++ r : BitVec 18).extractLsb' 14 4 = b ∧ (b ++ r : BitVec 18).extractLsb' 0 14 = r :=
  ⟨BitVec.extractLsb'_append_eq_left, BitVec.extractLsb'_append_eq_right⟩

/-- The low field of RD, RDA, WR and WRA. -/
theorem bankColumn_fields (b : BitVec 4) (c : BitVec 6) (z : BitVec 8) :
    let w := b ++ c ++ z
    w.extractLsb' 14 4 = b ∧ w.extractLsb' 8 6 = c ∧ w.extractLsb' 0 8 = z :=
  extract_append3 b c z

/-- The low field of MRW. -/
theorem modeWrite_fields (a v : BitVec 8) (z : BitVec 2) :
    let w := a ++ v ++ z
    w.extractLsb' 10 8 = a ∧ w.extractLsb' 2 8 = v ∧ w.extractLsb' 0 2 = z :=
  extract_append3 a v z

/-- The low field of MRR. -/
theorem modeRead_fields (a : BitVec 8) (z : BitVec 10) :
    (a ++ z : BitVec 18).extractLsb' 10 8 = a ∧ (a ++ z : BitVec 18).extractLsb' 0 10 = z :=
  ⟨BitVec.extractLsb'_append_eq_left, BitVec.extractLsb'_append_eq_right⟩

theorem decodeTeller_encodeTeller {i : Instr} {w : Word} (h : encodeTeller i = some w) : decodeTeller w = .ok i := by
  cases i <;> cases h
  case tellerCend | tellerPrea | tellerRefab | tellerZqs | tellerZql =>
    simp [decodeTeller, tellerWord_fields, tellerWord_low]
  case tellerAct | tellerPre | tellerRefpb => simp [decodeTeller, tellerWord_fields, tellerWord_low, bankRow_fields]
  case tellerRd | tellerRda | tellerWr | tellerWra =>
    simp [decodeTeller, tellerWord_fields, tellerWord_low, bankColumn_fields]
  case tellerMrw => simp [decodeTeller, tellerWord_fields, tellerWord_low, modeWrite_fields]
  case tellerMrr => simp [decodeTeller, tellerWord_fields, tellerWord_low, modeRead_fields]

theorem encodeTeller_of_isTeller {i : Instr} (h : isTeller i = true) : ∃ w, encodeTeller i = some w := by
  cases i <;> cases h <;> exact ⟨_, rfl⟩

/-! ## Well-formed instructions -/

theorem checks_of_wf {i : Instr} {maj : Nat} {op : Op} (hv : veView i = some (maj, op)) (h : i.wf = true) :
    ownVariant i = true ∧ checkVE maj op = none := by
  cases ho : ownVariant i with
  | false => simp [Instr.wf, Instr.illFormed, hv, ho] at h
  | true =>
    simp only [Instr.wf, Instr.illFormed, hv, ho, if_true] at h
    exact ⟨rfl, Option.isNone_iff_eq_none.mp h⟩

theorem isTeller_of_wf {i : Instr} (hv : veView i = none) (h : i.wf = true) : isTeller i = true := by
  cases ht : isTeller i with
  | false => simp [Instr.wf, Instr.illFormed, hv, ht] at h
  | true => rfl

/-- Settles O57: a triplet through its operation word and its constructor, a Teller command through its word. -/
theorem encodingReadsBack : Obligations.EncodingReadsBack := by
  unfold Obligations.EncodingReadsBack
  intro i hwf
  cases hv : veView i with
  | some p =>
    obtain ⟨maj, op⟩ := p
    obtain ⟨ho, hc⟩ := checks_of_wf hv hwf
    calc decodeAs i (encode i) = decodeAs i (encodeTriplet maj op) := by rw [encode, hv]
      _ = decodeTriplet (encodeOpw maj op) op.gap op.form := decodeAs_encodeTriplet hv
      _ = .ok i := decodeTriplet_encodeOpw (veView_maj_lt hv) hc (makeVE_of_veView hv ho)
  | none =>
    obtain ⟨w, hw⟩ := encodeTeller_of_isTeller (isTeller_of_wf hv hwf)
    calc decodeAs i (encode i) = decodeTeller w := by simp [decodeAs, encode, hv, hw]
      _ = .ok i := decodeTeller_encodeTeller hw

/-- Settles O56: decoding evaluates on each of the eight words. -/
theorem wordsDecode : Obligations.WordsDecode := by
  unfold Obligations.WordsDecode
  exact ⟨rfl, rfl, rfl, rfl, rfl, rfl, rfl, rfl⟩

end Sys2Proof
end

section
/-! # Bit fields, SEL, MOV and comparisons -/

namespace Sys2Proof.Machine

/-- MOV to FLG delivers the scalar value of A to the flags (R118, R228). -/
theorem movI_delivers_flags {s : State} {op : Op} (h : Ready s 0x39 op) (hd : op.dcls = 6) :
    ∃ t, exec (.movI op) s = .next t ∧ Delivers s t 0x39 op .flags 2
      { value := splat (opndsOf s 0x39 op).sa, lanes := fullMask (opndsOf s 0x39 op).on, valid := 0, flags := noFlags } :=
  ⟨_, rfl, (delivers_of h (u := afterPops s op) (by simp only [hd, if_true, flgWrite]; rfl) (Quiet.refl _ _) rfl rfl).1⟩

/-- MOV to a register or port delivers the pattern of A lane by lane (R118). -/
theorem movI_delivers_value {s : State} {op : Op} (h : Ready s 0x39 op) (hd : op.dcls ≠ 6) :
    ∃ t, exec (.movI op) s = .next t ∧ Delivers s t 0x39 op .value 2
      (perLane (opndsOf s 0x39 op) (fun l => (lane (opndsOf s 0x39 op).a l, noFlags))) :=
  ⟨_, rfl, (delivers_of h (u := afterPops s op) (by simp only [hd, if_false, Issued.value]) (Quiet.refl _ _) rfl rfl).1⟩

/-- Settles O2: each instruction has one of the common shapes, and MOV one of two by its destination class. -/
theorem selectAndCompareDeliver : Obligations.SelectAndCompareDeliver := by
  unfold Obligations.SelectAndCompareDeliver
  refine ⟨yields_alu fun _ _ => rfl, yields_alu fun _ _ => rfl, yields_one fun _ _ => rfl, fun s op h => ?_,
    yields_cmp fun _ _ => rfl, yields_cmp fun _ _ => rfl⟩
  split
  case isTrue hd => exact movI_delivers_flags h hd
  case isFalse hd => exact movI_delivers_value h hd

end Sys2Proof.Machine
end

section
/-! # Tokens and records that arrive -/

namespace Sys2Proof.Machine

/-! ## The far end of a circuit (R67, R68, R96) -/

theorem tokenCircuitArrival_joins {s : State} (hb : (s.elem (elemOfInq (s.inqHome s.arg.a))).blocked = false) :
    exec .tokenCircuitArrival s = .next (s.setInq (s.inqHome s.arg.a)
      { toks := (s.inq (s.inqHome s.arg.a)).toks ++ [s.arg.tok], pend := (s.inq (s.inqHome s.arg.a)).pend - 1 }) := by
  change execTokenCircuitArrival s = _
  simp [execTokenCircuitArrival, hb]

theorem tokenCircuitArrival_blocked {s : State} (hb : (s.elem (elemOfInq (s.inqHome s.arg.a))).blocked = true) :
    exec .tokenCircuitArrival s = .next s := by
  change execTokenCircuitArrival s = _
  simp [execTokenCircuitArrival, hb]

/-! ## Records that enter the event queue late (R172, R252) -/

/-- A record that finds room, with none held before it, goes to the end of the queue (R171). -/
theorem Tile.post_of_room {x : Tile} (hw : x.evWait = []) (hr : x.evq.length < 64) (now : Nat) (r : BitVec 128) :
    x.post now 3 r = { x with evq := x.evq ++ [(now, r)] } := by
  have hl : (x.evq ++ [(now, r)]).length ≤ 64 := by
    rw [List.length_append]
    exact hr
  simp [Tile.post, hw, List.take_of_length_le hl, List.drop_of_length_le hl]

/-- Setting a tile to what it holds changes no tile. -/
theorem setTile_tile_self (s : State) (k u : Nat) : (s.setTile k (s.tile k)).tile u = s.tile u := by
  rw [State.setTile_tile]
  split
  case isTrue h => rw [h]
  case isFalse => rfl

theorem heldRecord_enters {s : State} {r : Nat × BitVec 128} {rest : List (Nat × BitVec 128)} (hb : s.arg.b ≠ 1)
    (hw : (s.tile s.arg.a).evWait = r :: rest) (hr : (s.tile s.arg.a).evq.length < 64) :
    exec .eventRecordDeferredEnqueue s = .next (s.setTile s.arg.a
      { s.tile s.arg.a with evq := (s.tile s.arg.a).evq ++ [(s.mcnt, r.2)], evWait := rest }) := by
  change execEventRecordDeferredEnqueue s = _
  simp [execEventRecordDeferredEnqueue, hb, hw, hr]

theorem heldRecord_stays {s : State} (hb : s.arg.b ≠ 1)
    (hn : (s.tile s.arg.a).evWait = [] ∨ 64 ≤ (s.tile s.arg.a).evq.length) :
    exec .eventRecordDeferredEnqueue s = .next (s.setTile s.arg.a (s.tile s.arg.a)) := by
  change execEventRecordDeferredEnqueue s = _
  cases hw : (s.tile s.arg.a).evWait with
  | nil => simp [execEventRecordDeferredEnqueue, hb, hw]
  | cons r rest =>
    have hne : (s.tile s.arg.a).evWait ≠ [] := hw ▸ List.cons_ne_nil r rest
    have hr : ¬ (s.tile s.arg.a).evq.length < 64 := Nat.not_lt.mpr (hn.resolve_left hne)
    simp [execEventRecordDeferredEnqueue, hb, hw, hr]

theorem evpostRecord_enters {s : State} (hb : s.arg.b = 1) (hp : releasePending s s.arg.a s.arg.c = false)
    (hr : (s.tile (tileOfSlot s.arg.a)).evq.length < 64) (hw : (s.tile (tileOfSlot s.arg.a)).evWait = []) :
    exec .eventRecordDeferredEnqueue s = .next (s.setTile (tileOfSlot s.arg.a) { s.tile (tileOfSlot s.arg.a) with
      evq := (s.tile (tileOfSlot s.arg.a)).evq ++ [(s.mcnt, s.arg.v.setWidth 128)] }) := by
  change execEventRecordDeferredEnqueue s = _
  simp [execEventRecordDeferredEnqueue, hb, hp, State.postRecord, Tile.post_of_room hw hr]

theorem evpostRecord_waits {s : State} (hb : s.arg.b = 1) (hp : releasePending s s.arg.a s.arg.c = true) :
    exec .eventRecordDeferredEnqueue s = .next (s.planEv (s.mcnt + 1) rkArrive .eventRecordDeferredEnqueue s.arg) := by
  change execEventRecordDeferredEnqueue s = _
  simp [execEventRecordDeferredEnqueue, hb, hp]

/-! ## What keeps slots, register files and memory -/

/-- From `s` to `t` no slot, no register file of an element and no byte of memory has changed. -/
structure RegistersKept (s t : State) : Prop where
  slots : t.slots = s.slots
  elem : ∀ v, (t.elem v).pv = (s.elem v).pv ∧ (t.elem v).ps = (s.elem v).ps
  mem : t.mem = s.mem

theorem RegistersKept.slot {s t : State} (h : RegistersKept s t) (n : Nat) : t.slot n = s.slot n := by
  simp only [State.slot, h.slots]

theorem RegistersKept.trans {s t u : State} (h : RegistersKept s t) (g : RegistersKept t u) : RegistersKept s u :=
  ⟨g.slots.trans h.slots, fun v => ⟨(g.elem v).1.trans (h.elem v).1, (g.elem v).2.trans (h.elem v).2⟩, g.mem.trans h.mem⟩

theorem QueuesOnly.registersKept {s t : State} (h : QueuesOnly s t) : RegistersKept s t :=
  ⟨h.slots, fun v => ⟨(congrArg Elem.pv (h.elem v) :), (congrArg Elem.ps (h.elem v) :)⟩, (congrArg State.mem h.rest :)⟩

/-- The open blocks of an element are none of its registers. -/
theorem registersKept_setQuant (s : State) (v : Nat) (l : List QBlock) :
    RegistersKept s (s.setElem v { s.elem v with quant := l }) := by
  refine ⟨rfl, fun w => ?_, rfl⟩
  rw [State.setElem_elem]
  split
  case isTrue hw => exact hw ▸ ⟨rfl, rfl⟩
  case isFalse => exact ⟨rfl, rfl⟩

/-- A push without a reservation moves tokens and nothing else (R67, R316). -/
theorem QueuesOnly.pushOut {s t : State} (h : QueuesOnly s t) (n seq : Nat) (fan : BitVec 6) (phase : Nat) (tok : Token) :
    QueuesOnly s (pushOut t n seq fan phase tok false) := by
  refine QueuesOnly.foldl _ (fun a g => ?_) _ h
  split
  · apply QueuesOnly.drainOut
    apply (QueuesOnly.refl a).setElem
    rfl
  · exact QueuesOnly.refl a

/-! ## Tokens of a QBLK block (R138) -/

/-- The block and the state from which token p of a block completes: for token 0 the block is quantised first (R138). -/
def quantReady (s : State) (v : Nat) (b : QBlock) (p : Nat) : QBlock × State := if p = 0 then quantFirst s v b else (b, s)

theorem quantReady_slot (s : State) (v : Nat) (b : QBlock) (p : Nat) : (quantReady s v b p).1.slot = b.slot := by
  unfold quantReady
  split <;> rfl

theorem quantReady_out (s : State) (v : Nat) (b : QBlock) (p : Nat) : (quantReady s v b p).1.outs.getD p 0
    = if p = 0 then (quantOut b (s.slot b.slot).dth).getD 0 0 else b.outs.getD p 0 := by
  unfold quantReady
  split
  case isTrue hp => subst hp; rfl
  case isFalse => rfl

/-- Quantising changes one slot, the block's own, in DTH and FLG alone, and it happens for token 0 only. -/
theorem quantReady_slots (s : State) (v : Nat) (b : QBlock) (p : Nat) :
    (∀ m, m ≠ b.slot → (quantReady s v b p).2.slot m = s.slot m)
    ∧ (∃ dth flg now was, (quantReady s v b p).2.slot b.slot
        = { s.slot b.slot with dth := dth, flg := flg, flgNow := now, flgAt := was })
    ∧ (p ≠ 0 → (quantReady s v b p).2 = s) := by
  unfold quantReady
  split
  case isTrue hp =>
    refine ⟨fun m hm => by simp [quantFirst, hm], ?_, fun h => absurd hp h⟩
    simp only [quantFirst, raiseFlags, State.modSlot_eq, State.modElem_eq, State.setSlot_slot, State.setElem_slot, if_true]
    exact ⟨_, _, _, _, rfl⟩
  case isFalse => exact ⟨fun _ _ => rfl, ⟨_, _, _, _, rfl⟩, fun _ => rfl⟩

theorem quantReady_rest (s : State) (v : Nat) (b : QBlock) (p : Nat) :
    (∀ w, ((quantReady s v b p).2.elem w).pv = (s.elem w).pv ∧ ((quantReady s v b p).2.elem w).ps = (s.elem w).ps)
    ∧ (quantReady s v b p).2.mem = s.mem := by
  unfold quantReady
  split
  case isTrue => exact ⟨(registersKept_setQuant s v _).elem, rfl⟩
  case isFalse => exact ⟨fun _ => ⟨rfl, rfl⟩, rfl⟩

/-- A token of an open block shifts the last-result file of the block's slot; its push, and the end of the block, change no register
besides. -/
theorem releaseToken_shifts {s : State} {v id : Nat} {b : QBlock} (p : Nat)
    (hb : (s.elem v).quant.find? (fun q => q.id == id) = some b) :
    RegistersKept ((quantReady s v b p).2.modSlot (quantReady s v b p).1.slot
      (fun x => shiftQ x ((quantReady s v b p).1.outs.getD p 0))) (releaseToken v id p s) := by
  have hpush := fun s n seq fan phase tok => ((QueuesOnly.refl s).pushOut n seq fan phase tok).registersKept
  simp only [releaseToken, hb]
  split
  · exact ((hpush _ _ _ _ _ _).trans (registersKept_setQuant _ _ _)).trans
      ((QueuesOnly.refl _).drainCheck _).registersKept
  · exact hpush _ _ _ _ _ _

theorem releaseToken_slot {s : State} {v id : Nat} {b : QBlock} (p : Nat)
    (hb : (s.elem v).quant.find? (fun q => q.id == id) = some b) (m : Nat) :
    (releaseToken v id p s).slot m = if m = b.slot then
      shiftQ ((quantReady s v b p).2.slot b.slot) (if p = 0 then (quantOut b (s.slot b.slot).dth).getD 0 0 else b.outs.getD p 0)
    else s.slot m := by
  rw [(releaseToken_shifts p hb).slot, State.modSlot_eq, State.setSlot_slot, quantReady_slot, quantReady_out]
  split
  case isTrue => rfl
  case isFalse hm => exact (quantReady_slots s v b p).1 m hm

theorem releaseToken_gone {s : State} {v id : Nat} (p : Nat) (hn : (s.elem v).quant.find? (fun q => q.id == id) = none) :
    releaseToken v id p s = s := by
  simp only [releaseToken, hn]

/-- Settles O28: each clause reads back the state that the lemma about its event gives. -/
theorem tokensArrive : Obligations.TokensArrive := by
  unfold Obligations.TokensArrive
  intro s
  refine ⟨⟨fun hb => ?_, tokenCircuitArrival_blocked⟩, ⟨fun r rest hb hw hr => ?_, fun hb hn => ?_⟩,
    ⟨fun hb hp hr hw => ?_, evpostRecord_waits⟩, fun b hb => ?_, fun hn => ?_⟩
  · exact ⟨_, tokenCircuitArrival_joins hb, by simp, fun r hr => by simp [hr], rfl, rfl, rfl, rfl, rfl⟩
  · exact ⟨_, heldRecord_enters hb hw hr, by simp, fun u hu => by simp [hu], rfl, rfl, rfl, rfl⟩
  · exact ⟨_, heldRecord_stays hb hn, setTile_tile_self s s.arg.a, rfl, rfl, rfl, rfl⟩
  · exact ⟨_, evpostRecord_enters hb hp hr hw, by simp, fun u hu => by simp [hu], rfl, rfl, rfl, rfl⟩
  · obtain ⟨-, ⟨dth, flg, now, was, hown⟩, hsame⟩ := quantReady_slots s s.arg.a b s.arg.c
    obtain ⟨helem, hmem⟩ := quantReady_rest s s.arg.a b s.arg.c
    have hkept := releaseToken_shifts s.arg.c hb
    have hslot := releaseToken_slot s.arg.c hb b.slot
    rw [if_pos rfl, hown] at hslot
    refine ⟨releaseToken s.arg.a s.arg.b s.arg.c s, rfl, ?_⟩
    rw [hslot]
    refine ⟨rfl, rfl, rfl, rfl, fun hc => ?_, rfl, rfl, rfl, fun m hm => ?_, fun w => ?_, hkept.mem.trans hmem⟩
    · rw [hsame hc] at hown
      exact ⟨(congrArg Slot.dth hown).symm, (congrArg Slot.flg hown).symm⟩
    · exact (releaseToken_slot s.arg.c hb m).trans (if_neg hm)
    · exact ⟨(hkept.elem w).1.trans (helem w).1, (hkept.elem w).2.trans (helem w).2⟩
  · exact congrArg Host.Outcome.next (releaseToken_gone s.arg.c hn)

end Sys2Proof.Machine
end

section
/-! # Arithmetic in the lanes

Every integer and floating-point instruction is one call of a shared issue: `aluVE` for the pipelined units, `iterVE` for the iterative
unit (R87), `cmpVE` for a comparison that delivers a mask (R63). `yields_alu`, `yields_iter` and `yields_cmp` say what such a call
delivers. -/

namespace Sys2Proof.Machine

/-- Settles O1: the instructions of R113 to R115 issue through the pipelined unit; division, remainder and square root through the
iterative one. -/
theorem integerDelivers : Obligations.IntegerDelivers := by
  unfold Obligations.IntegerDelivers
  refine ⟨?pipelined, ?iterative⟩
  case pipelined => and_intros <;> exact yields_alu fun _ _ => rfl
  case iterative => and_intros <;> exact yields_iter fun _ _ => rfl

/-- FCMP delivers the mask of its relation (R125). -/
theorem fcmp_yieldsMask : YieldsMask .fcmp 0x5D (fun op _ o l => fRel fp32 op.var.toNat (lane o.a l).toNat (lane o.b l).toNat) :=
  yields_cmp fun _ _ => rfl

/-- Settles O4: FCMP delivers a mask; every other FP32 instruction, and every packed one, HCMP with its mask of bits in each half
(R134) among them, delivers values lane by lane. -/
theorem floatDelivers : Obligations.FloatDelivers := by
  unfold Obligations.FloatDelivers
  refine ⟨⟨?_, ?_, ?_, ?_, ?_, ?_, ?_, ?_, ?_, ?_, fcmp_yieldsMask⟩, ?packed⟩
  case packed => and_intros <;> exact yields_alu fun _ _ => rfl
  all_goals exact yields_alu fun _ _ => rfl

end Sys2Proof.Machine
end

section
/-! # Control transfers, the end of a block and predicates -/

namespace Sys2Proof

/-! ## Lanes of a packed value -/

/-- Bits of a packed value: bit `i` is a bit of element `i / w` (R37). -/
theorem getLsbD_pack {w : Nat} (hw : 0 < w) (f : Nat → BitVec w) {n i : Nat} (hn : w * n ≤ 512) :
    (pack w f n).getLsbD i = (decide (i < w * n) && (f (i / w)).getLsbD (i % w)) := by
  induction n with
  | zero => simp [pack]
  | succ n ih =>
    have hsucc : w * (n + 1) = w * n + w := Nat.mul_succ w n
    rw [pack, BitVec.getLsbD_or, ih (by omega), BitVec.getLsbD_shiftLeft, BitVec.getLsbD_setWidth]
    rcases Nat.lt_or_ge i (w * n) with hlt | hge
    · simp [hlt, show i < w * (n + 1) by omega]
    rcases Nat.lt_or_ge i (w * n + w) with hin | hout
    · have hdiv : i / w = n := Nat.div_eq_of_lt_le (by rwa [Nat.mul_comm]) (by rw [Nat.mul_comm]; omega)
      have hmod : i % w = i - w * n := by rw [Nat.mod_eq_sub_mul_div, hdiv]
      simp [Nat.not_lt.mpr hge, hdiv, hmod, show i < 512 by omega, show i < w * (n + 1) by omega,
        show i - w * n < 512 by omega]
    · have hbit : (f n).getLsbD (i - w * n) = false := BitVec.getLsbD_of_ge _ _ (by omega)
      simp [Nat.not_lt.mpr hge, hbit, show ¬ i < w * (n + 1) by omega]

theorem lane_ofLanes (f : Nat → Word) {l : Nat} (hl : l < 16) : lane (ofLanes f) l = f l := by
  refine BitVec.eq_of_getLsbD_eq fun i hi => ?_
  rw [lane, BitVec.getLsbD_extractLsb', ofLanes, getLsbD_pack (by decide) f (by decide)]
  simp [hi, show 32 * l + i < 512 by omega, show (32 * l + i) / 32 = l by omega, show (32 * l + i) % 32 = i by omega]

/-- A scalar reads back from any lane (R20). -/
theorem lane_splat (w : Word) {l : Nat} (hl : l < 16) : lane (splat w) l = w := lane_ofLanes _ hl

end Sys2Proof

namespace Sys2Proof.Machine

/-! ## Transfers (R100 to R106) -/

theorem opndsOf_mask_of_true_predicate (s : State) (maj : Nat) {op : Op} (h : op.pred = 7#3) :
    (opndsOf s maj op).mask = if op.pinv then 0#16 else 0xFFFF#16 := by
  change effMask (s.slot s.cur) op = _
  simp [effMask, h]

theorem opndsOf_a_of_scalar (s : State) (maj : Nat) {op : Op} (h : op.acls = 1#3) :
    (opndsOf s maj op).a = splat (s.sreg s.cur (rawA (opndsOf s maj op).trip.raw)) := by
  simp only [opndsOf, State.operands, h]
  rfl

/-- A lane is on when the mask is not zero. -/
theorem Opnds.on_iff (o : Opnds) : o.on = true ↔ o.mask ≠ 0#16 := by simp [Opnds.on, anyOn]

theorem brsHolds_of_two_lt {var : BitVec 3} (h : 2 < var.toNat) (w : Word) : brsHolds var w = !w.msb := by
  unfold brsHolds
  split
  case h_4 => rfl
  all_goals omega

/-- The conditions of BRS read as comparisons with zero (R103). -/
theorem brsHolds_iff (var : BitVec 3) (w : Word) : brsHolds var w = true ↔
    (var = 0 ∧ w = 0#32) ∨ (var = 1 ∧ w ≠ 0#32) ∨ (var = 2 ∧ w.toInt < 0) ∨ (2 < var.toNat ∧ 0 ≤ w.toInt) := by
  have hneg : w.msb = true ↔ w.toInt < 0 := BitVec.msb_eq_toInt ▸ by simp
  have hpos : w.msb = false ↔ 0 ≤ w.toInt := by rw [← Bool.not_eq_true, hneg, Int.not_lt]
  obtain h | h | h | h : var = 0 ∨ var = 1 ∨ var = 2 ∨ 2 < var.toNat := by bv_omega
  · subst h; simp [brsHolds]
  · subst h; simp [brsHolds]
  · subst h; simp [brsHolds, hneg]
  · have hne : var ≠ 0#3 ∧ var ≠ 1#3 ∧ var ≠ 2#3 := by and_intros <;> (rintro rfl; contradiction)
    obtain ⟨h0, h1, h2⟩ := hne
    simp [brsHolds_of_two_lt h, h0, h1, h2, h, hpos]

/-- An instruction that only transfers control passes to where its condition sends it (R101). -/
theorem passes_of_transfer {s : State} {maj : Nat} {op : Op} (h : Ready s maj op) {body : Opnds → State → Issued} {taken : Bool}
    {t : BitVec 11} (hb : body (opndsOf s maj op) (afterPops s op) = transfer (afterPops s op) taken t) :
    Passes s (issueVE maj op body s) op (if taken then some t else none) :=
  passes_of h hb

/-- .ANY asks for a lane that is on, .ALL for all 16 (R102). -/
theorem brTaken_iff (var : BitVec 3) (o : Opnds) : (if var = 0 then o.on else o.mask == 0xFFFF#16) = true ↔
    if var = 0 then o.mask ≠ 0#16 else o.mask = 0xFFFF#16 := by
  split
  · exact o.on_iff
  · exact beq_iff_eq

/-- Settles O9: NOP passes, and BR and BRS transfer on a condition of the mask and of lane 0 of A. -/
theorem transfersGoWhereTheySay : Obligations.TransfersGoWhereTheySay := by
  unfold Obligations.TransfersGoWhereTheySay
  intro s op
  refine ⟨fun h => ⟨_, rfl, passes_of h rfl⟩, opndsOf_mask_of_true_predicate s 0x01, fun h => ?scalar, fun h => ?br, fun h => ?brs⟩
  case scalar => rw [opndsOf_a_of_scalar s 0x02 h, lane_splat _ (by decide)]
  case br =>
    have hp : Passes s _ op _ := passes_of_transfer h (maj := 0x01)
      (body := fun o s1 => transfer s1 (if op.var = 0 then o.on else o.mask == 0xFFFF#16) (target o)) rfl
    have htaken := brTaken_iff op.var (opndsOf s 0x01 op)
    exact ⟨_, rfl, ite_congr (propext htaken) (fun _ => rfl) (fun _ => rfl) ▸ hp⟩
  case brs =>
    have hp : Passes s _ op _ := passes_of_transfer h (body := fun o s1 => transfer s1 (o.on && brsHolds op.var o.sa) (target o)) rfl
    refine ⟨fun ht => ⟨_, rfl, ?_⟩, fun ht => ⟨_, rfl, ?_⟩⟩
    · rwa [if_pos (by rwa [Bool.and_eq_true, Opnds.on_iff, brsHolds_iff])] at hp
    · rwa [if_neg (by rwa [Bool.and_eq_true, Opnds.on_iff, brsHolds_iff])] at hp

end Sys2Proof.Machine
end

section
/-! # Predicates as operands (R110 to R112) -/

namespace Sys2Proof.Machine

theorem countBits_eq_countP (m : Mask) (n : Nat) : countBits m n = (List.range n).countP (fun l => m.getLsbD l) := by
  induction n with
  | zero => rfl
  | succ n ih => simp [countBits, ih, List.range_succ, List.countP_append, List.countP_cons]

theorem lowestBit_eq_find? (m : Mask) (i n : Nat) :
    lowestBit m i n = ((List.range' i n).find? (fun l => m.getLsbD l)).getD 16 := by
  induction n generalizing i with
  | zero => rfl
  | succ n ih =>
    simp only [lowestBit, List.range'_succ, List.find?_cons]
    cases hm : m.getLsbD i with
    | false => exact ih (i + 1)
    | true => rfl

theorem countBits_le (m : Mask) (n : Nat) : countBits m n ≤ n := by
  rw [countBits_eq_countP]
  exact Nat.le_trans List.countP_le_length (Nat.le_of_eq List.length_range)

theorem lowestBit_le (m : Mask) (i n : Nat) (h : i + n ≤ 16) : lowestBit m i n ≤ 16 := by
  induction n generalizing i with
  | zero => exact Nat.le_refl 16
  | succ n ih =>
    rw [lowestBit]
    split
    · omega
    · exact ih (i + 1) (by omega)

/-- The word of PCNT by its fields: the index of the lowest set bit from bit 8 on, the count from bit 0 on (R112). -/
theorem pcntWord_eq_fields (m : Mask) : pcntWord m =
    ((BitVec.ofNat 5 (lowestBit m 0 16)).setWidth 32 <<< 8) ||| (BitVec.ofNat 5 (countBits m 16)).setWidth 32 := by
  have hl := lowestBit_le m 0 16 (by decide)
  have hc := countBits_le m 16
  apply BitVec.eq_of_toNat_eq
  calc (pcntWord m).toNat = 256 * lowestBit m 0 16 + countBits m 16 := by simp only [pcntWord, BitVec.toNat_ofNat]; omega
    _ = (lowestBit m 0 16 <<< 8) ||| countBits m 16 := by
      rw [← Nat.shiftLeft_add_eq_or_of_lt (by omega), Nat.shiftLeft_eq, Nat.mul_comm]
    _ = _ := by
      have hshift : lowestBit m 0 16 <<< 8 < 2 ^ 32 := by rw [Nat.shiftLeft_eq]; omega
      simp (disch := omega) only [BitVec.toNat_or, BitVec.toNat_shiftLeft, BitVec.toNat_setWidth, BitVec.toNat_ofNat, Nat.mod_eq_of_lt]

/-- Two fields of five bits, from bit 8 and from bit 0 on, read back, and no other bit is set. -/
theorem five_bit_fields_read_back (l c : BitVec 5) :
    ((l.setWidth 32 <<< 8) ||| c.setWidth 32).extractLsb' 0 5 = c
    ∧ ((l.setWidth 32 <<< 8) ||| c.setWidth 32).extractLsb' 8 5 = l
    ∧ ((l.setWidth 32 <<< 8) ||| c.setWidth 32) &&& 0xFFFF_E0E0#32 = 0#32 := by
  have hhigh : ∀ x : BitVec 5, (x.setWidth 32 <<< 8).extractLsb' 0 5 = 0#5 ∧ (x.setWidth 32 <<< 8).extractLsb' 8 5 = x
      ∧ (x.setWidth 32 <<< 8) &&& 0xFFFF_E0E0#32 = 0#32 := by decide
  have hlow : ∀ x : BitVec 5, (x.setWidth 32).extractLsb' 0 5 = x ∧ (x.setWidth 32).extractLsb' 8 5 = 0#5
      ∧ x.setWidth 32 &&& 0xFFFF_E0E0#32 = 0#32 := by decide
  simp [BitVec.extractLsb'_or, BitVec.and_or_distrib_right, hhigh l, hlow c]

/-- PSET delivers, in each lane, a bit of the scalar A, or whether lane A is not zero (R110). -/
theorem pset_yieldsMask : YieldsMask .pset 0x09
    (fun op _ o l => (if op.acls = 1 ∨ op.acls = 5 then o.sa.getLsbD l else lane o.a l != 0, noFlags)) :=
  fun _ _ h => ⟨_, rfl, cmpVE_delivers h fun _ o l => (psetBit o l, noFlags)⟩

theorem plog_yieldsMask : YieldsMask .plog 0x0A (fun op s o l => ((plogMask op.var (namedPred (s.slot s.cur) (rawA o.trip.raw))
    (namedPred (s.slot s.cur) (rawB o.trip.raw))).getLsbD l, noFlags)) :=
  fun _ op h => ⟨_, rfl, cmpVE_delivers h fun s o l => ((plogMask op.var (namedPred (s.slot o.slot) (rawA o.trip.raw))
    (namedPred (s.slot o.slot) (rawB o.trip.raw))).getLsbD l, noFlags)⟩

theorem pcnt_yields : Yields .pcnt 0x0B 2 (fun _ s o _ => (pcntWord (namedPred (s.slot s.cur) (rawA o.trip.raw)), noFlags)) :=
  fun _ _ h => ⟨_, rfl, aluVE_delivers h 2 fun s o _ => (pcntWord (namedPred (s.slot o.slot) (rawA o.trip.raw)), noFlags)⟩

/-- Settles O13: PSET and PLOG deliver masks, PCNT a word whose fields read back. -/
theorem predicatesDeliver : Obligations.PredicatesDeliver := by
  unfold Obligations.PredicatesDeliver
  refine ⟨pset_yieldsMask, plog_yieldsMask, pcnt_yields, fun m => ?_⟩
  rw [pcntWord_eq_fields, countBits_eq_countP, lowestBit_eq_find?, ← List.range_eq_range']
  exact five_bit_fields_read_back _ _

end Sys2Proof.Machine
end

section
/-! # Instructions with every lane off (R99, R145, R226) -/

namespace Sys2Proof.Machine

/-- An instruction that acts only when a lane is on passes when none is. -/
theorem actVE_passes_of_off {s : State} {maj : Nat} {op : Op} (h : Ready s maj op) (ho : (opndsOf s maj op).on = false)
    (f : Opnds → State → Issued) : Passes s (actVE maj op f s) op none := by
  refine passes_of h ?_
  simp only [ho, Bool.false_eq_true, if_false]
  rfl

/-- As `idle_of`, of an instruction whose effect also reads the state before its pops. -/
theorem idleWhenOff_of_actVE {i : Op → Instr} {maj : Nat} {f : Op → State → Opnds → State → Issued}
    (h : ∀ op s, exec (i op) s = .next (actVE maj op (f op s) s)) : IdleWhenOff i maj :=
  fun s op hr ho => ⟨_, h op s, actVE_passes_of_off hr ho _⟩

/-- A look at what a draining slot waits for changes only the agenda, and takes nothing from it. -/
theorem mem_drainCheck {s : State} {it : Item} (h : it ∈ s.agenda) (n : Nat) : it ∈ (s.drainCheck n).agenda := by
  unfold State.drainCheck
  split
  · rw [State.planN_eq, mem_plan]
    exact Or.inr h
  · exact h

theorem Passes.drainCheck {s t : State} {op : Op} {jump : Option (BitVec 11)} (h : Passes s t op jump) (n : Nat) :
    Passes s (t.drainCheck n) op jump := by
  have hq : QueuesOnly t (t.drainCheck n) := (QueuesOnly.refl t).drainCheck n
  refine ⟨?_, (hq.flight _).trans h.flight, (hq.iterUntil _).trans h.unit, mem_drainCheck h.next n, h.quiet.trans (hq.quiet _)⟩
  rw [State.slot, hq.slots]
  exact h.slot

/-- DONE and DONE.ABANDON look at once whether their slot may retire, with every lane off too. -/
theorem idleWhenOff_of_drainCheck {i : Op → Instr} {maj : Nat} {f : Op → State → Opnds → State → Issued}
    (h : ∀ op s, exec (i op) s = .next ((actVE maj op (f op s) s).drainCheck s.cur)) : IdleWhenOff i maj :=
  fun s op hr ho => ⟨_, h op s, (actVE_passes_of_off hr ho _).drainCheck _⟩

/-- A store with every lane off makes no access (R145). -/
theorem idleWhenOff_of_store {i : Op → Instr} {maj : Nat} (h : ∀ op s, exec (i op) s = .next (issueVE maj op (accessBody maj) s))
    (hres : ∀ o, accessResult maj o = none) : IdleWhenOff i maj := by
  refine fun s op hr ho => ⟨_, h op s, passes_of hr ?_⟩
  simp only [accessBody, ho, Bool.not_false, if_true, hres]
  rfl

theorem doneI_idleWhenOff : IdleWhenOff .doneI 0x06 := idleWhenOff_of_drainCheck fun _ _ => rfl
theorem doneAbandon_idleWhenOff : IdleWhenOff .doneAbandon 0x06 := idleWhenOff_of_drainCheck fun _ _ => rfl
theorem st_idleWhenOff : IdleWhenOff .st 0xA1 := idleWhenOff_of_store (fun _ _ => rfl) fun _ => rfl
theorem strl_idleWhenOff : IdleWhenOff .strl 0xA3 := idleWhenOff_of_store (fun _ _ => rfl) fun _ => rfl

/-- Settles O27: beside the ends of a block and the stores, every one of them is gated by `actVE`. -/
theorem offInstructionsPass : Obligations.OffInstructionsPass := by
  unfold Obligations.OffInstructionsPass
  simp only [doneI_idleWhenOff, doneAbandon_idleWhenOff, st_idleWhenOff, strl_idleWhenOff, true_and]
  and_intros <;> exact idleWhenOff_of_actVE fun _ _ => rfl

end Sys2Proof.Machine
end

section
/-! # Calls, loops and the end of a block (R104, R105, R107, R108) -/

namespace Sys2Proof.Machine

/-! ## CALL, RET and LOOP -/

/-- With a lane on, an instruction that transfers control without a result passes to where it goes. -/
theorem actVE_passes {s : State} {maj : Nat} {op : Op} (h : Ready s maj op) (ho : (opndsOf s maj op).on = true)
    {f : Opnds → State → Issued} {taken : Bool} {t : BitVec 11}
    (hf : f (opndsOf s maj op) (afterPops s op) = transfer (afterPops s op) taken t) :
    Passes s (actVE maj op f s) op (if taken then some t else none) := by
  refine passes_of h ?_
  simp only [ho, if_true, hf]
  rfl

/-- With a lane on, an instruction that transfers control and writes a scalar delivers it (R104, R105). -/
theorem actVE_delivers_link {s : State} {maj : Nat} {op : Op} (h : Ready s maj op) (ho : (opndsOf s maj op).on = true)
    {f : Opnds → State → Issued} {taken : Bool} {t : BitVec 11} {w : Word}
    (hf : f (opndsOf s maj op) (afterPops s op) = { transfer (afterPops s op) taken t with res := some (linkWrite w) }) :
    Delivers s (actVE maj op f s) maj op .link 1 { value := splat w, lanes := 0xFFFF#16, valid := 0, flags := noFlags }
      (if taken then some t else none) := by
  refine (delivers_of h (u := afterPops s op) ?_ (Quiet.refl _ _) rfl rfl).1
  simp only [ho, if_true, hf]
  rfl

theorem callI_delivers_return {s : State} {op : Op} (h : Ready s 0x03 op) (ho : (opndsOf s 0x03 op).on = true) :
    ∃ t, exec (.callI op) s = .next t ∧ Delivers s t 0x03 op .link 1
      { value := splat (((s.slot s.cur).ia + 3).setWidth 32), lanes := 0xFFFF#16, valid := 0, flags := noFlags }
      (some (target (opndsOf s 0x03 op))) :=
  ⟨_, rfl, actVE_delivers_link h ho (taken := true) rfl⟩

theorem retI_passes_to_s31 {s : State} {op : Op} (h : Ready s 0x04 op) (ho : (opndsOf s 0x04 op).on = true) :
    ∃ t, exec (.retI op) s = .next t ∧ Passes s t op (some ((s.sreg s.cur 31).setWidth 11)) :=
  ⟨_, rfl, actVE_passes h ho (taken := true) rfl⟩

theorem loopI_delivers_count {s : State} {op : Op} (h : Ready s 0x05 op) (ho : (opndsOf s 0x05 op).on = true) :
    ∃ t, exec (.loopI op) s = .next t ∧ Delivers s t 0x05 op .link 1
      { value := splat ((opndsOf s 0x05 op).sa - 1), lanes := 0xFFFF#16, valid := 0, flags := noFlags }
      (if (opndsOf s 0x05 op).sa - 1 = 0 then none else some (target (opndsOf s 0x05 op))) := by
  refine ⟨_, rfl, ?_⟩
  have hd : Delivers s _ 0x05 op _ _ _ _ := actVE_delivers_link h ho
    (f := fun o s1 => { transfer s1 (o.sa - 1 != 0) (target o) with res := some (linkWrite (o.sa - 1)) }) rfl
  simp only [bne_iff_ne, ne_eq, ite_not] at hd
  exact hd

/-! ## What the end of a block leaves alone -/

theorem Quiet.cmds {n : Nat} {s t : State} (h : Quiet n s t) : t.cmds = s.cmds := (congrArg State.cmds h.rest :)
theorem Quiet.copies {n : Nat} {s t : State} (h : Quiet n s t) : t.copies = s.copies := (congrArg State.copies h.rest :)
theorem Quiet.btes {n : Nat} {s t : State} (h : Quiet n s t) : t.btes = s.btes := (congrArg State.btes h.rest :)
theorem QueuesOnly.slot {s t : State} (h : QueuesOnly s t) (n : Nat) : t.slot n = s.slot n := by simp only [State.slot, h.slots]

/-- With a lane on, the end of a block from the state `u`: the slot drains past the instruction, the results in flight are those of
`u`, and nothing else of `u` has changed (R107). -/
theorem actVE_endBlock {s u : State} {maj : Nat} {op : Op} (h : Ready s maj op) (ho : (opndsOf s maj op).on = true)
    {f : Opnds → State → Issued} (hf : f (opndsOf s maj op) (afterPops s op) = endBlock u s.cur) (n : Nat) :
    let t := (actVE maj op f s).drainCheck n
    t.slot s.cur = advance { u.slot s.cur with st := .draining, ended := true } op none
    ∧ (t.elem (veOfSlot s.cur)).flight = (u.elem (veOfSlot s.cur)).flight ∧ Quiet s.cur u t := by
  have hfin : actVE maj op f s = finish (opndsOf s maj op) (endBlock u s.cur) := by
    simp only [actVE, issueVE_ready h, ho, if_true, hf]
    rfl
  have hq : QueuesOnly (actVE maj op f s) ((actVE maj op f s).drainCheck n) := (QueuesOnly.refl _).drainCheck n
  have hu : Quiet s.cur u (endBlock u s.cur).st := (Quiet.refl _ _).setSlot _
  refine ⟨?_, ?_, ?_⟩
  · rw [hq.slot, hfin]
    refine (finish_slot (opndsOf s maj op) (endBlock u s.cur)).trans ?_
    simp [endBlock, Issued.only, opndsOf, State.operands]
  · rw [hq.flight, hfin]
    refine (finish_flight (opndsOf s maj op) (endBlock u s.cur)).trans ?_
    simp [endBlock, Issued.only, opndsOf, State.operands]
  · rw [hfin] at hq ⊢
    exact (hu.trans (finish_quiet (opndsOf s maj op) (endBlock u s.cur))).trans (hq.quiet _)

/-- DONE, and DONE.ABANDON at level T, leave the results in flight and all else as they were (R107, R108). -/
theorem actVE_endBlock_afterPops {s : State} {maj : Nat} {op : Op} (h : Ready s maj op) (ho : (opndsOf s maj op).on = true)
    {f : Opnds → State → Issued} (hf : f (opndsOf s maj op) (afterPops s op) = endBlock (afterPops s op) s.cur) (n : Nat) :
    let t := (actVE maj op f s).drainCheck n
    t.slot s.cur = advance { s.slot s.cur with st := .draining, ended := true } op none
    ∧ (t.elem (veOfSlot s.cur)).flight = (s.elem (veOfSlot s.cur)).flight ∧ Quiet s.cur s t := by
  have hp := queuesOnly_afterPops s op
  obtain ⟨hslot, hflight, hquiet⟩ := actVE_endBlock h ho hf n
  rw [slot_afterPops] at hslot
  exact ⟨hslot, hflight.trans (hp.flight _), (hp.quiet _).trans hquiet⟩

/-! ## What abandoning a block takes away (R108) -/

/-- From `s` to `t` slots and memory are as before, and of the commands outstanding those remain that `keep` holds of. -/
structure CommandsKept (keep : Nat × Command → Bool) (s t : State) : Prop where
  slots : t.slots = s.slots
  mem : t.mem = s.mem
  cmds : t.cmds = s.cmds.filter keep

theorem CommandsKept.trans {p q : Nat × Command → Bool} {s t u : State} (h : CommandsKept p s t) (g : CommandsKept q t u) :
    CommandsKept (fun c => q c && p c) s u :=
  ⟨g.slots.trans h.slots, g.mem.trans h.mem, by rw [g.cmds, h.cmds, List.filter_filter]⟩

theorem CommandsKept.queues {p : Nat × Command → Bool} {s t u : State} (h : CommandsKept p s t) (g : QueuesOnly t u) :
    CommandsKept p s u :=
  ⟨g.slots.trans h.slots, (g.quiet 0).mem.trans h.mem, (g.quiet 0).cmds.trans h.cmds⟩

theorem queuesOnly_drainBlock (s : State) (n : Nat) : QueuesOnly s (s.drainBlock n) := by
  refine QueuesOnly.foldl _ (fun a x => ?_) _ (QueuesOnly.refl s)
  split
  · exact (QueuesOnly.refl a).drainCheck _
  · exact QueuesOnly.refl a

theorem queuesOnly_kickChan (s : State) (t ch c : Nat) : QueuesOnly s (kickChan s t ch c) := by
  unfold kickChan
  split
  · exact (QueuesOnly.refl s).planOnce _ _ _ _ _ _
  · exact QueuesOnly.refl s

theorem queuesOnly_acceptWaiting (s : State) (t c : Nat) : QueuesOnly s (if (s.bte t).waiting.isEmpty then s
    else planOnce s c rkBte .bteDeferredAccept t 0 0) := by
  split
  · exact QueuesOnly.refl s
  · exact (QueuesOnly.refl s).planOnce _ _ _ _ _ _

theorem queuesOnly_kickUnlessFrozen (s : State) (t ch c : Nat) :
    QueuesOnly s (if (s.chan t ch).frozen then s else kickChan s t ch c) := by
  split
  · exact QueuesOnly.refl s
  · exact queuesOnly_kickChan s t ch c

/-- A copy that leaves the BTE takes its own command with it, and no other (R107). -/
theorem dropCopy_commandsKept (s : State) (id : Nat) (c : Copy) : CommandsKept (fun m => m.1 != id) s (dropCopy s id c) := by
  refine CommandsKept.queues (CommandsKept.queues (CommandsKept.queues ?_ (queuesOnly_drainBlock _ _)) (queuesOnly_acceptWaiting _ _ _))
    (queuesOnly_kickUnlessFrozen _ _ _ _)
  exact ⟨rfl, rfl, rfl⟩

theorem foldl_dropCopy_commandsKept (l : List (Nat × Copy)) (s : State) :
    CommandsKept (fun m => l.all (fun p => m.1 != p.1)) s (l.foldl (fun a p => dropCopy a p.1 p.2) s) := by
  induction l generalizing s with
  | nil => exact ⟨rfl, rfl, (List.filter_eq_self.mpr fun _ _ => rfl).symm⟩
  | cons p r ih =>
    have h := (dropCopy_commandsKept s p.1 p.2).trans (ih (dropCopy s p.1 p.2))
    simp only [Bool.and_comm] at h
    exact h

theorem foldl_stopTable_keeps {β : Type} (k : β → Nat) (l : List β) (s : State) :
    let t := l.foldl (fun a p => stopTable a (k p)) s
    t.slots = s.slots ∧ t.mem = s.mem ∧ t.cmds = s.cmds := by
  induction l generalizing s with
  | nil => exact ⟨rfl, rfl, rfl⟩
  | cons p r ih => exact ih (stopTable s (k p))

/-- The commands of a slot's block that have not begun, and its aperture starts that wait (R108). -/
def notBegun (s : State) (n : Nat) : Nat :=
  (s.cmds.filter (fun c => !c.2.begun && sameBlock s c.2.slot n)).length + waitingStarts s n

/-- What stays outstanding when the block of slot `n` is abandoned: no copy of the block that does not run, and no other command of it
that has not begun. -/
def outlivesBlock (s : State) (n : Nat) (c : Nat × Command) : Bool :=
  !(!c.2.begun && sameBlock s c.2.slot n)
    && (s.copies.filter (fun p => !p.2.running && sameBlock s p.2.slot n)).all (fun p => c.1 != p.1)

/-- Abandoning a block counts what has not begun in the slot, takes it from the commands outstanding, and leaves the other slots and
memory alone. -/
theorem abandon_effect (s : State) (n : Nat) :
    (∀ m, (abandon s n).slot m = if m = n then { s.slot n with abandoned := (s.slot n).abandoned + notBegun s n } else s.slot m)
    ∧ (abandon s n).mem = s.mem ∧ (abandon s n).cmds = s.cmds.filter (outlivesBlock s n) := by
  obtain ⟨hslots, hmem, hcmds⟩ := foldl_dropCopy_commandsKept (s.copies.filter (fun p => !p.2.running && sameBlock s p.2.slot n)) s
  have hcopies : ∀ m, (abandonCopies s n).slot m = s.slot m := fun m => congrArg (fun l => mget Slot.reset l m) hslots
  unfold abandon
  extract_lets k s0 s1 mine
  have hdrain := queuesOnly_drainBlock (mine.foldl (fun a p => stopTable a p.1) s1) n
  obtain ⟨htslots, htmem, htcmds⟩ := foldl_stopTable_keeps (fun p : Nat × MNode => p.1) mine s1
  refine ⟨fun m => ?_, (hdrain.quiet n).mem.trans (htmem.trans hmem), (hdrain.quiet n).cmds.trans (htcmds.trans ?_)⟩
  · calc _ = s1.slot m := (hdrain.slot m).trans (congrArg (fun l => mget Slot.reset l m) htslots)
      _ = if m = n then { s0.slot n with abandoned := (s0.slot n).abandoned + k } else s0.slot m := State.setSlot_slot _ _ _ _
      _ = _ := by rw [hcopies n, hcopies m]; rfl
  · calc s1.cmds = s0.cmds.filter (fun c => !(!c.2.begun && sameBlock s c.2.slot n)) := rfl
      _ = _ := by rw [show s0.cmds = _ from hcmds, List.filter_filter]; rfl

theorem mem_filter_outlivesBlock (s : State) (n : Nat) (c : Nat × Command) : c ∈ s.cmds.filter (outlivesBlock s n) ↔
    c ∈ s.cmds ∧ (c.2.begun = true ∨ sameBlock s c.2.slot n = false)
      ∧ ∀ p ∈ s.copies, p.1 = c.1 → p.2.running = true ∨ sameBlock s p.2.slot n = false := by
  simp only [List.mem_filter, outlivesBlock, Bool.and_eq_true, List.all_eq_true]
  grind

/-! ## Queues do not say which slots run for one block -/

theorem QueuesOnly.sameBlock {s t : State} (h : QueuesOnly s t) (n m : Nat) : sameBlock t n m = sameBlock s n m := by
  simp only [Machine.sameBlock, h.slot]

theorem QueuesOnly.notBegun {s t : State} (h : QueuesOnly s t) (n : Nat) : notBegun t n = notBegun s n := by
  simp only [Machine.notBegun, waitingStarts, h.sameBlock, (h.quiet n).cmds, (h.quiet n).btes]

theorem QueuesOnly.filter_outlivesBlock {s t : State} (h : QueuesOnly s t) (n : Nat) :
    t.cmds.filter (outlivesBlock t n) = s.cmds.filter (outlivesBlock s n) := by
  have hout : outlivesBlock t n = outlivesBlock s n := by
    funext c
    simp only [outlivesBlock, h.sameBlock, (h.quiet n).copies]
  rw [hout, (h.quiet n).cmds]

/-! ## DONE and DONE.ABANDON -/

theorem doneI_drains {s : State} {op : Op} (h : Ready s 0x06 op) (ho : (opndsOf s 0x06 op).on = true) :
    ∃ t, exec (.doneI op) s = .next t ∧ t.slot s.cur = advance { s.slot s.cur with st := .draining, ended := true } op none
      ∧ (t.elem (veOfSlot s.cur)).flight = (s.elem (veOfSlot s.cur)).flight ∧ Quiet s.cur s t :=
  ⟨_, rfl, actVE_endBlock_afterPops h ho rfl s.cur⟩

theorem doneAbandon_drains_at_level_t {s : State} {op : Op} (h : Ready s 0x06 op) (ho : (opndsOf s 0x06 op).on = true)
    (hl : s.levelOf (tileOfSlot s.cur) = .t) :
    ∃ t, exec (.doneAbandon op) s = .next t ∧ t.slot s.cur = advance { s.slot s.cur with st := .draining, ended := true } op none
      ∧ (t.elem (veOfSlot s.cur)).flight = (s.elem (veOfSlot s.cur)).flight ∧ Quiet s.cur s t := by
  refine ⟨_, rfl, actVE_endBlock_afterPops h ho ?_ s.cur⟩
  simp only [opndsOf, State.operands, hl, if_true]

theorem doneAbandon_discards {s : State} {op : Op} (h : Ready s 0x06 op) (ho : (opndsOf s 0x06 op).on = true)
    (hl : s.levelOf (tileOfSlot s.cur) ≠ .t) :
    ∃ t, exec (.doneAbandon op) s = .next t
      ∧ t.slot s.cur = advance { s.slot s.cur with
          st := .draining, ended := true, abandoned := (s.slot s.cur).abandoned + notBegun s s.cur } op none
      ∧ t.cmds = s.cmds.filter (outlivesBlock s s.cur) ∧ t.mem = s.mem ∧ ∀ m, m ≠ s.cur → t.slot m = s.slot m := by
  have hp := queuesOnly_afterPops s op
  obtain ⟨habslot, habmem, habcmds⟩ := abandon_effect (afterPops s op) s.cur
  simp only [hp.slot, hp.notBegun] at habslot
  obtain ⟨hslot, -, hquiet⟩ := actVE_endBlock h ho (u := abandon (afterPops s op) s.cur)
    (f := fun o s1 => endBlock (if o.level = .t then s1 else abandon s1 o.slot) o.slot)
    (by simp only [opndsOf, State.operands, hl, if_false]) s.cur
  rw [habslot, if_pos rfl] at hslot
  refine ⟨_, rfl, hslot, (hquiet.cmds.trans habcmds).trans (hp.filter_outlivesBlock _), ?_, fun m hm => ?_⟩
  · exact (hquiet.mem.trans habmem).trans (hp.quiet 0).mem
  · rw [hquiet.slots m hm, habslot, if_neg hm]

/-- Settles O10: the transfers with a lane on, and the two ends of a block. -/
theorem callsLoopsAndDone : Obligations.CallsLoopsAndDone := by
  unfold Obligations.CallsLoopsAndDone
  have hon : ∀ {o : Opnds}, o.mask ≠ 0#16 → o.on = true := fun {o} => o.on_iff.mpr
  refine ⟨fun s op => ⟨?call, ?ret, ?loop⟩, fun s op h ho => ⟨doneI_drains h (hon ho), doneAbandon_drains_at_level_t h (hon ho), ?abandon⟩⟩
  case call => exact fun h ho => callI_delivers_return h (hon ho)
  case ret => exact fun h ho => retI_passes_to_s31 h (hon ho)
  case loop => exact fun h ho => loopI_delivers_count h (hon ho)
  case abandon =>
    intro gone hl
    obtain ⟨t, ht, hslot, hcmds, hmem, hothers⟩ := doneAbandon_discards h (hon ho) hl
    exact ⟨t, ht, hslot, fun c => hcmds ▸ mem_filter_outlivesBlock s s.cur c, hmem, hothers⟩

end Sys2Proof.Machine
end

section
/-! # Signs, classes and lanes

FSGN and FCLASS read an encoding by its fields: `decodeF_toNat` gives the value of a word by its sign bit, exponent and fraction. The
permutations of lanes are lane-wise instructions of latency 3, and the reductions deliver one value, which depends on the state by
the element width alone. -/

namespace Sys2Proof.Machine

/-! ## The fields of an FP32 encoding (R40) -/

theorem exponent_eq_iff (a : Word) (e : BitVec 8) : a.toNat / 2 ^ 23 % 2 ^ 8 = e.toNat ↔ a.extractLsb' 23 8 = e := by
  rw [BitVec.toNat_eq, BitVec.extractLsb'_toNat, Nat.shiftRight_eq_div_pow]

theorem fraction_eq_zero_iff (a : Word) : a.toNat % 2 ^ 23 = 0 ↔ a.extractLsb' 0 23 = 0#23 := by
  rw [BitVec.toNat_eq, BitVec.extractLsb'_toNat]
  rfl

/-- The top bit of a fraction, which tells a quiet NaN from a signalling one (R41). -/
theorem quietBit_eq (a : Word) : (a.extractLsb' 0 23).getLsbD 22 = decide (2 ^ 22 ≤ a.toNat % 2 ^ 23) := by
  have h := BitVec.msb_eq_decide (a.extractLsb' 0 23)
  rw [BitVec.msb_eq_getLsbD_last, BitVec.extractLsb'_toNat] at h
  exact h

/-- The value of a word by its fields. -/
theorem decodeF_toNat (a : Word) : decodeF fp32 a.toNat =
    if a.extractLsb' 23 8 = 0xFF#8 then
      if a.extractLsb' 0 23 = 0#23 then .inf (a.getLsbD 31) else .nan (!(a.extractLsb' 0 23).getLsbD 22)
    else if a.extractLsb' 23 8 = 0#8 then .fin (a.getLsbD 31) (a.toNat % 2 ^ 23) fp32.qmin
    else .fin (a.getLsbD 31) (2 ^ 23 + a.toNat % 2 ^ 23)
      (((a.toNat / 2 ^ 23 % 2 ^ 8 : Nat) : Int) - fp32.bias - fp32.frac) := by
  have hsign : decide (a.toNat / fp32.signBit % 2 = 1) = a.getLsbD 31 :=
    Nat.testBit_eq_decide_div_mod_eq.symm.trans (BitVec.testBit_toNat a)
  have hones := exponent_eq_iff a 0xFF#8
  have hzero := exponent_eq_iff a 0#8
  have hquiet : decide (a.toNat % 2 ^ 23 < 2 ^ 22) = !(a.extractLsb' 0 23).getLsbD 22 := by
    rw [quietBit_eq, ← decide_not, decide_eq_decide, Nat.not_le]
  simp only [decodeF, hsign, ← hones, ← hzero, ← fraction_eq_zero_iff, ← hquiet]
  rfl

/-! ## FCLASS (R126) -/

theorem fclass_yields : Yields .fclass 0x5E 2 (fun _ => f32Op (fun a _ => (fClass a, noFlags))) := yields_alu fun _ _ => rfl

/-- Settles O6: the class follows the fields of the operand. -/
theorem fclassNamesTheClass : Obligations.FclassNamesTheClass := by
  unfold Obligations.FclassNamesTheClass
  refine ⟨fclass_yields, fun a => ?_⟩
  have hfrac : a.toNat % 2 ^ 23 < 2 ^ 23 := Nat.mod_lt _ (by decide)
  have hnormal : ¬ 2 ^ 23 + a.toNat % 2 ^ 23 < 2 ^ 23 := by omega
  have hne : 2 ^ 23 + a.toNat % 2 ^ 23 ≠ 0 := by omega
  rw [fClass, decodeF_toNat]
  by_cases he : a.extractLsb' 23 8 = 0xFF#8
  · by_cases hf : a.extractLsb' 0 23 = 0#23
    · simp only [if_pos he, if_pos hf]
      cases a.getLsbD 31 <;> rfl
    · simp only [if_pos he, if_neg hf]
      cases (a.extractLsb' 0 23).getLsbD 22 <;> rfl
  by_cases hz : a.extractLsb' 23 8 = 0#8
  · simp only [if_neg he, if_pos hz, hfrac, fraction_eq_zero_iff, if_true]
    by_cases hf : a.extractLsb' 0 23 = 0#23
    · simp only [if_pos hf]
      cases a.getLsbD 31 <;> rfl
    · simp only [if_neg hf]
      cases a.getLsbD 31 <;> rfl
  · simp only [if_neg he, if_neg hz, hnormal, hne, if_false]
    cases a.getLsbD 31 <;> rfl

/-! ## FSGN (R124) -/

theorem fsgn_yields : Yields .fsgn 0x55 2 (fun op => f32Op (fSgn op.var.toNat)) := yields_alu fun _ _ => rfl

theorem isNaN_decodeF_toNat (a : Word) :
    (decodeF fp32 a.toNat).isNaN = (a.extractLsb' 23 8 == 0xFF#8 && a.extractLsb' 0 23 != 0#23) := by
  rw [decodeF_toNat]
  split
  case isTrue he =>
    split
    case isTrue hf => simp [he, hf, FVal.isNaN]
    case isFalse hf => simp [he, hf, FVal.isNaN]
  case isFalse he => split <;> simp [he, FVal.isNaN]

/-- A sign set above the magnitude of a word. -/
theorem ofNat_signed (neg : Bool) (a : Word) :
    BitVec.ofNat 32 (fp32.signed neg (a.toNat % 2 ^ 31)) = BitVec.cons neg (a.setWidth 31) := by
  have h : fp32.signed neg (a.toNat % 2 ^ 31) = (BitVec.cons neg (a.setWidth 31)).toNat := by
    rw [BitVec.toNat_cons', BitVec.toNat_setWidth]
    cases neg
    case false => exact (Nat.zero_add _).symm
    case true => rfl
  rw [h, BitVec.ofNat_toNat, BitVec.setWidth_eq]

theorem fSgn_of_number {a : Word} (h : (decodeF fp32 a.toNat).isNaN = false) (b : Word) :
    asLane (fSgn 0 a.toNat b.toNat) = (BitVec.cons (!a.msb) (a.setWidth 31), noFlags)
    ∧ asLane (fSgn 1 a.toNat b.toNat) = (BitVec.cons false (a.setWidth 31), noFlags)
    ∧ asLane (fSgn 2 a.toNat b.toNat) = (BitVec.cons b.msb (a.setWidth 31), noFlags) := by
  have hneg : decide (a.toNat < 2 ^ 31) = !a.msb := by
    rw [BitVec.msb_eq_decide, ← decide_not, decide_eq_decide, Nat.not_le]
  have hsign : decide (2 ^ 31 ≤ b.toNat) = b.msb := (BitVec.msb_eq_decide b).symm
  simp only [asLane, fSgn, h, Bool.false_eq_true, if_false, hneg, hsign, ofNat_signed, and_self]

/-- The masks of FSGN act on the sign and the magnitude apart. -/
theorem signMasks_cons (s r : Bool) (m k : BitVec 31) :
    BitVec.cons s m ^^^ 0x8000_0000#32 = BitVec.cons (!s) m
    ∧ BitVec.cons s m &&& 0x7FFF_FFFF#32 = BitVec.cons false m
    ∧ (BitVec.cons s m &&& 0x7FFF_FFFF#32) ||| (BitVec.cons r k &&& 0x8000_0000#32) = BitVec.cons r m := by
  have hsign : 0x8000_0000#32 = BitVec.cons true 0#31 := rfl
  have hmag : 0x7FFF_FFFF#32 = BitVec.cons false (BitVec.allOnes 31) := rfl
  rw [hsign, hmag]
  simp only [BitVec.cons_xor_cons, BitVec.cons_and_cons, BitVec.cons_or_cons, Bool.xor_true, Bool.and_true, Bool.and_false,
    Bool.false_or, BitVec.xor_zero, BitVec.and_allOnes, BitVec.and_zero, BitVec.or_zero, and_self]

/-- Settles O5: the canonical NaN for a NaN, else the sign that VAR asks for above the magnitude of `a`. -/
theorem fsgnChangesTheSign : Obligations.FsgnChangesTheSign := by
  unfold Obligations.FsgnChangesTheSign
  refine ⟨fsgn_yields, fun a b => ?_⟩
  intro nan out
  have hnan : (decodeF fp32 a.toNat).isNaN = nan a := isNaN_decodeF_toNat a
  refine ⟨fun h var _ => ?_, fun h => ?_⟩
  · simp only [out, fSgn, hnan, h, if_true]
    rfl
  · obtain ⟨hflip, hclear, hcopy⟩ := signMasks_cons a.msb b.msb (a.setWidth 31) (b.setWidth 31)
    rw [BitVec.cons_msb_setWidth a] at hflip hclear hcopy
    rw [BitVec.cons_msb_setWidth b] at hcopy
    rw [hflip, hcopy, hclear]
    exact fSgn_of_number (hnan.trans h) b

/-! ## Lane movement and reductions (R140 to R142) -/

/-- A permutation of lanes yields. -/
theorem yields_perm {i : Op → Instr} {maj : Nat} {f : Op → Opnds → Nat → Word}
    (h : ∀ op s, exec (i op) s = .next (permVE maj op (f op) s)) : Yields i maj 3 (fun op _ o l => (f op o l, noFlags)) :=
  yields_alu h

/-- The movement of tokens leaves the element width (R29), on which a reduction works, as it was. -/
theorem QueuesOnly.width {s t : State} (h : QueuesOnly s t) (v : Nat) : (t.elem v).width = (s.elem v).width :=
  (congrArg Elem.width (h.elem v) :)

theorem QueuesOnly.redAdd {s t : State} (h : QueuesOnly s t) (o : Opnds) : redAdd t o = redAdd s o := by
  simp only [Machine.redAdd, h.width]

theorem QueuesOnly.redMinMax {s t : State} (h : QueuesOnly s t) (wantMax : Bool) (o : Opnds) :
    redMinMax wantMax t o = redMinMax wantMax s o := by
  simp only [Machine.redMinMax, h.width]

theorem QueuesOnly.redLog {s t : State} (h : QueuesOnly s t) (o : Opnds) : redLog t o = redLog s o := by
  simp only [Machine.redLog, h.width]

/-- An instruction yields one delivery that it computes from the state before its pops, where pops do not change that delivery. -/
theorem yieldsOne_of_before_pops {i : Op → Instr} {maj : Nat} {lat : Op → Nat} {f : State → Opnds → Delivery}
    (hf : ∀ {s t : State}, QueuesOnly s t → ∀ o, f t o = f s o)
    (h : ∀ op s, exec (i op) s = .next (issueVE maj op (fun o s1 => Issued.value s1 (lat op) (f s o)) s)) :
    YieldsOne i maj lat (fun _ => f) := by
  intro s op hr
  simp only [hf (queuesOnly_afterPops s op)]
  exact ⟨_, h op s, (delivers_of hr rfl (Quiet.refl _ _) rfl rfl).1⟩

/-- Settles O8: the five permutations, then COMPR, then the reductions. -/
theorem lanesDeliver : Obligations.LanesDeliver := by
  unfold Obligations.LanesDeliver
  refine ⟨?shuf, ?bcast, ?rotl, ?lsh, ?intlv, ?compr, ?redadd, ?redmin, ?redmax, ?redlog⟩
  case shuf | bcast | rotl | lsh | intlv => exact yields_perm fun _ _ => rfl
  case compr => exact yields_one fun _ _ => rfl
  case redadd => exact yieldsOne_of_before_pops QueuesOnly.redAdd fun _ _ => rfl
  case redmin | redmax => exact yieldsOne_of_before_pops (QueuesOnly.redMinMax · _) fun _ _ => rfl
  case redlog => exact yieldsOne_of_before_pops QueuesOnly.redLog fun _ _ => rfl

end Sys2Proof.Machine
end

section
/-! # What a node's events leave alone

What a matrix node does at an event is a change of the node and of the commands outstanding; the rest is looks at the agenda. -/

namespace Sys2Proof

@[simp] theorem mfind_mset_self {α : Type} (m : Map α) (k : Nat) (v : α) : mfind (mset m k v) k = some v := by
  induction m with
  | nil => simp [mset, mfind]
  | cons p r ih =>
    obtain ⟨k', v'⟩ := p
    simp only [mset]
    split
    · simp [mfind]
    · split
      case isTrue => simp [mfind]
      case isFalse hne => simp [mfind, hne, ih]

@[simp] theorem mfind_mdel_self {α : Type} (m : Map α) (k : Nat) : mfind (mdel m k) k = none := by
  induction m with
  | nil => rfl
  | cons p r ih =>
    obtain ⟨k', v'⟩ := p
    by_cases h : k' = k
    · simpa [mdel, h] using ih
    · simpa [mdel, mfind, h] using ih

end Sys2Proof

namespace Sys2Proof.Machine

/-! ## Reading through queues -/

theorem QueuesOnly.mcnt {s t : State} (h : QueuesOnly s t) : t.mcnt = s.mcnt := (h.quiet 0).mcnt
theorem QueuesOnly.mem {s t : State} (h : QueuesOnly s t) : t.mem = s.mem := (h.quiet 0).mem
theorem QueuesOnly.cmds {s t : State} (h : QueuesOnly s t) : t.cmds = s.cmds := (h.quiet 0).cmds
theorem Quiet.mnode {n : Nat} {s t : State} (h : Quiet n s t) (k : Nat) : t.mnode k = s.mnode k :=
  (congrArg (fun u : State => u.mnode k) h.rest :)
theorem QueuesOnly.mnode {s t : State} (h : QueuesOnly s t) (k : Nat) : t.mnode k = s.mnode k := (h.quiet 0).mnode k
theorem QueuesOnly.mnodes {s t : State} (h : QueuesOnly s t) : t.mnodes = s.mnodes := (congrArg State.mnodes h.rest :)

theorem setNode_mnode_self (s : State) (t : Nat) (y : MNode) : (s.setNode t y).mnode t = y := by simp

theorem QueuesOnly.unplan {s t : State} (h : QueuesOnly s t) (p : Act → Bool) : QueuesOnly s (t.unplan p) :=
  h.trans ⟨rfl, fun _ => rfl, fun _ => rfl, fun _ => rfl⟩

theorem QueuesOnly.withCmds {s t : State} (h : QueuesOnly s t) (m : Map Command) :
    QueuesOnly { s with cmds := m } { t with cmds := m } :=
  ⟨congrArg (fun u : State => { u with cmds := m }) h.rest, h.elem, h.tile, h.sport⟩

/-- An event that changes one matrix node, and otherwise only queues. -/
theorem QueuesOnly.node_mem_slots {s u : State} {t : Nat} {y : MNode} (h : QueuesOnly (s.setNode t y) u) :
    u.mnode t = y ∧ u.mem = s.mem ∧ u.slots = s.slots :=
  ⟨(h.mnode t).trans (setNode_mnode_self s t y), h.mem, h.slots⟩

/-! ## The looks of a node at its agenda -/

theorem queuesOnly_kickQueue (s : State) (t : Nat) : QueuesOnly s (kickQueue s t) := by
  unfold kickQueue
  split
  · exact (QueuesOnly.refl s).planOnce _ _ _ _ _ _
  · exact QueuesOnly.refl s

theorem queuesOnly_kickFeed (s : State) (t : Nat) : QueuesOnly s (kickFeed s t) := (QueuesOnly.refl s).planOnce _ _ _ _ _ _

theorem queuesOnly_planTable (s : State) (t c : Nat) : QueuesOnly s (planTable s t c) := by
  have h := (QueuesOnly.refl s).unplan (isTableFire t)
  unfold planTable
  split
  · exact h.plan _ _ _
  · exact h

/-! ## Commands that are no longer outstanding (R107) -/

theorem queuesOnly_endCommand (s : State) (id slot : Nat) : QueuesOnly { s with cmds := mdel s.cmds id } (s.endCommand id slot) :=
  queuesOnly_drainBlock _ _

theorem foldl_endCommand_cmds {β : Type} (id slot : β → Nat) (l : List β) (s : State) :
    ∃ m, QueuesOnly { s with cmds := m } (l.foldl (fun a b => a.endCommand (id b) (slot b)) s) := by
  induction l generalizing s with
  | nil => exact ⟨s.cmds, QueuesOnly.refl s⟩
  | cons b r ih =>
    obtain ⟨m, hm⟩ := ih (s.endCommand (id b) (slot b))
    exact ⟨m, ((queuesOnly_endCommand s (id b) (slot b)).withCmds m).trans hm⟩

theorem endEngine_cmds (s : State) (t engine : Nat) (begun : Bool) : ∃ m, QueuesOnly { s with cmds := m } (endEngine s t engine begun) :=
  foldl_endCommand_cmds _ _ _ s

/-! ## What the node does with a command or with its table (R179, R186, R188) -/

/-- Of the queue only what a VE hands over after the MXSTOP remains (R186). -/
theorem discardQueue_cmds (s : State) (t n : Nat) : ∃ m,
    QueuesOnly ({ s with cmds := m }.setNode t
      { s.mnode t with queue := (s.mnode t).queue.filter (fun c => decide (256 ≤ c.entry) && decide (n ≤ c.id)) }) (discardQueue s t n) := by
  obtain ⟨m, hm⟩ := foldl_endCommand_cmds MCmd.id MCmd.slot
    ((s.mnode t).queue.filter (fun c => !(decide (256 ≤ c.entry) && decide (n ≤ c.id))))
    (s.setNode t { s.mnode t with queue := (s.mnode t).queue.filter (fun c => decide (256 ≤ c.entry) && decide (n ≤ c.id)) })
  exact ⟨m, hm.trans (queuesOnly_kickFeed _ _)⟩

theorem discardQueue_mcnt (s : State) (t n : Nat) : (discardQueue s t n).mcnt = s.mcnt := by
  obtain ⟨m, hm⟩ := discardQueue_cmds s t n
  exact hm.mcnt

/-- Arming the table (R186, R188). -/
theorem queuesOnly_startTable (s : State) (t slot period c : Nat) :
    QueuesOnly (s.setNode t { s.mnode t with
      period := period, counter := some c, owner := slot, fed := 0, feed := (s.mnode t).feed.filter (fun f => f.id.isSome) })
      (startTable s t slot period c) := by
  unfold startTable
  extract_lets x s1 s2 s3
  have h2 : QueuesOnly s1 s2 := queuesOnly_planTable s1 t _
  have h3 : QueuesOnly s1 s3 := by
    unfold s3
    split
    · exact h2
    · exact h2.plan _ _ _
  exact h3.trans (queuesOnly_kickFeed _ _)

/-- Without an uncorrectable word on the tile, writing one whole mends nothing (R326). -/
theorem mendWord_of_no_badCfg {s : State} {t : Nat} (h : (s.tile t).badCfg = []) (p : CfgPart) (ix : Nat) : s.mendWord t p ix = s := by
  simp [State.mendWord, h]

theorem tableCommand_mxtab {s : State} {t : Nat} (h : (s.tile t).badCfg = []) (slot a b : Nat) :
    tableCommand s t 2 slot a b = planTable (s.setNode t { s.mnode t with
      table := mset (s.mnode t).table (a % 256) (BitVec.ofNat 64 b) }) t (s.mcnt + 1) := by
  simp [tableCommand, mendWord_of_no_badCfg h]

theorem acceptMatrix_mcnt (s : State) (t : Nat) (w : BitVec 64) (entry slot acc : Nat) : (acceptMatrix s t w entry slot acc).mcnt = s.mcnt :=
  ((queuesOnly_kickQueue _ _).trans (queuesOnly_kickFeed _ _)).mcnt

end Sys2Proof.Machine
end

section
/-! # Matrix instructions (R88, R179, R186, R188) -/

namespace Sys2Proof.Machine

/-! ## Handing a command or a word of the table to the node -/

/-- An admitted command for which the node has room enters it in its next free cycle (R88, R179). -/
theorem handMatrix_accepted {kind c : Nat} {o : Opnds} {s : State} (hk : cmdKind (o.sb ++ o.sa) = kind)
    (hok : cmdOk (s.mnode o.tile) (o.sb ++ o.sa) = true) (hf : (s.mnode o.tile).frozen = false)
    (hr : (liveQueue s o.tile).length < 16) (hc : acceptAt s o.tile = some c) :
    handMatrix kind o s = Issued.only (acceptMatrix s o.tile (o.sb ++ o.sa) 0xFFFF o.slot c) := by
  simp [handMatrix, hk, hok, hf, hc, Nat.not_le.mpr hr]

/-- The cycle that MXARM, MXTAB and MXSTOP take of the node (R88). -/
def takeCycle (s : State) (t c : Nat) : State := s.modNode t (fun x => { x with free := max x.free (c + 1) })

theorem handTable_frozen {o : Opnds} {s : State} (hf : (s.mnode o.tile).frozen = true) (kind b : Nat) :
    handTable kind o b s = Issued.only s := by
  simp [handTable, hf]

theorem handTable_now {o : Opnds} {s : State} (hf : (s.mnode o.tile).frozen = false) (hc : (acceptAt s o.tile).getD s.mcnt = s.mcnt)
    (kind b : Nat) : handTable kind o b s = Issued.only (tableCommand (takeCycle s o.tile s.mcnt) o.tile kind o.slot o.sa.toNat b) := by
  simp [handTable, hf, hc, takeCycle]

theorem handTable_later {o : Opnds} {s : State} {c : Nat} (hf : (s.mnode o.tile).frozen = false) (hc : acceptAt s o.tile = some c)
    (hne : c ≠ s.mcnt) (kind b : Nat) : handTable kind o b s = Issued.only ((takeCycle s o.tile c).planEv c rkHold .matrixTableFire
      (Arg.of o.tile kind o.slot o.sa.toNat b)) := by
  simp [handTable, hf, hc, hne, takeCycle]

/-- MXARM does not trap where no other block's table runs (R188). -/
theorem armTable_admitted {o : Opnds} {s : State}
    (hown : (s.mnode o.tile).counter = none ∨ sameBlock s (s.mnode o.tile).owner o.slot = true) (hf : (s.mnode o.tile).frozen = false) :
    armTable o s = handTable 1 o o.sb.toNat s := by
  have h : ¬ ((s.mnode o.tile).counter.isSome = true ∧ (!sameBlock s (s.mnode o.tile).owner o.slot) = true) := by
    rintro ⟨hc, hb⟩
    rcases hown with h | h <;> simp [h] at hc hb
  simp only [armTable, h, hf, if_false, Bool.false_eq_true]

/-! ## MXARM at once -/

theorem QueuesOnly.acceptAt {s t : State} (h : QueuesOnly s t) (k : Nat) : acceptAt t k = acceptAt s k := by
  simp only [Machine.acceptAt, h.mnode, h.mcnt]

/-- What MXARM leaves of the node when it is armed at once. -/
theorem mxarm_arms_at_once {s : State} {op : Op} (h : Ready s 0xD0 op) (ho : (opndsOf s 0xD0 op).on = true)
    (hown : (s.mnode (opndsOf s 0xD0 op).tile).counter = none ∨ sameBlock s (s.mnode (opndsOf s 0xD0 op).tile).owner s.cur = true)
    (hf : (s.mnode (opndsOf s 0xD0 op).tile).frozen = false) (hc : acceptAt s (opndsOf s 0xD0 op).tile = some s.mcnt) :
    let o := opndsOf s 0xD0 op
    ∃ t, exec (.mxarm op) s = .next t ∧ t.slot s.cur = advance (s.slot s.cur) op none
      ∧ (t.mnode o.tile).period = o.sa.toNat % 2 ^ 16 + 1 ∧ (t.mnode o.tile).owner = s.cur
      ∧ (t.mnode o.tile).counter = some (if o.sb.toNat % 2 ^ 20 = 0xFFFFF then s.mcnt
          else max s.mcnt ((s.slot s.cur).start + o.sb.toNat % 2 ^ 20)) := by
  intro o
  have hp := queuesOnly_afterPops s op
  generalize hpp : afterPops s op = p at hp
  have hbody : armTable o p = Issued.only (tableCommand (takeCycle p o.tile p.mcnt) o.tile 1 s.cur o.sa.toNat o.sb.toNat) := by
    rw [armTable_admitted, handTable_now]
    · rfl
    · rwa [hp.mnode]
    · rw [hp.acceptAt, hc, hp.mcnt]; rfl
    · rwa [hp.mnode, hp.sameBlock]
    · rwa [hp.mnode]
  have hu := queuesOnly_startTable (takeCycle p o.tile p.mcnt) o.tile s.cur (o.sa.toNat % 2 ^ 16 + 1)
    (if o.sb.toNat % 2 ^ 20 = 0xFFFFF then p.mcnt else max p.mcnt ((p.slot s.cur).start + o.sb.toNat % 2 ^ 20))
  have hacts : Acts s (actVE 0xD0 op armTable s) 0xD0 op _ none :=
    acts_of h (by simp only [ho, if_true]; rw [hpp]; exact hbody) (hu.mcnt.trans hp.mcnt)
  obtain ⟨hnode, -, -⟩ := hu.node_mem_slots
  have hn := (hacts.quiet.mnode o.tile).trans hnode
  refine ⟨_, rfl, ?_, ?_, ?_, ?_⟩
  · rw [hacts.slot]
    exact congrArg (advance · op none) ((hu.slot s.cur).trans (hp.slot s.cur))
  · rw [hn]
  · rw [hn]
  · rw [hn, hp.mcnt, hp.slot]

/-- Settles O24: a command is accepted, a word of the table acts at once or is handed over, and a frozen node discards it. -/
theorem matrixInstructionsAct : Obligations.MatrixInstructionsAct := by
  unfold Obligations.MatrixInstructionsAct
  have hand {i : Op → Instr} {maj kind : Nat} (h : ∀ op s, exec (i op) s = .next (actVE maj op (handMatrix kind) s)) (c : Nat) :
      Does i maj (fun _ p o => cmdKind (o.sb ++ o.sa) = kind ∧ cmdOk (p.mnode o.tile) (o.sb ++ o.sa) = true
          ∧ (p.mnode o.tile).frozen = false ∧ (liveQueue p o.tile).length < 16 ∧ acceptAt p o.tile = some c)
        (fun _ o p => acceptMatrix p o.tile (o.sb ++ o.sa) 0xFFFF o.slot c) :=
    does_of h (fun _ _ _ ⟨hk, hok, hf, hr, hc⟩ => handMatrix_accepted hk hok hf hr hc) (fun _ _ _ => acceptMatrix_mcnt _ _ _ _ _ _)
  refine ⟨hand fun _ _ => rfl, hand fun _ _ => rfl, hand fun _ _ => rfl, hand fun _ _ => rfl, hand fun _ _ => rfl,
    ?armNow, ?armLater, yields_one fun _ _ => rfl, yields_one fun _ _ => rfl, ?tabNow, ?tabLater, ?stopNow, ?stopLater, ?frozen⟩
  case armNow => exact fun s op h ho hown hf hc => mxarm_arms_at_once h ho hown hf hc
  case armLater =>
    refine fun c => does_of (fun _ _ => rfl) (fun op p o ⟨hown, hf, hc, hne⟩ => ?_) (fun _ _ _ => rfl)
    exact (armTable_admitted hown hf).trans (handTable_later hf hc hne _ _)
  case tabNow =>
    refine does_of (fun _ _ => rfl) (fun op p o ⟨hw, hf, hbad, hc⟩ => ?_) (fun _ _ _ => (queuesOnly_planTable _ _ _).mcnt)
    rw [if_pos hw, handTable_now hf hc, tableCommand_mxtab (s := takeCycle p o.tile p.mcnt) hbad]
    rfl
  case tabLater =>
    refine fun c => does_of (fun _ _ => rfl) (fun op p o ⟨hw, hf, hc, hne⟩ => ?_) (fun _ _ _ => rfl)
    rw [if_pos hw, handTable_later hf hc hne]
    rfl
  case stopNow =>
    exact does_of (fun _ _ => rfl) (fun op p o ⟨hf, hc⟩ => handTable_now hf hc _ _) (fun _ _ _ => discardQueue_mcnt _ _ _)
  case stopLater =>
    exact fun c => does_of (fun _ _ => rfl) (fun op p o ⟨hf, hc, hne⟩ => handTable_later hf hc hne _ _) (fun _ _ _ => rfl)
  case frozen =>
    rintro i maj (⟨rfl, rfl⟩ | ⟨rfl, rfl⟩)
    · exact does_of (fun _ _ => rfl) (fun op p o ⟨_, hf⟩ => handTable_frozen hf _ _) (fun _ _ _ => rfl)
    · refine does_of (fun _ _ => rfl) (fun op p o ⟨hw, hf⟩ => ?_) (fun _ _ _ => rfl)
      rw [if_pos (Or.inr (hw.resolve_left (by decide))), handTable_frozen hf]

end Sys2Proof.Machine
end

section
/-! # Lodestone instructions (R195, R196) -/

namespace Sys2Proof.Machine

theorem queuesOnly_kickLode (s : State) (t : Nat) : QueuesOnly s (kickLode s t) := by
  unfold kickLode
  extract_lets x
  split
  · split
    · exact (QueuesOnly.refl s).planOnce _ _ _ _ _ _
    · exact QueuesOnly.refl s
  · exact QueuesOnly.refl s

/-- The node with a command at the end of its queue, which it accepts in its first free cycle (R88, R196). -/
def enqueueLode (o : Opnds) (maj addr : Nat) (s : State) : State :=
  let x := s.lnode o.tile
  State.modLode { s with
    nextId := s.nextId + 1
    cmds := mset s.cmds s.nextId { slot := o.slot, offset := false, engine := 1, channel := 0, begun := false } } o.tile (fun y => { y with
      queue := y.queue ++ [{ maj := maj, var := o.op.var.toNat, a := o.a, b := o.sb, addr := addr, slot := o.slot, id := s.nextId, acc := max s.mcnt x.free }]
      free := max s.mcnt x.free + 1 })

theorem queueLode_of_room {o : Opnds} {s : State} (hf : (s.lnode o.tile).frozen = false) (hr : (liveLode s o.tile).length < 8)
    (maj addr : Nat) : queueLode o maj addr s = Issued.only (kickLode (enqueueLode o maj addr s) o.tile) := by
  simp only [queueLode, hf, Nat.not_le.mpr hr, if_false, Bool.false_eq_true]
  rfl

/-- A command with a capability operand enters once the extent passes its checks (R195). -/
theorem withExtent_of_room {maj a : Nat} {need : BitVec 8} {align size : Opnds → Nat} {o : Opnds} {s : State}
    (hx : lodeExtent o need (align o) (size o) s = .ok a) (hf : (s.lnode o.tile).frozen = false) (hr : (liveLode s o.tile).length < 8) :
    withExtent maj need align size o s
      = Issued.only (kickLode (enqueueLode { o with a := splat (BitVec.ofNat 32 (eaOf maj o)) } maj a s) o.tile) := by
  simp only [withExtent, hx]
  exact queueLode_of_room (o := { o with a := splat (BitVec.ofNat 32 (eaOf maj o)) }) hf hr maj a

/-- LREAD delivers where it does not read a busy or frozen node. -/
theorem lread_delivers {s : State} {op : Op} (h : Ready s 0xE6 op)
    (hi : (opndsOf s 0xE6 op).on = false ∨ (((afterPops s op).lnode (opndsOf s 0xE6 op).tile).run = none
      ∧ liveLode (afterPops s op) (opndsOf s 0xE6 op).tile = [] ∧ ((afterPops s op).lnode (opndsOf s 0xE6 op).tile).frozen = false)) :
    ∃ t, exec (.lread op) s = .next t ∧ Delivers s t 0xE6 op .value 4 (perLane (opndsOf s 0xE6 op)
      (fun l => (lane (lreadValue ((afterPops s op).lnode (opndsOf s 0xE6 op).tile) (opndsOf s 0xE6 op).sa) l, noFlags))) := by
  refine ⟨_, rfl, (delivers_of h (u := afterPops s op) ?_ (Quiet.refl _ _) rfl rfl).1⟩
  rcases hi with hoff | ⟨hrun, hlive, hf⟩
  · simp [hoff, Issued.value]
  · simp [hrun, hlive, hf, Issued.value]

/-- Settles O25: each command enters the queue, those with a capability operand after its checks; LREAD and LSTAT deliver. -/
theorem lodestoneInstructionsAct : Obligations.LodestoneInstructionsAct := by
  unfold Obligations.LodestoneInstructionsAct
  intro room put plain loads
  have hput : ∀ o maj addr a p, put o maj addr a p = kickLode (enqueueLode { o with a := a } maj addr p) o.tile := fun _ _ _ _ _ => rfl
  have hmcnt : ∀ o maj addr a p, (put o maj addr a p).mcnt = p.mcnt := fun o maj addr a p => by
    rw [hput]
    exact (queuesOnly_kickLode _ _).mcnt
  have hplain {i : Op → Instr} {maj : Nat} (h : ∀ op s, exec (i op) s = .next (actVE maj op (fun o s1 => queueLode o maj 0 s1) s)) :
      plain i maj := by
    refine does_of h (fun op p o hc => ?_) (fun _ _ _ => hmcnt _ _ _ _ _)
    rw [queueLode_of_room hc.1 hc.2, hput]
  have hloads {i : Op → Instr} {maj unit align : Nat}
      (h : ∀ op s, exec (i op) s = .next (actVE maj op (loadLode maj unit align) s)) : loads i maj unit align := by
    refine fun a => does_of h (fun op p o ⟨hr, hn, hx⟩ => ?_) (fun _ _ _ => hmcnt _ _ _ _ _)
    rw [loadLode, if_neg (Nat.not_lt.mpr hn), withExtent_of_room hx hr.1 hr.2, hput]
  refine ⟨hloads fun _ _ => rfl, hloads fun _ _ => rfl, hplain fun _ _ => rfl, hplain fun _ _ => rfl, hplain fun _ _ => rfl,
    hplain fun _ _ => rfl, hplain fun _ _ => rfl, hplain fun _ _ => rfl, fun s op h => lread_delivers h, fun a => ?store,
    yields_one fun _ _ => rfl⟩
  case store =>
    refine does_of (fun _ _ => rfl) (fun op p o ⟨hr, hx⟩ => ?_) (fun _ _ _ => hmcnt _ _ _ _ _)
    rw [withExtent_of_room hx hr.1 hr.2, hput]

end Sys2Proof.Machine
end

section
/-! # Matrix commands begin (R179 to R181) -/

namespace Sys2Proof.Machine

/-- The run of a command that begins in this cycle, with none of its work done. -/
def newRun (s : State) (c : MCmd) : MRun :=
  { cmd := { c with begin_ := s.mcnt }, next := 0, take := 0, buf := [], pois := false, wait := false, toks := [] }

/-- The command leaves the queue of its node and counts as begun. -/
def dequeue (s : State) (t : Nat) (c : MCmd) : State :=
  { s.setNode t { s.mnode t with queue := (s.mnode t).queue.filter (fun d => d.id != c.id) } with
    cmds := mset s.cmds c.id { slot := c.slot, offset := false, engine := 0, channel := 0, begun := true } }

/-- A command may begin in this cycle: it is the node's first, its cycle has come, its descriptor is sound and its resource is free. -/
structure Begins (s : State) (t : Nat) (c : MCmd) : Prop where
  first : headOf s t = some c
  come : c.begin_ ≤ s.mcnt
  sound : badDesc s t c.word = none
  free : mayBegin s t c.word = true
  own : tileOfSlot c.slot = t

theorem beginWith_begins {s : State} {t : Nat} {c : MCmd} (h : Begins s t c) (start : State → MRun → State) :
    beginWith s t (beginEvent c.word) start = kickQueue (start ((dequeue s t c).drainBlock c.slot) (newRun s c)) t := by
  simp only [beginWith, h.first, h.come, h.sound, h.free, and_self, if_true]
  rfl

/-- A command that begins leaves the queue, counts as begun, and changes its node as its kind of start does. -/
theorem beginWith_effect {s : State} {t : Nat} {c : MCmd} (h : Begins s t c) {start : State → MRun → State} {f : MRun → MNode → MNode}
    (hs : ∀ u r, QueuesOnly (u.modNode (tileOfSlot r.cmd.slot) (f r)) (start u r)) :
    let u := beginWith s t (beginEvent c.word) start
    u.mnode t = f (newRun s c) { s.mnode t with queue := (s.mnode t).queue.filter (fun d => d.id != c.id) }
      ∧ mfind u.cmds c.id = some { slot := c.slot, offset := false, engine := 0, channel := 0, begun := true }
      ∧ u.mem = s.mem ∧ u.slots = s.slots := by
  rw [beginWith_begins h]
  have hd : QueuesOnly (dequeue s t c) ((dequeue s t c).drainBlock c.slot) := queuesOnly_drainBlock _ _
  have hu := (hs ((dequeue s t c).drainBlock c.slot) (newRun s c)).trans (queuesOnly_kickQueue _ t)
  rw [show tileOfSlot (newRun s c).cmd.slot = t from h.own, State.modNode_eq, hd.mnode] at hu
  obtain ⟨hnode, hmem, hslots⟩ := hu.node_mem_slots
  refine ⟨hnode.trans (congrArg (f (newRun s c)) ?_), ?_, hmem.trans hd.mem, hslots.trans hd.slots⟩
  · exact setNode_mnode_self s t _
  · rw [hu.cmds]
    exact (congrArg (mfind · c.id) hd.cmds).trans (mfind_mset_self _ _ _)

/-! ## What the start of each kind does to its node (R181) -/

/-- A WLD takes its bank and gives it its format. -/
def MNode.startWld (r : MRun) (x : MNode) : MNode :=
  { x with wld := x.wld ++ [r], mw0 := if cmdBank r.cmd.word = 0 then cmdWidth r.cmd.word else x.mw0
           mw1 := if cmdBank r.cmd.word = 1 then cmdWidth r.cmd.word else x.mw1 }
/-- An ACT or QUAD starts with no group computed. -/
def MNode.startAct (r : MRun) (x : MNode) : MNode := { x with act := some r, pipe := [] }
def MNode.startDrn (r : MRun) (x : MNode) : MNode := { x with drn := some r }
def MNode.startNorm (r : MRun) (x : MNode) : MNode := { x with norm := x.norm ++ [r] }

theorem queuesOnly_beginWld (s : State) (r : MRun) : QueuesOnly (s.modNode (tileOfSlot r.cmd.slot) (MNode.startWld r)) (beginWld s r) := by
  simp only [beginWld]
  split
  · exact ((QueuesOnly.refl _).plan _ _ _).plan _ _ _
  · exact (QueuesOnly.refl _).plan _ _ _

theorem queuesOnly_beginAct (s : State) (r : MRun) : QueuesOnly (s.modNode (tileOfSlot r.cmd.slot) (MNode.startAct r)) (beginAct s r) :=
  ((QueuesOnly.refl _).plan _ _ _).trans (queuesOnly_kickFeed _ _)

theorem queuesOnly_beginDrnMx (s : State) (r : MRun) : QueuesOnly (s.modNode (tileOfSlot r.cmd.slot) (MNode.startDrn r)) (beginDrnMx s r) :=
  (QueuesOnly.refl _).plan _ _ _

theorem queuesOnly_beginDrnRaw (s : State) (r : MRun) : QueuesOnly (s.modNode (tileOfSlot r.cmd.slot) (MNode.startDrn r)) (beginDrnRaw s r) :=
  (QueuesOnly.refl _).plan _ _ _

theorem queuesOnly_beginNorm (s : State) (r : MRun) : QueuesOnly (s.modNode (tileOfSlot r.cmd.slot) (MNode.startNorm r)) (beginNorm s r) :=
  (QueuesOnly.refl _).plan _ _ _

/-- Settles O36: each kind of command begins alike, with its own start. -/
theorem matrixCommandsBegin : Obligations.MatrixCommandsBegin := by
  unfold Obligations.MatrixCommandsBegin
  intro s c i t x run begun hb hhead hi hcome hsound hfree hown
  have hbegins : Begins s t c := ⟨hhead, hcome, hsound, hfree, hown⟩
  subst hi
  refine ⟨fun hk => ?wld, fun hk => ?act, fun hk => ?quad, fun hk => ?drnMx, fun hk => ?drnRaw, fun hk => ?norm⟩
  all_goals refine ⟨_, rfl, ?_⟩
  case wld =>
    rw [if_pos hb, ← hk]
    exact beginWith_effect hbegins queuesOnly_beginWld
  case act | quad =>
    rw [if_pos hb, ← hk]
    exact beginWith_effect hbegins queuesOnly_beginAct
  case drnMx =>
    rw [← hk]
    exact beginWith_effect hbegins queuesOnly_beginDrnMx
  case drnRaw =>
    rw [if_pos hb, ← hk]
    exact beginWith_effect hbegins queuesOnly_beginDrnRaw
  case norm =>
    rw [← hk]
    exact beginWith_effect hbegins queuesOnly_beginNorm

end Sys2Proof.Machine
end

section
/-! # The events of a matrix node (R179, R181, R182, R185, R188) -/

namespace Sys2Proof.Machine

/-! ## The table fires, and what a VE has handed over is accepted (R179, R186) -/

/-- A buffer entry made for the firing of a word in a cycle takes the number of the command (R181). -/
def nameFeed (id at_ : Nat) (w : BitVec 64) (l : List Feed) : List Feed :=
  match l.findIdx? (fun f => f.id.isNone && f.at_ == at_ && f.word == w) with
  | some i => l.modify i (fun f => { f with id := some id })
  | none => l

/-- The node with a table entry that fires in a cycle at the end of its queue. -/
def MNode.fire (entry slot id now : Nat) (w : BitVec 64) (x : MNode) : MNode :=
  { x with queue := x.queue ++ [{ word := w, entry := entry, slot := slot, id := id, begin_ := now, order := id }]
           free := max x.free (now + 1), feed := nameFeed id now w x.feed }

/-- A table entry that fires joins the queue without an offset, in its own cycle. -/
theorem queuesOnly_acceptMatrix_of_entry {entry : Nat} (he : entry < 256) (s : State) (t : Nat) (w : BitVec 64) (slot now : Nat) :
    QueuesOnly (State.setNode { s with
        cmds := mset s.cmds s.nextId { slot := slot, offset := false, engine := 0, channel := 0, begun := false } } t
      ((s.mnode t).fire entry slot s.nextId now w)) (acceptMatrix s t w entry slot now) := by
  simp only [acceptMatrix, State.fresh, he, decide_true, Bool.not_true, Bool.false_and, Bool.false_eq_true, if_false, Bool.true_and]
  refine QueuesOnly.trans ?_ ((queuesOnly_kickQueue _ _).trans (queuesOnly_kickFeed _ _))
  exact ⟨rfl, fun _ => rfl, fun _ => rfl, fun _ => rfl⟩

theorem tableFire_entry {s : State} {k : Nat} {w : BitVec 64} (hb : s.arg.b = 0)
    (hfire : firing (s.mnode s.arg.a) s.mcnt = [(k, w)]) (hbad : s.badWord s.arg.a .table (fun i => i / 2 == k) = none) :
    exec .matrixTableFire s = .next (planTable ((acceptMatrix s s.arg.a w k (s.mnode s.arg.a).owner s.mcnt).modNode s.arg.a
      (fun y => { y with last := k })) s.arg.a (s.mcnt + 1)) := by
  change execMatrixTableFire s = _
  simp only [execMatrixTableFire, hb, if_true, hfire, List.foldl, hbad]

theorem tableFire_accepts {s : State} (hb : s.arg.b ≠ 0) (hf : (s.mnode s.arg.a).frozen = false) :
    exec .matrixTableFire s = .next (tableCommand s s.arg.a s.arg.b s.arg.c s.arg.d s.arg.e) := by
  change execMatrixTableFire s = _
  simp only [execMatrixTableFire, hb, if_false, hf, Bool.false_eq_true]

theorem tableFire_frozen {s : State} (hb : s.arg.b ≠ 0) (hf : (s.mnode s.arg.a).frozen = true) : exec .matrixTableFire s = .next s := by
  change execMatrixTableFire s = _
  simp only [execMatrixTableFire, hb, if_false, hf, if_true]

/-- MXSTOP stops the table and empties the queue of what came before it. -/
theorem discardQueue_stopTable (s : State) (t n : Nat) :
    let u := discardQueue (stopTable s t) t n
    u.mnode t = { s.mnode t with
        counter := none, feed := (s.mnode t).feed.filter (fun f => f.id.isSome)
        queue := (s.mnode t).queue.filter (fun c => decide (256 ≤ c.entry) && decide (n ≤ c.id)) }
      ∧ u.mem = s.mem ∧ u.slots = s.slots := by
  obtain ⟨m, hm⟩ := discardQueue_cmds (stopTable s t) t n
  have hx : (stopTable s t).mnode t = { s.mnode t with counter := none, feed := (s.mnode t).feed.filter (fun f => f.id.isSome) } :=
    setNode_mnode_self s t _
  obtain ⟨hnode, hmem, hslots⟩ := hm.node_mem_slots
  rw [hx] at hnode
  exact ⟨hnode, hmem, hslots⟩

/-! ## A command completes (R107, R187) -/

/-- The record and the arrival of a command are not on its node, and its place among the commands is free. -/
theorem finishMatrix_keeps (s : State) (t : Nat) (r : MRun) :
    let u := finishMatrix s t r
    u.mnodes = s.mnodes ∧ mfind u.cmds r.cmd.id = none ∧ u.mem = s.mem ∧ u.slots = s.slots := by
  unfold finishMatrix
  extract_lets w s1 s2
  have h1 : s1.mnodes = s.mnodes ∧ s1.mem = s.mem ∧ s1.slots = s.slots := by
    unfold s1
    split <;> exact ⟨rfl, rfl, rfl⟩
  have h2 : s2.mnodes = s1.mnodes ∧ s2.mem = s1.mem ∧ s2.slots = s1.slots := by
    unfold s2
    split <;> exact ⟨rfl, rfl, rfl⟩
  have he := queuesOnly_endCommand s2 r.cmd.id r.cmd.slot
  obtain ⟨hn1, hm1, hs1⟩ := h1
  obtain ⟨hn2, hm2, hs2⟩ := h2
  exact ⟨he.mnodes.trans (hn2.trans hn1), by rw [he.cmds]; exact mfind_mdel_self _ _,
    he.mem.trans (hm2.trans hm1), he.slots.trans (hs2.trans hs1)⟩

theorem commandComplete_finishes {s : State} {r : MRun} {y : MNode}
    (h : takeRun (s.mnode s.arg.a) s.arg.b s.arg.c = (some r, y)) :
    exec .matrixCommandComplete s = .next (finishMatrix (s.setNode s.arg.a y) s.arg.a r) := by
  change execMatrixCommandComplete s = _
  simp only [execMatrixCommandComplete, h]

/-- The unit of a command that completes is free, and a NORM has set the mode. -/
theorem takeRun_frees {x y : MNode} {kind bank : Nat} {r : MRun} (h : takeRun x kind bank = (some r, y)) :
    (kind = 2 ∨ kind = 5 → y.act = none) ∧ (kind = 3 → y.drn = none)
    ∧ (kind = 4 → y.nmode = cmdBits r.cmd.word 39 37 ∧ y.nflags = if r.cmd.word.getLsbD 36 then noFlags else x.nflags) := by
  refine ⟨?act, ?drn, ?norm⟩
  case act =>
    rintro (rfl | rfl) <;>
    · obtain ⟨-, rfl⟩ := Prod.mk.inj h
      rfl
  case drn =>
    rintro rfl
    obtain ⟨-, rfl⟩ := Prod.mk.inj h
    rfl
  case norm =>
    rintro rfl
    cases hn : x.norm with
    | nil => simp [takeRun, hn] at h
    | cons r' l =>
      simp only [takeRun, hn, Prod.mk.injEq, Option.some.injEq] at h
      obtain ⟨rfl, rfl⟩ := h
      exact ⟨rfl, rfl⟩

/-! ## Missing operands (R182) -/

theorem regionOf_of_not_joint {s : State} {t : Nat} (h : isJoint (s.mnode t) = false) : regionOf s t = [t] := by
  simp only [regionOf, h, Bool.false_eq_true, if_false]

theorem queuesOnly_retakeGroup (s : State) (m g : Nat) : QueuesOnly s (retakeGroup s m g) := by
  unfold retakeGroup
  split
  · exact ((QueuesOnly.refl s).unplan _).plan _ _ _
  · exact QueuesOnly.refl s

theorem queuesOnly_retake (s : State) (a : Arg) (c : Nat) : QueuesOnly s (retake s a c) := by
  unfold retake
  split
  · exact QueuesOnly.foldl _ (fun u m => queuesOnly_retakeGroup u m a.c) _ (QueuesOnly.refl s)
  · exact (QueuesOnly.refl s).plan _ _ _

/-- A cycle that is gated moves times, and no data. -/
theorem shiftNode_keeps (s : State) (t : Nat) :
    ((shiftNode s t).mnode t).gated = (s.mnode t).gated ∧ (shiftNode s t).mem = s.mem ∧ (shiftNode s t).slots = s.slots := by
  refine ⟨?_, rfl, rfl⟩
  rw [shiftNode, State.modNode_eq, setNode_mnode_self]
  rfl

theorem operandLate_gates {s : State} (hl : s.levelOf s.arg.a ≠ .t) (hg : (s.mnode s.arg.a).gated = false)
    (hj : isJoint (s.mnode s.arg.a) = false) :
    exec .matrixOperandLate s = .next ((shiftNode ((retake s s.arg s.mcnt).modNode s.arg.a (fun x => { x with gated := true })) s.arg.a).planEv
      (s.mcnt + 1) rkHold .matrixOperandArrived s.arg) := by
  change execMatrixOperandLate s = _
  simp only [execMatrixOperandLate, hl, hg, regionOf_of_not_joint hj, if_false, Bool.false_eq_true, List.foldl]

theorem operandLate_gated {s : State} (hl : s.levelOf s.arg.a ≠ .t) (hg : (s.mnode s.arg.a).gated = true) (hb : s.arg.b = 0) :
    exec .matrixOperandLate s = .next s := by
  change execMatrixOperandLate s = _
  simp only [execMatrixOperandLate, hl, hg, hb, if_false, if_true]

theorem operandLate_freezes {s : State} (hl : s.levelOf s.arg.a = .t) (hj : isJoint (s.mnode s.arg.a) = false) :
    exec .matrixOperandLate s = .next (freezeNode (s.raise (dieOfTile s.arg.a) 0x081
      (.region s.arg.a (regionMember s s.arg.a)) s.mcnt s.arg.c) s.arg.a) := by
  change execMatrixOperandLate s = _
  simp only [execMatrixOperandLate, hl, regionFault, regionOf_of_not_joint hj, if_true, List.foldl]

theorem operandArrived_ungates {s : State} (ha : arrived s s.arg.a s.arg.b s.arg.c s.arg.d = true)
    (hj : isJoint (s.mnode s.arg.a) = false) :
    exec .matrixOperandArrived s = .next (kickQueue (s.modNode s.arg.a (fun x => { x with gated := false })) s.arg.a) := by
  change execMatrixOperandArrived s = _
  simp only [execMatrixOperandArrived, ha, regionOf_of_not_joint hj, if_true, List.foldl]

/-- A fault record changes nothing but its die and the agenda (R323). -/
theorem raise_dies (s : State) (die cause : Nat) (m : Master) (t detail : Nat) :
    ∃ d, QueuesOnly { s with dies := d } (s.raise die cause m t detail) := by
  unfold State.raise State.raiseFor
  dsimp only
  split
  · split
    · exact ⟨_, (QueuesOnly.refl _).plan _ _ _⟩
    · exact ⟨_, QueuesOnly.refl _⟩
  · exact ⟨_, QueuesOnly.refl _⟩

/-- A node that freezes discards its queue and stops its table; its banks and accumulator stand (R182, R324). -/
theorem freezeNode_effect (s : State) (t : Nat) :
    let u := freezeNode s t
    ((u.mnode t).frozen = true ∧ (u.mnode t).queue = [] ∧ (u.mnode t).counter = none ∧ (u.mnode t).acc = (s.mnode t).acc
      ∧ (u.mnode t).wts = (s.mnode t).wts) ∧ u.mem = s.mem ∧ u.slots = s.slots := by
  unfold freezeNode
  extract_lets x s1 s2
  obtain ⟨m, hm⟩ := endEngine_cmds s2 t 0 false
  obtain ⟨hnode, hmem, hslots⟩ := QueuesOnly.node_mem_slots (s := { s1 with cmds := m }) hm
  exact ⟨hnode ▸ ⟨rfl, rfl, rfl, rfl, rfl⟩, hmem, hslots⟩

/-- Settles O38: each clause reads the state that the lemma about its event gives. -/
theorem matrixNodesFollow : Obligations.MatrixNodesFollow := by
  unfold Obligations.MatrixNodesFollow
  intro s t x
  refine ⟨fun k w hb hfire hk hbad => ?fires, fun hf hb => tableFire_frozen hb hf, fun hb hf => ?arms, fun hb hf hbad => ?writes,
    fun hb hf => ?stops, fun hb => ?pops, fun r y hr => ?completes, fun hj => ⟨fun hl hg hb => operandLate_gated hl hg hb,
      fun hl hg => ?gates, fun hl => ?freezes, fun ha => ?ungates⟩, rfl⟩
  case fires =>
    refine ⟨_, tableFire_entry hb hfire hbad, ?_⟩
    have hacc := queuesOnly_acceptMatrix_of_entry hk s t w x.owner s.mcnt
    obtain ⟨hnode, hmem, hslots⟩ := hacc.node_mem_slots
    have hplan := queuesOnly_planTable ((acceptMatrix s t w k x.owner s.mcnt).modNode t (fun y => { y with last := k })) t (s.mcnt + 1)
    obtain ⟨hnode', hmem', hslots'⟩ := hplan.node_mem_slots
    rw [hnode] at hnode'
    refine ⟨congrArg MNode.last hnode', congrArg MNode.queue hnode', ?_, hmem'.trans hmem, hslots'.trans hslots⟩
    rw [hplan.cmds]
    exact (congrArg (mfind · s.nextId) hacc.cmds).trans (mfind_mset_self _ _ _)
  case arms =>
    refine ⟨_, tableFire_accepts (by omega) hf, ?_⟩
    rw [hb]
    obtain ⟨hnode, hmem, hslots⟩ := (queuesOnly_startTable s t s.arg.c (s.arg.d % 2 ^ 16 + 1)
      (if s.arg.e % 2 ^ 20 = 0xFFFFF then s.mcnt else max s.mcnt ((s.slot s.arg.c).start + s.arg.e % 2 ^ 20))).node_mem_slots
    exact ⟨congrArg MNode.period hnode, congrArg MNode.owner hnode, congrArg MNode.counter hnode, (congrArg MNode.table hnode :), hmem, hslots⟩
  case writes =>
    refine ⟨_, tableFire_accepts (by omega) hf, ?_⟩
    rw [hb, tableCommand_mxtab hbad]
    exact (queuesOnly_planTable _ _ _).node_mem_slots
  case stops =>
    refine ⟨_, tableFire_accepts (by omega) hf, ?_⟩
    rw [hb]
    obtain ⟨hnode, hmem, hslots⟩ := discardQueue_stopTable s t s.arg.e
    exact ⟨congrArg MNode.counter hnode, congrArg MNode.queue hnode, (congrArg MNode.act hnode :), (congrArg MNode.wld hnode :),
      (congrArg MNode.drn hnode :), hmem, hslots⟩
  case pops =>
    refine ⟨_, rfl, ?_⟩
    rw [if_pos hb]
    obtain ⟨hnode, hmem, hslots⟩ := (queuesOnly_kickFeed (s.setNode t _) t).node_mem_slots
    exact ⟨hmem, hslots, hnode⟩
  case completes =>
    obtain ⟨hmnodes, hcmds, hmem, hslots⟩ := finishMatrix_keeps (s.setNode t y) t r
    have hnode : (finishMatrix (s.setNode t y) t r).mnode t = y :=
      (congrArg (mget MNode.reset · t) hmnodes).trans (setNode_mnode_self s t y)
    refine ⟨_, commandComplete_finishes hr, hnode, hcmds, hmem, hslots, ?_⟩
    rw [hnode]
    exact takeRun_frees hr
  case gates =>
    refine ⟨_, operandLate_gates hl hg hj, ?_⟩
    have hre := queuesOnly_retake s s.arg s.mcnt
    obtain ⟨hgated, hmem, hslots⟩ := shiftNode_keeps ((retake s s.arg s.mcnt).modNode t (fun x => { x with gated := true })) t
    refine ⟨hgated.trans (congrArg MNode.gated (setNode_mnode_self _ t _)), hmem.trans hre.mem, hslots.trans hre.slots, ?_⟩
    rw [State.planEv_eq, mem_plan]
    exact Or.inl rfl
  case freezes =>
    refine ⟨_, operandLate_freezes hl hj, ?_⟩
    obtain ⟨d, hd⟩ := raise_dies s (dieOfTile t) 0x081 (.region t (regionMember s t)) s.mcnt s.arg.c
    obtain ⟨⟨hf, hq, hc, hacc, hwts⟩, hmem, hslots⟩ :=
      freezeNode_effect (s.raise (dieOfTile t) 0x081 (.region t (regionMember s t)) s.mcnt s.arg.c) t
    exact ⟨hf, hq, hc, hacc.trans (congrArg MNode.acc (hd.mnode t)), hwts.trans (congrArg MNode.wts (hd.mnode t)),
      hmem.trans hd.mem, hslots.trans hd.slots⟩
  case ungates => exact ⟨_, operandArrived_ungates ha hj, (queuesOnly_kickQueue _ _).node_mem_slots⟩

end Sys2Proof.Machine
end

section
/-! # Block-transfer instructions (R215, R217) -/

namespace Sys2Proof.Machine

/-- The BTE accepts a start while it has room and no aperture start waits (R216, R217). -/
theorem startCopy_of_room {o : Opnds} {s : State} (hroom : copiesOn s o.tile < 256) (hwait : (s.bte o.tile).waiting = [])
    (ch tm start : Nat) (ws : List Word) :
    startCopy o ch tm ws start s = Issued.only (acceptCopy s o.tile ch tm o.slot o.seq ws start) := by
  simp [startCopy, hwait, Nat.not_le.mpr hroom]

/-- Accepting a start takes no time: the command is listed and its begin planned. -/
theorem acceptCopy_mcnt (s : State) (t ch tm slot bound : Nat) (ws : List Word) (start : Nat) :
    (acceptCopy s t ch tm slot bound ws start).mcnt = s.mcnt :=
  ((QueuesOnly.refl _).planOnce _ _ _ _ _ _).mcnt

/-- A start instruction accepts the copy that its operands name. -/
theorem does_start {i : Op → Instr} {maj : Nat} {ch tm start : State → Opnds → Nat} {ws : State → Opnds → List Word}
    (h : ∀ op s, exec (i op) s = .next (actVE maj op (fun o p => startCopy o (ch p o) (tm p o) (ws p o) (start p o) p) s)) :
    Does i maj (fun _ p o => copiesOn p o.tile < 256 ∧ (p.bte o.tile).waiting = [])
      (fun _ o p => acceptCopy p o.tile (ch p o) (tm p o) o.slot o.seq (ws p o) (start p o)) :=
  does_of h (fun _ _ _ ⟨hroom, hwait⟩ => startCopy_of_room hroom hwait _ _ _ _) (fun _ _ _ => acceptCopy_mcnt _ _ _ _ _ _ _ _)

/-- Words 8 to 15 of a template as TMPLW writes them: reserved bits read as zero (R213, R215). -/
theorem tmplw_words (b : Vec) : (List.range 8).map (fun i => lane b (8 + i) &&& tmplMask (8 + i))
    = [lane b 8, lane b 9, lane b 10, lane b 11, lane b 12 &&& 0xFF7F_FFFF#32, lane b 13, lane b 14 &&& 0x8000_03FF#32, 0] := by
  have hones (x : Word) : x &&& 0xFFFF_FFFF#32 = x := BitVec.and_allOnes
  simp [List.range, List.range.loop, tmplMask, hones]

/-- Without an uncorrectable word on the tile, writing several whole mends nothing (R326). -/
theorem foldl_mendWord_of_no_badCfg {s : State} {t : Nat} (h : (s.tile t).badCfg = []) (p : CfgPart) (ix : Nat → Nat) (l : List Nat) :
    l.foldl (fun a i => a.mendWord t p (ix i)) s = s := by
  induction l with
  | nil => rfl
  | cons i r ih => rw [List.foldl_cons, mendWord_of_no_badCfg h, ih]

/-- Settles O26: CPY, CPYAT and CPYX accept a start, CPYQ yields its word, and TMPLW mends nothing and writes its template. -/
theorem copyInstructionsAct : Obligations.CopyInstructionsAct := by
  unfold Obligations.CopyInstructionsAct
  refine ⟨does_start fun _ _ => rfl, does_start fun _ _ => rfl, does_start fun _ _ => rfl, yields_one fun _ _ => rfl, ?tmplw⟩
  case tmplw =>
    refine does_of (fun _ _ => rfl) (fun op p o hbad => ?_) (fun _ _ _ => rfl)
    simp only [foldl_mendWord_of_no_badCfg hbad, tmplw_words]

end Sys2Proof.Machine
end

section
/-! # Commands of a Teller (R202 to R209, R219)

A command changes its sub-channel, has its effect on the rest of the machine, and its run goes on; one that is refused marks its run. -/

namespace Sys2Proof.Machine

/-! ## A run goes on (R199) -/

/-- From `s` to `t` the runs of Teller `tl` change by `g`, the agenda gains items, and nothing else changes. -/
structure RunMoves (tl : Nat) (g : TRun → TRun) (s t : State) : Prop where
  tel : t.tel tl = { s.tel tl with runs := (s.tel tl).runs.map g }
  others : ∀ k, k ≠ tl → t.tel k = s.tel k
  rest : { t with tels := [], agenda := [] } = { s with tels := [], agenda := [] }
  agenda : s.agenda ⊆ t.agenda

namespace RunMoves

variable {tl : Nat} {g h : TRun → TRun} {s t u : State}

theorem mem (hs : RunMoves tl g s t) : t.mem = s.mem := (congrArg State.mem hs.rest :)
theorem slots (hs : RunMoves tl g s t) : t.slots = s.slots := (congrArg State.slots hs.rest :)
theorem elems (hs : RunMoves tl g s t) : t.elems = s.elems := (congrArg State.elems hs.rest :)
theorem tiles (hs : RunMoves tl g s t) : t.tiles = s.tiles := (congrArg State.tiles hs.rest :)

theorem trans (hs : RunMoves tl g s t) (ht : RunMoves tl h t u) : RunMoves tl (h ∘ g) s u where
  tel := by rw [ht.tel, hs.tel, List.map_map]
  others k hk := (ht.others k hk).trans (hs.others k hk)
  rest := ht.rest.trans hs.rest
  agenda := List.Subset.trans hs.agenda ht.agenda

theorem congr (hs : RunMoves tl g s t) (hg : ∀ q, g q = h q) : RunMoves tl h s t := funext hg ▸ hs

theorem plan (hs : RunMoves tl g s t) (c r : Nat) (a : Act) : RunMoves tl g s (t.plan c r a) :=
  ⟨hs.tel, hs.others, hs.rest, fun it hit => (mem_plan t c r a it).mpr (.inr (hs.agenda hit))⟩

theorem modRun (s : State) (tl id : Nat) (f : TRun → TRun) :
    RunMoves tl (fun q => if q.id = id then f q else q) s (Machine.modRun s tl id f) where
  tel := by rw [Machine.modRun, State.modTel_eq, State.setTel_tel, if_pos rfl]
  others k hk := by rw [Machine.modRun, State.modTel_eq, State.setTel_tel, if_neg hk]
  rest := rfl
  agenda := List.Subset.refl _

theorem nextCommand (s : State) (tl id : Nat) :
    RunMoves tl (fun q => if q.id = id then { q with ix := q.ix + 1 } else q) s (Machine.nextCommand s tl id) := by
  have hm := modRun s tl id (fun q => { q with ix := q.ix + 1 })
  unfold Machine.nextCommand
  extract_lets s1
  split
  · unfold planCommand
    extract_lets x
    split
    · exact hm
    · exact hm.plan _ _ _
  · exact hm

end RunMoves

/-! ## The parts of a command (R202, R206, R207) -/

/-- ACT and bursts: a run in violation issues none of them (R207). -/
def TCmd.isData : TCmd → Bool
  | .act _ _ | .burst _ _ _ _ => true
  | _ => false

/-- The bursts that a command makes. -/
def TCmd.bursts : TCmd → Nat
  | .burst _ _ _ _ => 1
  | _ => 0

def TCmd.isPre : TCmd → Bool
  | .pre _ | .prea => true
  | _ => false

/-- The banks that a command opens. -/
def TCmd.opens : TCmd → List Nat
  | .act b _ => [b]
  | _ => []

/-- The end of every command: its burst counts, whether it was issued or not, and its run goes on. -/
def goOn (c : TCmd) (tl id : Nat) (s : State) : State :=
  nextCommand (if c.bursts = 1 then modRun s tl id (fun q => { q with burst := q.burst + 1 }) else s) tl id

/-- The sub-channel has taken a command, and its run has opened the command's bank. -/
def issued (s : State) (r : TRun) (c : TCmd) (ck : Nat) : State :=
  modRun (s.setTel s.cur (tellerIssue (s.tel s.cur) r c ck)) s.cur r.id (fun q => { q with opened := c.opens ++ q.opened })

/-- A command of the active run passes in its CK, and is none that a violation suppresses (R206, R207). -/
structure Passing (s : State) (r : TRun) (c : TCmd) (ck : Nat) : Prop where
  active : activeRun (s.tel s.cur) (ckOf s s.mcnt) = some r
  heeded : r.bad = false ∨ c.isData = false
  row : passes (s.tel s.cur) r false c ck = true

section
variable {off : BitVec 9} {c : TRun → TCmd} {okHere : State → Nat → TRun → Bool} {f : State → Tel → Nat → TRun → Nat → State}
  {s : State} {r : TRun}

/-- The ways of a command of the active run. -/
theorem command_eq (ha : activeRun (s.tel s.cur) (ckOf s s.mcnt) = some r) : command off c okHere f s = goOn (c r) s.cur r.id
    (if r.bad ∧ (c r).isData then s
      else if passes (s.tel s.cur) r false (c r) (r.start + off.toNat) ∧ okHere s s.cur r then
        f (issued s r (c r) (r.start + off.toNat)) (s.tel s.cur) s.cur r (r.start + off.toNat)
      else if passes (s.tel s.cur) r true (c r) (r.start + off.toNat) ∧ okHere s s.cur r then
        modRun s s.cur r.id (fun q => { q with bad := true, displaced := true })
      else if r.bad ∧ (c r).isPre then s
      else violate s s.cur r 0x086 (violDetail s.cur r)) := by
  simp only [command, ha]
  cases c r <;> rfl

theorem command_of_passing (h : Passing s r (c r) (r.start + off.toNat)) (hok : okHere s s.cur r = true) : command off c okHere f s
    = goOn (c r) s.cur r.id (f (issued s r (c r) (r.start + off.toNat)) (s.tel s.cur) s.cur r (r.start + off.toNat)) := by
  obtain ⟨ha, hd, hp⟩ := h
  have hn : ¬ (r.bad = true ∧ (c r).isData = true) := by
    rintro ⟨hb, hc⟩
    rcases hd with h | h <;> simp [h] at hb hc
  rw [command_eq ha, if_neg hn, if_pos ⟨hp, hok⟩]

theorem command_of_refused (ha : activeRun (s.tel s.cur) (ckOf s s.mcnt) = some r) (hb : r.bad = false)
    (hp : passes (s.tel s.cur) r false (c r) (r.start + off.toNat) = false)
    (hown : passes (s.tel s.cur) r true (c r) (r.start + off.toNat) = false) :
    command off c okHere f s = goOn (c r) s.cur r.id (violate s s.cur r 0x086 (violDetail s.cur r)) := by
  simp [command_eq ha, hb, hp, hown]

end

/-- What the end of a command does to its run. -/
def TCmd.goes (c : TCmd) (id : Nat) (q : TRun) : TRun :=
  if q.id = id then { q with ix := q.ix + 1, burst := q.burst + c.bursts } else q

theorem goOn_moves (c : TCmd) (tl id : Nat) (s : State) : RunMoves tl (c.goes id) s (goOn c tl id s) := by
  unfold goOn
  split
  case isTrue hb =>
    refine ((RunMoves.modRun s tl id (fun q => { q with burst := q.burst + 1 })).trans (RunMoves.nextCommand _ tl id)).congr fun q => ?_
    by_cases hq : q.id = id <;> simp [TCmd.goes, hq, hb]
  case isFalse hb =>
    have hz : c.bursts = 0 := by
      cases c with
      | burst => exact absurd rfl hb
      | _ => rfl
    exact (RunMoves.nextCommand s tl id).congr fun q => by simp only [TCmd.goes, hz, Nat.add_zero]

/-! ## What a command does to its sub-channel -/

/-- A command leaves the Teller's runs, its mode registers and its programs alone. -/
theorem tellerIssue_keeps (x : Tel) (r : TRun) (c : TCmd) (ck : Nat) :
    let y := tellerIssue x r c ck
    y.runs = x.runs ∧ y.mrs = x.mrs ∧ y.mrr = x.mrr ∧ y.progs = x.progs ∧ y.store = x.store := by
  cases c with
  | burst b col wr auto => cases wr <;> cases auto <;> simp [tellerIssue, note, closeLater]
  | _ => simp [tellerIssue, note, closeBank]

theorem issued_tel_self (s : State) (r : TRun) (c : TCmd) (ck : Nat) :
    (issued s r c ck).tel s.cur = { tellerIssue (s.tel s.cur) r c ck with
      runs := (s.tel s.cur).runs.map (fun q => if q.id = r.id then { q with opened := c.opens ++ q.opened } else q) } := by
  obtain ⟨hruns, -⟩ := tellerIssue_keeps (s.tel s.cur) r c ck
  rw [issued, (RunMoves.modRun _ _ _ _).tel, State.setTel_tel, if_pos rfl, hruns]

theorem issued_tel_other (s : State) (r : TRun) (c : TCmd) (ck : Nat) {k : Nat} (hk : k ≠ s.cur) :
    (issued s r c ck).tel k = s.tel k := by
  rw [issued, (RunMoves.modRun _ _ _ _).others k hk, State.setTel_tel, if_neg hk]

/-- A command does not change the programs of any Teller. -/
theorem issued_programs (s : State) (r : TRun) (c : TCmd) (ck k : Nat) :
    ((issued s r c ck).tel k).progs = (s.tel k).progs ∧ ((issued s r c ck).tel k).store = (s.tel k).store := by
  by_cases hk : k = s.cur
  · subst hk
    rw [issued_tel_self]
    obtain ⟨-, -, -, hprograms⟩ := tellerIssue_keeps (s.tel s.cur) r c ck
    exact hprograms
  · rw [issued_tel_other s r c ck hk]
    exact ⟨rfl, rfl⟩

theorem burstNo_issued (s : State) (r : TRun) (c : TCmd) (ck : Nat) : burstNo (issued s r c ck) r = burstNo s r := by
  have hprog (x : Copy) : burstsPer (issued s r c ck) x = burstsPer s x := by
    obtain ⟨hprogs, hstore⟩ := issued_programs s r c ck x.tl
    simp only [burstsPer, progBursts, progOps, hprogs, hstore]
  simp only [burstNo, hprog]
  rfl

/-! ## Effects beyond the sub-channel -/

/-- From `s` to `t` no sub-channel, run, slot, element or tile changes. -/
structure BeyondChip (s t : State) : Prop where
  chip : ∀ k, (t.tel k).unqueued = (s.tel k).unqueued
  runs : ∀ k, (t.tel k).runs = (s.tel k).runs
  slots : t.slots = s.slots
  elems : t.elems = s.elems
  tiles : t.tiles = s.tiles

namespace BeyondChip

variable {s t u : State}

theorem refl (s : State) : BeyondChip s s := ⟨fun _ => rfl, fun _ => rfl, rfl, rfl, rfl⟩

theorem trans (h : BeyondChip s t) (h' : BeyondChip t u) : BeyondChip s u :=
  ⟨fun k => (h'.chip k).trans (h.chip k), fun k => (h'.runs k).trans (h.runs k), h'.slots.trans h.slots, h'.elems.trans h.elems,
    h'.tiles.trans h.tiles⟩

/-- A change of a Teller's buffers or of its mode registers. -/
theorem setTel (s : State) {tl : Nat} {x : Tel} (hx : x.unqueued = (s.tel tl).unqueued) (hr : x.runs = (s.tel tl).runs) :
    BeyondChip s (s.setTel tl x) := by
  refine ⟨fun k => ?_, fun k => ?_, rfl, rfl, rfl⟩ <;> rw [State.setTel_tel] <;> split
  · next hk => rw [hk, hx]
  · rfl
  · next hk => rw [hk, hr]
  · rfl

end BeyondChip

/-- What an issued command does to its run. -/
def TCmd.advances (c : TCmd) (id : Nat) (q : TRun) : TRun :=
  if q.id = id then { q with ix := q.ix + 1, opened := c.opens ++ q.opened, burst := q.burst + c.bursts } else q

theorem goes_after_opens (c : TCmd) (id : Nat) :
    c.goes id ∘ (fun q => if q.id = id then { q with opened := c.opens ++ q.opened } else q) = c.advances id := by
  funext q
  by_cases hq : q.id = id <;> simp [TCmd.goes, TCmd.advances, hq]

/-- What `TellerIssues` says of a run, by the kinds of commands. -/
theorem TellerIssues.of_advances {s t : State} {r : TRun} {c : TCmd} {ck : Nat}
    (hchip : (t.tel s.cur).unqueued = (tellerIssue (s.tel s.cur) r c ck).unqueued)
    (hruns : (t.tel s.cur).runs = (s.tel s.cur).runs.map (c.advances r.id))
    (hothers : ∀ k, k ≠ s.cur → (t.tel k).unqueued = (s.tel k).unqueued)
    (hslots : t.slots = s.slots) (helems : t.elems = s.elems) (htiles : t.tiles = s.tiles) : TellerIssues s t r c ck := by
  cases c <;> exact ⟨hchip, hruns, hothers, hslots, helems, htiles⟩

/-- The command is issued: what follows the effect is that its run goes on. -/
theorem command_issues {off : BitVec 9} {c : TRun → TCmd} {okHere : State → Nat → TRun → Bool}
    {f : State → Tel → Nat → TRun → Nat → State} {s : State} {r : TRun} (h : Passing s r (c r) (r.start + off.toNat))
    (hok : okHere s s.cur r = true) {v : State}
    (hv : f (issued s r (c r) (r.start + off.toNat)) (s.tel s.cur) s.cur r (r.start + off.toNat) = v)
    (he : BeyondChip (issued s r (c r) (r.start + off.toNat)) v) :
    TellerIssues s (command off c okHere f s) r (c r) (r.start + off.toNat)
      ∧ RunMoves s.cur ((c r).goes r.id) v (command off c okHere f s) := by
  rw [command_of_passing h hok, hv]
  have hm := goOn_moves (c r) s.cur r.id v
  refine ⟨.of_advances ?chip ?runs (fun k hk => ?others) (hm.slots.trans he.slots) (hm.elems.trans he.elems) (hm.tiles.trans he.tiles), hm⟩
  case chip =>
    rw [hm.tel]
    refine (he.chip s.cur).trans ?_
    rw [issued_tel_self]
    rfl
  case runs =>
    rw [hm.tel, he.runs, issued_tel_self, List.map_map, goes_after_opens]
  case others => rw [hm.others k hk, he.chip, issued_tel_other _ _ _ _ hk]

/-! ## Records, copies and channels (R223, R323) -/

/-- The state without its dies, copies, channels, agenda and the count of free values: what a record, the end of a copy and a drawn value
change. -/
def State.unrecorded (s : State) : State := { s with dies := [], copies := [], chans := [], agenda := [], freeCtr := 0 }

theorem raiseFor_unrecorded (s : State) (die cause : Nat) (m : Master) (t detail : Nat) (ls : List Nat) :
    (s.raiseFor die cause m t detail ls).unrecorded = s.unrecorded := by
  unfold State.raiseFor
  dsimp only
  split
  · split <;> rfl
  · rfl

theorem modCopy_unrecorded (s : State) (id : Nat) (f : Copy → Copy) : (s.modCopy id f).unrecorded = s.unrecorded := by
  unfold State.modCopy
  split <;> rfl

theorem checkCopy_unrecorded (s : State) (id : Nat) : (checkCopy s id).unrecorded = s.unrecorded := by
  unfold checkCopy
  split
  · dsimp only
    split <;> rfl
  · rfl

theorem freezeChan_unrecorded (s : State) (t ch cause : Nat) : (freezeChan s t ch cause).unrecorded = s.unrecorded := by
  unfold freezeChan
  extract_lets s1
  split
  · exact (checkCopy_unrecorded _ _).trans (modCopy_unrecorded _ _ _)
  · rfl

/-- What a state and another that differs in records and copies agree on, of what this part reads. -/
theorem agree_of_unrecorded {s t : State} (h : t.unrecorded = s.unrecorded) :
    t.mem = s.mem ∧ t.slots = s.slots ∧ t.elems = s.elems ∧ t.tiles = s.tiles :=
  ⟨(congrArg State.mem h :), (congrArg State.slots h :), (congrArg State.elems h :), (congrArg State.tiles h :)⟩

theorem tel_of_unrecorded {s t : State} (h : t.unrecorded = s.unrecorded) (k : Nat) : t.tel k = s.tel k :=
  (congrArg (fun u : State => u.tel k) h :)

theorem BeyondChip.of_unrecorded {s t : State} (h : t.unrecorded = s.unrecorded) : BeyondChip s t := by
  obtain ⟨-, hslots, helems, htiles⟩ := agree_of_unrecorded h
  exact ⟨fun k => by rw [tel_of_unrecorded h], fun k => by rw [tel_of_unrecorded h], hslots, helems, htiles⟩

/-! ## A command that is refused (R206, R207) -/

/-- Nothing of a command has reached the DRAM of a Teller, and its run is in violation. -/
structure Refuses (tl id : Nat) (s t : State) : Prop where
  hist : (t.tel tl).hist = (s.tel tl).hist
  openRow : (t.tel tl).openRow = (s.tel tl).openRow
  debt : (t.tel tl).debt = (s.tel tl).debt
  mem : t.mem = s.mem
  slots : t.slots = s.slots
  bad : ∀ q ∈ (t.tel tl).runs, q.id = id → q.bad = true

theorem Refuses.of_unrecorded {tl id : Nat} {s t u : State} (h : Refuses tl id s t) (hu : u.unrecorded = t.unrecorded) :
    Refuses tl id s u := by
  obtain ⟨hmem, hslots, -⟩ := agree_of_unrecorded hu
  have htel := tel_of_unrecorded hu tl
  exact ⟨by rw [htel, h.hist], by rw [htel, h.openRow], by rw [htel, h.debt], hmem.trans h.mem, hslots.trans h.slots,
    by rw [htel]; exact h.bad⟩

/-- A run stays in violation where it goes on. -/
theorem Refuses.moves {tl id : Nat} {g : TRun → TRun} {s t u : State} (h : Refuses tl id s t) (hu : RunMoves tl g t u)
    (hid : ∀ q, (g q).id = q.id) (hbad : ∀ q, (g q).bad = q.bad) : Refuses tl id s u := by
  refine ⟨by rw [hu.tel, ← h.hist], by rw [hu.tel, ← h.openRow], by rw [hu.tel, ← h.debt], hu.mem.trans h.mem, hu.slots.trans h.slots, ?_⟩
  rw [hu.tel]
  simp only [List.forall_mem_map, hid, hbad]
  exact h.bad

/-- The Teller may leave runs out and freeze an owner. -/
theorem Refuses.setTel {tl id : Nat} {s t : State} (h : Refuses tl id s t) {x : Tel} (hhist : x.hist = (t.tel tl).hist)
    (hopen : x.openRow = (t.tel tl).openRow) (hdebt : x.debt = (t.tel tl).debt) (hruns : x.runs ⊆ (t.tel tl).runs) :
    Refuses tl id s (t.setTel tl x) := by
  have htel : (t.setTel tl x).tel tl = x := by rw [State.setTel_tel, if_pos rfl]
  exact ⟨by rw [htel, hhist, h.hist], by rw [htel, hopen, h.openRow], by rw [htel, hdebt, h.debt], h.mem, h.slots,
    by rw [htel]; exact fun q hq => h.bad q (hruns hq)⟩

theorem modRun_bad_refuses (s : State) (tl id : Nat) : Refuses tl id s (modRun s tl id (fun q => { q with bad := true })) := by
  have hm := RunMoves.modRun s tl id (fun q => { q with bad := true })
  refine ⟨by rw [hm.tel], by rw [hm.tel], by rw [hm.tel], rfl, rfl, ?_⟩
  rw [hm.tel]
  simp only [List.forall_mem_map]
  intro q _ hq
  by_cases h : q.id = id
  · rw [if_pos h]
  · rw [if_neg h] at hq
    exact absurd hq h

theorem violate_refuses (s : State) (tl : Nat) (r : TRun) (cause detail : Nat) : Refuses tl r.id s (violate s tl r cause detail) := by
  unfold violate
  extract_lets s1 ls s2 s3
  have h2 : Refuses tl r.id s s2 := (modRun_bad_refuses s tl r.id).of_unrecorded (raiseFor_unrecorded _ _ _ _ _ _ _)
  split
  · exact h2.setTel rfl rfl rfl (List.Subset.refl _)
  · have h3 : Refuses tl r.id s s3 := h2.setTel rfl rfl rfl (fun _ hq => (List.mem_filter.mp hq).left)
    exact (h3.of_unrecorded (modCopy_unrecorded _ _ _)).of_unrecorded (freezeChan_unrecorded _ _ _ _)

theorem command_refuses {off : BitVec 9} {c : TRun → TCmd} {okHere : State → Nat → TRun → Bool}
    {f : State → Tel → Nat → TRun → Nat → State} {s : State} {r : TRun} (ha : activeRun (s.tel s.cur) (ckOf s s.mcnt) = some r)
    (hb : r.bad = false) (hp : passes (s.tel s.cur) r false (c r) (r.start + off.toNat) = false)
    (hown : passes (s.tel s.cur) r true (c r) (r.start + off.toNat) = false) :
    Refuses s.cur r.id s (command off c okHere f s) := by
  rw [command_of_refused ha hb hp hown]
  refine (violate_refuses s s.cur r _ _).moves (goOn_moves (c r) s.cur r.id _) (fun q => ?_) (fun q => ?_)
  all_goals
    unfold TCmd.goes
    split <;> rfl

/-! ## The effect of each kind of command (R202, R210, R219, R285) -/

theorem issued_modes (s : State) (r : TRun) (c : TCmd) (ck : Nat) :
    ((issued s r c ck).tel s.cur).mrs = (s.tel s.cur).mrs ∧ ((issued s r c ck).tel s.cur).mrr = (s.tel s.cur).mrr := by
  obtain ⟨-, hmrs, hmrr, -⟩ := tellerIssue_keeps (s.tel s.cur) r c ck
  rw [issued_tel_self]
  exact ⟨hmrs, hmrr⟩

/-- A command whose effect leaves memory alone: what it does to the mode registers is its effect's. -/
theorem mode_issues {i : Instr} {off : BitVec 9} {c : TRun → TCmd} {okHere : State → Nat → TRun → Bool}
    {f : State → Tel → Nat → TRun → Nat → State} {s : State} {r : TRun} (hi : exec i s = .next (command off c okHere f s))
    (h : Passing s r (c r) (r.start + off.toNat)) (hok : okHere s s.cur r = true) {v : State}
    (hv : f (issued s r (c r) (r.start + off.toNat)) (s.tel s.cur) s.cur r (r.start + off.toNat) = v)
    (he : BeyondChip (issued s r (c r) (r.start + off.toNat)) v) (hmem : v.mem = s.mem) :
    ∃ t, exec i s = .next t ∧ TellerIssues s t r (c r) (r.start + off.toNat)
      ∧ t.mem = s.mem ∧ (t.tel s.cur).mrs = (v.tel s.cur).mrs ∧ (t.tel s.cur).mrr = (v.tel s.cur).mrr := by
  obtain ⟨ht, hm⟩ := command_issues h hok hv he
  exact ⟨_, hi, ht, hm.mem.trans hmem, by rw [hm.tel], by rw [hm.tel]⟩

/-- A command without an effect beyond its sub-channel. -/
theorem plain_issues {i : Instr} {off : BitVec 9} {c : TRun → TCmd} {okHere : State → Nat → TRun → Bool} {s : State} {r : TRun}
    (hi : exec i s = .next (command off c okHere noEffect s)) (h : Passing s r (c r) (r.start + off.toNat)) (hok : okHere s s.cur r = true) :
    ∃ t, exec i s = .next t ∧ TellerIssues s t r (c r) (r.start + off.toNat)
      ∧ t.mem = s.mem ∧ (t.tel s.cur).mrs = (s.tel s.cur).mrs ∧ (t.tel s.cur).mrr = (s.tel s.cur).mrr := by
  obtain ⟨hmrs, hmrr⟩ := issued_modes s r (c r) (r.start + off.toNat)
  obtain ⟨t, ht, hissues, hmem, hmrs', hmrr'⟩ := mode_issues hi h hok rfl (.refl _) rfl
  exact ⟨t, ht, hissues, hmem, hmrs'.trans hmrs, hmrr'.trans hmrr⟩

theorem mrw_issues {off : BitVec 9} {s : State} {r : TRun} (h : Passing s r .mrw (r.start + off.toNat)) (ma mop : BitVec 8) :
    ∃ t, exec (.tellerMrw off ma mop) s = .next t ∧ TellerIssues s t r .mrw (r.start + off.toNat)
      ∧ (t.tel s.cur).mrs = mset (s.tel s.cur).mrs ma.toNat mop ∧ (t.tel s.cur).mrr = (s.tel s.cur).mrr ∧ t.mem = s.mem := by
  obtain ⟨hmrs, hmrr⟩ := issued_modes s r .mrw (r.start + off.toNat)
  obtain ⟨t, ht, hissues, hmem, hmrs', hmrr'⟩ := mode_issues (i := .tellerMrw off ma mop) rfl h rfl rfl (.setTel _ rfl rfl) rfl
  rw [State.modTel_eq, State.setTel_tel, if_pos rfl] at hmrs' hmrr'
  exact ⟨t, ht, hissues, hmrs'.trans (congrArg (mset · ma.toNat mop) hmrs), hmrr'.trans hmrr, hmem⟩

/-- MRR writes the status; above TMPLIM it makes a record too (R210). -/
theorem readMode_unrecorded (ma : BitVec 8) (s : State) (x : Tel) (tl : Nat) (r : TRun) (ck : Nat) :
    (readMode ma s x tl r ck).unrecorded = (s.setTel tl { s.tel tl with
      mrr := (mfind (s.tel tl).mrs ma.toNat).getD (s.drawWord.1.setWidth 8) }).unrecorded := by
  unfold readMode
  dsimp only
  split
  · exact raiseFor_unrecorded _ _ _ _ _ _ _
  · rfl

theorem readMode_frame (ma : BitVec 8) (s : State) (x : Tel) (tl : Nat) (r : TRun) (ck : Nat) :
    BeyondChip s (readMode ma s x tl r ck) ∧ (readMode ma s x tl r ck).mem = s.mem := by
  have hu := readMode_unrecorded ma s x tl r ck
  obtain ⟨hmem, -⟩ := agree_of_unrecorded hu
  refine ⟨BeyondChip.trans ?_ (.of_unrecorded hu), hmem⟩
  exact .setTel s rfl rfl

theorem mrr_issues {off : BitVec 9} {s : State} {r : TRun} (h : Passing s r .mrr (r.start + off.toNat)) (ma : BitVec 8) :
    ∃ t, exec (.tellerMrr off ma) s = .next t ∧ TellerIssues s t r .mrr (r.start + off.toNat)
      ∧ (∀ v, mfind (s.tel s.cur).mrs ma.toNat = some v → (t.tel s.cur).mrr = v) ∧ (t.tel s.cur).mrs = (s.tel s.cur).mrs
      ∧ t.mem = s.mem := by
  obtain ⟨hmrs, -⟩ := issued_modes s r .mrr (r.start + off.toNat)
  have hu := readMode_unrecorded ma (issued s r .mrr (r.start + off.toNat)) (s.tel s.cur) s.cur r (r.start + off.toNat)
  obtain ⟨hframe, hmem⟩ := readMode_frame ma (issued s r .mrr (r.start + off.toNat)) (s.tel s.cur) s.cur r (r.start + off.toNat)
  obtain ⟨t, ht, hissues, hmem', hmrs', hmrr'⟩ := mode_issues (i := .tellerMrr off ma) rfl h rfl rfl hframe hmem
  rw [tel_of_unrecorded hu, State.setTel_tel, if_pos rfl] at hmrs' hmrr'
  refine ⟨t, ht, hissues, fun v hv => ?_, hmrs'.trans hmrs, hmem'⟩
  rw [hmrr', hmrs, hv]
  rfl

/-- The data of a read burst is on its way, except for a training read of the upkeep graph (R219). -/
theorem readBurst_plans (bank : BitVec 4) (col : BitVec 6) (s : State) (x : Tel) (tl : Nat) {r : TRun} (ck : Nat) (hk : r.kind ≠ 3) :
    readBurst bank col s x tl r ck = s.planEv (cycleOf s (ck + readLat x + 3)) rkArrive .tellerReadDataReturn
      { Arg.of tl r.copy (burstNo s r) (x.rlapse || isPoisoned s.poison (burstAddr x tl (bankOf r bank) (r.col0 + col.toNat)) 32).toNat 0 with
        v := BitVec.ofNat 512 (s.read (burstAddr x tl (bankOf r bank) (r.col0 + col.toNat)) 32) } := by
  simp only [readBurst, hk, if_false]

theorem readBurst_frame (bank : BitVec 4) (col : BitVec 6) (s : State) (x : Tel) (tl : Nat) (r : TRun) (ck : Nat) :
    BeyondChip s (readBurst bank col s x tl r ck) ∧ (readBurst bank col s x tl r ck).mem = s.mem := by
  by_cases hk : r.kind = 3
  · rw [readBurst, if_pos hk]
    exact ⟨.refl s, rfl⟩
  · rw [readBurst_plans _ _ _ _ _ _ hk]
    exact ⟨⟨fun _ => rfl, fun _ => rfl, rfl, rfl, rfl⟩, rfl⟩

/-- A write burst that is issued gives back a place of the Teller's write buffer (R219). -/
theorem burstIssued_frame (s : State) (id g n : Nat) :
    BeyondChip s (burstIssued s id g n) ∧ (burstIssued s id g n).mem = s.mem := by
  unfold burstIssued
  split
  · exact ⟨.refl s, rfl⟩
  · extract_lets gone s1
    have h1 : BeyondChip s s1 := .of_unrecorded rfl
    split
    · refine ⟨h1.trans (.setTel _ ?_ ?_), rfl⟩ <;> split <;> rfl
    · exact ⟨h1, rfl⟩

theorem BeyondChip.write (s : State) (a v n : Nat) : BeyondChip s (s.write a v n) := ⟨fun _ => rfl, fun _ => rfl, rfl, rfl, rfl⟩

/-- Bytes outside a write read as before. -/
theorem readByte_write {s : State} (h : Memory.wf s.mem = true) (a v n k : Nat) (hk : k < a ∨ a + n ≤ k) :
    readByte (s.write a v n).mem k = readByte s.mem k :=
  readByte_writeNat h a v n k hk

/-- A training write of the upkeep graph writes its 32 bytes at once; another write burst leaves memory until its data has ended. -/
theorem writeBurst_frame (bank : BitVec 4) (col : BitVec 6) (s : State) (x : Tel) (tl : Nat) (r : TRun) (ck : Nat) :
    let t := writeBurst bank col s x tl r ck
    let a := burstAddr x tl (bankOf r bank) (r.col0 + col.toNat)
    BeyondChip s t ∧ (r.kind ≠ 3 → t.mem = s.mem) ∧ (r.kind = 3 → Memory.wf s.mem = true →
      ∀ k, k < a ∨ a + 32 ≤ k → readByte t.mem k = readByte s.mem k) := by
  intro t a
  by_cases hk : r.kind = 3
  · have ht : t = { s with freeCtr := s.freeCtr + 1 }.write a ((Config.freeVec s.freeCtr).toNat % 2 ^ 256) 32 := if_pos hk
    rw [ht]
    have hdraw : BeyondChip s { s with freeCtr := s.freeCtr + 1 } := .of_unrecorded rfl
    exact ⟨hdraw.trans (.write _ _ _ _), fun h => absurd hk h, fun _ hwf k => readByte_write hwf _ _ _ k⟩
  · obtain ⟨hframe, hmem⟩ : BeyondChip s t ∧ t.mem = s.mem := by
      simp only [t, writeBurst, hk, if_false]
      split
      · exact ⟨.refl s, rfl⟩
      · next k _ =>
        obtain ⟨hb0, hm0⟩ := burstIssued_frame s r.copy (burstNo s r) 0
        obtain ⟨hb1, hm1⟩ := burstIssued_frame s r.copy (burstNo s r) 1
        split
        · exact ⟨hb0, hm0⟩
        · split
          · exact ⟨.refl s, rfl⟩
          · exact ⟨hb1.trans ⟨fun _ => rfl, fun _ => rfl, rfl, rfl, rfl⟩, hm1⟩
    exact ⟨hframe, fun _ => hmem, fun h => absurd h hk⟩

/-- The data of a write burst that a copy holds is performed at the end of its transfer (R285). -/
theorem writeBurst_plans (bank : BitVec 4) (col : BitVec 6) (s : State) (x : Tel) (tl : Nat) {r : TRun} (ck : Nat) (hk : r.kind ≠ 3)
    {c : Copy} {d : Nat} (hc : s.copyOf r.copy = some c) (hs : c.stop = none) (hdata : burstData c (burstNo s r) = some d) :
    writeBurst bank col s x tl r ck = (burstIssued s r.copy (burstNo s r) 1).planEv (cycleOf s (ck + writeLat x + 3)) rkPerform .copyTokenWrite
      { Arg.of r.copy 3 (burstAddr x tl (bankOf r bank) (r.col0 + col.toNat)) 0 0 with v := BitVec.ofNat 512 d } := by
  have hvoid : burstVoid c (burstNo s r) = false := by simp [burstVoid, hs]
  simp only [writeBurst, hk, if_false, hc, hvoid, hdata, Bool.false_eq_true]

/-- The burst of a data command, for the bases of its run (R204). -/
def burstOf (bank : BitVec 4) (col : BitVec 6) (wr auto : Bool) (r : TRun) : TCmd := .burst (bankOf r bank) (r.col0 + col.toNat) wr auto

section
variable {off : BitVec 9} {bank : BitVec 4} {col : BitVec 6} {auto : Bool} {s : State} {r : TRun}

theorem read_issues (h : Passing s r (burstOf bank col false auto r) (r.start + off.toNat)) (hok : burstOk bank col s s.cur r = true) :
    let t := burstCommand off bank col false auto s
    let a := burstAddr (s.tel s.cur) s.cur (bankOf r bank) (r.col0 + col.toNat)
    TellerIssues s t r (burstOf bank col false auto r) (r.start + off.toNat) ∧ t.mem = s.mem ∧ (r.kind ≠ 3 →
      ({ time := 16 * cycleOf s (r.start + off.toNat + readLat (s.tel s.cur) + 3) + rkArrive
         act := .ev .tellerReadDataReturn { Arg.of s.cur r.copy (burstNo s r) ((s.tel s.cur).rlapse || isPoisoned s.poison a 32).toNat 0 with
           v := BitVec.ofNat 512 (s.read a 32) } } : Item) ∈ t.agenda) := by
  intro t a
  obtain ⟨hframe, hmem⟩ :=
    readBurst_frame bank col (issued s r (burstOf bank col false auto r) (r.start + off.toNat)) (s.tel s.cur) s.cur r (r.start + off.toNat)
  obtain ⟨ht, hm⟩ := command_issues (c := burstOf bank col false auto)
    (okHere := fun a tl r => burstOk bank col a tl r && (!false || dataHeld a r)) h (by simp [hok]) rfl hframe
  refine ⟨ht, hm.mem.trans hmem, fun hk => hm.agenda ?_⟩
  rw [readBurst_plans _ _ _ _ _ _ hk, burstNo_issued, State.planEv_eq, mem_plan]
  exact .inl rfl

theorem write_issues (h : Passing s r (burstOf bank col true auto r) (r.start + off.toNat)) (hok : burstOk bank col s s.cur r = true)
    (hheld : dataHeld s r = true) :
    let t := burstCommand off bank col true auto s
    let a := burstAddr (s.tel s.cur) s.cur (bankOf r bank) (r.col0 + col.toNat)
    TellerIssues s t r (burstOf bank col true auto r) (r.start + off.toNat)
      ∧ (r.kind = 3 → Memory.wf s.mem = true → ∀ k, k < a ∨ a + 32 ≤ k → readByte t.mem k = readByte s.mem k)
      ∧ (r.kind ≠ 3 → t.mem = s.mem ∧ ∀ c d, s.copyOf r.copy = some c → c.stop = none → burstData c (burstNo s r) = some d →
        ({ time := 16 * cycleOf s (r.start + off.toNat + writeLat (s.tel s.cur) + 3) + rkPerform
           act := .ev .copyTokenWrite { Arg.of r.copy 3 a 0 0 with v := BitVec.ofNat 512 d } } : Item) ∈ t.agenda) := by
  intro t a
  obtain ⟨hframe, hkept, hwritten⟩ :=
    writeBurst_frame bank col (issued s r (burstOf bank col true auto r) (r.start + off.toNat)) (s.tel s.cur) s.cur r (r.start + off.toNat)
  obtain ⟨ht, hm⟩ := command_issues (c := burstOf bank col true auto)
    (okHere := fun a tl r => burstOk bank col a tl r && (!true || dataHeld a r)) h (by simp [hok, hheld]) rfl hframe
  refine ⟨ht, fun hk hwf k hout => ?training, fun hk => ⟨hm.mem.trans (hkept hk), fun c d hc hs hdata => hm.agenda ?planned⟩⟩
  case training =>
    rw [show t.mem = _ from hm.mem]
    exact hwritten hk hwf k hout
  case planned =>
    rw [← burstNo_issued s r (burstOf bank col true auto r) (r.start + off.toNat)] at hdata
    rw [writeBurst_plans _ _ (issued s r (burstOf bank col true auto r) _) _ _ _ hk hc hs hdata, State.planEv_eq, mem_plan]
    exact .inl rfl

end

/-- Settles O33: each command that passes is issued, with its own effect; one that its row refuses leaves its run in violation. -/
theorem tellerCommandsIssue : Obligations.TellerCommandsIssue := by
  unfold Obligations.TellerCommandsIssue
  refine ⟨?issues, ?refuses⟩
  case issues =>
    intro does still good any at_ reads writes off bank row col ma mop
    have plain {i off c} (hi : ∀ s, exec i s = .next (command off c always noEffect s)) (hc : ∀ r, (c r).isData = false) :
        does i off c any still :=
      fun s r ha _ hp => plain_issues (hi s) ⟨ha, .inr (hc r), hp⟩ rfl
    have refresh {i off c pb} (hi : ∀ s, exec i s = .next (command off c (debtOk pb) noEffect s)) (hc : ∀ r, (c r).isData = false) :
        does i off c (fun s _ => -((s.tel s.cur).maxpost : Int) ≤ (s.tel s.cur).debt.toInt - 1) still :=
      fun s r ha hdebt hp => plain_issues (hi s) ⟨ha, .inr (hc r), hp⟩
        (by simp only [debtOk, hdebt, decide_true, Bool.or_true])
    refine ⟨?act, ?rd, ?rda, ?wr, ?wra, plain (fun _ => rfl) (fun _ => rfl), plain (fun _ => rfl) (fun _ => rfl),
      refresh (fun _ => rfl) (fun _ => rfl), refresh (fun _ => rfl) (fun _ => rfl), fun s r ha _ hp => mrw_issues ⟨ha, .inr rfl, hp⟩ ma mop,
      fun s r ha _ hp => mrr_issues ⟨ha, .inr rfl, hp⟩ ma, plain (fun _ => rfl) (fun _ => rfl), plain (fun _ => rfl) (fun _ => rfl), fun _ => rfl⟩
    case act => exact fun s r ha hb hp => plain_issues (i := .tellerAct off bank row) rfl ⟨ha, .inl hb, hp⟩ rfl
    case rd | rda => exact fun s r ha ⟨hb, hok⟩ hp => ⟨_, rfl, read_issues ⟨ha, .inl hb, hp⟩ hok⟩
    case wr | wra => exact fun s r ha ⟨hb, hok, hheld⟩ hp => ⟨_, rfl, write_issues ⟨ha, .inl hb, hp⟩ hok hheld⟩
  case refuses =>
    intro s r off i c ha hb hi hp hown
    obtain ⟨t, ht, hr⟩ : ∃ t, exec i s = .next t ∧ Refuses s.cur r.id s t := by
      rcases hi with ⟨bank, row, rfl, rfl⟩ | ⟨bank, rfl, rfl⟩ | ⟨bank, col, rfl, rfl⟩ | ⟨bank, col, rfl, rfl⟩ | ⟨rfl, rfl⟩
      all_goals exact ⟨_, rfl, command_refuses ha hb hp hown⟩
    exact ⟨t, ht, hr.hist, hr.openRow, hr.debt, hr.mem, hr.slots, hr.bad⟩

end Sys2Proof.Machine
end

section
/-! # Requests of the system instructions (R233, R234, R236 to R238, R398, R402) -/

namespace Sys2Proof.Machine

/-- An instruction that acts only when a lane is on, where its body reads the state before the pops too. -/
theorem does_of_issue {i : Op → Instr} {maj : Nat} {c : Op → State → Opnds → Prop} {u : Op → Opnds → State → State}
    {f : Op → State → Opnds → State → Issued} (h : ∀ op s, exec (i op) s = .next (actVE maj op (f op s) s))
    (hc : ∀ op s o, c op (afterPops s op) o → f op s o (afterPops s op) = Issued.only (u op o (afterPops s op)))
    (hm : ∀ op o p, (u op o p).mcnt = p.mcnt) : Does i maj c u := by
  intro s op hr ho hp
  refine ⟨_, h op s, acts_of hr ?_ ((hm _ _ _).trans (mcnt_afterPops s op))⟩
  simp only [ho, if_true, hc _ _ _ hp]
  rfl

/-- The order among COURSE requests reads the placement of a slot's tile, which no pop moves (R233). -/
theorem QueuesOnly.courseKey {s t : State} (h : QueuesOnly s t) (n : Nat) : courseKey t n = courseKey s n := by
  have hl : (t.tile (tileOfSlot n)).ltid = (s.tile (tileOfSlot n)).ltid := (congrArg Tile.ltid (h.tile _) :)
  simp only [Machine.courseKey, hl]

/-- An audit that may be requested, of a context that has asked for none, is put to the audit manager (R238). -/
theorem askAudit_of_free {s : State} {c n : Nat} (hn : requestable n = true) (hc : (s.ctx c).audit = none) (t : Nat) (w0 : Option Word) :
    askAudit s c n t w0 = (true, (s.modCtx c (fun x => { x with audit := some (n, w0, false) })).planEv
      (s.mcnt + tileTransit t (tileAt 2 1 0)) rkArrive .auditRun (Arg.of n 0 c 0 0)) := by
  simp only [askAudit, hn, hc, Option.isNone_none, and_self, if_true]

/-- Settles O17: each instruction's body is its request, sent in the cycle of its issue. -/
theorem systemRequestsAreSent : Obligations.SystemRequestsAreSent := by
  unfold Obligations.SystemRequestsAreSent
  refine ⟨?vrfy, ?hbt, ?audit, ?course, ?launch, ?sign, ?assayArm, ?assayClr⟩
  case vrfy => exact does_of_issue (fun _ _ => rfl) (fun op s o _ => by rw [mcnt_afterPops]) (fun _ _ _ => rfl)
  case hbt => exact does_of_issue (fun _ _ => rfl) (fun op s o _ => by rw [mcnt_afterPops]) (fun _ _ _ => rfl)
  case audit =>
    exact does_of (fun _ _ => rfl) (fun op p o ⟨hn, hc⟩ => by rw [askAudit_of_free hn hc]) (fun _ _ _ => rfl)
  case course =>
    refine does_of_issue (fun _ _ => rfl) (fun op s o ha => ?_) (fun _ _ _ => rfl)
    dsimp only
    rw [if_pos ha, (queuesOnly_afterPops s op).courseKey, mcnt_afterPops]
  case launch => exact does_of_issue (fun _ _ => rfl) (fun op s o _ => by rw [← mcnt_afterPops s op]; rfl) (fun _ _ _ => rfl)
  case sign => exact does_of (fun _ _ => rfl) (fun _ _ _ _ => rfl) (fun _ _ _ => rfl)
  case assayArm => exact does_of (fun _ _ => rfl) (fun _ _ _ _ => rfl) (fun _ _ _ => rfl)
  case assayClr => exact does_of (fun _ _ => rfl) (fun _ _ _ _ => rfl) (fun _ _ _ => rfl)

end Sys2Proof.Machine
end

section
/-! # What planning, records and completions change

Most events plan others, write records and return completions; each of these has a rule here that says what it leaves alone. -/

namespace Sys2Proof.Machine

theorem modCtx_ctx_self (s : State) (c : Nat) (f : Ctx → Ctx) : (s.modCtx c f).ctx c = f (s.ctx c) := by simp

/-! ## Events are planned -/

/-- From `s` to `t` events have been planned, and nothing else has changed. -/
def Plans (s t : State) : Prop := ∃ l, s.agenda ⊆ l ∧ t = { s with agenda := l }

namespace Plans
variable {s t u : State}

theorem refl (s : State) : Plans s s := ⟨s.agenda, List.Subset.refl _, rfl⟩

theorem trans (h : Plans s t) (g : Plans t u) : Plans s u := by
  obtain ⟨l, hl, rfl⟩ := h
  obtain ⟨m, hm, rfl⟩ := g
  exact ⟨m, List.Subset.trans hl hm, rfl⟩

theorem agenda (h : Plans s t) : s.agenda ⊆ t.agenda := by
  obtain ⟨l, hl, rfl⟩ := h
  exact hl

/-- What does not read the agenda reads as before. -/
theorem keeps {α : Type} (h : Plans s t) (f : State → α) (hf : ∀ l, f { s with agenda := l } = f s) : f t = f s := by
  obtain ⟨l, -, rfl⟩ := h
  exact hf l

theorem mem (h : Plans s t) : t.mem = s.mem := h.keeps State.mem fun _ => rfl
theorem slots (h : Plans s t) : t.slots = s.slots := h.keeps State.slots fun _ => rfl
theorem walkers (h : Plans s t) : t.walkers = s.walkers := h.keeps State.walkers fun _ => rfl
theorem ctx (h : Plans s t) (c : Nat) : t.ctx c = s.ctx c := h.keeps (State.ctx · c) fun _ => rfl
theorem die (h : Plans s t) (d : Nat) : t.die d = s.die d := h.keeps (State.die · d) fun _ => rfl

theorem plan (h : Plans s t) (c r : Nat) (a : Act) : Plans s (t.plan c r a) :=
  h.trans ⟨_, fun _ hit => (mem_plan t c r a _).mpr (.inr hit), rfl⟩

theorem planOnce (h : Plans s t) (c r : Nat) (i : Instr) (a b d : Nat) : Plans s (planOnce t c r i a b d) := by
  unfold Machine.planOnce
  dsimp only
  split
  · exact h
  · exact h.trans ⟨_, fun _ hit => (mem_insertItem _ _ _).mpr (.inr hit), rfl⟩

theorem foldl {β : Type} {f : State → β → State} (hf : ∀ a b, Plans a (f a b)) (h : Plans s t) (l : List β) : Plans s (l.foldl f t) :=
  List.foldlRecOn l f h fun a ha b _ => ha.trans (hf a b)

end Plans

/-- An event that is planned for each element of a list is on the agenda for each of them. -/
theorem mem_foldl_plan {β : Type} (c r : β → Nat) (act : β → Act) {l : List β} {b : β} (hb : b ∈ l) (s : State) :
    ({ time := 16 * c b + r b, act := act b } : Item) ∈ (l.foldl (fun a x => a.plan (c x) (r x) (act x)) s).agenda := by
  induction l generalizing s with
  | nil => exact absurd hb List.not_mem_nil
  | cons x l ih =>
    rcases List.mem_cons.mp hb with rfl | hb
    · exact (Plans.foldl (fun a x => (Plans.refl a).plan (c x) (r x) (act x)) (.refl _) l).agenda ((mem_plan s _ _ _ _).mpr (.inl rfl))
    · exact ih hb _

/-! ## Records (R323) -/

/-- A record takes the next sequence number of its die and joins the die's FIFO or is counted as lost; its delivery may be planned. -/
theorem raise_records (s : State) (d cause : Nat) (m : Master) (t detail : Nat) :
    ∃ x : Die, x.seq = ((s.die d).seq + 1) % 4096 ∧ Plans (s.setDie d x) (s.raise d cause m t detail) := by
  unfold State.raise State.raiseFor
  dsimp only
  split
  · split
    · exact ⟨_, rfl, (Plans.refl _).plan _ _ _⟩
    · exact ⟨_, rfl, .refl _⟩
  · exact ⟨_, rfl, .refl _⟩

/-! ## Completions (R305) -/

/-- From `s` to `t` completions have been returned: of a context, only its outstanding packets, its place in the completion queue and its
barrier have changed, and no slot has. -/
structure Replies (s t : State) : Prop where
  ctx : ∀ c, ∃ o i b g, t.ctx c = { s.ctx c with outst := o, cidx := i, barrier := b, begun := g }
  slots : t.slots = s.slots

namespace Replies
variable {s t u : State}

theorem refl (s : State) : Replies s s := ⟨fun _ => ⟨_, _, _, _, rfl⟩, rfl⟩

theorem trans (h : Replies s t) (g : Replies t u) : Replies s u := by
  refine ⟨fun c => ?_, g.slots.trans h.slots⟩
  obtain ⟨_, _, _, _, hc⟩ := h.ctx c
  obtain ⟨_, _, _, _, gc⟩ := g.ctx c
  exact ⟨_, _, _, _, by rw [gc, hc]⟩

/-- What a completion does not change of a context reads as before. -/
theorem keeps {α : Type} (h : Replies s t) (f : Ctx → α)
    (hf : ∀ x o i b g, f { x with outst := o, cidx := i, barrier := b, begun := g } = f x) (c : Nat) : f (t.ctx c) = f (s.ctx c) := by
  obtain ⟨_, _, _, _, hc⟩ := h.ctx c
  rw [hc, hf]

/-- What does not read the agenda, but contexts or slots, is as planning leaves it. -/
theorem of_plans (h : Plans s t) : Replies s t := ⟨fun c => ⟨_, _, _, _, h.ctx c⟩, h.slots⟩

theorem setCtx (s : State) (c o i : Nat) (b : Option Vec) (g : Bool) :
    Replies s (s.setCtx c { s.ctx c with outst := o, cidx := i, barrier := b, begun := g }) := by
  refine ⟨fun k => ?_, rfl⟩
  rw [State.setCtx_ctx]
  split
  case isTrue hk => exact hk ▸ ⟨_, _, _, _, rfl⟩
  case isFalse => exact ⟨_, _, _, _, rfl⟩

/-- What leaves contexts and slots alone returns no completion. -/
theorem of_eq (hc : ∀ c, t.ctx c = s.ctx c) (hs : t.slots = s.slots) : Replies s t := ⟨fun c => ⟨_, _, _, _, hc c⟩, hs⟩

theorem foldl {β : Type} {f : State → β → State} (hf : ∀ a b, Replies a (f a b)) (l : List β) (s : State) : Replies s (l.foldl f s) :=
  List.foldlRecOn l f (refl s) fun a ha b _ => ha.trans (hf a b)

end Replies

theorem fireMsix_ctx (s : State) (fn v c : Nat) : (fireMsix s fn v).ctx c = s.ctx c := rfl
theorem replies_fireMsix (s : State) (fn v : Nat) : Replies s (fireMsix s fn v) := .of_eq (fun _ => rfl) rfl
theorem replies_write (s : State) (a v n : Nat) : Replies s (s.write a v n) := .of_eq (fun _ => rfl) rfl

theorem replies_completePacket (s : State) (c : Nat) (w0 : Word) (kern abnd status cause : Nat) :
    Replies s (completePacket s c w0 kern abnd status cause) := by
  unfold completePacket
  extract_lets x s1 n s2
  have h1 : Replies s s1 := .setCtx s c _ _ _ _
  split
  · have h2 : Replies s s2 := h1.trans (replies_write _ _ _ _)
    have h3 : Replies s (s2.modCtx c (fun y => { y with cidx := (x.cidx + 1) % n })) := h2.trans (.setCtx s2 c _ _ _ _)
    exact h3.trans (replies_fireMsix _ _ _)
  · exact h1

theorem completePacket_outst (s : State) (c : Nat) (w0 : Word) (kern abnd status cause : Nat) :
    ((completePacket s c w0 kern abnd status cause).ctx c).outst = (s.ctx c).outst - 1 := by
  unfold completePacket
  extract_lets x s1 n s2
  have h1 : (s1.ctx c).outst = (s.ctx c).outst - 1 := by simp [s1]
  split
  · rw [fireMsix_ctx, State.modCtx_eq, State.setCtx_ctx, if_pos rfl]
    exact h1
  · exact h1

theorem replies_completeBarrier (s : State) (c status cause : Nat) : Replies s (completeBarrier s c status cause) := by
  unfold completeBarrier
  split
  · exact (replies_completePacket _ _ _ _ _ _ _).trans (.setCtx _ c _ _ _ _)
  · exact .refl s

theorem replies_endLaunch (s : State) (id : Nat) (l : Launch) (kern status cause : Nat) :
    Replies s (endLaunch s id l kern status cause) := by
  have h1 : Replies s (s.dropLaunch id) := .of_eq (fun _ => rfl) rfl
  unfold endLaunch
  dsimp only
  split
  · exact h1.trans (replies_completePacket _ _ _ _ _ _ _)
  · split
    · exact h1.trans (.of_eq (fun _ => rfl) rfl)
    · exact h1

theorem plans_watchAudits (s : State) (c : Nat) : Plans s (watchAudits s c) := (Plans.refl s).plan _ _ _

end Sys2Proof.Machine
end

section
/-! # Fault records and audits (R238, R323, R328, R336 to R339) -/

namespace Sys2Proof.Machine

/-! ## A record on its way (R323) -/

theorem storeLost_of_none_lost {s : State} {d : Nat} (h : (s.die d).lost = 0) : storeLost s d = s := by
  simp only [storeLost, h, true_or, if_true]

/-- Record `r` sent from die d's FIFO, whose rest remains, to the copies `reps` of the handler, which acts 256 cycles after the later of
them has it. -/
def sendRecord (s : State) (d : Nat) (r : FaultRec) (rest : List FaultRec) (reps : List Nat) : State :=
  (reps.foldl (fun a t => a.planEv (s.mcnt + recordTransit d t) rkArrive .faultRecordDelivery
      { Arg.of d 1 t 0 0 with v := (packRec r).setWidth 512 }) (s.modDie d (fun x => { x with fifo := rest }))).planEv
    (s.mcnt + reps.foldl (fun m t => max m (recordTransit d t)) 0 + 256) rkArrive .faultRecordDelivery
    { Arg.of d 2 0 0 r.lost.toNat with v := (packRec r).setWidth 512, i := r.launches.map Int.ofNat }

theorem sendRecord_plans (s : State) (d : Nat) (r : FaultRec) (rest : List FaultRec) (reps : List Nat) :
    Plans (s.modDie d (fun x => { x with fifo := rest })) (sendRecord s d r rest reps) :=
  Plans.plan (Plans.foldl (fun a _ => (Plans.refl a).plan _ _ _) (.refl _) reps) _ _ _

theorem mem_sendRecord (s : State) (d : Nat) (r : FaultRec) (rest : List FaultRec) {reps : List Nat} {u : Nat} (hu : u ∈ reps) :
    ({ time := 16 * (s.mcnt + recordTransit d u) + rkArrive
       act := .ev .faultRecordDelivery { Arg.of d 1 u 0 0 with v := (packRec r).setWidth 512 } } : Item)
      ∈ (sendRecord s d r rest reps).agenda :=
  (mem_plan _ _ _ _ _).mpr (.inr (mem_foldl_plan (fun t => s.mcnt + recordTransit d t) (fun _ => rkArrive)
    (fun t => .ev .faultRecordDelivery { Arg.of d 1 t 0 0 with v := (packRec r).setWidth 512 }) hu _))

/-- The next record of die d's FIFO, where there is one, is looked at in the next cycle. -/
def followRecord (s : State) (d : Nat) (x : State) : State :=
  if (x.die d).fifo.isEmpty then x else planOnce x (s.mcnt + 1) rkStart .faultRecordDelivery d 0 0

theorem followRecord_plans (s : State) (d : Nat) (x : State) : Plans x (followRecord s d x) := by
  unfold followRecord
  split
  · exact .refl x
  · exact (Plans.refl x).planOnce _ _ _ _ _ _

/-- The record at the head of a FIFO leaves for every copy of the handler that is in service, where each of them has room. -/
theorem faultRecordDelivery_sends {s : State} {r : FaultRec} {rest : List FaultRec} (hb : s.arg.b = 0)
    (hfifo : (s.die s.arg.a).fifo = r :: rest) (hlost : (s.die s.arg.a).lost = 0) (hup : handlerDown s = false)
    (hreps : alive s faultTiles ≠ []) (hroom : ∀ u ∈ alive s faultTiles, (s.tile u).evq.length < 64) :
    exec .faultRecordDelivery s = .next (followRecord s s.arg.a (sendRecord s s.arg.a r rest (alive s faultTiles))) := by
  have hfull : (alive s faultTiles).any (fun t => decide (64 ≤ (s.tile t).evq.length)) = false := by simpa using hroom
  have hkept : ((sendRecord s s.arg.a r rest (alive s faultTiles)).die s.arg.a).lost = 0 := by
    rw [(sendRecord_plans s s.arg.a r rest (alive s faultTiles)).die]
    simpa using hlost
  change execFaultRecordDelivery s = _
  simp only [execFaultRecordDelivery, hb, hfifo, hup, hfull, List.isEmpty_eq_false_iff.mpr hreps, Bool.false_eq_true, or_self, if_false]
  change Host.Outcome.next (followRecord s s.arg.a (storeLost (sendRecord s s.arg.a r rest (alive s faultTiles)) s.arg.a)) = _
  rw [storeLost_of_none_lost hkept]

/-- A record reaches a copy of the handler as an event record. -/
theorem faultRecordDelivery_posts {s : State} (hb : s.arg.b = 1) (hroom : (s.tile s.arg.c).evq.length < 64)
    (hwait : (s.tile s.arg.c).evWait = []) :
    exec .faultRecordDelivery s = .next (s.setTile s.arg.c
      { s.tile s.arg.c with evq := (s.tile s.arg.c).evq ++ [(s.mcnt, s.arg.v.setWidth 128)] }) := by
  change execFaultRecordDelivery s = _
  simp only [execFaultRecordDelivery, hb, State.postRecord, State.modTile_eq, Tile.post_of_room hwait hroom]

theorem faultRecordDelivery_handles {s : State} (hb : s.arg.b = 2) :
    exec .faultRecordDelivery s
      = .next (handleFault s (unpackRec (s.arg.v.setWidth 128) (s.arg.i.map Int.toNat) (s.arg.e == 1))) := by
  change execFaultRecordDelivery s = _
  simp only [execFaultRecordDelivery, hb]

/-! ## A TRAP that its image's table lets resume (R328) -/

/-- A slot that resumes runs on, or drains where it had ended; no other slot changes, and no byte of memory. -/
theorem resumeSlot_effect (s : State) (n t : Nat) :
    (s.resumeSlot n t).slot n = { s.slot n with st := if (s.slot n).ended then .draining else .running }
    ∧ (∀ m, m ≠ n → (s.resumeSlot n t).slot m = s.slot m) ∧ (s.resumeSlot n t).mem = s.mem := by
  unfold State.resumeSlot
  extract_lets v e mine back s1 s2
  have h2 : s2.slots = s.slots ∧ s2.mem = s.mem := by
    refine List.foldlRecOn back _ (motive := fun a : State => a.slots = s.slots ∧ a.mem = s.mem) ⟨rfl, rfl⟩ fun a ha r _ => ?_
    split <;> exact ha
  obtain ⟨hslots, hmem⟩ := h2
  have hslot (m : Nat) : s2.slot m = s.slot m := congrArg (mget Slot.reset · m) hslots
  have hset (st : SlotState) : (s2.modSlot n (fun y => { y with st := st })).slot n = { s.slot n with st := st }
      ∧ ∀ m, m ≠ n → (s2.modSlot n (fun y => { y with st := st })).slot m = s.slot m := by
    refine ⟨?_, fun m hm => ?_⟩
    · rw [State.modSlot_eq, State.setSlot_slot, if_pos rfl, hslot]
    · rw [State.modSlot_eq, State.setSlot_slot, if_neg hm, hslot]
  split
  · exact ⟨(hset .draining).1, (hset .draining).2, hmem⟩
  · exact ⟨(hset .running).1, (hset .running).2, hmem⟩

/-- A software trap of a slot at levels D and F is the trap table's to handle (R327, R328). -/
theorem handleFault_trap {s : State} {r : FaultRec} (hcls : r.cause / 64 = 6) (hkind : r.mkind = 0) (hctx : r.ctx < 8)
    (hlevel : (s.ctx r.ctx).level ≠ .t) : handleFault s r = trapTable s r := by
  have hrange : 384 ≤ r.cause ∧ r.cause < 448 := by omega
  have htimed : (decide (r.ctx < 8) && (s.ctx r.ctx).level == .t) = false := by simp [hlevel]
  have hne {k : Nat} (hk : k < 384) : r.cause ≠ k := by omega
  simp [handleFault, htimed, hcls, hkind, hne, Nat.ne_of_lt hctx]

/-- A slot frozen by a TRAP resumes where the trap table says so and no block of it was lost (R328). -/
theorem trapTable_resumes {s : State} {r : FaultRec} (hfrozen : (s.slot (64 * recTile r + r.mid % 64)).st = .frozen) (hlost : r.lost = false)
    (hwhat : (s.ctx r.ctx).image.map (fun i => mget 2 i.traps (r.cause % 32)) = some 0) :
    trapTable s r = s.resumeSlot (64 * recTile r + r.mid % 64) (s.turnOf (64 * recTile r + r.mid % 64) s.mcnt) := by
  simp only [trapTable, hfrozen, hlost, hwhat, Option.getD_some, ne_eq, not_true_eq_false, Bool.false_eq_true, if_false]

/-! ## Audits begin and end (R336 to R338) -/

theorem planAudit_plans (s : State) (cycle rank no target c phase : Nat) : Plans s (planAudit s cycle rank no target c phase) := by
  unfold planAudit
  dsimp only
  split
  · exact .refl s
  · exact (Plans.refl s).plan _ _ _

/-- An audit that starts ends after its cycles; for a context its interval begins again. -/
theorem startAudit_plans (s : State) (no target c : Nat) : ∃ m, Plans { s with auditRuns := m } (startAudit s no target c)
    ∧ ({ time := 16 * (s.mcnt + auditCycles no) + rkArrive, act := .ev .auditRun (Arg.of no target c 2 0) } : Item)
      ∈ (startAudit s no target c).agenda := by
  unfold startAudit
  extract_lets s1 s2
  have hitem := (mem_plan s (s.mcnt + auditCycles no) rkArrive (.ev .auditRun (Arg.of no target c 2 0)) _).mpr (.inl rfl)
  split
  · exact ⟨s.auditRuns, (Plans.refl s).plan _ _ _, hitem⟩
  · have h1 : Plans { s with auditRuns := mset s1.auditRuns (auditKey no target) s.mcnt }
        { s1 with auditRuns := mset s1.auditRuns (auditKey no target) s.mcnt } := (Plans.refl _).plan _ _ _
    have h2 : Plans { s1 with auditRuns := mset s1.auditRuns (auditKey no target) s.mcnt } s2 := (Plans.refl _).plan _ _ _
    split
    · exact ⟨_, h1.trans h2, h2.agenda hitem⟩
    · have h3 := planAudit_plans s2 (s.mcnt + auditInterval no / 2) rkStart no target c 3
      exact ⟨_, (h1.trans h2).trans h3, h3.agenda (h2.agenda hitem)⟩

theorem auditRun_starts {s : State} (hd : s.arg.d = 1) (hup : managerDown s = false ∨ 9 ≤ s.arg.c) :
    exec .auditRun s = .next (startAudit s s.arg.a s.arg.b s.arg.c) := by
  have hrun : ¬ (managerDown s = true ∧ s.arg.c < 9) := by
    rintro ⟨hdown, hlt⟩
    rcases hup with h | h
    · simp [h] at hdown
    · omega
  change execAuditRun s = _
  simp only [execAuditRun, hd, hrun, if_false]

theorem auditRun_ends {s : State} (hd : s.arg.d = 2) : exec .auditRun s = .next (endAudit s s.arg.a s.arg.b s.arg.c) := by
  change execAuditRun s = _
  simp only [execAuditRun, hd]

/-- An audit that fails writes one record in the FIFO of its target's die. -/
theorem failAudit_effect (s : State) (no target c : Nat) (w : Word) :
    let t := failAudit s no target c w
    (t.die (auditSite no target).1).seq = ((s.die (auditSite no target).1).seq + 1) % 4096
      ∧ t.slots = s.slots ∧ t.mem = s.mem ∧ t.audits = s.audits := by
  intro t
  obtain ⟨p, hp⟩ : ∃ p, poisonFound s no target (auditDetail no target w) w = { s with poison := p } := by
    unfold poisonFound
    split
    · exact ⟨_, rfl⟩
    · split
      · exact ⟨_, rfl⟩
      · exact ⟨s.poison, rfl⟩
  obtain ⟨x, hseq, hx⟩ := raise_records { s with poison := p } (auditSite no target).1 (0x140 + no)
    (.nobody (if c < 8 then c else 15) (auditSite no target).2) s.mcnt (auditDetail no target w)
  have ht : ∃ q, t = { (State.raise { s with poison := p } (auditSite no target).1 (0x140 + no)
      (.nobody (if c < 8 then c else 15) (auditSite no target).2) s.mcnt (auditDetail no target w)) with sextant := q } := by
    simp only [t, failAudit, hp]
    split
    · exact ⟨_, rfl⟩
    · exact ⟨_, rfl⟩
  obtain ⟨l, -, hl⟩ := hx
  rw [hl] at ht
  obtain ⟨q, ht⟩ := ht
  rw [ht]
  refine ⟨?_, rfl, rfl, rfl⟩
  change ((State.setDie { s with poison := p } (auditSite no target).1 x).die (auditSite no target).1).seq = _
  rw [State.setDie_die, if_pos rfl]
  exact hseq

theorem endAudit_of_pass {s : State} {no target c : Nat} (hkeep : auditDestroys no = false) (hc : c ≠ 9)
    (hjob : mfind s.audits (auditKey no target) = none) (hpass : Config.auditPasses no s.freeCtr = true) :
    endAudit s no target c = { s with freeCtr := s.freeCtr + 1 } := by
  simp only [endAudit, hkeep, hc, hpass, State.drawWord, hjob, Bool.false_eq_true, if_true, if_false]

theorem endAudit_of_failure {s : State} {no target c : Nat} (hkeep : auditDestroys no = false) (hc : c ≠ 9)
    (hjob : mfind s.audits (auditKey no target) = none) (hfail : Config.auditPasses no s.freeCtr = false) :
    endAudit s no target c = failAudit { s with freeCtr := s.freeCtr + 1 } no target c (Config.freeWord s.freeCtr) := by
  obtain ⟨-, -, -, haudits⟩ := failAudit_effect { s with freeCtr := s.freeCtr + 1 } no target c (Config.freeWord s.freeCtr)
  simp only [endAudit, hkeep, hc, hfail, State.drawWord, haudits, hjob, Bool.false_eq_true, if_false]

/-! ## Intervals without a run, and packets that ask (R238, R339) -/

theorem auditRequestPacket_asks {s : State} (hn : requestable ((lane s.arg.v 1).toNat % 1024) = true) (hfree : (s.ctx s.arg.a).audit = none) :
    exec .auditRequestPacket s = .next ((s.modCtx s.arg.a (fun x => { x with
        audit := some ((lane s.arg.v 1).toNat % 1024, some (lane s.arg.v 0), false) })).planEv
      (s.mcnt + tileTransit (tileAt 0 1 0) (tileAt 2 1 0)) rkArrive .auditRun (Arg.of ((lane s.arg.v 1).toNat % 1024) 0 s.arg.a 0 0)) := by
  change execAuditRequestPacket s = _
  simp only [execAuditRequestPacket, askAudit_of_free hn hfree, if_true]

/-- A request that may not be made, or comes while another stands, is dropped with a record (R238). -/
theorem askAudit_of_refused {s : State} {c n : Nat} (h : requestable n = false ∨ (s.ctx c).audit ≠ none) (t : Nat) (w0 : Option Word) :
    askAudit s c n t w0 = (false, s.raise (dieOfTile t) 0x1C2 (.nobody c t) s.mcnt n) := by
  have hno : ¬ (requestable n = true ∧ (s.ctx c).audit.isNone = true) := by
    rintro ⟨hn, hc⟩
    rcases h with h | h
    · simp [h] at hn
    · exact h (Option.isNone_iff_eq_none.mp hc)
  simp only [askAudit, hno, if_false]

/-- A packet whose request is refused completes at once, its record made (R238, R305). -/
theorem auditRequestPacket_refuses {s : State}
    (h : requestable ((lane s.arg.v 1).toNat % 1024) = false ∨ (s.ctx s.arg.a).audit ≠ none) :
    ∃ p : State, (∀ c, p.ctx c = s.ctx c) ∧ p.slots = s.slots
      ∧ exec .auditRequestPacket s = .next (completePacket p s.arg.a (lane s.arg.v 0) 0 0 7 0x1C2) := by
  obtain ⟨x, -, hx⟩ := raise_records s (dieOfTile (tileAt 0 1 0)) 0x1C2 (.nobody s.arg.a (tileAt 0 1 0)) s.mcnt
    ((lane s.arg.v 1).toNat % 1024)
  refine ⟨_, hx.ctx, hx.slots, ?_⟩
  change execAuditRequestPacket s = _
  simp only [execAuditRequestPacket, askAudit_of_refused h, Bool.false_eq_true, if_false]

theorem auditOverdue_records {s : State} {last c : Nat} (hlast : mfind s.auditRuns (auditKey s.arg.a s.arg.b) = some last)
    (hc : auditedBy s s.arg.a s.arg.b = some c) (hpast : last + auditInterval s.arg.a ≤ s.mcnt) :
    exec .auditOverdue s = .next ((s.raise (auditSite s.arg.a s.arg.b).1 0x17F (.nobody c (auditSite s.arg.a s.arg.b).2) s.mcnt s.arg.a).planN
      (s.mcnt + auditInterval s.arg.a) rkStart .auditOverdue s.arg.a s.arg.b) := by
  change execAuditOverdue s = _
  simp only [execAuditOverdue, hlast, hc, Nat.not_lt.mpr hpast, if_false]

theorem auditOverdue_early {s : State} {last c : Nat} (hlast : mfind s.auditRuns (auditKey s.arg.a s.arg.b) = some last)
    (hc : auditedBy s s.arg.a s.arg.b = some c) (hearly : s.mcnt < last + auditInterval s.arg.a) : exec .auditOverdue s = .next s := by
  change execAuditOverdue s = _
  simp only [execAuditOverdue, hlast, hc, hearly, if_true]

/-- Settles O48: each clause reads the state that the lemma about its event gives. -/
theorem faultsAndAudits : Obligations.FaultsAndAudits := by
  unfold Obligations.FaultsAndAudits
  intro s g
  refine ⟨fun r rest hb hfifo hlost hup hreps hroom => ?sends, fun hb hroom hwait => ?posts,
    fun hb he hcls hkind hctx hlevel hfrozen hwhat => ?resumes, fun hd hup => ?starts,
    fun hd hkeep hc hjob => ⟨fun hpass => ?passes, fun hfail => ?fails⟩, fun last hlast hby hpast => ?overdue,
    fun last hlast hby hearly => ?early, fun hn hfree => ?asked, fun hno => ?refused⟩
  case sends =>
    have hsent := sendRecord_plans s g.a r rest (alive s faultTiles)
    have hnext := followRecord_plans s g.a (sendRecord s g.a r rest (alive s faultTiles))
    have hall := hsent.trans hnext
    refine ⟨_, faultRecordDelivery_sends hb hfifo hlost hup hreps hroom, ?_, fun u hu => hnext.agenda (mem_sendRecord s g.a r rest hu),
      hall.slots, hall.mem⟩
    rw [hall.die, State.modDie_eq, State.setDie_die, if_pos rfl]
  case posts =>
    refine ⟨_, faultRecordDelivery_posts hb hroom hwait, ?_, rfl, rfl⟩
    rw [State.setTile_tile, if_pos rfl]
  case resumes =>
    have hlost : (unpackRec (g.v.setWidth 128) (g.i.map Int.toNat) (g.e == 1)).lost = false := by simp [unpackRec, he]
    refine ⟨_, faultRecordDelivery_handles hb, ?_⟩
    rw [handleFault_trap hcls hkind hctx hlevel, trapTable_resumes hfrozen hlost hwhat]
    exact resumeSlot_effect _ _ _
  case starts =>
    obtain ⟨m, hplans, hitem⟩ := startAudit_plans s g.a g.b g.c
    exact ⟨_, auditRun_starts hd hup, hplans.mem, hplans.slots, hitem⟩
  case passes => rw [auditRun_ends hd, endAudit_of_pass hkeep hc hjob hpass]
  case fails =>
    refine ⟨_, auditRun_ends hd, ?_⟩
    rw [endAudit_of_failure hkeep hc hjob hfail]
    obtain ⟨hseq, hslots, hmem, -⟩ := failAudit_effect { s with freeCtr := s.freeCtr + 1 } g.a g.b g.c (Config.freeWord s.freeCtr)
    exact ⟨hseq, hslots, hmem⟩
  case overdue =>
    obtain ⟨c, hc⟩ := Option.ne_none_iff_exists'.mp hby
    obtain ⟨x, hseq, hx⟩ := raise_records s (auditSite g.a g.b).1 0x17F (.nobody c (auditSite g.a g.b).2) s.mcnt g.a
    refine ⟨_, auditOverdue_records hlast hc hpast, ?_, (mem_plan _ _ _ _ _).mpr (.inl rfl), hx.slots, hx.mem⟩
    refine (congrArg Die.seq (hx.die _)).trans ?_
    rw [State.setDie_die, if_pos rfl]
    exact hseq
  case early =>
    obtain ⟨c, hc⟩ := Option.ne_none_iff_exists'.mp hby
    exact auditOverdue_early hlast hc hearly
  case asked =>
    refine ⟨_, auditRequestPacket_asks hn hfree, ?_, rfl, rfl⟩
    rw [State.planEv_eq, State.plan_ctx, modCtx_ctx_self]
  case refused =>
    obtain ⟨p, hctx, hslots, hexec⟩ := auditRequestPacket_refuses hno
    have hreply := replies_completePacket p g.a (lane g.v 0) 0 0 7 0x1C2
    refine ⟨_, hexec, ?_, ?_, hreply.slots.trans hslots⟩
    · rw [hreply.keeps Ctx.audit (fun _ _ _ _ _ => rfl), hctx]
    · rw [completePacket_outst, hctx]

end Sys2Proof.Machine
end

section
/-! # The slots, tiles and words of an Almanac entry (R236, R269, R271, R272, R274) -/

namespace Sys2Proof.Machine

/-! ## Slots armed and started one after another (R272) -/

/-- A pass over a list of slots, each step of which changes its own slot alone, brings a slot of the list from `P` to `Q`. -/
theorem foldl_slot_reaches {f : State → Nat → State} {P Q : Slot → Prop} {n : Nat} (hother : ∀ a m, m ≠ n → (f a m).slot n = a.slot n)
    (hreach : ∀ a, P (a.slot n) → Q ((f a n).slot n)) (hstay : ∀ a, Q (a.slot n) → Q ((f a n).slot n)) {l : List Nat} {s : State}
    (h : Q (s.slot n) ∨ n ∈ l ∧ P (s.slot n)) : Q ((l.foldl f s).slot n) := by
  induction l generalizing s with
  | nil => simpa using h
  | cons m r ih =>
    rw [List.foldl_cons]
    refine ih ?_
    by_cases hm : m = n
    · subst hm
      exact .inl (h.elim (hstay s) (fun hp => hreach s hp.2))
    · rw [hother s m hm]
      exact h.imp_right (fun ⟨hn, hp⟩ => ⟨(List.mem_cons.mp hn).resolve_left (Ne.symm hm), hp⟩)

/-- A slot that can be armed for an entry (R272). -/
def Slot.armableFor (k : Nat) (x : Slot) : Bool :=
  x.st == .bound || (x.st == .armed && (match x.entry with
    | some j => j / 4096 != k / 4096
    | none => false))

theorem armable_eq (s : State) (k n : Nat) : armable s k n = (s.slot n).armableFor k := rfl

/-- A slot that stands armed for an entry. -/
def Slot.ArmedFor (k : Nat) (x : Slot) : Prop := x.st = .armed ∧ x.entry = some k

theorem armSlot_entry_slot (s : State) (n b k m : Nat) :
    (m ≠ n → (armSlot s n b none [] none (some k)).slot m = s.slot m)
    ∧ ((armSlot s n b none [] none (some k)).slot n).ArmedFor k := by
  refine ⟨fun hm => ?_, ?_⟩
  · exact (State.setSlot_slot _ _ _ _).trans (if_neg hm)
  · rw [show (armSlot s n b none [] none (some k)).slot n = _ from (State.setSlot_slot _ _ _ _).trans (if_pos rfl)]
    exact ⟨rfl, rfl⟩

/-- Arming a block arms every slot of it that can be armed, and disarms none. -/
theorem armBlock_armedFor {s : State} {k n : Nat} (b : Nat) {ns : List Nat}
    (h : (s.slot n).ArmedFor k ∨ n ∈ ns ∧ armable s k n = true) : ((armBlock s k b ns).slot n).ArmedFor k := by
  refine foldl_slot_reaches (P := fun x => x.armableFor k = true) (Q := Slot.ArmedFor k) ?other ?reach ?stay h
  case other =>
    intro a m hm
    split
    · exact (armSlot_entry_slot a m b k n).1 (Ne.symm hm)
    · rfl
  case reach =>
    intro a ha
    rw [if_pos ((armable_eq a k n).trans ha)]
    exact (armSlot_entry_slot a n b k n).2
  case stay =>
    intro a ha
    split
    · exact (armSlot_entry_slot a n b k n).2
    · exact ha

/-- Arming a block changes slots alone. -/
theorem armBlock_rest (s : State) (k b : Nat) (ns : List Nat) : ∃ l, armBlock s k b ns = { s with slots := l } := by
  refine List.foldlRecOn ns _ (motive := fun a : State => ∃ l, a = { s with slots := l }) ⟨s.slots, rfl⟩ fun a ⟨l, ha⟩ n _ => ?_
  subst ha
  split
  · exact ⟨_, rfl⟩
  · exact ⟨_, rfl⟩

/-- Starting a slot changes slots, the agenda and what is saved of parked tiles. -/
theorem startSlot_rest (s : State) (n base : Nat) :
    ∃ l a v, startSlot s n base = { s with slots := l, agenda := a, saved := v } := by
  unfold startSlot
  split
  · split
    · unfold State.defer
      split
      · exact ⟨_, _, _, rfl⟩
      · exact ⟨_, _, _, rfl⟩
    · exact ⟨_, _, _, rfl⟩
  · exact ⟨_, _, _, rfl⟩

theorem startSlot_keeps (s : State) (n base : Nat) : (startSlot s n base).mem = s.mem ∧ (startSlot s n base).walkers = s.walkers := by
  obtain ⟨_, _, _, h⟩ := startSlot_rest s n base
  rw [h]
  exact ⟨rfl, rfl⟩

theorem startSlot_slot_other (s : State) {n m : Nat} (base : Nat) (hm : m ≠ n) : (startSlot s n base).slot m = s.slot m := by
  unfold startSlot
  split
  · split
    · unfold State.defer
      split <;> rfl
    · exact (State.setSlot_slot _ _ _ _).trans (if_neg hm)
  · rfl

/-- A slot that has started in a cycle. -/
def Slot.StartedAt (base : Nat) (x : Slot) : Prop := x.st = .running ∧ x.start = base

theorem startSlot_started {s : State} {n base : Nat} (ha : (s.slot n).st = .armed) (hp : parkedHome n = none) :
    ((startSlot s n base).slot n).StartedAt base := by
  simp [startSlot, ha, hp, Slot.StartedAt]

/-- Starts a slot that stands under an entry. -/
def startOwn (k base : Nat) (s : State) (n : Nat) : State := if (s.slot n).entry = some k then startSlot s n base else s

/-- Starting the slots of an entry starts each that is armed for it and not parked. -/
theorem foldl_startOwn_started {s : State} {k base n : Nat} {ns : List Nat} (hn : n ∈ ns) (ha : (s.slot n).ArmedFor k)
    (hp : parkedHome n = none) : ((ns.foldl (startOwn k base) s).slot n).StartedAt base := by
  refine foldl_slot_reaches (P := Slot.ArmedFor k) (Q := Slot.StartedAt base) ?other ?reach ?stay (.inr ⟨hn, ha⟩)
  case other =>
    intro a m hm
    unfold startOwn
    split
    · exact startSlot_slot_other a base (Ne.symm hm)
    · rfl
  case reach =>
    rintro a ⟨hst, he⟩
    rw [startOwn, if_pos he]
    exact startSlot_started hst hp
  case stay =>
    intro a hq
    have hidle : startSlot a n base = a := by simp [startSlot, hq.1]
    rw [startOwn, hidle, ite_self]
    exact hq

theorem foldl_startOwn_keeps (k base : Nat) (ns : List Nat) (s : State) :
    (ns.foldl (startOwn k base) s).mem = s.mem ∧ (ns.foldl (startOwn k base) s).walkers = s.walkers := by
  refine List.foldlRecOn ns _ (motive := fun a : State => a.mem = s.mem ∧ a.walkers = s.walkers) ⟨rfl, rfl⟩ fun a ha n _ => ?_
  obtain ⟨hmem, hwalkers⟩ := startSlot_keeps a n base
  unfold startOwn
  split
  · rwa [hmem, hwalkers]
  · exact ha

/-! ## The assay registers of an entry's tiles (R236, R272) -/

/-- From `s` to `t` nothing has changed but the assay registers of tiles. -/
structure AssaysOnly (s t : State) : Prop where
  rest : { t with tiles := [] } = { s with tiles := [] }
  tile : ∀ u, { t.tile u with assay := [] } = { s.tile u with assay := [] }
  homes : ∀ c, homesOf s c ⊆ homesOf t c

namespace AssaysOnly
variable {s t u : State}

theorem refl (s : State) : AssaysOnly s s := ⟨rfl, fun _ => rfl, fun _ => List.Subset.refl _⟩

theorem trans (h : AssaysOnly s t) (g : AssaysOnly t u) : AssaysOnly s u :=
  ⟨g.rest.trans h.rest, fun k => (g.tile k).trans (h.tile k), fun c => List.Subset.trans (h.homes c) (g.homes c)⟩

theorem foldl {β : Type} {f : State → β → State} (hf : ∀ a b, AssaysOnly a (f a b)) (l : List β) (s : State) :
    AssaysOnly s (l.foldl f s) :=
  List.foldlRecOn l f (refl s) fun a ha b _ => ha.trans (hf a b)

end AssaysOnly

/-- An entry of a map stands after a write, or is the one that the write replaces. -/
theorem mem_mset_of_mem {α : Type} (d : α) {m : Map α} {p : Nat × α} (hp : p ∈ m) (k : Nat) (v : α) :
    p ∈ mset m k v ∨ (p.1 = k ∧ p.2 = mget d m k) := by
  induction m with
  | nil => exact absurd hp List.not_mem_nil
  | cons q r ih =>
    obtain ⟨j, w⟩ := q
    by_cases hlt : k < j
    · exact .inl (by simpa [mset, hlt] using .inr (List.mem_cons.mp hp))
    · by_cases heq : j = k
      · rcases List.mem_cons.mp hp with rfl | hr
        · exact .inr ⟨heq, by simp [mget, heq]⟩
        · exact .inl (by simp [mset, heq, hr])
      · rcases List.mem_cons.mp hp with rfl | hr
        · exact .inl (by simp [mset, hlt, heq])
        · exact (ih hr).imp (fun h => by simp [mset, hlt, heq, h]) (fun h => by simpa [mget, heq] using h)

theorem mem_mset_self {α : Type} (m : Map α) (k : Nat) (v : α) : (k, v) ∈ mset m k v := by
  induction m with
  | nil => simp [mset]
  | cons q r ih =>
    simp only [mset]
    split
    · exact List.mem_cons_self
    · split
      · exact List.mem_cons_self
      · exact List.mem_cons_of_mem _ ih

theorem setAssay_assaysOnly (s : State) (t g : Nat) (a : Assay) : AssaysOnly s (s.setAssay t g a) := by
  refine ⟨rfl, fun u => ?_, fun c u hu => ?_⟩
  · rw [State.setAssay, State.modTile_eq, State.setTile_tile]
    split
    case isTrue h => rw [h]
    case isFalse => rfl
  · obtain ⟨p, hp, rfl⟩ := List.mem_map.mp hu
    obtain ⟨hmem, hctx⟩ := List.mem_filter.mp hp
    refine List.mem_map.mpr ?_
    rcases mem_mset_of_mem Tile.reset hmem t { s.tile t with assay := mset (s.tile t).assay g a } with hstays | ⟨hk, hv⟩
    · exact ⟨p, List.mem_filter.mpr ⟨hstays, hctx⟩, rfl⟩
    · refine ⟨(t, _), List.mem_filter.mpr ⟨mem_mset_self _ _ _, ?_⟩, hk.symm⟩
      rw [← hk] at hv ⊢
      rw [hv] at hctx
      exact hctx

theorem clearGroups_assaysOnly (s : State) (k : Nat) (e : AlmEntry) : AssaysOnly s (clearGroups s k e) := by
  refine AssaysOnly.foldl (fun a t => AssaysOnly.foldl (fun b g => ?_) _ a) _ s
  split
  · exact setAssay_assaysOnly _ _ _ _
  · exact .refl b

/-- The tiles of an entry do not depend on assay registers. -/
theorem AssaysOnly.entryHomes {s t : State} (h : AssaysOnly s t) (k : Nat) (e : AlmEntry) : entryHomes s k e ⊆ entryHomes t k e := by
  have hltid (u : Nat) : (t.tile u).ltid = (s.tile u).ltid := (congrArg Tile.ltid (h.tile u) :)
  have htwin (u : Nat) : (t.tile u).twinOf = (s.tile u).twinOf := (congrArg Tile.twinOf (h.tile u) :)
  have hsaved : t.saved = s.saved := (congrArg State.saved h.rest :)
  intro u hu
  obtain ⟨hhome, hmine⟩ := List.mem_filter.mp hu
  refine List.mem_filter.mpr ⟨h.homes _ hhome, ?_⟩
  simpa only [hltid, htwin, State.runsOn, hsaved] using hmine

/-- The slots of an entry's primary do not depend on assay registers. -/
theorem AssaysOnly.primarySlots {s t : State} (h : AssaysOnly s t) (k : Nat) (e : AlmEntry) :
    primarySlots s k e ⊆ primarySlots t k e := by
  have hload (u : Nat) : (t.tile u).load = (s.tile u).load := (congrArg Tile.load (h.tile u) :)
  have hbind (n : Nat) : t.binding n = s.binding n := (congrArg (State.binding · n) h.rest :)
  have hslot (n : Nat) : t.slot n = s.slot n := (congrArg (State.slot · n) h.rest :)
  intro n hn
  obtain ⟨u, hu, hnu⟩ := List.mem_flatMap.mp hn
  obtain ⟨hhome, hheld⟩ := List.mem_filter.mp hu
  refine List.mem_flatMap.mpr ⟨u, List.mem_filter.mpr ⟨h.entryHomes k e hhome, ?_⟩, ?_⟩
  · rwa [hload]
  · simpa only [hbind, hslot] using hnu

/-! ## A block that is late (R272) -/

theorem holdGroup_mem (s : State) (n t : Nat) : (s.holdGroup n t).mem = s.mem := by
  unfold State.holdGroup
  split <;> rfl

theorem freezeSlot_mem (s : State) (n t : Nat) : (s.freezeSlot n t).mem = s.mem := by
  unfold State.freezeSlot
  extract_lets x v e broken late e1 s1
  split
  · exact holdGroup_mem _ _ _
  · rfl

theorem freezeLode_mem (s : State) (t : Nat) : (freezeLode s t).mem = s.mem := by
  unfold freezeLode
  extract_lets s1 x users
  obtain ⟨m, hm⟩ := endEngine_cmds (s1.setLode t _) t 1 false
  exact hm.mem

theorem freezeChan_mem (s : State) (t ch cause : Nat) : (freezeChan s t ch cause).mem = s.mem :=
  (congrArg State.mem (freezeChan_unrecorded s t ch cause) :)

theorem freezeNode_mem (s : State) (t : Nat) : (freezeNode s t).mem = s.mem := by
  obtain ⟨-, hmem, -⟩ := freezeNode_effect s t
  exact hmem

/-- A pass whose steps leave memory alone leaves it alone. -/
theorem foldl_mem {β : Type} {f : State → β → State} (hf : ∀ a b, (f a b).mem = a.mem) (l : List β) (s : State) :
    (l.foldl f s).mem = s.mem :=
  List.foldlRecOn l f (motive := fun a => a.mem = s.mem) rfl fun a ha b _ => (hf a b).trans ha

theorem disarm_mem (s : State) (n : Nat) : (disarm s n).mem = s.mem := by
  unfold disarm
  split <;> rfl

/-- Freezing the masters of a late block leaves memory alone. -/
theorem freezeBlock_mem (s : State) (ns : List Nat) : (freezeBlock s ns).mem = s.mem := by
  unfold freezeBlock
  extract_lets mine s1
  have h1 : s1.mem = s.mem := by
    refine foldl_mem (fun a n => ?_) ns s
    split
    · exact disarm_mem a n
    · exact freezeSlot_mem a n _
  refine (foldl_mem (fun a t => ?_) _ s1).trans h1
  extract_lets x uses a1 y a2
  have ha1 : a1.mem = a.mem := by
    unfold a1
    split
    · exact foldl_mem freezeNode_mem _ a
    · rfl
  have ha2 : a2.mem = a1.mem := by
    unfold a2
    split
    · exact freezeLode_mem a1 t
    · rfl
  refine (foldl_mem (fun b ch => ?_) _ a2).trans (ha2.trans ha1)
  split
  · exact freezeChan_mem _ _ _ _
  · rfl

/-! ## Publication (R274) -/

theorem flushMerged_plans (s : State) (n : Nat) : Plans s (flushMerged s n) := by
  refine Plans.foldl (fun a k => ?_) (.refl s) _
  dsimp only
  split
  · exact (Plans.refl a).plan _ _ _
  · exact .refl a

theorem turnAccesses_mem (s : State) (c o : Nat) : (turnAccesses s c o).mem = s.mem := by
  unfold turnAccesses
  extract_lets r f parts
  split <;> rfl

/-- The publication of an entry without a commit set releases what its block merged, and writes nothing. -/
theorem publish_of_no_objects {s : State} {k : Nat} (h : csetOf s k = []) (ns : List Nat) : Plans s (publish s k ns) := by
  simp only [publish, h, List.foldl_nil]
  exact Plans.foldl (fun a n => flushMerged_plans a n) (.refl s) ns

/-- What is written of a word reads back. -/
theorem readNat_writeNat {m : List Host.Cell} (h : Memory.wf m = true) (a v n : Nat) : readNat (writeNat m a v n) a n = v % 256 ^ n := by
  induction n generalizing m a v with
  | zero => simp [readNat, Nat.mod_one]
  | succ n ih =>
    have hbyte : readByte (writeNat (writeByte m a (BitVec.ofNat 8 v)) (a + 1) (v / 256) n) a = BitVec.ofNat 8 v := by
      rw [readByte_writeNat (wf_writeByte h a _) _ _ _ _ (.inl (Nat.lt_succ_self a)), readByte_writeByte h, if_pos rfl]
    rw [writeNat, readNat, ih (wf_writeByte h a _), hbyte, BitVec.toNat_ofNat, Nat.pow_succ' (m := 256)]
    exact Nat.mod_mul.symm

theorem read32_write32 {s : State} (h : Memory.wf s.mem = true) (a : Nat) (w : Word) : (s.write32 a w).read32 a = w := by
  have hread : readNat (s.write32 a w).mem a 4 = w.toNat % 256 ^ 4 := readNat_writeNat h a w.toNat 4
  have hlt : w.toNat < 256 ^ 4 := w.isLt
  rw [State.read32, hread, Nat.mod_eq_of_lt hlt, BitVec.ofNat_toNat, BitVec.setWidth_eq]

/-- The publication of one object inverts SEL in the entry of each die's table: here of the only die (R274). -/
theorem publish_flips {s : State} {k o d : Nat} (hwf : Memory.wf s.mem = true) (ho : csetOf s k = [o]) (hd : diesOf s (keyCtx k) = [d])
    (ns : List Nat) : (publish s k ns).read32 (objEntryPa s d (keyCtx k) o)
      = s.read32 (objEntryPa s d (keyCtx k) o) ^^^ 0x0100_0000#32 := by
  obtain ⟨l, -, hl⟩ := Plans.foldl (fun a n => flushMerged_plans a n) (.refl s) ns
  have hd' : diesOf { s with agenda := l } (keyCtx k) = [d] := hd
  have hmem : (publish s k ns).mem = (s.write32 (objEntryPa s d (keyCtx k) o)
      (s.read32 (objEntryPa s d (keyCtx k) o) ^^^ 0x0100_0000#32)).mem := by
    simp only [publish, ho, hl, List.foldl_cons, List.foldl_nil, hd', turnAccesses_mem]
    rfl
  rw [State.read32, hmem]
  exact read32_write32 hwf _ _

end Sys2Proof.Machine
end

section
/-! # Almanacs (R233, R236, R267, R268, R271, R272, R274, R275) -/

namespace Sys2Proof.Machine

/-! ## What an Almanac plans -/

theorem planEntry_plans (s : State) (cycle rank : Nat) (i : Instr) (k frame : Nat) (e : AlmEntry) :
    Plans s (planEntry s cycle rank i k frame e) := (Plans.refl s).plan _ _ _

theorem planFrame_plans (s : State) (c a f : Nat) (which : AlmEntry → Bool) : Plans s (planFrame s c a f which) := by
  refine Plans.foldl (fun x p => ?_) (.refl s) _
  split
  · exact planEntry_plans _ _ _ _ _ _ _
  · exact .refl x

theorem planWaypoint_plans (s : State) (c t : Nat) : Plans s (planWaypoint s c t) := by
  unfold planWaypoint
  split
  · split
    · exact (Plans.refl s).plan _ _ _
    · exact .refl s
  · exact .refl s

/-! ## Packets (R267, R305) -/

section
variable {s : State}

/-- A packet read in time at level T is kept until its start tick. -/
theorem armAlmanacPacket_keeps (hb : s.arg.b ≠ 1) (hlevel : (s.ctx s.arg.a).level = .t)
    (hloaded : (mfind (s.ctx s.arg.a).alms ((lane s.arg.v 1).toNat % 256)).isSome = true)
    (hearly : s.mcnt / 2900 + 2 ≤ (lane s.arg.v 2).toNat + 2 ^ 32 * (lane s.arg.v 3).toNat) :
    let alm := (lane s.arg.v 1).toNat % 256
    let at_ := (lane s.arg.v 2).toNat + 2 ^ 32 * (lane s.arg.v 3).toNat
    exec .armAlmanacPacket s = .next ((planFrame (s.modCtx s.arg.a (fun y => { y with armReq := y.armReq ++ [(alm, at_)] })) s.arg.a alm at_
      (fun _ => true)).planEv (2900 * at_) rkStart .armAlmanacPacket { s.arg with b := 1 }) := by
  have hsome : (mfind (s.ctx s.arg.a).alms ((lane s.arg.v 1).toNat % 256)).isNone = false :=
    Option.isNone_eq_false_iff.mpr hloaded
  change execArmAlmanacPacket s = _
  simp only [execArmAlmanacPacket, hb, hlevel, hsome, Nat.not_lt.mpr hearly, ne_eq, not_true_eq_false, Bool.false_eq_true, or_self, if_false]

/-- At its start tick a kept packet makes its Almanac the active one; its completion and the next waypoint follow. -/
theorem armAlmanacPacket_activates (hb : s.arg.b = 1)
    (hkept : ((lane s.arg.v 1).toNat % 256, (lane s.arg.v 2).toNat + 2 ^ 32 * (lane s.arg.v 3).toNat) ∈ (s.ctx s.arg.a).armReq) :
    let alm := (lane s.arg.v 1).toNat % 256
    let at_ := (lane s.arg.v 2).toNat + 2 ^ 32 * (lane s.arg.v 3).toNat
    Leads .armAlmanacPacket s (Replies (s.modCtx s.arg.a (fun y => { y with
      active := some alm, base := at_, armReq := y.armReq.filter (fun r => r != (alm, at_)) }))) := by
  intro alm at_
  have hin : (s.ctx s.arg.a).armReq.contains (alm, at_) = true := List.contains_iff_mem.mpr hkept
  refine ⟨_, ?_, ((Replies.of_plans (plans_watchAudits _ s.arg.a)).trans
    (replies_completePacket _ s.arg.a (lane s.arg.v 0) 0 0 0 0)).trans (.of_plans (planWaypoint_plans _ s.arg.a (at_ + 1)))⟩
  change execArmAlmanacPacket s = _
  simp only [execArmAlmanacPacket, hb, if_true]
  exact congrArg Host.Outcome.next (if_pos hin)

theorem courseChangePacket_asks {b : Nat} (hactive : (s.ctx s.arg.a).active = some b) (hlevel : (s.ctx s.arg.a).level = .t)
    (hway : (almOf s s.arg.a b).waypoints ≠ []) (hloaded : (mfind (s.ctx s.arg.a).alms ((lane s.arg.v 1).toNat % 256)).isSome = true) :
    exec .courseChangePacket s = .next (s.setCtx s.arg.a { s.ctx s.arg.a with
      hostCourse := (s.ctx s.arg.a).hostCourse ++ [((lane s.arg.v 1).toNat % 256, lane s.arg.v 0, s.mcnt)] }) := by
  have hsome : (mfind (s.ctx s.arg.a).alms ((lane s.arg.v 1).toNat % 256)).isNone = false :=
    Option.isNone_eq_false_iff.mpr hloaded
  change execCourseChangePacket s = _
  simp only [execCourseChangePacket, hactive, hlevel, List.isEmpty_eq_false_iff.mpr hway, hsome, ne_eq, not_true_eq_false,
    Bool.false_eq_true, or_self, if_false, State.modCtx_eq]

/-- Out of level T the change waits for the next waypoint of the active Almanac. -/
theorem determinismLevelPacket_waits (hpass : levelReport s s.arg.a (levelOfNo (lane s.arg.v 1).toNat) = none)
    (hlevel : (s.ctx s.arg.a).level = .t) (hout : levelOfNo (lane s.arg.v 1).toNat ≠ .t) (hactive : (s.ctx s.arg.a).active ≠ none) :
    exec .determinismLevelPacket s
      = .next (s.setCtx s.arg.a { s.ctx s.arg.a with newLevel := some (levelOfNo (lane s.arg.v 1).toNat) }) := by
  have hsome : (s.ctx s.arg.a).active.isSome = true := Option.isSome_iff_ne_none.mpr hactive
  change execDeterminismLevelPacket s = _
  simp only [execDeterminismLevelPacket, hpass, hlevel, hout, hsome, Option.isSome_none, Bool.false_eq_true, if_false, ne_eq,
    not_false_eq_true, and_self, if_true, State.modCtx_eq]

/-- Remaps that wait for a waypoint of a context take effect in the next cycle, unless it changes into level T (R241, R267). -/
def releaseRemaps (s : State) (c : Nat) (l : Level) : State :=
  (s.helm.filter (fun r => l != Level.t && r.2.kind == 5 && r.2.acted && bitsOf r.2.a.toNat 12 10 == c)).foldl (fun a r =>
    a.planN (s.mcnt + 1) rkHold .remapApply r.1 1) s

theorem releaseRemaps_plans (s : State) (c : Nat) (l : Level) : Plans s (releaseRemaps s c l) :=
  Plans.foldl (fun a _ => (Plans.refl a).plan _ _ _) (.refl s) _

/-- Otherwise the level changes at once; what was pending ends with a change into level T. -/
theorem determinismLevelPacket_changes (hpass : levelReport s s.arg.a (levelOfNo (lane s.arg.v 1).toNat) = none)
    (hfree : (s.ctx s.arg.a).level ≠ .t ∨ (s.ctx s.arg.a).active = none) :
    let l := levelOfNo (lane s.arg.v 1).toNat
    Leads .determinismLevelPacket s
      (Replies ((releaseRemaps s s.arg.a l).modCtx s.arg.a (fun y => { y with level := l }))) := by
  intro l
  have hnow : ¬ ((s.ctx s.arg.a).level = .t ∧ l ≠ .t ∧ (s.ctx s.arg.a).active.isSome = true) := by
    rintro ⟨hlevel, -, hactive⟩
    rcases hfree with h | h
    · exact h hlevel
    · simp [h] at hactive
  have hchanged (p : State) : Replies p (completeBarrier (watchAudits p s.arg.a) s.arg.a 0 0) :=
    (Replies.of_plans (plans_watchAudits _ _)).trans (replies_completeBarrier _ _ _ _)
  refine ⟨_, rfl, ?_⟩
  simp only [hpass, hnow, l, Option.isSome_none, Bool.false_eq_true, if_false]
  split
  · exact (hchanged _).trans (Replies.foldl (fun _ _ => replies_endLaunch _ _ _ _ _ _) _ _)
  · exact hchanged _
end

/-! ## The walkers of an entry (R268, R271, R272) -/

theorem setWalker_find (s : State) (k : Nat) (w : Walker) : mfind (s.setWalker k w).walkers k = some w := mfind_mset_self _ _ _
theorem dropWalker_find (s : State) (k : Nat) : mfind (s.dropWalker k).walkers k = none := mfind_mdel_self _ _

/-- The walker of an entry that has been armed for the frame of tick f. -/
def armedWalker (s : State) (k f : Nat) (e : AlmEntry) : Walker :=
  { st := .armed, s := 2900 * (f + entStart e), d := 2900 * (f + entDln e), p := 2900 * (f + entDln e) + 2900 * entRsv e
    drbOk := (drbSlots s k e).all (armable s k), seen := 0, bad := 0 }

/-- An entry whose slots can all be armed, on tiles that hold its load, is armed; its events and its next frame are planned. -/
theorem walkerArm_arms {s : State} {e : AlmEntry} (he : almEntry s s.arg.b = some e) (haudit : entAudit e = false)
    (hreconf : entReconf e = false) (hdue : frameDue s (keyCtx s.arg.b) (keyAlm s.arg.b) s.arg.c = true)
    (hidle : mfind s.walkers s.arg.b = none) (hslots : ∀ n ∈ primarySlots s s.arg.b e, armable s s.arg.b n = true)
    (hmet : meetBad s s.arg.b e = s)
    (htiles : ∀ u ∈ entryHomes s s.arg.b e, (s.tile u).loadBad = false ∧ (s.tile u).load = some e.load) :
    Leads .walkerArm s (Plans ((armBlock (armBlock s s.arg.b (entBlk e) (primarySlots s s.arg.b e)) s.arg.b (entDrb e)
      (drbSlots s s.arg.b e)).setWalker s.arg.b (armedWalker s s.arg.b s.arg.c e))) := by
  have hall : (primarySlots s s.arg.b e).all (armable s s.arg.b) = true := List.all_eq_true.mpr hslots
  have hheld : (entryHomes s s.arg.b e).all (fun t => !(s.tile t).loadBad && (s.tile t).load == some e.load) = true := by
    simpa using htiles
  refine ⟨_, rfl, ?_⟩
  simp only [he, hdue, hidle, hmet, hall, hheld, haudit, hreconf, Option.isSome_none, Bool.not_true,
    Bool.false_eq_true, if_false, Bool.and_true, Bool.or_false, if_true]
  have hlater {a b : State} {cycle rank f : Nat} {i : Instr} (h : Plans a b) : Plans a (planEntry b cycle rank i s.arg.b f e) :=
    h.trans (planEntry_plans _ _ _ _ _ _ _)
  refine hlater ?_
  split
  · exact hlater (hlater (hlater (hlater (hlater (.refl _)))))
  · exact hlater (hlater (hlater (.refl _)))

/-- An entry of the active Almanac that has not failed starts at S: its groups are cleared, and its primary's slots start. -/
theorem entryStart_starts {s : State} {e : AlmEntry} {w : Walker} (he : almEntry s s.arg.b = some e) (hw : mfind s.walkers s.arg.b = some w)
    (haudit : entAudit e = false) (hreconf : entReconf e = false) (hactive : (s.ctx (keyCtx s.arg.b)).active = some (keyAlm s.arg.b))
    (hs : w.s = s.mcnt) (hst : w.st ≠ .failed) :
    exec .entryStart s = .next ((primarySlots (clearGroups s s.arg.b e) s.arg.b e).foldl (startOwn s.arg.b w.s)
      ((clearGroups s s.arg.b e).setWalker s.arg.b { w with st := .run })) := by
  change execEntryStart s = _
  simp only [execEntryStart, he, hw, haudit, hreconf, hactive, hs, hst, ne_eq, not_true_eq_false, Bool.false_eq_true, or_self, if_false]
  rfl

/-- What is compared of an entry without twins changes no state (R237). -/
theorem sampleBlock_of_single {e : AlmEntry} (htwin : entTwin e = false) (s : State) (k : Nat) (w : Walker) (ns : List Nat) :
    ∃ w1, sampleBlock s k e w ns = (if blockOnTime s k ns then s else freezeBlock s (ownSlots s k ns), w1, blockOnTime s k ns) := by
  simp [sampleBlock, compareGroups, htwin]

/-- The primary of an entry without twins is on time if its block is, and is frozen if it is late. -/
theorem primarySample_judges {s : State} {e : AlmEntry} {w : Walker} (he : almEntry s s.arg.b = some e)
    (hw : mfind s.walkers s.arg.b = some w) (htwin : entTwin e = false) (hst : w.st = .run) (hd : w.d = s.mcnt + 160) :
    let ns := primarySlots s s.arg.b e
    ∃ w1 : Walker, exec .primarySample s
      = .next ((if blockOnTime s s.arg.b ns then s else freezeBlock s (ownSlots s s.arg.b ns)).setWalker s.arg.b
          { w1 with st := if blockOnTime s s.arg.b ns then .onTime else .late }) := by
  intro ns
  obtain ⟨w1, h1⟩ := sampleBlock_of_single htwin s s.arg.b w ns
  refine ⟨w1, ?_⟩
  change execPrimarySample s = _
  simp only [execPrimarySample, he, hw, hst, hd, h1, ns, ne_eq, not_true_eq_false, or_self, if_false]

/-- The dead-reckoning block of an entry without twins is judged so too; if it is late its record is written. -/
theorem drbSample_judges {s : State} {e : AlmEntry} {w : Walker} (he : almEntry s s.arg.b = some e)
    (hw : mfind s.walkers s.arg.b = some w) (htwin : entTwin e = false) (hst : w.st = .reserve) (hp : w.p = s.mcnt + 160) :
    let ns := drbSlots s s.arg.b e
    ∃ (u : State) (w1 : Walker), u.mem = s.mem ∧ exec .drbSample s = .next (u.setWalker s.arg.b
      { w1 with st := if blockOnTime s s.arg.b ns then .rOnTime else .rLate }) := by
  intro ns
  obtain ⟨w1, h1⟩ := sampleBlock_of_single htwin s s.arg.b w ns
  have hexec : exec .drbSample s = execDrbSample s := rfl
  rw [hexec]
  by_cases hon : blockOnTime s s.arg.b ns = true
  · refine ⟨s, w1, rfl, ?_⟩
    simp only [execDrbSample, he, hw, hst, hp, h1, ns, hon, ne_eq, not_true_eq_false, or_self, if_false, if_true]
  · obtain ⟨x, -, hx⟩ := raise_records (freezeBlock s (ownSlots s s.arg.b ns)) (dieOfTile (entryTile s s.arg.b e)) 0x085
      (.nobody (keyCtx s.arg.b) (entryTile s s.arg.b e)) s.mcnt (keyIx s.arg.b)
    refine ⟨_, w1, hx.mem.trans (freezeBlock_mem _ _), ?_⟩
    simp only [execDrbSample, he, hw, hst, hp, h1, ns, hon, ne_eq, not_true_eq_false, or_self, Bool.false_eq_true, if_false]

theorem entryDeadline_publishes {s : State} {e : AlmEntry} {w : Walker} (he : almEntry s s.arg.b = some e)
    (hw : mfind s.walkers s.arg.b = some w) (hd : w.d = s.mcnt) (hst : w.st = .onTime) :
    exec .entryDeadline s = .next (((ownSlots s s.arg.b (drbSlots s s.arg.b e)).foldl disarm
      (publish s s.arg.b (primarySlots s s.arg.b e))).dropWalker s.arg.b) := by
  change execEntryDeadline s = _
  simp only [execEntryDeadline, he, hw, hd, hst, ne_eq, not_true_eq_false, if_false, if_true]

/-- Where the primary is late or has failed and the dead-reckoning block could be armed, the entry goes into its reserve. -/
theorem entryDeadline_reserves {s : State} {e : AlmEntry} {w : Walker} (he : almEntry s s.arg.b = some e)
    (hw : mfind s.walkers s.arg.b = some w) (hd : w.d = s.mcnt) (hst : w.st = .late ∨ w.st = .failed) (hdrb : hasDrb e = true)
    (hok : w.drbOk = true) :
    let s1 := (discardBlock s (ownSlots s s.arg.b (primarySlots s s.arg.b e))).raise (dieOfTile (entryTile s s.arg.b e)) 0x084
      (.nobody (keyCtx s.arg.b) (entryTile s s.arg.b e)) s.mcnt (keyIx s.arg.b)
    exec .entryDeadline s = .next ((drbSlots s s.arg.b e).foldl (fun a n => startSlot a n w.d)
      ((clearGroups s1 s.arg.b e).setWalker s.arg.b { w with st := .reserve, seen := 0, bad := 0 })) := by
  have hno : w.st ≠ .onTime := by rcases hst with h | h <;> simp [h]
  change execEntryDeadline s = _
  simp only [execEntryDeadline, he, hw, hd, hst, hno, hdrb, hok, ne_eq, not_true_eq_false, Bool.not_true, Bool.false_eq_true, if_false, if_true]

theorem entryPublication_publishes {s : State} {e : AlmEntry} {w : Walker} (he : almEntry s s.arg.b = some e)
    (hw : mfind s.walkers s.arg.b = some w) (hp : w.p = s.mcnt) (hst : w.st = .rOnTime) :
    exec .entryPublication s = .next ((publish s s.arg.b (drbSlots s s.arg.b e)).dropWalker s.arg.b) := by
  change execEntryPublication s = _
  simp only [execEntryPublication, he, hw, hp, hst, ne_eq, not_true_eq_false, if_false, if_true]

/-! ## Signatures (R236, R237) -/

theorem assayEarlyCompare_folds {s : State} (hc : s.arg.c = 0) (ha : (s.assay s.arg.a s.arg.b).armed = false) :
    exec .assayEarlyCompare s = .next (s.setAssay s.arg.a s.arg.b { s.assay s.arg.a s.arg.b with
      sig := foldVec (s.assay s.arg.a s.arg.b).sig s.arg.v }) := by
  change execAssayEarlyCompare s = _
  simp only [execAssayEarlyCompare, hc, ha, Bool.false_eq_true, if_false]

theorem assayEarlyCompare_clears {s : State} (hc : s.arg.c = 1) :
    exec .assayEarlyCompare s = .next (s.setAssay s.arg.a s.arg.b Assay.reset) := by
  change execAssayEarlyCompare s = _
  simp only [execAssayEarlyCompare, hc]

/-- A group is armed; where the other copy's is too, their comparison is planned. -/
theorem assayEarlyCompare_arms {s : State} (hc : s.arg.c = 2) : Leads .assayEarlyCompare s
    (Plans (s.setAssay s.arg.a s.arg.b { s.assay s.arg.a s.arg.b with armed := true })) := by
  refine ⟨_, rfl, ?_⟩
  simp only [hc]
  refine Plans.foldl (fun b x => ?_) (.refl _) _
  split
  · exact (Plans.refl b).plan _ _ _
  · exact .refl b

theorem setAssay_assay_self (s : State) (t g : Nat) (a : Assay) : (s.setAssay t g a).assay t g = a := by
  simp [State.setAssay, State.assay]

/-! ## Waypoints (R233, R275) -/

/-- The decision of a waypoint for the one host packet that asks: the Almanac that it names is decided, its packet completes, and the
change is planned for the waypoint. -/
theorem waypointDecision_decides {s : State} {h : Nat × Word × Nat} (hheld : waypointHeld s s.arg.a s.arg.b = true)
    (hask : (s.ctx s.arg.a).hostCourse = [h]) (hloaded : (mfind (s.ctx s.arg.a).alms h.1).isSome = true)
    (hother : (s.ctx s.arg.a).active ≠ some h.1) (hup : alive s schedTiles ≠ []) :
    ∃ u, Replies (s.modCtx s.arg.a (fun y => { y with
        courses := y.courses.filter (fun r => decide (2900 * s.arg.b < r.at_ + 2900)), hostCourse := [], decided := some h.1 })) u
      ∧ exec .waypointDecision s = .next (u.planN (2900 * s.arg.b) rkStart .courseChangeApply s.arg.a s.arg.b) := by
  have hchosen : (mfind (s.ctx s.arg.a).alms h.1).isSome = true ∧ (s.ctx s.arg.a).active ≠ some h.1
      ∧ (!(alive s schedTiles).isEmpty) = true := ⟨hloaded, hother, by simpa using hup⟩
  have hexec : exec .waypointDecision s = execWaypointDecision s := rfl
  rw [hexec]
  simp only [execWaypointDecision, hheld, hask, List.getLast?_singleton, hchosen, Bool.not_true, Bool.false_eq_true, if_false, if_true,
    and_self, ne_eq, not_false_eq_true, List.foldl_cons, List.foldl_nil]
  refine ⟨_, ?_, rfl⟩
  refine (replies_completePacket _ _ _ _ _ _ _).trans (.of_plans (Plans.foldl (fun b p => ?_) (.refl _) _))
  split
  · exact planEntry_plans _ _ _ _ _ _ _
  · exact .refl b

/-- At a waypoint at which the level stays, the Almanac decided becomes the active one; its frames and its next waypoint are planned. -/
theorem courseChangeApply_changes {s : State} {a b : Nat} (hheld : waypointHeld s s.arg.a s.arg.b = true)
    (hlevel : ((applyPending s s.arg.a).ctx s.arg.a).newLevel = none) (hdec : ((applyPending s s.arg.a).ctx s.arg.a).decided = some b)
    (hactive : ((applyPending s s.arg.a).ctx s.arg.a).active = some a) :
    Leads .courseChangeApply s (Plans ((cancelArmed (applyPending s s.arg.a) s.arg.a a s.arg.b).modCtx s.arg.a
      (fun y => { y with active := some b, base := s.arg.b, decided := none }))) := by
  refine ⟨_, rfl, ?_⟩
  simp only [hheld, hlevel, hdec, hactive, Bool.not_true, Bool.false_eq_true, if_false]
  exact (planFrame_plans _ _ _ _ _).trans (planWaypoint_plans _ _ _)

/-- Settles O42: each clause reads the state that the lemma about its event gives. -/
theorem almanacsRun : Obligations.AlmanacsRun := by
  unfold Obligations.AlmanacsRun
  intro s c k alm at_
  refine ⟨fun hb hlevel hloaded hearly => ?kept, fun hb hkept => ?activated, fun b hactive hlevel hway hloaded =>
    courseChangePacket_asks hactive hlevel hway hloaded, fun hpass => ⟨fun hfree => ?level, fun hlevel hout hactive =>
    determinismLevelPacket_waits hpass hlevel hout hactive⟩,
    fun e he haudit hreconf hdue hidle hslots hmet htiles => ?armed,
    fun e w he hw => ⟨fun haudit hreconf hactive hs hst => ?started, fun htwin hst hd => ?sampled, fun htwin hst hp => ?drbSampled,
      fun hd hst hwf => ?published, fun hd hst hdrb hok => ?reserved, fun hp hst hc => ?drbPublished⟩,
    ⟨fun hc ha => assayEarlyCompare_folds hc ha, fun hc => assayEarlyCompare_clears hc, fun hc => ?assayArmed⟩,
    fun h hheld hask hloaded hother hup => ?decided, fun a b hheld hlevel hdec hactive => ?changed⟩
  case kept =>
    have hframe := planFrame_plans (s.modCtx c (fun y => { y with armReq := y.armReq ++ [(alm, at_)] })) c alm at_ (fun _ => true)
    have hplans := hframe.plan (2900 * at_) rkStart (.ev .armAlmanacPacket { s.arg with b := 1 })
    refine ⟨_, armAlmanacPacket_keeps hb hlevel hloaded hearly, ?_, hplans.mem, hplans.slots, (mem_plan _ _ _ _ _).mpr (.inl rfl)⟩
    refine (congrArg Ctx.armReq (hplans.ctx c)).trans ?_
    rw [modCtx_ctx_self]
  case activated =>
    obtain ⟨t, ht, hreply⟩ := armAlmanacPacket_activates hb hkept
    refine ⟨t, ht, ?_, ?_, ?_, hreply.slots⟩
    · rw [hreply.keeps Ctx.active (fun _ _ _ _ _ => rfl), modCtx_ctx_self]
    · rw [hreply.keeps Ctx.base (fun _ _ _ _ _ => rfl), modCtx_ctx_self]
    · rw [hreply.keeps Ctx.armReq (fun _ _ _ _ _ => rfl), modCtx_ctx_self]
      simp [alm, at_]
  case level =>
    obtain ⟨t, ht, hreply⟩ := determinismLevelPacket_changes hpass hfree
    refine ⟨t, ht, ?_, hreply.slots.trans (releaseRemaps_plans s c _).slots⟩
    rw [hreply.keeps Ctx.level (fun _ _ _ _ _ => rfl), modCtx_ctx_self]
  case armed =>
    obtain ⟨t, ht, hplans⟩ := walkerArm_arms he haudit hreconf hdue hidle hslots hmet htiles
    obtain ⟨l1, hl1⟩ := armBlock_rest s k (entBlk e) (primarySlots s k e)
    obtain ⟨l2, hl2⟩ := armBlock_rest (armBlock s k (entBlk e) (primarySlots s k e)) k (entDrb e) (drbSlots s k e)
    refine ⟨t, ht, hplans.mem.trans ?_, fun n hn => ?_, armedWalker s k s.arg.c e, ?_, rfl, rfl, rfl, rfl⟩
    · change (armBlock _ k _ _).mem = _
      rw [hl2, hl1]
    · rw [hplans.keeps (State.slot · n) fun _ => rfl]
      exact armBlock_armedFor _ (.inl (armBlock_armedFor _ (.inr ⟨hn, hslots n hn⟩)))
    · rw [hplans.walkers]
      exact setWalker_find _ _ _
  case started =>
    have hclear := clearGroups_assaysOnly s k e
    obtain ⟨hmem, hwalk⟩ := foldl_startOwn_keeps k w.s (primarySlots (clearGroups s k e) k e)
      ((clearGroups s k e).setWalker k { w with st := .run })
    refine ⟨_, entryStart_starts he hw haudit hreconf hactive hs hst, ?_, hmem.trans (congrArg State.mem hclear.rest :),
      fun n hn hentry harmed hpark => ?_⟩
    · rw [hwalk, setWalker_find]
      rfl
    · have hslot : (clearGroups s k e).slot n = s.slot n := (congrArg (State.slot · n) hclear.rest :)
      refine foldl_startOwn_started (hclear.primarySlots k e hn) ?_ hpark
      change ((clearGroups s k e).slot n).ArmedFor k
      rw [hslot]
      exact ⟨harmed, hentry⟩
  case sampled =>
    obtain ⟨w1, hexec⟩ := primarySample_judges he hw htwin hst hd
    refine ⟨_, hexec, ?_, ?_, fun hon => ?_⟩
    · change (if _ then s else _ : State).mem = s.mem
      split
      · rfl
      · exact freezeBlock_mem _ _
    · rw [setWalker_find]
      rfl
    · rw [if_pos hon]
      rfl
  case drbSampled =>
    obtain ⟨u, w1, hmem, hexec⟩ := drbSample_judges he hw htwin hst hp
    refine ⟨_, hexec, hmem, ?_⟩
    rw [setWalker_find]
    rfl
  case published =>
    have hdisarm := foldl_mem disarm_mem (ownSlots s k (drbSlots s k e)) (publish s k (primarySlots s k e))
    refine ⟨_, entryDeadline_publishes he hw hd hst, dropWalker_find _ _, fun hc => ?_, fun o d ho hdies => ?_⟩
    · exact hdisarm.trans (publish_of_no_objects hc _).mem
    · rw [← publish_flips hwf ho hdies (primarySlots s k e)]
      exact congrArg (fun m => BitVec.ofNat 32 (readNat m (objEntryPa s d (keyCtx k) o) 4)) hdisarm
  case reserved =>
    refine ⟨_, entryDeadline_reserves he hw hd hst hdrb hok, ?_⟩
    refine List.foldlRecOn _ _ (motive := fun t : State => (mfind t.walkers k).map (fun y => y.st) = some .reserve) ?_ fun t ht n _ => ?_
    · rw [setWalker_find]
      rfl
    · obtain ⟨-, hwalkers⟩ := startSlot_keeps t n w.d
      rwa [hwalkers]
  case drbPublished =>
    have hpub := publish_of_no_objects hc (drbSlots s k e)
    exact ⟨_, entryPublication_publishes he hw hp hst, dropWalker_find _ _, hpub.mem, hpub.slots⟩
  case assayArmed =>
    obtain ⟨t, ht, hplans⟩ := assayEarlyCompare_arms hc
    refine ⟨t, ht, ?_, hplans.mem, hplans.slots⟩
    rw [hplans.keeps (State.assay · s.arg.a s.arg.b) fun _ => rfl]
    exact setAssay_assay_self _ _ _ _
  case decided =>
    obtain ⟨u, hreply, hexec⟩ := waypointDecision_decides hheld hask hloaded hother hup
    refine ⟨_, hexec, ?_, ?_, hreply.slots, (mem_plan _ _ _ _ _).mpr (.inl rfl)⟩
    · change (u.ctx c).decided = _
      rw [hreply.keeps Ctx.decided (fun _ _ _ _ _ => rfl), modCtx_ctx_self]
    · change (u.ctx c).hostCourse = _
      rw [hreply.keeps Ctx.hostCourse (fun _ _ _ _ _ => rfl), modCtx_ctx_self]
  case changed =>
    obtain ⟨t, ht, hplans⟩ := courseChangeApply_changes hheld hlevel hdec hactive
    have hctx := hplans.ctx c
    rw [modCtx_ctx_self] at hctx
    exact ⟨t, ht, congrArg Ctx.active hctx, congrArg Ctx.base hctx, congrArg Ctx.decided hctx⟩

end Sys2Proof.Machine
end

section
/-! # Link beats and lane repair (R265, R344, R345, R347, R348) -/

namespace Sys2Proof

theorem mfind_mset_of_ne {α : Type} {k j : Nat} (h : j ≠ k) (m : Map α) (v : α) : mfind (mset m k v) j = mfind m j := by
  induction m with
  | nil => simp [mset, mfind, h.symm]
  | cons p r ih =>
    obtain ⟨i, w⟩ := p
    by_cases hlt : k < i
    · simp [mset, mfind, hlt, h.symm]
    · by_cases heq : i = k
      · simp [mset, mfind, heq, h.symm]
      · simp [mset, mfind, hlt, heq, ih]

theorem mfind_mdel_of_ne {α : Type} {k j : Nat} (h : j ≠ k) (m : Map α) : mfind (mdel m k) j = mfind m j := by
  induction m with
  | nil => rfl
  | cons p r ih =>
    obtain ⟨i, w⟩ := p
    change mfind (r.filter (fun p => p.1 != k)) j = mfind r j at ih
    by_cases heq : i = k
    · simp [mdel, mfind, heq, h.symm, ih]
    · simp [mdel, mfind, heq, ih]

end Sys2Proof

namespace Sys2Proof.Machine

theorem modLink_link (s : State) (l j : Nat) (f : Link → Link) :
    (s.modLink l f).link j = if j = l then f (s.link l) else s.link j := by
  simp [State.modLink, State.link]

/-! ## A beat is sent (R344, R345) -/

/-- A packet takes the first beat that its traffic owns on its next link, where that is up. -/
theorem sendBeat_takes {s : State} {id now c m : Nat} {p : Packet} {h : Hop} {rest : List Hop} (hp : mfind s.packets id = some p)
    (hhops : p.hops = h :: rest) (hup : (s.link h.link).down = false)
    (hfree : findBeat (s.link h.link) h.back p.kind p.ctx p.circ 8192 now = some (c, m)) :
    sendBeat s id now = (s.modLink h.link (fun k => { k with
        sent := keepBeats k.sent { back := h.back, cycle := c, module_ := m, pkt := id } })).planN (c + 40) rkArrive .linkBeatReceive id 1 := by
  simp [sendBeat, hp, hhops, hup, hfree]

/-- A packet that is ready at a link is sent over it. -/
theorem linkBeatReceive_sends {s : State} {p : Packet} (hp : mfind s.packets s.arg.a = some p) (hb : s.arg.b = 0) :
    exec .linkBeatReceive s = .next (sendBeat s s.arg.a s.mcnt) := by
  change execLinkBeatReceive s = _
  simp [execLinkBeatReceive, hp, hb]

/-! ## A beat is received (R347) -/

theorem linkBeatReceive_receives {s : State} {p : Packet} {h : Hop} {rest : List Hop} (hp : mfind s.packets s.arg.a = some p)
    (hhops : p.hops = h :: rest) (hb : s.arg.b = 1) :
    exec .linkBeatReceive s = .next (receiveBeat s s.arg.a p h (errorBits s.arg.bytes) (s.arg.i.map Int.toNat)) := by
  change execLinkBeatReceive s = _
  simp [execLinkBeatReceive, hp, hhops, hb]

/-- A beat without errors, on a link on which none is to be sent again, passes its packet on, and those that waited for it. -/
theorem receiveBeat_passes {s : State} {id : Nat} {p : Packet} {h : Hop} {err : BitVec 704}
    (hgood : checkBeat p (s.mcnt - 40) err = .good) (hretry : (s.link h.link).retry = []) :
    receiveBeat s id p h err [] = releaseWaiting (passOn (s.modLink h.link (fun k => { k with
      retry := k.retry.filter (fun i => i != id) })) id p) h.link p := by
  simp [receiveBeat, hgood, hretry, modLink_link]

/-- From `s` to `t` packets have gone on or have arrived: memory and slots are as before, what was planned still is, and no packet is on
its way that was not. -/
structure PacketsPass (s t : State) : Prop where
  mem : t.mem = s.mem
  slots : t.slots = s.slots
  agenda : s.agenda ⊆ t.agenda
  packets : ∀ id, mfind s.packets id = none → mfind t.packets id = none

theorem PacketsPass.trans {s t u : State} (h : PacketsPass s t) (g : PacketsPass t u) : PacketsPass s u :=
  ⟨g.mem.trans h.mem, g.slots.trans h.slots, List.Subset.trans h.agenda g.agenda, fun id hid => g.packets id (h.packets id hid)⟩

/-- A packet that has crossed its last link arrives with its token at the end of its path. -/
theorem passOn_delivers {p : Packet} {h : Hop} {i : Instr} {a : Arg} (hhops : p.hops = [h]) (hact : p.act = .ev i a) (s : State) (id : Nat) :
    passOn s id p = { s with packets := mdel s.packets id }.plan (s.mcnt + h.after + p.extra) p.rank (.ev i { a with tok := p.tok }) := by
  simp [passOn, hhops, hact]

/-- A packet on its way goes on. -/
theorem passOn_passes {s : State} {id : Nat} {p q : Packet} (hp : mfind s.packets id = some q) : PacketsPass s (passOn s id p) := by
  have hother {k : Nat} (hk : mfind s.packets k = none) : k ≠ id := by
    rintro rfl
    simp [hk] at hp
  unfold passOn
  split
  · exact ⟨rfl, rfl, List.Subset.refl _, fun _ hk => hk⟩
  · extract_lets act
    split
    · refine ⟨rfl, rfl, fun it hit => (mem_plan _ _ _ _ it).mpr (.inr hit), fun k hk => ?_⟩
      exact (mfind_mdel_of_ne (hother hk) _).trans hk
    · refine ⟨rfl, rfl, fun it hit => (mem_plan _ _ _ _ it).mpr (.inr hit), fun k hk => ?_⟩
      exact (mfind_mset_of_ne (hother hk) _ _).trans hk

theorem releaseWaiting_passes (s : State) (l : Nat) (p : Packet) : PacketsPass s (releaseWaiting s l p) := by
  unfold releaseWaiting
  extract_lets ids s1
  have h1 : PacketsPass s s1 := ⟨rfl, rfl, List.Subset.refl _, fun _ hk => hk⟩
  refine List.foldlRecOn ids _ h1 fun a ha i _ => ?_
  split
  case h_1 q hq => exact ha.trans (passOn_passes hq)
  case h_2 => exact ha

/-! ## A lane is repaired (R348) -/

theorem linkLaneRepair_moves {s : State} (hspare : mget 0 (s.link s.arg.a).fixed (s.arg.b / 64) < Config.spareLanes) :
    exec .linkLaneRepair s = .next ((s.modLink s.arg.a (fun k => { k with
        toFix := k.toFix.filter (fun x => x != s.arg.b), lanes := mdel k.lanes s.arg.b })).modLink s.arg.a (fun k => { k with
        fixed := mset k.fixed (s.arg.b / 64) (mget 0 (s.link s.arg.a).fixed (s.arg.b / 64) + 1), faulty := false })) := by
  change execLinkLaneRepair s = _
  simp only [execLinkLaneRepair, hspare, if_true]

theorem linkLaneRepair_drops {s : State} (hspare : Config.spareLanes ≤ mget 0 (s.link s.arg.a).fixed (s.arg.b / 64)) :
    exec .linkLaneRepair s = .next (dropLink (s.modLink s.arg.a (fun k => { k with
        toFix := k.toFix.filter (fun x => x != s.arg.b), lanes := mdel k.lanes s.arg.b })) s.arg.a) := by
  change execLinkLaneRepair s = _
  simp only [execLinkLaneRepair, Nat.not_lt.mpr hspare, if_false]

/-- Settles O30: a beat is sent, received, or its lane repaired, as the equation of its event says. -/
theorem linksCarry : Obligations.LinksCarry := by
  unfold Obligations.LinksCarry
  intro s
  refine ⟨fun p h rest c m hp hhops hup hfree => ?sent, fun p h i a hp hhops hact hb hlanes hgood hretry => ?received, ?repaired⟩
  case sent =>
    intro sent
    have hsent : sent (sendBeat s s.arg.a s.mcnt) := by
      rw [sendBeat_takes hp hhops hup hfree]
      refine ⟨?_, (mem_plan _ _ _ _ _).mpr (.inl rfl), rfl, rfl, rfl⟩
      rw [State.planN_eq, State.plan_link, modLink_link, if_pos rfl]
    exact ⟨fun hb => ⟨_, linkBeatReceive_sends hp hb, hsent⟩, _, rfl, hsent⟩
  case received =>
    have hexec := linkBeatReceive_receives hp hhops hb
    rw [hlanes, List.map_nil, receiveBeat_passes hgood hretry, passOn_delivers hhops hact] at hexec
    have hpass := releaseWaiting_passes ({ s.modLink h.link (fun k => { k with retry := k.retry.filter (fun i => i != s.arg.a) }) with
      packets := mdel s.packets s.arg.a }.plan (s.mcnt + h.after + p.extra) p.rank (.ev i { a with tok := p.tok })) h.link p
    exact ⟨_, hexec, hpass.packets _ (mfind_mdel_self _ _), hpass.mem, hpass.slots, hpass.agenda ((mem_plan _ _ _ _ _).mpr (.inl rfl))⟩
  case repaired =>
    intro k used moved
    refine ⟨fun hspare => ⟨_, linkLaneRepair_moves hspare, rfl, rfl, rfl, ?_, fun l hl => ?_⟩,
      fun hspare => ⟨_, linkLaneRepair_drops hspare, ?_⟩⟩
    · simp [modLink_link, moved, used, k]
    · simp [modLink_link, hl]
    · have howner (c : Nat) : crosses ((s.modLink s.arg.a (fun _ => moved)).link s.arg.a) c = crosses k c := by
        rw [modLink_link, if_pos rfl]
        rfl
      refine congrArg (List.foldl endContext _) (List.filter_congr fun c _ => ?_)
      exact congrArg ((s.ctx c).live && ·) (howner c)

end Sys2Proof.Machine
end

section
/-! # Load packets (R262, R305) -/

namespace Sys2Proof.Machine

/-! ## A load that passes its checks -/

theorem copyTable_writes (s : State) (c : Nat) : ∃ m, copyTable s c = { s with mem := m } := by
  unfold copyTable
  split
  · exact ⟨s.mem, rfl⟩
  · exact ⟨_, rfl⟩

theorem planReconf_plans (s : State) (c n : Nat) (l : BitVec 10) : Plans s (planReconf s c n l) := by
  unfold planReconf
  split
  · exact (Plans.refl s).plan _ _ _
  · exact .refl s

/-- What the loader writes of a context as it takes a load with the logical tiles `ls`; `id` is the number of a new graph (R190, R262). -/
def Ctx.taking (id n : Nat) (i : Config.Image) (ld : Config.LoadImg) (ls : List (BitVec 10)) (x : Ctx) : Ctx :=
  { x with
    image := some i, graph := if x.image = some i then x.graph else id, report := none
    resident := some n, csets := i.csets, alms := almanacsOf i, energy := ld.energy, toLoad := ls }

/-- The logical tiles of a load, of those that are placed. -/
def tilesOfLoad (ld : Config.LoadImg) (ps : List (BitVec 10 × Nat)) : List (BitVec 10 × Nat) :=
  ps.filter (fun p => ld.tiles.any (fun t => t.lt == p.1))

theorem beginLoad_eq (s : State) (c n : Nat) (i : Config.Image) (ld : Config.LoadImg) (ps : List (BitVec 10 × Nat)) :
    beginLoad s c n i ld ps = (tilesOfLoad ld ps).foldl (fun a p => planReconf a c n p.1)
      ((writeRemap (copyTable s.fresh.2 c) c n ps).modCtx c (Ctx.taking s.nextId n i ld ((tilesOfLoad ld ps).map Prod.fst))) := rfl

theorem beginLoad_plans (s : State) (c n : Nat) (i : Config.Image) (ld : Config.LoadImg) (ps : List (BitVec 10 × Nat)) :
    Plans ((writeRemap (copyTable s.fresh.2 c) c n ps).modCtx c (Ctx.taking s.nextId n i ld ((tilesOfLoad ld ps).map Prod.fst)))
      (beginLoad s c n i ld ps) := by
  rw [beginLoad_eq]
  refine Plans.foldl (fun a p => ?_) (.refl _) _
  exact planReconf_plans _ _ _ _

theorem beginLoad_ctx (s : State) (c n : Nat) (i : Config.Image) (ld : Config.LoadImg) (ps : List (BitVec 10 × Nat)) :
    (beginLoad s c n i ld ps).ctx c = Ctx.taking s.nextId n i ld ((tilesOfLoad ld ps).map Prod.fst) (s.ctx c) := by
  obtain ⟨m, hm⟩ := copyTable_writes s.fresh.2 c
  rw [(beginLoad_plans s c n i ld ps).ctx, modCtx_ctx_self, hm]
  rfl

theorem beginLoad_slots (s : State) (c n : Nat) (i : Config.Image) (ld : Config.LoadImg) (ps : List (BitVec 10 × Nat)) :
    (beginLoad s c n i ld ps).slots = s.slots := by
  obtain ⟨m, hm⟩ := copyTable_writes s.fresh.2 c
  rw [(beginLoad_plans s c n i ld ps).slots, hm]
  rfl

/-! ## A load that is refused -/

theorem fireMsix_tiles (s : State) (fn v : Nat) : (fireMsix s fn v).tiles = s.tiles := rfl
theorem write_tiles (s : State) (a v n : Nat) : (s.write a v n).tiles = s.tiles := rfl

theorem completePacket_tiles (s : State) (c : Nat) (w0 : Word) (kern abnd status cause : Nat) :
    (completePacket s c w0 kern abnd status cause).tiles = s.tiles := by
  unfold completePacket
  extract_lets x s1 n s2
  have h1 : s1.tiles = s.tiles := State.setCtx_tiles _ _ _
  have h2 : s2.tiles = s.tiles := (write_tiles _ _ _ _).trans h1
  split
  · rw [fireMsix_tiles, State.modCtx_eq, State.setCtx_tiles, h2]
  · exact h1

theorem completeBarrier_tiles (s : State) (c status cause : Nat) : (completeBarrier s c status cause).tiles = s.tiles := by
  unfold completeBarrier
  split
  · exact completePacket_tiles _ _ _ _ _ _ _
  · rfl

theorem refuseLoad_replies (s : State) (c : Nat) (r : Option Config.Report) :
    Replies (s.modCtx c (fun x => { x with report := r })) (refuseLoad s c r) := replies_completeBarrier _ _ _ _

/-! ## The packet -/

section
variable {s : State} {i : Config.Image} {ld : Config.LoadImg}

theorem loadGraphPacket_begins {k : Loading}
    (himg : (imageBytes s s.arg.a (lane s.arg.v 1).toNat (lane s.arg.v 2).toNat).bind Config.readImage = some i)
    (hld : mfind i.loads ((lane s.arg.v 3).toNat % 256) = some ld)
    (hk : loadingOf s s.arg.a ((lane s.arg.v 3).toNat % 256) (s.ctx s.arg.a).level i ld = some k) (hpass : k.reports = [])
    (htiles : ld.tiles ≠ []) :
    exec .loadGraphPacket s = .next (beginLoad s s.arg.a ((lane s.arg.v 3).toNat % 256) i ld k.place) := by
  have hfirst : firstReport s s.arg.a ((lane s.arg.v 3).toNat % 256) (s.ctx s.arg.a).level i ld = none := by
    simp [firstReport, hk, hpass]
  change execLoadGraphPacket s = _
  simp [execLoadGraphPacket, himg, hld, hfirst, hk, htiles]

theorem loadGraphPacket_refuses {r : Config.Report}
    (himg : (imageBytes s s.arg.a (lane s.arg.v 1).toNat (lane s.arg.v 2).toNat).bind Config.readImage = some i)
    (hld : mfind i.loads ((lane s.arg.v 3).toNat % 256) = some ld)
    (hr : firstReport s s.arg.a ((lane s.arg.v 3).toNat % 256) (s.ctx s.arg.a).level i ld = some r) :
    exec .loadGraphPacket s = .next (refuseLoad s s.arg.a (some r)) := by
  change execLoadGraphPacket s = _
  simp [execLoadGraphPacket, himg, hld, hr]

end

end Sys2Proof.Machine
end

section
/-! # Tiles are configured (R262, R263, R282) -/

namespace Sys2Proof

/-- What a change of every entry of a map does not change is read as before. -/
theorem mget_map_reads {α β : Type} (h : α → β) {g : Nat × α → α} (hg : ∀ p, h (g p) = h p.2) (d : α) (m : Map α) (k : Nat) :
    h (mget d (m.map (fun p => (p.1, g p))) k) = h (mget d m k) := by
  induction m with
  | nil => rfl
  | cons p r ih =>
    by_cases hk : p.1 = k
    · simp [mget, hk, hg]
    · simp [mget, hk, ih]

end Sys2Proof

namespace Sys2Proof.Machine

/-- A pass whose steps keep what is read of a state keeps it. -/
theorem foldl_reads_of_mem {α β : Type} (g : State → α) {f : State → β → State} {l : List β} (hf : ∀ a, ∀ b ∈ l, g (f a b) = g a)
    (s : State) : g (l.foldl f s) = g s :=
  List.foldlRecOn l f (motive := fun a => g a = g s) rfl fun a ha b hb => (hf a b hb).trans ha

theorem foldl_reads {α β : Type} (g : State → α) {f : State → β → State} (hf : ∀ a b, g (f a b) = g a) (l : List β) (s : State) :
    g (l.foldl f s) = g s :=
  foldl_reads_of_mem g (fun a b _ => hf a b) s

theorem ite_reads {α : Type} (g : State → α) {c : Prop} [Decidable c] {a b s : State} (ha : g a = g s) (hb : g b = g s) :
    g (if c then a else b) = g s := by
  split
  · exact ha
  · exact hb

/-! ## What a tile holds -/

/-- The context, the logical tile and the load of a tile. -/
def Tile.holding (x : Tile) : Option Nat × BitVec 10 × Option Nat := (x.ctx, x.ltid, x.load)

/-- The contexts, and what tile t holds: what the writing of its words leaves alone. -/
def heldOn (t : Nat) (s : State) : Map Ctx × (Option Nat × BitVec 10 × Option Nat) := (s.ctxs, (s.tile t).holding)

section
variable (t : Nat) (s : State) (k : Nat)

@[simp] theorem heldOn_setSlot (x : Slot) : heldOn t (s.setSlot k x) = heldOn t s := rfl
@[simp] theorem heldOn_setElem (x : Elem) : heldOn t (s.setElem k x) = heldOn t s := rfl
@[simp] theorem heldOn_setSport (x : SPort) : heldOn t (s.setSport k x) = heldOn t s := rfl
@[simp] theorem heldOn_setNode (x : MNode) : heldOn t (s.setNode k x) = heldOn t s := rfl
@[simp] theorem heldOn_setLode (x : LNode) : heldOn t (s.setLode k x) = heldOn t s := rfl
@[simp] theorem heldOn_modPort (f : CfgPort → CfgPort) : heldOn t (s.modPort k f) = heldOn t s := rfl
theorem heldOn_write (a v n : Nat) : heldOn t (s.write a v n) = heldOn t s := rfl
@[simp] theorem heldOn_setTile {x : Tile} (hx : x.holding = (s.tile t).holding) : heldOn t (s.setTile t x) = heldOn t s := by
  simp [heldOn, hx]

end

theorem mendWord_heldOn (s : State) (t : Nat) (p : CfgPart) (ix : Nat) : heldOn t (s.mendWord t p ix) = heldOn t s := by
  unfold State.mendWord
  split
  · rfl
  · exact heldOn_setTile t s rfl

/-- A configuration word says nothing of what its tile holds (R396). -/
theorem cfgWrite_heldOn (s : State) (t : Nat) (loc : CfgLoc) (w : Word) : heldOn t (cfgWrite s t loc w) = heldOn t s := by
  unfold cfgWrite
  extract_lets s1 ve w1
  have h1 : heldOn t s1 = heldOn t s := by
    unfold s1
    split
    · exact mendWord_heldOn _ _ _ _
    · rfl
  rw [← h1]
  clear_value s1
  cases loc with
  | tmap | tmpl | bar | ctr => exact heldOn_setTile t s1 rfl
  | switch v port _ => cases port <;> simp
  | stage v n =>
    match n with
    | 6 => exact foldl_reads (heldOn t) (fun a k => by simp) _ s1
    | 0 | 1 | 2 | 3 | 4 | 5 | _ + 7 => simp
  | iwin n k h => cases h <;> simp [apply_ite (heldOn t)]
  | seed h => cases h <;> simp
  | imem | bind | const | mtab | desc | rec_ | nbr | colour | window | tid | preload | lkey | topo | vreg | sreg | cap => simp

theorem couple_heldOn (t : Nat) (s : State) (v : Nat) : heldOn t (couple s v) = heldOn t s := heldOn_setElem _ _ _ _

theorem loadSlot_heldOn (s : State) (t : Nat) (g : Config.SlotImg) : heldOn t (loadSlot s t g) = heldOn t s := heldOn_setSlot _ _ _ _

/-! ## A tile is configured whole (R262) -/

theorem seedTile_heldOn (s : State) (t : Nat) (fresh : Bool) : heldOn t (seedTile s t fresh) = heldOn t s := by
  unfold seedTile
  extract_lets p g s1
  have h1 : heldOn t s1 = heldOn t s :=
    foldl_reads (heldOn t) (fun a n => ite_reads (heldOn t) rfl (heldOn_setSlot _ _ _ _)) _ s
  exact ite_reads (heldOn t) ((heldOn_setLode _ _ _ _).trans h1) h1

theorem fillObject_heldOn (s : State) (t c obj : Nat) : heldOn t (fillObject s t c obj) = heldOn t s := heldOn_setTile _ _ rfl

theorem preloadTile_heldOn (s : State) (t c : Nat) : heldOn t (preloadTile s t c) = heldOn t s :=
  foldl_reads (heldOn t) (fun a _ => ite_reads (heldOn t) (fillObject_heldOn a t c _) rfl) _ s

theorem sealTile_heldOn (s : State) (t : Nat) (fresh : Bool) : heldOn t (sealTile s t fresh) = heldOn t s := by
  unfold sealTile
  extract_lets s1 c
  have h1 : heldOn t s1 = heldOn t s :=
    (foldl_reads (heldOn t) (fun a k => couple_heldOn t a _) _ _).trans (seedTile_heldOn s t fresh)
  exact ite_reads (heldOn t) ((preloadTile_heldOn _ _ _).trans h1) h1

theorem modPort_ctxs (s : State) (t : Nat) (f : CfgPort → CfgPort) : (s.modPort t f).ctxs = s.ctxs := rfl

theorem emptyTile_ctxs (s : State) (t : Nat) : (emptyTile s t).ctxs = s.ctxs := rfl

theorem clearTile_ctxs (s : State) (t : Nat) : (clearTile s t).ctxs = s.ctxs := by
  unfold clearTile
  extract_lets s1 s2 s3 s4
  have h1 : s1.ctxs = s.ctxs := foldl_reads State.ctxs (fun a v => State.setElem_ctxs _ _ _) _ s
  have h2 : s2.ctxs = s1.ctxs := foldl_reads State.ctxs (fun a n => State.setSlot_ctxs _ _ _) _ s1
  have h3 : s3.ctxs = s2.ctxs := foldl_reads State.ctxs (fun a k => State.setSport_ctxs _ _ _) _ s2
  have h4 : s4.ctxs = s3.ctxs := State.setTile_ctxs _ _ _
  rw [modPort_ctxs, State.setLode_ctxs, State.modNode_eq, State.setNode_ctxs, h4, h3, h2, h1]

/-- A configured tile holds its logical tile of the load for the context, and no context has changed. -/
theorem loadTile_heldOn (s : State) (t : Nat) (ctx graph : Option Nat) (seed : BitVec 64) (n : Nat) (keep : Bool) (g : Config.TileImg)
    (words : Map Word) : heldOn t (loadTile s t ctx graph seed n keep g words) = (s.ctxs, ctx, g.lt, some n) := by
  unfold loadTile
  extract_lets first lode keepAcc s0 node s1 s2 s3 s4
  have h0 : s0.ctxs = s.ctxs := (emptyTile_ctxs _ t).trans (clearTile_ctxs s t)
  have h1 : s1.ctxs = s.ctxs := by
    simp only [s1, State.setNode_ctxs, apply_ite State.ctxs, State.setLode_ctxs, ite_self, h0]
  have h2 : heldOn t s2 = (s1.ctxs, ctx, g.lt, some n) := by
    simp only [s2, heldOn, Tile.holding, State.modTile_eq, State.setTile_ctxs, State.setTile_tile, if_true]
  have h3 : heldOn t s3 = heldOn t s2 := by
    refine foldl_reads (heldOn t) (fun a p => ?_) words s2
    split
    · exact cfgWrite_heldOn _ _ _ _
    · rfl
  have h4 : heldOn t s4 = heldOn t s3 := foldl_reads (heldOn t) (fun a x => loadSlot_heldOn a t x) _ _
  rw [heldOn_modPort, sealTile_heldOn, heldOn_modPort, h4, h3, h2, h1]

theorem writeReplicas_heldOn (s : State) (c t k : Nat) (g : Config.TileImg) : heldOn k (writeReplicas s c t g) = heldOn k s := by
  unfold writeReplicas
  split
  · rfl
  · refine foldl_reads (heldOn k) (fun a i => ?_) _ s
    exact ite_reads (heldOn k) rfl rfl

theorem dropObjects_heldOn (s : State) (c t k : Nat) (off : BitVec 8) : heldOn k (dropObjects s c t off) = heldOn k s :=
  foldl_reads (heldOn k) (fun a _ => foldl_reads (heldOn k) (fun _ _ => ite_reads (heldOn k) (heldOn_write _ _ _ _ _) rfl) _ a) _ s

theorem refreshCaches_heldOn (s : State) (c k : Nat) : heldOn k (refreshCaches s c) = heldOn k s := by
  refine Prod.ext rfl ?_
  refine mget_map_reads Tile.holding (fun p => ?_) Tile.reset s.tiles k
  rfl

theorem applyFuses_heldOn (s : State) (c t : Nat) : heldOn t (applyFuses s c t) = heldOn t s := by
  unfold applyFuses
  refine ite_reads (heldOn t) rfl ?_
  rw [refreshCaches_heldOn, dropObjects_heldOn]
  exact heldOn_setTile _ _ rfl

/-! ## A tile is configured in part (R263) -/

/-- Memory, and the elements beside those that `vs` names on tile t: what the configuration of those leaves alone. -/
def besides (t : Nat) (vs : List Nat) (s : State) : List Host.Cell × (Nat → Elem) :=
  (s.mem, fun v => if ∃ k ∈ vs, v = 8 * t + k then Elem.reset else s.elem v)

section
variable (t : Nat) (vs : List Nat) (s : State) (k : Nat)

@[simp] theorem besides_setSlot (x : Slot) : besides t vs (s.setSlot k x) = besides t vs s := rfl
@[simp] theorem besides_setTile (x : Tile) : besides t vs (s.setTile k x) = besides t vs s := rfl

end

theorem besides_setElem {vs : List Nat} {k : Nat} (hk : k ∈ vs) (t : Nat) (s : State) (x : Elem) :
    besides t vs (s.setElem (8 * t + k) x) = besides t vs s := by
  refine Prod.ext rfl (funext fun v => ?_)
  by_cases hv : ∃ j ∈ vs, v = 8 * t + j
  · simp [besides, hv]
  · have hne : v ≠ 8 * t + k := fun h => hv ⟨k, hk, h⟩
    simp [besides, hne]

theorem elem_of_besides {t v : Nat} {vs : List Nat} {s u : State} (h : besides t vs u = besides t vs s)
    (hv : ∀ k ∈ vs, v ≠ 8 * t + k) : u.elem v = s.elem v := by
  have hno : ¬∃ k ∈ vs, v = 8 * t + k := fun ⟨k, hk, he⟩ => hv k hk he
  have helem := congrFun (congrArg Prod.snd h) v
  simpa [besides, hno] using helem

/-- The words that a partial reconfiguration rewrites are those of the named elements, and maps. -/
theorem cfgWrite_besides {vs : List Nat} {a : Nat} {loc : CfgLoc} (hpart : partWord vs a = true) (hloc : cfgLoc a = some loc)
    (s : State) (t : Nat) (w : Word) : besides t vs (cfgWrite s t loc w) = besides t vs s := by
  unfold cfgWrite
  extract_lets s1 ve w1
  have h1 : besides t vs s1 = besides t vs s := by
    unfold s1
    split
    · unfold State.mendWord
      split <;> rfl
    · rfl
  rw [← h1]
  clear_value s1
  simp only [partWord, hloc] at hpart
  cases loc with
  | tmap => rfl
  | bind v k => exact (besides_setSlot _ _ _ _ _).trans (besides_setElem (List.contains_iff_mem.mp hpart) _ _ _)
  | switch v port _ => cases port <;> exact besides_setElem (List.contains_iff_mem.mp hpart) _ _ _
  | stage v n =>
    match n with
    | 6 => exact foldl_reads (besides t vs) (fun a k => by simp) _ s1
    | 0 | 1 | 4 | 5 => exact besides_setElem (List.contains_iff_mem.mp hpart) _ _ _
    | 2 | 3 | _ + 7 => rfl
  | _ => exact absurd hpart Bool.false_ne_true

theorem loadSlot_besides (s : State) (t u : Nat) (vs : List Nat) (g : Config.SlotImg) : besides u vs (loadSlot s t g) = besides u vs s :=
  besides_setSlot _ _ _ _ _

section
variable (s : State) (t n : Nat) (g : Config.TileImg) (words : Map Word) (vs : List Nat)

theorem patchTile_besides : besides t vs (patchTile s t n g words vs) = besides t vs s := by
  unfold patchTile
  extract_lets s1 s2
  have h1 : besides t vs s1 = besides t vs s := by
    refine foldl_reads_of_mem (besides t vs) (fun a p hp => ?_) s
    split
    · exact cfgWrite_besides (List.mem_filter.mp hp).2 ‹_› _ _ _
    · rfl
  have h2 : besides t vs s2 = besides t vs s1 := by
    refine foldl_reads (besides t vs) (fun a x => ?_) _ s1
    extract_lets m a1
    have ha1 : besides t vs a1 = besides t vs a := loadSlot_besides _ _ _ _ _
    exact ite_reads (besides t vs) ((besides_setSlot _ _ _ _ _).trans ha1) ha1
  have h3 : besides t vs (vs.foldl (fun a v => couple a (8 * t + v)) s2) = besides t vs s2 :=
    foldl_reads_of_mem (besides t vs) (fun a v hv => besides_setElem hv _ _ _) s2
  rw [State.modTile_eq, besides_setTile, h3, h2, h1]

/-- The tile holds the load, and no context has changed. -/
theorem patchTile_load : (patchTile s t n g words vs).ctxs = s.ctxs ∧ ((patchTile s t n g words vs).tile t).load = some n := by
  unfold patchTile
  extract_lets s1 s2
  have h1 : heldOn t s1 = heldOn t s := by
    refine foldl_reads (heldOn t) (fun a p => ?_) _ s
    split
    · exact cfgWrite_heldOn _ _ _ _
    · rfl
  have h2 : heldOn t s2 = heldOn t s1 := by
    refine foldl_reads (heldOn t) (fun a x => ?_) _ s1
    extract_lets m a1
    have ha1 : heldOn t a1 = heldOn t a := loadSlot_heldOn _ _ _
    exact ite_reads (heldOn t) ((heldOn_setSlot _ _ _ _).trans ha1) ha1
  have h3 : heldOn t (vs.foldl (fun a v => couple a (8 * t + v)) s2) = heldOn t s2 :=
    foldl_reads (heldOn t) (fun a v => couple_heldOn t a _) vs s2
  have hctxs : (vs.foldl (fun a v => couple a (8 * t + v)) s2).ctxs = s.ctxs := congrArg Prod.fst (h3.trans (h2.trans h1))
  refine ⟨?_, ?_⟩
  · rw [State.modTile_eq, State.setTile_ctxs, hctxs]
  · rw [State.modTile_eq, State.setTile_tile, if_pos rfl]

end

/-! ## The reconfiguration token (R188, R263) -/

/-- At level T, and without a table that runs, the node keeps its commands. -/
theorem dropTable_idle {s : State} {t : Nat} (h : s.levelOf t = .t ∨ (s.mnode t).counter = none) : dropTable s t = s := by
  have hidle : s.levelOf t = .t ∨ (s.mnode t).counter.isNone = true := h.imp_right Option.isNone_iff_eq_none.mpr
  exact if_pos hidle

theorem counter_of_tileDrained {s : State} {t : Nat} (h : tileDrained s t = true) : (s.mnode t).counter = none := by
  simp only [tileDrained, Bool.and_eq_true, Option.isNone_iff_eq_none] at h
  obtain ⟨⟨-, hcounter⟩, -⟩ := h
  exact hcounter

/-- The load's image of the logical tile names the elements of a partial reconfiguration. -/
theorem tileImage_of_namedElems {s : State} {c n t : Nat} {l : BitVec 10} {vs : List Nat} (h : namedElems s c n t l = some vs) :
    ∃ i ld g, tileImage s c n l = some (i, ld, g) := by
  unfold namedElems at h
  split at h
  · obtain ⟨⟨i, ld, g⟩, himage, -⟩ := Option.bind_eq_some_iff.mp h
    exact ⟨i, ld, g, himage⟩
  · exact absurd h nofun

/-- A tile configured for a logical tile of a load of the context, as far as the context's image holds it. -/
def configured (s : State) (c n t : Nat) (l : BitVec 10) : State :=
  match tileImage s c n l with
  | some (i, ld, g) => applyFuses (writeReplicas (loadTile s t (some c) (some (s.ctx c).graph) i.seed n ld.keepMx g
      ((loadingNow s c n i ld).completed g)) c t g) c t
  | none => s

theorem configured_heldOn {s : State} {c n t : Nat} {l : BitVec 10} {i : Config.Image} {ld : Config.LoadImg} {g : Config.TileImg}
    (h : tileImage s c n l = some (i, ld, g)) : heldOn t (configured s c n t l) = (s.ctxs, some c, g.lt, some n) := by
  simp only [configured, h, applyFuses_heldOn, writeReplicas_heldOn, loadTile_heldOn]

theorem configured_ctxs (s : State) (c n t : Nat) (l : BitVec 10) : (configured s c n t l).ctxs = s.ctxs := by
  rcases h : tileImage s c n l with _ | ⟨i, ld, g⟩
  · simp only [configured, h]
  · exact congrArg Prod.fst (configured_heldOn h)

/-- The context has logical tile l no longer to load. -/
def tileLoaded (s : State) (c : Nat) (l : BitVec 10) : State := s.modCtx c (fun x => { x with toLoad := x.toLoad.filter (fun y => y != l) })

theorem tileLoaded_toLoad {s u : State} (h : u.ctxs = s.ctxs) (c : Nat) (l : BitVec 10) :
    ((tileLoaded u c l).ctx c).toLoad = (s.ctx c).toLoad.filter (fun m => m != l) := by
  have hctx : u.ctx c = s.ctx c := congrArg (fun m => mget Ctx.reset m c) h
  rw [tileLoaded, modCtx_ctx_self, hctx]

/-- While the context has another logical tile to load, its load goes on. -/
theorem tileLoaded_more {s u : State} {c : Nat} {l : BitVec 10} (h : u.ctxs = s.ctxs) (hmore : ∃ m, m ∈ (s.ctx c).toLoad ∧ m ≠ l) :
    ((tileLoaded u c l).ctx c).toLoad.isEmpty = false := by
  obtain ⟨m, hm, hne⟩ := hmore
  rw [tileLoaded_toLoad h, List.isEmpty_eq_false_iff_exists_mem]
  exact ⟨m, List.mem_filter.mpr ⟨hm, by simpa using hne⟩⟩

section
variable {s : State} (hload : (s.ctx s.arg.b).toLoad.contains (BitVec.ofNat 10 s.arg.c) = true)
  (hown : ownedBeside s s.arg.b s.arg.a = false) (hplace : placeIx s s.arg.a 0 = none)
include hload hown hplace

/-- On a tile that is not sliced, named elements that are not drained are looked at again in the next cycle. -/
theorem reconfigurationTokenPass_waits_part {vs : List Nat}
    (hnamed : namedElems s s.arg.b s.arg.d s.arg.a (BitVec.ofNat 10 s.arg.c) = some vs) (hdrained : partDrained s s.arg.a vs = false) :
    exec .reconfigurationTokenPass s
      = .next ((flushTile s s.arg.a).planEv (s.mcnt + 1) rkArrive .reconfigurationTokenPass s.arg) := by
  change execReconfigurationTokenPass s = _
  simp only [execReconfigurationTokenPass, hload, hown, outgoing, hplace, hnamed, hdrained, Option.isSome_none, Option.bind_some,
    Option.map_some, Option.getD_some, Bool.not_true, Bool.not_false, Bool.false_eq_true, or_self, if_false, if_true]

/-- So is a whole tile. -/
theorem reconfigurationTokenPass_waits (hnamed : namedElems s s.arg.b s.arg.d s.arg.a (BitVec.ofNat 10 s.arg.c) = none)
    (hdrained : tileDrained s s.arg.a = false) (hidle : s.levelOf s.arg.a = .t ∨ (s.mnode s.arg.a).counter = none) :
    exec .reconfigurationTokenPass s
      = .next ((flushTile s s.arg.a).planEv (s.mcnt + 1) rkArrive .reconfigurationTokenPass s.arg) := by
  change execReconfigurationTokenPass s = _
  simp only [execReconfigurationTokenPass, hload, hown, outgoing, hplace, hnamed, dropTable_idle hidle, hdrained, Option.isSome_none,
    Option.bind_some, Option.map_some, Option.getD_some, Bool.not_true, Bool.not_false, Bool.false_eq_true, or_self, if_false, if_true]

/-- Named elements that are drained are rewritten. -/
theorem reconfigurationTokenPass_patches {vs : List Nat}
    (hnamed : namedElems s s.arg.b s.arg.d s.arg.a (BitVec.ofNat 10 s.arg.c) = some vs) (hdrained : partDrained s s.arg.a vs = true)
    (hmore : ∃ m, m ∈ (s.ctx s.arg.b).toLoad ∧ m ≠ BitVec.ofNat 10 s.arg.c) :
    ∃ g words, exec .reconfigurationTokenPass s
      = .next (tileLoaded (patchTile s s.arg.a s.arg.d g words vs) s.arg.b (BitVec.ofNat 10 s.arg.c)) := by
  obtain ⟨i, ld, g, himage⟩ := tileImage_of_namedElems hnamed
  refine ⟨g, (loadingNow s s.arg.b s.arg.d i ld).completed g, ?_⟩
  have hgoes := tileLoaded_more (patchTile_load s s.arg.a s.arg.d g ((loadingNow s s.arg.b s.arg.d i ld).completed g) vs).1 hmore
  rw [tileLoaded] at hgoes ⊢
  change execReconfigurationTokenPass s = _
  simp only [execReconfigurationTokenPass, hload, hown, outgoing, hplace, hnamed, hdrained, himage, hgoes, Option.isSome_none,
    Option.bind_some, Bool.not_true, Bool.false_eq_true, or_self, if_false]

/-- A whole tile that is drained is configured. -/
theorem reconfigurationTokenPass_configures (hnamed : namedElems s s.arg.b s.arg.d s.arg.a (BitVec.ofNat 10 s.arg.c) = none)
    (hdrained : tileDrained s s.arg.a = true) (hmore : ∃ m, m ∈ (s.ctx s.arg.b).toLoad ∧ m ≠ BitVec.ofNat 10 s.arg.c) :
    exec .reconfigurationTokenPass s = .next (tileLoaded (configured s s.arg.b s.arg.d s.arg.a (BitVec.ofNat 10 s.arg.c)) s.arg.b
      (BitVec.ofNat 10 s.arg.c)) := by
  have hgoes := tileLoaded_more (configured_ctxs s s.arg.b s.arg.d s.arg.a (BitVec.ofNat 10 s.arg.c)) hmore
  have htable := dropTable_idle (s := s) (.inr (counter_of_tileDrained hdrained))
  rw [tileLoaded] at hgoes ⊢
  change execReconfigurationTokenPass s = _
  rcases himage : tileImage s s.arg.b s.arg.d (BitVec.ofNat 10 s.arg.c) with _ | ⟨i, ld, g⟩ <;>
  · simp only [configured, himage] at hgoes ⊢
    simp only [execReconfigurationTokenPass, hload, hown, outgoing, hplace, hnamed, htable, hdrained, himage, hgoes, Option.isSome_none,
      Option.bind_some, Bool.not_true, Bool.false_eq_true, or_self, if_false]

end

end Sys2Proof.Machine
end

section
/-! # Quanta (R264, R278, R279) -/

namespace Sys2Proof

theorem mget_eq_getD {α : Type} (d : α) (m : Map α) (k : Nat) : mget d m k = (mfind m k).getD d := by
  induction m with
  | nil => rfl
  | cons p r ih =>
    by_cases hp : p.1 = k
    · simp [mget, mfind, hp]
    · simp [mget, mfind, hp, ih]

theorem mget_mdel {α : Type} (d : α) (m : Map α) (k j : Nat) : mget d (mdel m k) j = if j = k then d else mget d m j := by
  rw [mget_eq_getD, mget_eq_getD]
  split
  case isTrue h => rw [h, mfind_mdel_self, Option.getD_none]
  case isFalse h => rw [mfind_mdel_of_ne h]

theorem mget_of_not_mem {α : Type} (d : α) {m : Map α} {k : Nat} (h : k ∉ m.map Prod.fst) : mget d m k = d := by
  induction m with
  | nil => rfl
  | cons p r ih =>
    rw [List.map_cons, List.mem_cons, not_or] at h
    obtain ⟨hp, hr⟩ := h
    simp [mget, Ne.symm hp, ih hr]

end Sys2Proof

namespace Sys2Proof.Machine

/-! ## A logical tile leaves its tile (R278) -/

theorem parkedTile_ne (t : Nat) (l : BitVec 10) : parkedTile t l ≠ t := by
  unfold parkedTile
  omega

/-- Where one entry of tile number `a` goes, the other keys of `a` keep theirs, and its own has none. -/
theorem mget_moved {α : Type} {w a b k : Nat} (hw : 0 < w) (hab : b ≠ a) (hk : k / w = a) (d v : α) (x : Map α) (j : Nat) :
    mget d (mset (mdel x j) (w * b + j % w) v) k = if k = j then d else mget d x k := by
  have hnew : k ≠ w * b + j % w := by
    rintro rfl
    rw [Nat.mul_add_div hw, Nat.div_eq_of_lt (Nat.mod_lt _ hw)] at hk
    exact hab hk
  rw [mget_mset, if_neg hnew, mget_mdel]

/-- Once the entries of tile number `a` stand under another number, a key of `a` has none. -/
theorem mget_rekey {α : Type} {w a b k : Nat} (hw : 0 < w) (hab : b ≠ a) (hk : k / w = a) (d : α) (g : α → α) (m : Map α) :
    mget d (rekey w a b g m) k = d := by
  have hkeep (l x : Map α) (h : k ∈ l.map Prod.fst ∨ mget d x k = d) :
      mget d (l.foldl (fun x p => if p.1 / w = a then mset (mdel x p.1) (w * b + p.1 % w) (g p.2) else x) x) k = d := by
    induction l generalizing x with
    | nil => exact h.resolve_left List.not_mem_nil
    | cons p r ih =>
      rw [List.map_cons, List.mem_cons] at h
      rw [List.foldl_cons]
      apply ih
      by_cases hkp : k = p.1
      · rw [if_pos (hkp ▸ hk), mget_moved hw hab hk, if_pos hkp]
        exact .inr rfl
      · refine (h.imp_left (Or.resolve_left · hkp)).imp_right fun hx => ?_
        split
        · rw [mget_moved hw hab hk, if_neg hkp, hx]
        · exact hx
  exact hkeep m m ((Classical.em _).imp_right (mget_of_not_mem d))

/-- Moving queues changes nothing but the numbers of input queues. -/
theorem moveQueues_rest (s : State) (t : Nat) (l : BitVec 10) (out : Bool) :
    { moveQueues s t l out with inqs := [] } = { s with inqs := [] } := by
  refine foldl_reads (fun u : State => { u with inqs := [] }) (fun a q => ?_) _ s
  extract_lets base
  split
  · rfl
  · split
    · rfl
    · split <;> rfl

section
variable (s : State) (t : Nat) (l : BitVec 10) (out : Bool)

theorem moveQueues_mem : (moveQueues s t l out).mem = s.mem := (congrArg State.mem (moveQueues_rest s t l out) :)
theorem moveQueues_saved : (moveQueues s t l out).saved = s.saved := (congrArg State.saved (moveQueues_rest s t l out) :)
theorem moveQueues_slot (n : Nat) : (moveQueues s t l out).slot n = s.slot n := (congrArg (State.slot · n) (moveQueues_rest s t l out) :)
theorem moveQueues_tile (k : Nat) : (moveQueues s t l out).tile k = s.tile k := (congrArg (State.tile · k) (moveQueues_rest s t l out) :)

end

theorem swapOut_mem (s : State) (t base : Nat) : (swapOut s t base).mem = s.mem := moveQueues_mem _ _ _ _

theorem swapOut_saved (s : State) (t base : Nat) :
    (swapOut s t base).saved = mset s.saved (homeOf t (s.tile t).ltid) (saveTile s t base) := moveQueues_saved _ _ _ _

/-- No slot of the tile stands there any longer. -/
theorem swapOut_slot (s : State) {t n : Nat} (base : Nat) (hn : tileOfSlot n = t) : (swapOut s t base).slot n = Slot.reset :=
  (moveQueues_slot _ _ _ _ _).trans (mget_rekey (by decide) (parkedTile_ne t _) hn _ _ _)

/-! ## A logical tile comes back (R264, R278) -/

/-- A logical tile that comes back is the one that was parked, with its time moved on; what waits in its queues may leave (R264). -/
theorem swapIn_moves {s : State} {t : Nat} {l : BitVec 10} {x : TileSave} (base : Nat) (hx : mfind s.saved (homeOf t l) = some x) :
    ∃ u, QueuesOnly u (swapIn s t l base) ∧ u.mem = s.mem ∧ (u.tile t).ltid = (s.tile (parkedTile t l)).ltid
      ∧ (u.tile t).qoff = (s.tile (parkedTile t l)).qoff + (base - x.base) := by
  unfold swapIn
  split
  case h_1 hnone => exact absurd (hx.symm.trans hnone) nofun
  case h_2 y hy =>
    obtain rfl : x = y := Option.some.inj (hx.symm.trans hy)
    extract_lets d s1 s2 s3 s4
    have htile : s2.tile t = s1.tile t :=
      (moveQueues_tile _ _ _ _ _).trans ((mget_mdel _ _ _ _).trans (if_neg (parkedTile_ne t l).symm))
    have hmoved : s1.tile t = { s.tile (parkedTile t l) with
        qoff := (s.tile (parkedTile t l)).qoff + d, upper := (s.tile t).upper, upperMark := (s.tile t).upperMark, failed := (s.tile t).failed } :=
      (mget_mset _ _ _ _ _).trans (if_pos rfl)
    refine ⟨s2, ?_, moveQueues_mem _ _ _ _, ?_, ?_⟩
    · have h3 : QueuesOnly s2 s3 := by
        refine QueuesOnly.foldl _ (fun a it => ?_) _ (.refl s2)
        exact ⟨rfl, fun _ => rfl, fun _ => rfl, fun _ => rfl⟩
      have h4 : QueuesOnly s2 s4 := h3.foldl _ (fun a k => QueuesOnly.foldl _ (fun b g => (QueuesOnly.refl b).drainOut _ _ _) _ (.refl a)) _
      exact h4.foldl _ (fun a k => (QueuesOnly.refl a).drainCheck _) _
    · rw [htile, hmoved]
    · rw [htile, hmoved]

theorem swapIn_mem (s : State) (t : Nat) (l : BitVec 10) (base : Nat) : (swapIn s t l base).mem = s.mem := by
  rcases hx : mfind s.saved (homeOf t l) with _ | x
  · unfold swapIn
    rw [hx]
    rfl
  · obtain ⟨u, hq, hmem, -⟩ := swapIn_moves base hx
    exact hq.mem.trans hmem

theorem queuesOnly_resumeNode (s : State) (t : Nat) :
    QueuesOnly (s.modNode t (fun x => { x with stopping := false })) (resumeNode s t) := by
  unfold resumeNode
  extract_lets s1 s2
  refine QueuesOnly.trans (t := s2) ?_ (queuesOnly_kickQueue s2 t)
  unfold s2
  split
  · split
    · exact (QueuesOnly.refl s1).plan _ _ _
    · exact .refl s1
  · exact .refl s1

/-- A node that goes on changes nothing of its tile or of memory. -/
theorem resumeNode_keeps (s : State) (t : Nat) :
    (resumeNode s t).mem = s.mem ∧ ∀ k, ((resumeNode s t).tile k).unqueued = (s.tile k).unqueued := by
  have hq := queuesOnly_resumeNode s t
  exact ⟨hq.mem, hq.tile⟩

/-! ## Boundaries (R279) -/

section
variable {s : State} {r : Rotation} (hrot : mfind s.rots s.arg.a = some r)
include hrot

/-- A deferred boundary saves the logical tile that runs, and the next place of the rotation follows 96 cycles on. -/
theorem quantumBoundary_saves {j : Nat} (hb : s.arg.b = 1) (hruns : s.runsOn s.arg.a (s.tile s.arg.a).ltid = true)
    (hnext : nextPlace s s.arg.a r.ix = some j) :
    exec .quantumBoundary s = .next ({ swapOut s s.arg.a (s.mcnt + 1) with
      rots := mset (swapOut s s.arg.a (s.mcnt + 1)).rots s.arg.a { r with ix := j } }.planEv (s.mcnt + 1 + 96) rkStart .quantumBoundary
        (Arg.of s.arg.a 2 0 0 0)) := by
  change execQuantumBoundary s = _
  simp [execQuantumBoundary, hrot, hb, hruns, hnext]

/-- The start of a quantum: the logical tile of the place comes back; its node may go on after a stop of the boundary. -/
theorem quantumBoundary_starts {l : BitVec 10} {w : Word} (hb : s.arg.b = 2) (hplace : placeIx s s.arg.a r.ix = some (l, w)) :
    ∃ u : State, u.mem = (swapIn s s.arg.a l s.mcnt).mem ∧ (∀ k, (u.tile k).unqueued = ((swapIn s s.arg.a l s.mcnt).tile k).unqueued)
      ∧ exec .quantumBoundary s = .next ({ u with
        rots := mset u.rots s.arg.a { r with since := s.mcnt, owed := mdel r.owed r.ix } }.planEv
          (s.mcnt + quantumOf w - mget 0 r.owed r.ix - 1) rkArrive .quantumBoundary (Arg.of s.arg.a 0 0 0 0)) := by
  change ∃ u : State, _ ∧ _ ∧ execQuantumBoundary s = _
  simp only [execQuantumBoundary, hrot, hb, hplace, if_true]
  split
  · obtain ⟨hmem, htile⟩ := resumeNode_keeps (swapIn s s.arg.a l s.mcnt) s.arg.a
    exact ⟨_, hmem, htile, rfl⟩
  · exact ⟨_, rfl, fun _ => rfl, rfl⟩

end

end Sys2Proof.Machine
end

section
/-! # Loads become resident, tiles are configured, quanta rotate (R262, R263, R278, R279) -/

namespace Sys2Proof.Machine

/-- Settles O43: a load packet, the token of a tile and a boundary of a quantum each do what the equation of their event says. -/
theorem loadsAndQuanta : Obligations.LoadsAndQuanta := by
  unfold Obligations.LoadsAndQuanta
  intro s
  refine ⟨?loads, ?tiles, ?quanta⟩
  case loads =>
    intro i ld n lv himg hld
    refine ⟨fun k hk hpass htiles => ?_, fun r hr => ?_⟩
    · have hctx := beginLoad_ctx s s.arg.a n i ld k.place
      exact ⟨_, loadGraphPacket_begins himg hld hk hpass htiles, congrArg Ctx.image hctx, congrArg Ctx.resident hctx,
        congrArg Ctx.csets hctx, congrArg Ctx.energy hctx, congrArg Ctx.toLoad hctx, beginLoad_slots _ _ _ _ _ _⟩
    · have hreply := refuseLoad_replies s s.arg.a (some r)
      refine ⟨_, loadGraphPacket_refuses himg hld hr, ?_, ?_, completeBarrier_tiles _ _ _ _, hreply.slots⟩
      · rw [hreply.keeps Ctx.report (fun _ _ _ _ _ => rfl), modCtx_ctx_self]
      · rw [hreply.keeps Ctx.image (fun _ _ _ _ _ => rfl), modCtx_ctx_self]
  case tiles =>
    intro l hload hown hplace
    refine ⟨fun vs hnamed => ⟨fun hdrained => reconfigurationTokenPass_waits_part hload hown hplace hnamed hdrained,
      fun hdrained hmore => ?_⟩, fun hnamed hdrained hmore => ?_,
      fun hnamed hdrained hidle => reconfigurationTokenPass_waits hload hown hplace hnamed hdrained hidle⟩
    · obtain ⟨g, words, hexec⟩ := reconfigurationTokenPass_patches hload hown hplace hnamed hdrained hmore
      have hbeside := patchTile_besides s s.arg.a s.arg.d g words vs
      obtain ⟨hctxs, hheld⟩ := patchTile_load s s.arg.a s.arg.d g words vs
      exact ⟨_, hexec, tileLoaded_toLoad hctxs _ _, hheld, congrArg Prod.fst hbeside, fun v hv => elem_of_besides hbeside hv⟩
    · refine ⟨_, reconfigurationTokenPass_configures hload hown hplace hnamed hdrained hmore,
        tileLoaded_toLoad (configured_ctxs _ _ _ _ _) _ _, fun i ld g himage => ?_⟩
      have hheld := congrArg Prod.snd (configured_heldOn (t := s.arg.a) himage)
      exact ⟨congrArg (·.1) hheld, congrArg (·.2.1) hheld, congrArg (·.2.2) hheld⟩
  case quanta =>
    intro r l w hrot
    refine ⟨fun hb hruns j hnext => ?_, fun hb hplace => ?_⟩
    · refine ⟨_, quantumBoundary_saves hrot hb hruns hnext, mfind_mset_self _ _ _, swapOut_mem _ _ _, ?_,
        fun n hn => swapOut_slot s _ hn, (mem_plan _ _ _ _ _).mpr (.inl rfl)⟩
      change mfind (swapOut s s.arg.a (s.mcnt + 1)).saved _ = _
      rw [swapOut_saved, mfind_mset_self]
    · obtain ⟨u, hmem, htile, hexec⟩ := quantumBoundary_starts hrot hb hplace
      refine ⟨_, hexec, hmem.trans (swapIn_mem _ _ _ _), mfind_mset_self _ _ _, fun x hx => ?_, (mem_plan _ _ _ _ _).mpr (.inl rfl)⟩
      obtain ⟨v, hq, -, hltid, hqoff⟩ := swapIn_moves s.mcnt hx
      have hback := (htile s.arg.a).trans (hq.tile s.arg.a)
      exact ⟨(congrArg Tile.ltid hback :).trans hltid, (congrArg Tile.qoff hback :).trans hqoff⟩

end Sys2Proof.Machine
end

section
/-! # A context ends (R313, R320, R356, R357)

What a context's end releases is released by events that leave every context alone, or only its counts of packets; so the end of one
context is not the end of another. -/

namespace Sys2Proof.Machine

/-! ## Engines and slots that are released leave every context alone (R188, R223, R324) -/

theorem QueuesOnly.ctxs {s t : State} (h : QueuesOnly s t) : t.ctxs = s.ctxs := (congrArg State.ctxs h.rest :)

theorem endCommand_ctxs (s : State) (id slot : Nat) : (s.endCommand id slot).ctxs = s.ctxs := (queuesOnly_endCommand s id slot).ctxs

theorem endEngine_ctxs (s : State) (t engine : Nat) (begun : Bool) : (endEngine s t engine begun).ctxs = s.ctxs := by
  obtain ⟨m, hm⟩ := endEngine_cmds s t engine begun
  exact hm.ctxs

theorem releaseNode_ctxs (s : State) (t : Nat) : (releaseNode s t).ctxs = s.ctxs := by
  unfold releaseNode freezeNode
  rw [endEngine_ctxs, State.modNode_eq, State.setNode_ctxs, endEngine_ctxs]
  rfl

theorem releaseLode_ctxs (s : State) (t : Nat) : (releaseLode s t).ctxs = s.ctxs := by
  unfold releaseLode freezeLode
  rw [endEngine_ctxs, State.modLode_eq, State.setLode_ctxs, endEngine_ctxs]
  rfl

theorem dropCopy_ctxs (s : State) (id : Nat) (c : Copy) : (dropCopy s id c).ctxs = s.ctxs := by
  unfold dropCopy
  extract_lets s1 s2 s3
  calc _ = s3.ctxs := (queuesOnly_kickUnlessFrozen _ _ _ _).ctxs
    _ = s2.ctxs := (queuesOnly_acceptWaiting _ _ _).ctxs
    _ = s1.ctxs := endCommand_ctxs _ _ _

theorem copyFault_ctxs (s : State) (c : Copy) (cause detail : Nat) : (copyFault s c cause detail).ctxs = s.ctxs :=
  (congrArg State.ctxs ((freezeChan_unrecorded _ _ _ _).trans (raiseFor_unrecorded _ _ _ _ _ _ _)) :)

theorem finishCopy_ctxs (s : State) (id : Nat) (c : Copy) : (finishCopy s id c).ctxs = s.ctxs := by
  unfold finishCopy
  split
  next s1 tooMany hcredit =>
  extract_lets s2 s3 s4
  have h1 : s1.ctxs = s.ctxs := by
    refine (congrArg (fun p : State × Bool => p.1.ctxs) hcredit).symm.trans ?_
    split <;> rfl
  have h2 : s2.ctxs = s1.ctxs := by
    unfold s2
    split <;> rfl
  have h3 : s3.ctxs = s2.ctxs := ite_reads State.ctxs rfl rfl
  have h4 : s4.ctxs = s3.ctxs := (dropCopy_ctxs _ _ _).trans (ite_reads State.ctxs rfl rfl)
  exact (ite_reads State.ctxs (copyFault_ctxs _ _ _ _) rfl).trans (h4.trans (h3.trans (h2.trans h1)))

theorem discardWaiting_ctxs (s : State) (t ch n : Nat) : (discardWaiting s t ch n).ctxs = s.ctxs := by
  induction n generalizing s with
  | zero => rfl
  | succ n ih =>
    unfold discardWaiting
    split
    · rfl
    · exact (ih _).trans (finishCopy_ctxs _ _ _)

theorem releaseChan_ctxs (s : State) (t ch : Nat) : (releaseChan s t ch).ctxs = s.ctxs := discardWaiting_ctxs _ _ _ _

theorem releaseEngines_ctxs (s : State) (ns : List Nat) : (releaseEngines s ns).ctxs = s.ctxs := by
  unfold releaseEngines
  extract_lets mine
  refine foldl_reads State.ctxs (fun a t => ?_) _ s
  extract_lets x runs a1 a2 y a3 a4 u a5
  have h1 : a1.ctxs = a.ctxs := ite_reads State.ctxs (releaseNode_ctxs _ _) rfl
  have h2 : a2.ctxs = a1.ctxs :=
    foldl_reads State.ctxs (fun b c => ite_reads State.ctxs ((endCommand_ctxs _ _ _).trans (State.setNode_ctxs _ _ _)) rfl) _ a1
  have h3 : a3.ctxs = a2.ctxs := ite_reads State.ctxs (releaseLode_ctxs _ _) rfl
  have h4 : a4.ctxs = a3.ctxs :=
    foldl_reads State.ctxs (fun b c => ite_reads State.ctxs ((endCommand_ctxs _ _ _).trans (State.setLode_ctxs _ _ _)) rfl) _ a3
  have h5 : a5.ctxs = a4.ctxs := foldl_reads State.ctxs (fun b ch => ite_reads State.ctxs (releaseChan_ctxs _ _ _) rfl) _ a4
  exact (foldl_reads State.ctxs (fun b c => dropCopy_ctxs _ _ _) _ a5).trans (h5.trans (h4.trans (h3.trans (h2.trans h1))))

theorem killSlot_ctxs (s : State) (n : Nat) : (killSlot s n).ctxs = s.ctxs := ite_reads State.ctxs rfl rfl

theorem discardBlock_ctxs (s : State) (ns : List Nat) : (discardBlock s ns).ctxs = s.ctxs :=
  (foldl_reads State.ctxs killSlot_ctxs ns _).trans (releaseEngines_ctxs s ns)

theorem releaseTile_ctxs (s : State) (t : Nat) : (releaseTile s t).ctxs = s.ctxs := by
  unfold releaseTile
  extract_lets s1 kept x s2
  have h1 : s1.ctxs = s.ctxs := (emptyTile_ctxs _ t).trans (clearTile_ctxs s t)
  have h2 : s2.ctxs = s.ctxs := (State.setTile_ctxs _ _ _).trans h1
  clear_value s2
  exact h2

/-! ## Which contexts exist -/

/-- Whether each context exists. -/
def lives (s : State) (c : Nat) : Bool := (s.ctx c).live

theorem lives_of_ctxs {s t : State} (h : t.ctxs = s.ctxs) : lives t = lives s :=
  funext fun c => congrArg (fun m => (mget Ctx.reset m c).live) h

theorem Replies.lives {s t : State} (h : Replies s t) : lives t = lives s :=
  funext fun c => h.keeps Ctx.live (fun _ _ _ _ _ => rfl) c

/-- The end of a launch neither ends nor begins a context. -/
theorem endTask_lives (s : State) (id : Nat) (l : Launch) (status cause where_ : Nat) :
    lives (endTask s id l status cause where_) = lives s := by
  unfold endTask
  extract_lets s1 s2 again fresh
  have h2 : lives s2 = lives s := lives_of_ctxs (discardBlock_ctxs s l.slots)
  rw [← h2]
  exact ite_reads lives rfl (replies_endLaunch _ _ _ _ _ _).lives

/-- A context that ends is as after reset but for its generation (R356). -/
theorem endContext_ctx_self (s : State) (c : Nat) : (endContext s c).ctx c = { Ctx.reset with gen := (s.ctx c).gen } := by
  unfold endContext
  extract_lets s1 ws s2 s3 s4 s5 s6
  rw [State.setCtx_ctx, if_pos rfl]

/-- No other context ends with it, or begins. -/
theorem endContext_live_other (s : State) {c d : Nat} (h : d ≠ c) : ((endContext s c).ctx d).live = (s.ctx d).live := by
  unfold endContext
  extract_lets s1 ws s2 s3 s4 s5 s6
  have h1 : lives s1 = lives s := foldl_reads lives (fun a l => endTask_lives _ _ _ _ _ _) _ s
  have h3 : s3.ctxs = s2.ctxs := by
    refine foldl_reads State.ctxs (fun a p => ?_) ws s2
    split
    · exact discardBlock_ctxs _ _
    · rfl
  have h4 : s4.ctxs = s3.ctxs := foldl_reads State.ctxs releaseTile_ctxs _ s3
  have h6 : s6.ctxs = s5.ctxs := foldl_reads State.ctxs (fun a e => State.setDie_ctxs _ _ _) _ s5
  have hlives : lives s6 = lives s := (lives_of_ctxs (h6.trans (h4.trans h3))).trans h1
  rw [State.setCtx_ctx, if_neg h]
  exact congrFun hlives d

/-- Contexts that end one after the other have all ended. -/
theorem foldl_endContext_not_live (cs : List Nat) (s : State) {d : Nat} (h : d ∈ cs ∨ (s.ctx d).live = false) :
    ((cs.foldl endContext s).ctx d).live = false := by
  induction cs generalizing s with
  | nil => exact h.resolve_left List.not_mem_nil
  | cons c cs ih =>
    refine ih (endContext s c) ?_
    by_cases hdc : d = c
    · exact .inr (by rw [hdc, endContext_ctx_self]; rfl)
    · rw [endContext_live_other s hdc]
      exact h.imp_left fun hd => (List.mem_cons.mp hd).resolve_left hdc

end Sys2Proof.Machine
end

section
/-! # Partition registers, commands of the physical function and host accesses (R284, R356, R357, R360, R361) -/

namespace Sys2Proof.Machine

/-! ## Partition registers (R284) -/

/-- A record leaves the partition registers of every die alone. -/
theorem raise_parts (s : State) (d cause : Nat) (m : Master) (t detail k : Nat) :
    ((s.raise d cause m t detail).die k).parts = (s.die k).parts := by
  have hset (x : Die) (hx : x.parts = (s.die d).parts) : ((s.setDie d x).die k).parts = (s.die k).parts := by
    rw [State.setDie_die]
    split
    case isTrue hk => rw [hx, hk]
    case isFalse => rfl
  unfold State.raise State.raiseFor
  dsimp only
  split
  · split
    · exact hset _ rfl
    · exact hset _ rfl
  · exact hset _ rfl

theorem vaultPartitionWrite_writes {s : State} (h : partOk s s.arg.a s.arg.b (BitVec.ofNat 32 s.arg.c) = true) :
    exec .vaultPartitionWrite s = .next (setPart s s.arg.a s.arg.b (BitVec.ofNat 32 s.arg.c)) := by
  change execVaultPartitionWrite s = _
  simp only [execVaultPartitionWrite, h, if_true]

theorem vaultPartitionWrite_refuses {s : State} (h : partOk s s.arg.a s.arg.b (BitVec.ofNat 32 s.arg.c) = false) :
    exec .vaultPartitionWrite s
      = .next (s.raise s.arg.a 0x1C3 (.nobody (s.arg.b % 16) (tileAt s.arg.a 0 0)) s.mcnt 0) := by
  change execVaultPartitionWrite s = _
  simp only [execVaultPartitionWrite, h, Bool.false_eq_true, if_false]

/-! ## Commands of the physical function (R355, R356) -/

/-- A command is taken: CTXSTAT is busy with its context, and its outcome follows one tick later. -/
theorem ctxCommand_takes {s : State} (hb : s.arg.b ≠ 1) (hidle : s.port.stat.getLsbD 31 = false) (hfn : 0 ∉ s.fnFrozen)
    (i : Instr) (f : State → Nat → Nat × State) :
    ctxCommand s i f = (setCtxStat s true 0 (s.arg.a % 8)).planEv (s.mcnt + 2900) rkArrive i (Arg.of (s.arg.a % 8) 1 0 0 0) := by
  simp only [ctxCommand, State.byHost, hb, hidle, List.contains_iff_mem, hfn, Bool.false_eq_true, false_and, if_false]

/-- The outcome of a command stands in CTXSTAT. -/
theorem ctxCommand_serves {s : State} (hb : s.arg.b = 1) (hup : schedUp s = true) (i : Instr) (f : State → Nat → Nat × State) :
    ctxCommand s i f = setCtxStat (f s (s.arg.a % 8)).2 false (f s (s.arg.a % 8)).1 (s.arg.a % 8) := by
  simp only [ctxCommand, hb, hup, if_true]

theorem setCtxStat_busy (s : State) (c : Nat) : (setCtxStat s true 0 c).port.stat = BitVec.ofNat 32 (2 ^ 31 + c) := by
  simp [setCtxStat]

theorem setCtxStat_done (s : State) (r c : Nat) : (setCtxStat s false r c).port.stat = BitVec.ofNat 32 (r * 2 ^ 16 + c) := by
  simp [setCtxStat]

theorem ctxCreate_takes {s : State} (hb : s.arg.b ≠ 1) (hidle : s.port.stat.getLsbD 31 = false) (hfn : 0 ∉ s.fnFrozen) :
    exec .ctxCreate s = .next ((setCtxStat s true 0 (s.arg.a % 8)).planEv (s.mcnt + 2900) rkArrive .ctxCreate
      (Arg.of (s.arg.a % 8) 1 0 0 0)) :=
  congrArg _ (ctxCommand_takes hb hidle hfn _ _)

theorem ctxEnd_takes {s : State} (hb : s.arg.b ≠ 1) (hidle : s.port.stat.getLsbD 31 = false) (hfn : 0 ∉ s.fnFrozen) :
    exec .ctxEnd s = .next ((setCtxStat s true 0 (s.arg.a % 8)).planEv (s.mcnt + 2900) rkArrive .ctxEnd
      (Arg.of (s.arg.a % 8) 1 0 0 0)) :=
  congrArg _ (ctxCommand_takes hb hidle hfn _ _)

theorem ctxCreate_creates {s : State} (hb : s.arg.b = 1) (hup : schedUp s = true) (hres : createResult s (s.arg.a % 8) = 0) :
    exec .ctxCreate s = .next (setCtxStat (createContext s (s.arg.a % 8)) false 0 (s.arg.a % 8)) := by
  change execCtxCreate s = _
  simp only [execCtxCreate, ctxCommand_serves hb hup, hres, if_true]

theorem ctxCreate_refuses {s : State} (hb : s.arg.b = 1) (hup : schedUp s = true) (hres : createResult s (s.arg.a % 8) ≠ 0) :
    exec .ctxCreate s = .next (setCtxStat s false (createResult s (s.arg.a % 8)) (s.arg.a % 8)) := by
  change execCtxCreate s = _
  simp only [execCtxCreate, ctxCommand_serves hb hup, hres, if_false]

theorem ctxEnd_ends {s : State} (hb : s.arg.b = 1) (hup : schedUp s = true) (hlive : (s.ctx (s.arg.a % 8)).live = true) :
    exec .ctxEnd s = .next (setCtxStat (endContext s (s.arg.a % 8)) false 0 (s.arg.a % 8)) := by
  change execCtxEnd s = _
  simp only [execCtxEnd, ctxCommand_serves hb hup, hlive, if_true]

theorem ctxEnd_refuses {s : State} (hb : s.arg.b = 1) (hup : schedUp s = true) (hlive : (s.ctx (s.arg.a % 8)).live = false) :
    exec .ctxEnd s = .next (setCtxStat s false 2 (s.arg.a % 8)) := by
  change execCtxEnd s = _
  simp only [execCtxEnd, ctxCommand_serves hb hup, hlive, Bool.false_eq_true, if_false]

/-- The context that the descriptor describes, with the generation of the one before it (R356). -/
def describedCtx (s : State) (c : Nat) : Ctx :=
  { Ctx.reset with
    live := true, level := levelOfNo ((descWord s 0).extractLsb' 3 2).toNat, gen := (s.ctx c).gen, policy := descWord s 1
    vdt := (List.range 4).map (fun i => (i, descWord s (6 + i) &&& 0x8000_0003#32))
    otlen := ((descWord s 10).extractLsb' 0 17).toNat, otoff := ((descWord s 11).extractLsb' 0 25).toNat }

/-- A context that is created is as described; its partitions and generation are written, and neither memory nor a slot changes. -/
theorem createContext_effect (s : State) (c : Nat) :
    (createContext s c).ctx c = describedCtx s c ∧ (createContext s c).mem = s.mem ∧ (createContext s c).slots = s.slots := by
  unfold createContext
  extract_lets s1 s2
  have hmem : s2.mem = s.mem := calc
    _ = s1.mem := foldl_reads State.mem (fun a d => State.setDie_mem _ _ _) _ s1
    _ = s.mem := foldl_reads State.mem (fun a d => State.setDie_mem _ _ _) _ s
  have hslots : s2.slots = s.slots := calc
    _ = s1.slots := foldl_reads State.slots (fun a d => State.setDie_slots _ _ _) _ s1
    _ = s.slots := foldl_reads State.slots (fun a d => State.setDie_slots _ _ _) _ s
  refine ⟨?_, hmem, hslots⟩
  rw [State.setCtx_ctx, if_pos rfl]
  rfl

/-! ## Function level reset (R357) -/

theorem functionLevelReset_ends (s : State) : exec .functionLevelReset s = .next
    { (contextsOf s (s.arg.a % 8)).foldl endContext s with
      fnFrozen := ((contextsOf s (s.arg.a % 8)).foldl endContext s).fnFrozen.filter (fun x => x != s.arg.a % 8) } := rfl

/-! ## Host accesses (R212, R360, R361) -/

/-- A request that is sent stands under its number; neither memory nor a slot changes. -/
theorem sendReq_effect (s : State) (r : Req) :
    mfind (sendReq s r).reqs s.nextId = some r ∧ (sendReq s r).mem = s.mem ∧ (sendReq s r).slots = s.slots := by
  have hstood : mfind (mset s.reqs s.nextId r) s.nextId = some r := mfind_mset_self _ _ _
  have hqueues {u : State} (h : QueuesOnly { s with nextId := s.nextId + 1, reqs := mset s.reqs s.nextId r } u) :
      mfind u.reqs s.nextId = some r ∧ u.mem = s.mem ∧ u.slots = s.slots := by
    have hreqs : u.reqs = mset s.reqs s.nextId r := (congrArg State.reqs h.rest :)
    exact ⟨hreqs ▸ hstood, h.mem, h.slots⟩
  unfold sendReq
  dsimp only [State.fresh]
  split
  · exact hqueues ((QueuesOnly.refl _).sendFrom _ _ _)
  · split
    · exact hqueues ((QueuesOnly.refl _).plan _ _ _)
    · exact hqueues ((QueuesOnly.refl _).sendFrom _ _ _)

theorem hostRest_plans (s : State) (i : Instr) (k n : Nat) : Plans s (hostRest s i k n) := by
  unfold hostRest
  split
  · exact .refl s
  · exact (Plans.refl s).plan _ _ _

/-- A range of the Vault lies within a partition of one of the function's contexts. -/
theorem any_partition_holds {s : State} {f die v n d base size : Nat} (hd : d ∈ contextsOf s f)
    (hpart : partition s die d = (true, base, size)) (hlo : base ≤ v) (hhi : v + n ≤ base + size) :
    ((contextsOf s f).any fun c => (partition s die c).1 && decide ((partition s die c).2.1 ≤ v)
      && decide (v + n ≤ (partition s die c).2.1 + (partition s die c).2.2)) = true :=
  List.any_eq_true.mpr ⟨d, hd, by simp only [hpart, hlo, hhi, decide_true, Bool.and_self]⟩

/-- An access of 64 bytes within a partition of one of the function's contexts is requested (R360, R361). -/
theorem hostVaultAccess_requests {s : State} {d base size : Nat} (hd : d ∈ contextsOf s (s.arg.a % 8))
    (hpart : partition s (s.arg.b / 2 ^ 25 % 4) d = (true, base, size)) (hlo : base ≤ s.arg.b % 2 ^ 25)
    (hhi : s.arg.b % 2 ^ 25 + 64 ≤ base + size) (hfull : s.arg.b % 64 = 0) (hn : s.arg.d = 0) (hfn : s.arg.a % 8 ∉ s.fnFrozen)
    (hturn : hostTurn s (s.arg.a % 8) none = true) :
    exec .hostVaultAccess s = .next (sendReq s (hostReq (s.arg.a % 8) s.arg.e
      (vaultAddr (s.arg.b / 2 ^ 25 % 4) (s.arg.b % 2 ^ 25)) 64 (s.arg.c == 1) s.arg.v)) := by
  have hinside := any_partition_holds hd hpart hlo hhi
  have hunit : s.arg.b % 2 ^ 25 % 64 = 0 := by omega
  change execHostVaultAccess s = _
  simp only [execHostVaultAccess, hn, hturn, hinside, hunit, hostRest, List.contains_iff_mem, hfn, Bool.not_true, Bool.false_eq_true,
    or_self, if_false, if_true, Nat.sub_zero, Nat.min_self, Nat.le_refl]

/-- An access of a frozen function is requested nowhere. -/
theorem hostVaultAccess_frozen {s : State} (hfn : s.arg.a % 8 ∈ s.fnFrozen) :
    exec .hostVaultAccess s = .next (hostFault s (s.arg.a % 8) s.arg.e (s.arg.c == 1)) := by
  have hturn : hostTurn s (s.arg.a % 8) none = true := by simp [hostTurn, hfn]
  change execHostVaultAccess s = _
  simp only [execHostVaultAccess, hturn, List.contains_iff_mem, hfn, Bool.not_true, Bool.false_eq_true, true_or, if_false, if_true]

/-- An access of a function that is frozen already makes no record. -/
theorem hostFault_frozen {s : State} {fn : Nat} (hfn : fn ∈ s.fnFrozen) (tag : Nat) (write : Bool) :
    let t := hostFault s fn tag write
    t.reqs = s.reqs ∧ t.mem = s.mem ∧ t.slots = s.slots := by
  simp only [hostFault, List.contains_iff_mem, hfn, if_true]
  split <;> exact ⟨rfl, rfl, rfl⟩

/-- The host queue of a Teller with one access more. -/
theorem queueHost_plans (s : State) (tl id : Nat) :
    Plans (s.modTel tl (fun y => { y with hostq := y.hostq ++ [(id, hostPlan (s.tel tl) (ckOf s s.mcnt))] })) (queueHost s tl id) := by
  unfold queueHost
  extract_lets c s1
  split
  · exact .refl _
  · exact (Plans.refl _).plan _ _ _

/-- The host's read of the 64 bytes around `pa` has its request. -/
def readRequested (s : State) (pa : Nat) : State :=
  { s with nextId := s.nextId + 1
           reqs := mset s.reqs s.nextId (hostReq (s.arg.a % 8) s.arg.e (pa / 64 * 64) 64 false s.arg.v) }

/-- An access within an extent, but for a write, joins its Teller's queue where there is room (R212, R360). -/
theorem hostDramAccess_queues {s : State} {tl pa : Nat} (hext : extentAt s (s.arg.a % 8) s.arg.b = some (tl, pa))
    (hfn : s.arg.a % 8 ∉ s.fnFrozen) (hread : s.arg.c ≠ 1) (hroom : (s.tel tl).hostq.length < 8)
    (hturn : hostTurn s (s.arg.a % 8) (some tl) = true) :
    ∃ t, exec .hostDramAccess s = .next t ∧ Plans ((readRequested s pa).modTel tl (fun y =>
      { y with hostq := y.hostq ++ [(s.nextId, hostPlan (s.tel tl) (ckOf s s.mcnt))] })) t := by
  have hno : (s.arg.c == 1) = false := beq_false_of_ne hread
  refine ⟨hostRest (queueHost (readRequested s pa) tl s.nextId) .hostDramAccess (64 - s.arg.b % 64)
    (if s.arg.d = 0 then 64 else min s.arg.d 64), ?_, (queueHost_plans _ tl _).trans (hostRest_plans _ _ _ _)⟩
  change execHostDramAccess s = _
  simp only [execHostDramAccess, hext, hturn, List.contains_iff_mem, hfn, hread, hno, Nat.not_le.mpr hroom, State.fresh, readRequested,
    Bool.not_true, Bool.false_eq_true, false_and, or_self, if_false]

/-- Settles O44: each clause reads the state that the lemma about its event gives. -/
theorem contextsAndHosts : Obligations.ContextsAndHosts := by
  unfold Obligations.ContextsAndHosts
  intro s c
  refine ⟨vaultPartitionWrite_writes, fun hbad => ?refused, fun hb hidle hfn => ?taken, fun hb hup => ?served, ?reset,
    fun d hd base size hpart hlo hhi hfull hn hfn hturn => ?vault, fun hfn => ?frozen,
    fun tl pa hext hfn hread hroom hturn => ?dram⟩
  case refused =>
    obtain ⟨x, -, hx⟩ := raise_records s s.arg.a 0x1C3 (.nobody (s.arg.b % 16) (tileAt s.arg.a 0 0)) s.mcnt 0
    exact ⟨_, vaultPartitionWrite_refuses hbad, raise_parts _ _ _ _ _ _ _, hx.mem, hx.slots⟩
  case taken =>
    exact ⟨⟨_, ctxCreate_takes hb hidle hfn, setCtxStat_busy s c, rfl, rfl, rfl⟩,
      ⟨_, ctxEnd_takes hb hidle hfn, setCtxStat_busy s c, rfl, rfl, rfl⟩⟩
  case served =>
    refine ⟨fun hres => ?_, fun hres => ?_, fun hlive => ?_, fun hlive => ?_⟩
    · obtain ⟨hctx, hmem, hslots⟩ := createContext_effect s c
      refine ⟨_, ctxCreate_creates hb hup hres, ?_, congrArg Ctx.live hctx, congrArg Ctx.level hctx, congrArg Ctx.policy hctx,
        (congrArg Ctx.gen hctx :), congrArg Ctx.otlen hctx, congrArg Ctx.otoff hctx, hmem, hslots⟩
      rw [setCtxStat_done, Nat.zero_mul, Nat.zero_add]
    · exact ⟨_, ctxCreate_refuses hb hup hres, setCtxStat_done _ _ _, rfl⟩
    · refine ⟨_, ctxEnd_ends hb hup hlive, endContext_ctx_self s c, ?_⟩
      rw [setCtxStat_done, Nat.zero_mul, Nat.zero_add]
    · exact ⟨_, ctxEnd_refuses hb hup hlive, rfl, setCtxStat_done _ _ _⟩
  case reset =>
    refine ⟨_, functionLevelReset_ends s, ?_, fun d hd => foldl_endContext_not_live _ s (.inl hd)⟩
    simp
  case vault => exact ⟨_, hostVaultAccess_requests hd hpart hlo hhi hfull hn hfn hturn, sendReq_effect s _⟩
  case frozen => exact ⟨_, hostVaultAccess_frozen hfn, hostFault_frozen hfn _ _⟩
  case dram =>
    obtain ⟨t, hexec, hplans⟩ := hostDramAccess_queues hext hfn hread hroom hturn
    refine ⟨t, hexec, ?_, ?_, hplans.mem, hplans.slots⟩
    · rw [hplans.keeps (State.tel · tl) fun _ => rfl, State.modTel_eq, State.setTel_tel, if_pos rfl]
      rfl
    · rw [hplans.keeps State.reqs fun _ => rfl]
      exact mfind_mset_self _ _ _

end Sys2Proof.Machine
end

section
/-! # The scheduler reads its queues (R303 to R309) -/

namespace Sys2Proof.Machine

/-! ## Requests of a host function (R324) -/

theorem byHost_of_free {s : State} {f : Nat} (h : f ∉ s.fnFrozen) (t : State) : s.byHost f t = t := by
  simp [State.byHost, h]

theorem byHost_of_frozen {s : State} {f : Nat} (h : f ∈ s.fnFrozen) (t : State) :
    s.byHost f t = { s with port := { s.port with aborts := s.port.aborts + 1 } } := by
  simp [State.byHost, h]

/-! ## The doorbell (R303) -/

section
variable {s : State}

theorem doorbellWrite_latches (hfn : fnOfCtx s (s.arg.a % 8) ∉ s.fnFrozen) (hturn : hostTurn s (fnOfCtx s (s.arg.a % 8)) none = true) :
    exec .doorbellWrite s = .next (if (s.ctx (s.arg.a % 8)).live
      then s.setCtx (s.arg.a % 8) { s.ctx (s.arg.a % 8) with latch := s.arg.b % 4096, pend := true } else s) := by
  change execDoorbellWrite s = _
  cases hlive : (s.ctx (s.arg.a % 8)).live
  · simp only [execDoorbellWrite, hlive, Bool.not_false, Bool.false_eq_true, if_true, if_false]
  · simp only [execDoorbellWrite, hlive, hturn, byHost_of_free hfn, State.modCtx_eq, Bool.not_true, Bool.false_eq_true, if_false, if_true]

theorem doorbellWrite_waits (hlive : (s.ctx (s.arg.a % 8)).live = true) (hturn : hostTurn s (fnOfCtx s (s.arg.a % 8)) none = false) :
    exec .doorbellWrite s = .next (hostAgain s .doorbellWrite) := by
  change execDoorbellWrite s = _
  simp only [execDoorbellWrite, hlive, hturn, Bool.not_true, Bool.not_false, Bool.false_eq_true, if_false, if_true]

theorem doorbellWrite_frozen (hlive : (s.ctx (s.arg.a % 8)).live = true) (hfn : fnOfCtx s (s.arg.a % 8) ∈ s.fnFrozen) :
    exec .doorbellWrite s = .next { s with port := { s.port with aborts := s.port.aborts + 1 } } := by
  have hturn : hostTurn s (fnOfCtx s (s.arg.a % 8)) none = true := by simp [hostTurn, hfn]
  change execDoorbellWrite s = _
  simp only [execDoorbellWrite, hlive, hturn, byHost_of_frozen hfn, Bool.not_true, Bool.false_eq_true, if_false]

end

/-! ## The latch (R303) -/

theorem State.planN_ctx (s : State) (c r : Nat) (i : Instr) (a b k : Nat) : (s.planN c r i a b).ctx k = s.ctx k := rfl

theorem raise_ctx (s : State) (d cause : Nat) (m : Master) (t detail c : Nat) : (s.raise d cause m t detail).ctx c = s.ctx c := by
  obtain ⟨x, -, hx⟩ := raise_records s d cause m t detail
  exact hx.ctx c

/-- A value is taken from the latch as the new tail, unless it would pass HEAD. -/
theorem takeLatch_ctx {s : State} {c : Nat} {x : Ctx} (hx : s.ctx c = x) (hpend : x.pend = true) :
    let n := queueSize x.policy
    (takeLatch s c).ctx c = if (x.latch % n + n - x.tail) % n ≤ (x.head + n - x.tail + n - 1) % n
      then { x with pend := false, tail := x.latch % n } else { x with pend := false, ovf := true } := by
  subst hx
  simp only [takeLatch, hpend, Bool.not_true, Bool.false_eq_true, if_false]
  split
  · rw [modCtx_ctx_self, modCtx_ctx_self]
  · rw [raise_ctx, modCtx_ctx_self, modCtx_ctx_self]

/-- The latch is taken, or dropped with a record: neither memory nor a slot changes, and what was planned still is. -/
theorem takeLatch_keeps (s : State) (c : Nat) :
    (takeLatch s c).mem = s.mem ∧ (takeLatch s c).slots = s.slots ∧ s.agenda ⊆ (takeLatch s c).agenda := by
  unfold takeLatch
  extract_lets x n v s1
  split
  · exact ⟨rfl, rfl, List.Subset.refl _⟩
  · split
    · exact ⟨rfl, rfl, List.Subset.refl _⟩
    · obtain ⟨y, -, hy⟩ := raise_records (s1.modCtx c (fun y => { y with ovf := true })) 0 0x1C0 (.nobody c (tileAt 0 1 0)) s.mcnt c
      exact ⟨hy.mem, hy.slots, hy.agenda⟩

/-! ## The scan (R303 to R305) -/

section
variable {s : State}

theorem schedulerScan_begins (hb : s.arg.b = 0) : exec .schedulerScan s
    = .next (if schedUp s ∧ (s.ctx (s.arg.a % 8)).live
      then (takeLatch (s.planN (s.mcnt + 512) rkArrive .schedulerScan (s.arg.a % 8) 0) (s.arg.a % 8)).planN s.mcnt rkArrive .schedulerScan
        (s.arg.a % 8) 1
      else s.planN (s.mcnt + 512) rkArrive .schedulerScan (s.arg.a % 8) 0) := by
  change execSchedulerScan s = _
  simp only [execSchedulerScan, hb]

theorem schedulerScan_reads (hb : s.arg.b = 1) (hread : mayRead s (s.arg.a % 8) = true) : exec .schedulerScan s
    = .next ((readPacket s (s.arg.a % 8)).planN s.mcnt rkArrive .schedulerScan (s.arg.a % 8) 1) := by
  change execSchedulerScan s = _
  simp only [execSchedulerScan, hb, hread, if_true]

/-- The packet at HEAD of a context's queue. -/
def headPacket (s : State) (c : Nat) : Vec := BitVec.ofNat 512 (s.read (queueAt s c (64 * (s.ctx c).head)) 64)

/-- The packet at HEAD has been read and is outstanding. -/
def headRead (s : State) (c : Nat) : State :=
  s.modCtx c (fun y => { y with head := ((s.ctx c).head + 1) % queueSize (s.ctx c).policy, outst := y.outst + 1 })

theorem readPacket_holds {c : Nat} (hok : packetOk s c (headPacket s c) = true) (hbar : isBarrier (packetType (headPacket s c)) = true) :
    readPacket s c = (headRead s c).modCtx c (fun y => { y with barrier := some (headPacket s c), begun := false }) := by
  unfold headPacket at hok hbar
  simp only [readPacket, headPacket, headRead, hok, hbar, Bool.not_true, Bool.false_eq_true, if_false, if_true]

theorem readPacket_hands_on {c : Nat} (hok : packetOk s c (headPacket s c) = true) (hbar : isBarrier (packetType (headPacket s c)) = false) :
    readPacket s c = planPacket (headRead s c) c (headPacket s c) := by
  unfold headPacket at hok hbar
  simp only [readPacket, headPacket, headRead, hok, hbar, Bool.not_true, Bool.false_eq_true, if_false]

end

/-! ## Launch packets (R306, R308) -/

section
variable {s : State}

theorem launchPacket_timed (hlevel : (s.ctx s.arg.a).level = .t) : exec .launchPacket s
    = .next (completePacket s s.arg.a (lane s.arg.v 0) ((lane s.arg.v 1).toNat % 65536) 0 7 0) := by
  change execLaunchPacket s = _
  simp only [execLaunchPacket, hlevel, true_or, if_true]

/-- A launch packet that passes its checks joins the pending set under a new number, as the packet describes it. -/
theorem launchPacket_joins (hlevel : (s.ctx s.arg.a).level ≠ .t) (hcredit : (lane s.arg.v 5).getLsbD 31 = false)
    (hdep3 : depBad s s.arg.a (lane s.arg.v 3) = false) (hdep4 : depBad s s.arg.a (lane s.arg.v 4) = false)
    (hkern : kernSlots s s.arg.a ((lane s.arg.v 1).toNat % 65536) ≠ []) :
    ∃ deps esc, exec .launchPacket s = .next (s.fresh.2.setLaunch s.nextId
      { Launch.blank s.arg.a (lane s.arg.v 0) true ((lane s.arg.v 1).toNat % 65536) ((lane s.arg.v 1).extractLsb' 16 2).toNat (lane s.arg.v 2)
        with deps := deps, esc := esc, order := s.nextId }) := by
  change ∃ deps esc, execLaunchPacket s = _
  simp only [execLaunchPacket, hlevel, hcredit, hdep3, hdep4, List.isEmpty_eq_false_iff.mpr hkern, State.fresh, Bool.false_eq_true,
    false_and, or_self, if_false]
  exact ⟨_, _, rfl⟩

end

/-! ## Fences (R305, R307) -/

/-- The barrier packet of a context completes: it stands no longer, and one packet less is outstanding. -/
theorem completeBarrier_ctx {s : State} {c : Nat} {v : Vec} (hbar : (s.ctx c).barrier = some v) (status cause : Nat) :
    ((completeBarrier s c status cause).ctx c).barrier = none ∧ ((completeBarrier s c status cause).ctx c).begun = false
    ∧ ((completeBarrier s c status cause).ctx c).outst = (s.ctx c).outst - 1 := by
  simp only [completeBarrier, hbar, modCtx_ctx_self, completePacket_outst, and_self]

theorem fencePacket_completes {s : State} (h : (lane s.arg.v 1).getLsbD 0 = false ∨ launchesRun s s.arg.a = false) :
    exec .fencePacket s = .next (completeBarrier s s.arg.a 0 0) := by
  change execFencePacket s = _
  rcases h with hpre | hidle
  · simp only [execFencePacket, hpre, Bool.not_false, if_true]
  · simp only [execFencePacket, hidle, Bool.false_eq_true, if_false, ite_self]

/-! ## Device launches (R234, R307) -/

section
variable {s : State} {l : Launch} (hl : mfind s.launches s.arg.a = some l)
include hl

theorem deviceLaunchArrival_leaves (hb : s.arg.b = 0) (hprior : priorPending s s.arg.c s.arg.d = false) : exec .deviceLaunchArrival s
    = .next (s.planEv (s.mcnt + schedTransit s s.arg.e) rkArrive .deviceLaunchArrival { s.arg with b := 1 }) := by
  change execDeviceLaunchArrival s = _
  simp only [execDeviceLaunchArrival, hl, hb, hprior, Bool.false_eq_true, if_false, if_true]

theorem deviceLaunchArrival_joins (hb : s.arg.b ≠ 0) (hroom : deviceQueue s l.ctx < 32) (hup : schedDown s = false) :
    exec .deviceLaunchArrival s
      = .next { s with nextId := s.nextId + 1, launches := mset s.launches s.arg.a { l with st := .pending, order := s.nextId } } := by
  change execDeviceLaunchArrival s = _
  simp only [execDeviceLaunchArrival, hl, hb, Nat.not_le.mpr hroom, hup, Bool.false_eq_true, if_false, State.fresh, State.setLaunch]

end

/-- Settles O41: each clause reads the state that the lemma about its event gives. -/
theorem schedulerReads : Obligations.SchedulerReads := by
  unfold Obligations.SchedulerReads
  intro s c
  refine ⟨doorbellWrite_latches, fun hlive => ⟨fun hturn => ?again, fun hfn => ?frozen⟩, fun hb => ?begun, fun hb hread => ?read,
    launchPacket_timed, fun hlevel hcredit hdep3 hdep4 hkern => ?joined, fun v hbar hdone => ?fence,
    fun l hl => ⟨fun hb hprior => ?sent, deviceLaunchArrival_joins hl⟩⟩
  case again => exact ⟨_, doorbellWrite_waits hlive hturn, rfl, _, (mem_plan _ _ _ _ _).mpr (.inl rfl)⟩
  case frozen => exact ⟨_, doorbellWrite_frozen hlive hfn, rfl⟩
  case begun =>
    have hitem := (mem_plan s (s.mcnt + 512) rkArrive (.ev .schedulerScan (Arg.of c 0 0 0 0)) _).mpr (.inl rfl)
    refine ⟨_, schedulerScan_begins hb, ?_⟩
    by_cases hup : schedUp s = true ∧ (s.ctx c).live = true
    · rw [if_pos hup]
      obtain ⟨hmem, hslots, hagenda⟩ := takeLatch_keeps (s.planN (s.mcnt + 512) rkArrive .schedulerScan c 0) c
      refine ⟨(mem_plan _ _ _ _ _).mpr (.inr (hagenda hitem)), hmem, hslots, fun _ _ hpend => ?_⟩
      have hctx := takeLatch_ctx (s.planN_ctx (s.mcnt + 512) rkArrive .schedulerScan c 0 c) hpend
      refine ⟨fun hfit => ?_, fun hpast => ?_⟩
      · have htaken := hctx.trans (if_pos hfit)
        exact ⟨(congrArg Ctx.tail htaken :), (congrArg Ctx.pend htaken :)⟩
      · have hdropped := hctx.trans (if_neg hpast)
        exact ⟨(congrArg Ctx.tail hdropped :), (congrArg Ctx.ovf hdropped :)⟩
    · rw [if_neg hup]
      exact ⟨hitem, rfl, rfl, fun h1 h2 => absurd ⟨h1, h2⟩ hup⟩
  case read =>
    intro x v hok
    refine ⟨_, schedulerScan_reads hb hread, ?_⟩
    have hread : (headRead s c).ctx c = { x with head := (x.head + 1) % queueSize x.policy, outst := x.outst + 1 } := modCtx_ctx_self _ _ _
    by_cases hbar : isBarrier (packetType v) = true
    · rw [readPacket_holds hok hbar]
      have hheld := modCtx_ctx_self (headRead s c) c (fun y => { y with barrier := some v, begun := false })
      rw [hread] at hheld
      exact ⟨congrArg Ctx.head hheld, congrArg Ctx.outst hheld, rfl, rfl, fun _ => congrArg Ctx.barrier hheld,
        fun hfree => absurd (hbar.symm.trans hfree) (by decide)⟩
    · rw [readPacket_hands_on hok (Bool.eq_false_iff.mpr hbar)]
      exact ⟨congrArg Ctx.head hread, congrArg Ctx.outst hread, rfl, rfl, fun hheld => absurd hheld hbar,
        fun _ => (mem_plan _ _ _ _ _).mpr (.inr ((mem_plan _ _ _ _ _).mpr (.inl rfl)))⟩
  case joined =>
    obtain ⟨deps, esc, hexec⟩ := launchPacket_joins hlevel hcredit hdep3 hdep4 hkern
    exact ⟨_, hexec, rfl, rfl, _, mfind_mset_self _ _ _, rfl, rfl, rfl, rfl, rfl, rfl, rfl⟩
  case fence =>
    obtain ⟨hnone, hbegun, houtst⟩ := completeBarrier_ctx hbar 0 0
    exact ⟨_, fencePacket_completes hdone, hnone, hbegun, houtst, (replies_completeBarrier _ _ _ _).slots⟩
  case sent => exact ⟨_, deviceLaunchArrival_leaves hl hb hprior, rfl, rfl, (mem_plan _ _ _ _ _).mpr (.inl rfl)⟩

end Sys2Proof.Machine
end

section
/-! # The Meridian count, dies that rejoin, and the Sextant (R333, R334, R349 to R353) -/

namespace Sys2Proof

/-- What a map lists under a key that passes a test is listed under the key of its image. -/
theorem mfind_map_filter {α β : Type} (d : α) {p : α → Bool} (f : α → β) (hd : p d = false) {m : Map α} {k : Nat} (h : p (mget d m k) = true) :
    mfind ((m.filter (fun c => p c.2)).map (fun c => (c.1, f c.2))) k = some (f (mget d m k)) := by
  induction m with
  | nil => exact absurd (hd.symm.trans h) (by decide)
  | cons c r ih =>
    obtain ⟨j, x⟩ := c
    by_cases hj : j = k
    · have hx : p x = true := by simpa [mget, hj] using h
      simp [mget, mfind, hj, hx]
    · have hr : p (mget d r k) = true := by simpa [mget, hj] using h
      cases hx : p x <;> simp [mget, mfind, hj, hx, ih hr]

end Sys2Proof

namespace Sys2Proof.Machine

/-! ## The exchange (R353) -/

section
variable {s : State}

theorem meridianExchange_sends (hb : s.arg.b ≠ 1) : exec .meridianExchange s
    = .next (({ (s.planEv (s.mcnt + 40) rkArrive .meridianExchangeReceive (Arg.of 0 0 s.mcnt 0 0)).planEv (s.mcnt + 40) rkArrive
        .meridianExchangeReceive (Arg.of 1 0 s.mcnt 0 0) with
      links := s.links.map (fun k => (k.1, { k.2 with lanes := [] })) } : State).planN (s.mcnt + 2969600) rkStart .meridianExchange 0 0) := by
  change execMeridianExchange s = _
  simp only [execMeridianExchange, hb, if_false]

/-- The count that die a of the event has received goes on to the die beyond it, where the port die sent it. -/
def forwardCount (s x : State) : State :=
  if s.arg.b = 0 ∧ s.arg.a % 4 < 2 then
    x.planEv (s.mcnt + 41) rkArrive .meridianExchangeReceive (Arg.of (s.arg.a % 4 + 2) (s.arg.a % 4 + 1) (s.arg.c + 41) s.arg.d 0)
  else x

theorem forwardCount_plans (s x : State) : Plans x (forwardCount s x) := by
  unfold forwardCount
  split
  · exact (Plans.refl x).plan _ _ _
  · exact .refl x

variable (hup : (s.die (s.arg.a % 4)).down = false) (hgot : s.arg.e ≠ 1)
include hup hgot

theorem meridianExchangeReceive_agrees (hsame : meridianOf s (s.arg.a % 4) = (s.arg.c : Int) + 40) :
    exec .meridianExchangeReceive s = .next (forwardCount s s) := by
  change execMeridianExchangeReceive s = _
  simp only [execMeridianExchangeReceive, hup, hgot, hsame, forwardCount, Bool.not_false, Bool.false_eq_true, and_true, if_false, if_true]

/-- A count that differs is recorded with its difference. -/
theorem meridianExchangeReceive_differs (hdiff : meridianOf s (s.arg.a % 4) ≠ (s.arg.c : Int) + 40) :
    exec .meridianExchangeReceive s = .next (forwardCount s (s.raise (s.arg.a % 4) 0x08A (.nobody 15 (144 * (s.arg.a % 4))) s.mcnt
      (min (meridianOf s (s.arg.a % 4) - ((s.arg.c : Int) + 40)).natAbs 0xFF_FFFF))) := by
  change execMeridianExchangeReceive s = _
  simp only [execMeridianExchangeReceive, hup, hgot, hdiff, forwardCount, Bool.not_false, Bool.false_eq_true, and_true, if_false]

end

/-- A record takes the next sequence number of its die. -/
theorem raise_seq (s : State) (d cause : Nat) (m : Master) (t detail : Nat) :
    ((s.raise d cause m t detail).die d).seq = ((s.die d).seq + 1) % 4096 := by
  obtain ⟨x, hseq, hx⟩ := raise_records s d cause m t detail
  rw [hx.die, State.setDie_die, if_pos rfl, hseq]

/-! ## A die rejoins (R334) -/

theorem modDie_die_self (s : State) (d : Nat) (f : Die → Die) : (s.modDie d f).die d = f (s.die d) := by simp

/-- The audits of a die change neither memory nor a slot, nor a context. -/
theorem rejoinAudits_keeps (s : State) (d : Nat) :
    (rejoinAudits s d).2.mem = s.mem ∧ (rejoinAudits s d).2.slots = s.slots := by
  refine List.foldlRecOn [0, 5, 7, 20] _ (motive := fun p : Bool × State => p.2.mem = s.mem ∧ p.2.slots = s.slots) ⟨rfl, rfl⟩
    fun p hp no _ => ?_
  dsimp only
  split
  · exact hp
  · obtain ⟨-, hslots, hmem, -⟩ := failAudit_effect p.2.drawWord.2 no (if auditClass no = 0 then 144 * d + p.2.drawWord.1.toNat % 144 else d) 10
      p.2.drawWord.1
    exact ⟨hmem.trans hp.1, hslots.trans hp.2⟩

section
variable {s : State}

theorem dieRejoin_of_up (hup : (s.die (s.arg.a % 4)).down = false) : exec .dieRejoin s = .next s := by
  change execDieRejoin s = _
  simp only [execDieRejoin, hup, Bool.not_false, if_true]

variable (hdown : (s.die (s.arg.a % 4)).down = true)
include hdown

theorem dieRejoin_takes_count (hb : s.arg.b = 0) : exec .dieRejoin s
    = .next ((s.modDie (s.arg.a % 4) (fun x => { x with skew := 0 })).planN (exchangeFrom s.mcnt + 81) rkArrive .dieRejoin (s.arg.a % 4) 1) := by
  change execDieRejoin s = _
  simp only [execDieRejoin, hdown, hb, Bool.not_true, Bool.false_eq_true, if_false, if_true]

/-- A die whose count agrees and whose audits pass is in service, with the generations of the contexts that exist. -/
theorem dieRejoin_returns (hb : s.arg.b ≠ 0) (hpass : (rejoinAudits s (s.arg.a % 4)).1 = true) (hskew : (s.die (s.arg.a % 4)).skew = 0) :
    ∃ u : State, u.mem = s.mem ∧ u.slots = s.slots ∧ exec .dieRejoin s = .next (u.modDie (s.arg.a % 4) (fun x => { x with
      down := false, gens := (s.ctxs.filter (fun c => c.2.live)).map (fun c => (c.1, c.2.gen)) })) := by
  obtain ⟨hmem, hslots⟩ := rejoinAudits_keeps s (s.arg.a % 4)
  refine ⟨_, hmem, hslots, ?_⟩
  change execDieRejoin s = _
  simp only [execDieRejoin, hdown, hb, hpass, hskew, Bool.not_true, Bool.false_eq_true, and_self, if_false, if_true]

end

/-! ## Samples (R350, R351) -/

section
variable {s : State}

theorem sxofsWrite_samples (hsrc : sxSrc s = 1) (hfn : 0 ∉ s.fnFrozen) :
    exec .sxofsWrite s = .next (sample s (BitVec.ofNat 32 s.arg.a).toInt) := by
  change execSxofsWrite s = _
  simp only [execSxofsWrite, byHost_of_free hfn, hsrc, if_true]

theorem sxofsWrite_ignored (hsrc : sxSrc s ≠ 1) (hfn : 0 ∉ s.fnFrozen) : exec .sxofsWrite s = .next s := by
  change execSxofsWrite s = _
  simp only [execSxofsWrite, byHost_of_free hfn, hsrc, if_false]

theorem ppsInputEdge_samples (hsrc : sxSrc s = 2) : exec .ppsInputEdge s
    = .next (sample s ((if 500000000 ≤ Int.emod (todNow s) 1000000000 then Int.emod (todNow s) 1000000000 - 1000000000
      else Int.emod (todNow s) 1000000000) * 16)) := by
  change execPpsInputEdge s = _
  simp only [execPpsInputEdge, hsrc, if_true]

theorem ppsInputEdge_ignored (hsrc : sxSrc s ≠ 2) : exec .ppsInputEdge s = .next s := by
  change execPpsInputEdge s = _
  simp only [execPpsInputEdge, hsrc, if_false]

theorem ptmSample_samples (hsrc : sxSrc s = 3) : exec .ptmSample s = .next (sample s ((todNow s - s.arg.i.getD 0 0) * 16)) := by
  change execPtmSample s = _
  simp only [execPtmSample, hsrc, if_true]

theorem ptmSample_ignored (hsrc : sxSrc s ≠ 3) : exec .ptmSample s = .next s := by
  change execPtmSample s = _
  simp only [execPtmSample, hsrc, if_false]

end

/-! ## Trim and holdover (R349, R351) -/

/-- The judgement of the holdover bound may set HEXC and write a record; nothing else changes but what is planned. -/
theorem checkHoldover_keeps (s : State) : (∃ h o, (checkHoldover s).sextant = { s.sextant with hexc := h, told := o })
    ∧ (checkHoldover s).mem = s.mem ∧ (checkHoldover s).slots = s.slots ∧ s.agenda ⊆ (checkHoldover s).agenda := by
  unfold checkHoldover
  extract_lets x b
  split
  · obtain ⟨y, -, hy⟩ := raise_records s 0 0x08E (.nobody 15 0) s.mcnt (min (b / 16) 0xFF_FFFF)
    exact ⟨⟨_, _, rfl⟩, hy.mem, hy.slots, hy.agenda⟩
  · exact ⟨⟨_, _, rfl⟩, rfl, rfl, List.Subset.refl _⟩

theorem Plans.ite {s t u : State} {p : Prop} [Decidable p] (ht : Plans s t) (hu : Plans s u) : Plans s (if p then t else u) := by
  split
  · exact ht
  · exact hu

/-- The Sextant with TRIM one tick nearer to its target. -/
def trimmed (s : State) : Sextant :=
  let x := s.sextant
  let slew : Int := (x.ctl.extractLsb' 8 8).toNat
  let target := if sxSrc s = 0 then 0 else x.target
  { x with target := target, state := if sxSrc s = 0 then 0 else x.state, trim := x.trim + max (-slew) (min (target - x.trim) slew) }

/-- The next tick is planned, and holdover where samples have been missing for too long; then the bound is judged. -/
theorem sextantTrimTick_trims (s : State) : ∃ u, Plans (({ s with sextant := trimmed s } : State).planN (s.mcnt + 2900) rkStart
    .sextantTrimTick 0 0) u ∧ exec .sextantTrimTick s = .next (checkHoldover u) := by
  exact ⟨_, Plans.ite ((Plans.refl _).plan _ _ _) (.refl _), rfl⟩

/-- The Sextant as it enters holdover: its target is what it has integrated. -/
def heldOver (s : State) : Sextant :=
  { s.sextant with state := 3, since := s.mcnt / 2900, told := false, target := s.sextant.iacc }

theorem sextantHoldoverEntry_holds (s : State) : exec .sextantHoldoverEntry s = .next (checkHoldover { s with sextant := heldOver s }) := rfl

/-! ## 1PPS and the time of day (R352) -/

theorem ppsOutRise_rises (s : State) : exec .ppsOutRise s
    = .next (planPps ({ s with sextant := { s.sextant with pps := true } }.planN (s.mcnt + 290000) rkStart .ppsOutFall 0 0)) := rfl

/-- Planning the next rising edge removes nothing but rising edges. -/
theorem planPps_agenda {s : State} {it : Item} (hit : it ∈ s.agenda) (hact : ∀ a, it.act ≠ .ev .ppsOutRise a) : it ∈ (planPps s).agenda := by
  refine (mem_plan _ _ _ _ _).mpr (.inr ((mem_unplan _ _ _).mpr ⟨hit, ?_⟩))
  split
  · exact absurd ‹_› (hact _)
  · rfl

section
variable {s : State}

theorem todbaseWrite_aborts (harmed : timedArmed s = true) (hfn : 0 ∉ s.fnFrozen) :
    exec .todbaseWrite s = .next { s with port := { s.port with aborts := s.port.aborts + 1 } } := by
  change execTodbaseWrite s = _
  simp only [execTodbaseWrite, byHost_of_free hfn, harmed, if_true]

theorem todbaseWrite_sets (hfree : timedArmed s = false) (hfn : 0 ∉ s.fnFrozen) : exec .todbaseWrite s
    = .next (planPps { s with sextant := { s.sextant with
        tod := ((s.arg.a % 2 ^ 48 * 1000000000 + s.arg.b % 2 ^ 30 : Nat) : Int) } }) := by
  change execTodbaseWrite s = _
  simp only [execTodbaseWrite, byHost_of_free hfn, hfree, Bool.false_eq_true, if_false]

end

/-- Settles O50: each clause reads the state that the lemma about its event gives. -/
theorem timebaseRuns : Obligations.TimebaseRuns := by
  unfold Obligations.TimebaseRuns
  intro s g d x kp ki sampled
  have hsampled (e : Int) : sampled e (sample s e) := ⟨rfl, rfl, rfl, rfl, rfl, rfl, rfl⟩
  refine ⟨fun hb => ?exchanged, fun hup hgot hsame => ⟨fun hfwd => ?forwarded, fun hend => ?received⟩, fun hup hgot hdiff => ?differs,
    fun hdown => ⟨fun hb => ?counted, fun hb hpass hskew => ?returned⟩, dieRejoin_of_up,
    fun hsrc hfn => ⟨_, sxofsWrite_samples hsrc hfn, hsampled _⟩, sxofsWrite_ignored,
    fun hsrc => ⟨_, ppsInputEdge_samples hsrc, hsampled _⟩, ppsInputEdge_ignored,
    fun hsrc => ⟨_, ptmSample_samples hsrc, hsampled _⟩, ptmSample_ignored, ?trim, ?holdover, ?rise, rfl, rfl,
    todbaseWrite_aborts, fun hfree hfn => ⟨_, todbaseWrite_sets hfree hfn, rfl, rfl, rfl, rfl⟩⟩
  case exchanged =>
    refine ⟨_, meridianExchange_sends hb, rfl, rfl, fun k hk => (mem_plan _ _ _ _ _).mpr (.inr ?_), (mem_plan _ _ _ _ _).mpr (.inl rfl)⟩
    obtain rfl | rfl : k = 0 ∨ k = 1 := by omega
    · exact (mem_plan _ _ _ _ _).mpr (.inr ((mem_plan _ _ _ _ _).mpr (.inl rfl)))
    · exact (mem_plan _ _ _ _ _).mpr (.inl rfl)
  case forwarded => rw [meridianExchangeReceive_agrees hup hgot hsame, forwardCount, if_pos hfwd]
  case received => rw [meridianExchangeReceive_agrees hup hgot hsame, forwardCount, if_neg hend]
  case differs =>
    have hfwd := forwardCount_plans s (s.raise d 0x08A (.nobody 15 (144 * d)) s.mcnt (min (meridianOf s d - ((g.c : Int) + 40)).natAbs 0xFF_FFFF))
    obtain ⟨y, -, hy⟩ := raise_records s d 0x08A (.nobody 15 (144 * d)) s.mcnt (min (meridianOf s d - ((g.c : Int) + 40)).natAbs 0xFF_FFFF)
    refine ⟨_, meridianExchangeReceive_differs hup hgot hdiff, ?_, hfwd.slots.trans hy.slots, hfwd.mem.trans hy.mem⟩
    rw [hfwd.die, raise_seq]
  case counted =>
    have hdie := modDie_die_self s d (fun x => { x with skew := 0 })
    exact ⟨_, dieRejoin_takes_count hdown hb, congrArg Die.skew hdie, (congrArg Die.down hdie).trans hdown, rfl, rfl⟩
  case returned =>
    obtain ⟨u, hmem, hslots, hexec⟩ := dieRejoin_returns hdown hb hpass hskew
    have hdie := modDie_die_self u d (fun x => { x with
      down := false, gens := (s.ctxs.filter (fun c => c.2.live)).map (fun c => (c.1, c.2.gen)) })
    refine ⟨_, hexec, congrArg Die.down hdie, fun c hlive => ?_, hmem, hslots⟩
    exact (congrArg (fun x => mfind x.gens c) hdie).trans (mfind_map_filter Ctx.reset Ctx.gen rfl hlive)
  case trim =>
    obtain ⟨u, hplans, hexec⟩ := sextantTrimTick_trims s
    obtain ⟨⟨h, o, hx⟩, hmem, hslots, hagenda⟩ := checkHoldover_keeps u
    have hu : u.sextant = trimmed s := hplans.keeps State.sextant fun _ => rfl
    rw [hu] at hx
    exact ⟨_, hexec, (congrArg Sextant.trim hx :), (congrArg Sextant.iacc hx :),
      hagenda (hplans.agenda ((mem_plan _ _ _ _ _).mpr (.inl rfl))), hmem.trans hplans.mem, hslots.trans hplans.slots⟩
  case holdover =>
    obtain ⟨⟨h, o, hx⟩, hmem, hslots, -⟩ := checkHoldover_keeps { s with sextant := heldOver s }
    exact ⟨_, sextantHoldoverEntry_holds s, (congrArg Sextant.state hx :), (congrArg Sextant.target hx :), (congrArg Sextant.iacc hx :),
      (congrArg Sextant.trim hx :), hmem, hslots⟩
  case rise =>
    exact ⟨_, ppsOutRise_rises s, rfl, rfl, rfl, planPps_agenda ((mem_plan _ _ _ _ _).mpr (.inl rfl)) (fun a => by simp)⟩

end Sys2Proof.Machine
end

section
/-! # Helm graphs are loaded and started (R262, R372)

A graph that is loaded and started changes its tiles and its Tellers; the port die keeps what it holds, but for a report of the loader. -/

namespace Sys2Proof.Machine

/-! ## The words of a tile (R262, R396) -/

theorem mendWord_port (s : State) (t : Nat) (p : CfgPart) (ix : Nat) : (s.mendWord t p ix).port = s.port := ite_reads State.port rfl rfl

theorem cfgWrite_port (s : State) (t : Nat) (loc : CfgLoc) (w : Word) : (cfgWrite s t loc w).port = s.port := by
  unfold cfgWrite
  extract_lets s1 ve w1
  have h1 : s1.port = s.port := by
    unfold s1
    split
    · exact mendWord_port _ _ _ _
    · rfl
  rw [← h1]
  clear_value s1
  cases loc with
  | switch v port _ => cases port <;> rfl
  | stage v n =>
    match n with
    | 6 => exact foldl_reads State.port (fun a k => State.setSlot_port a _ _) _ s1
    | 0 | 1 | 2 | 3 | 4 | 5 | _ + 7 => rfl
  | iwin n k h => cases h <;> exact ite_reads State.port rfl rfl
  | seed h => cases h <;> rfl
  | imem | bind | const | tmap | tmpl | mtab | desc | rec_ | nbr | colour | window | bar | ctr | tid | preload | lkey | topo | vreg | sreg
  | cap => rfl

theorem modPort_port (s : State) (t : Nat) (f : CfgPort → CfgPort) : (s.modPort t f).port = s.port := rfl

theorem clearTile_port (s : State) (t : Nat) : (clearTile s t).port = s.port := by
  unfold clearTile
  extract_lets s1 s2 s3 s4
  have h1 : s1.port = s.port := foldl_reads State.port (fun a v => State.setElem_port _ _ _) _ s
  have h2 : s2.port = s1.port := foldl_reads State.port (fun a n => State.setSlot_port _ _ _) _ s1
  have h3 : s3.port = s2.port := foldl_reads State.port (fun a k => State.setSport_port _ _ _) _ s2
  have h4 : s4.port = s3.port := State.setTile_port _ _ _
  rw [modPort_port, State.setLode_port, State.modNode_eq, State.setNode_port, h4, h3, h2, h1]

theorem emptyTile_port (s : State) (t : Nat) : (emptyTile s t).port = s.port := rfl

theorem seedTile_port (s : State) (t : Nat) (fresh : Bool) : (seedTile s t fresh).port = s.port := by
  unfold seedTile
  extract_lets p g s1
  have h1 : s1.port = s.port := foldl_reads State.port (fun a n => ite_reads State.port rfl (State.setSlot_port _ _ _)) _ s
  exact ite_reads State.port ((State.setLode_port _ _ _).trans h1) h1

theorem preloadTile_port (s : State) (t c : Nat) : (preloadTile s t c).port = s.port :=
  foldl_reads State.port (fun a _ => ite_reads State.port (State.setTile_port _ _ _ : (fillObject a t c _).port = a.port) rfl) _ s

theorem couple_port (s : State) (v : Nat) : (couple s v).port = s.port := State.setElem_port _ _ _

theorem sealTile_port (s : State) (t : Nat) (fresh : Bool) : (sealTile s t fresh).port = s.port := by
  unfold sealTile
  extract_lets s1 c
  have h1 : s1.port = s.port := (foldl_reads State.port (fun a k => couple_port _ _) _ _).trans (seedTile_port s t fresh)
  exact ite_reads State.port ((preloadTile_port _ _ _).trans h1) h1

theorem loadTile_port (s : State) (t : Nat) (ctx graph : Option Nat) (seed : BitVec 64) (n : Nat) (keep : Bool) (g : Config.TileImg)
    (words : Map Word) : (loadTile s t ctx graph seed n keep g words).port = s.port := by
  unfold loadTile
  extract_lets first lode keepAcc s0 node s1 s2 s3 s4
  have h0 : s0.port = s.port := (emptyTile_port _ t).trans (clearTile_port s t)
  have h1 : s1.port = s0.port := (State.setNode_port _ _ _).trans (ite_reads State.port rfl (State.setLode_port _ _ _))
  have h2 : s2.port = s1.port := State.setTile_port _ _ _
  have h3 : s3.port = s2.port := by
    refine foldl_reads State.port (fun a p => ?_) words s2
    split
    · exact cfgWrite_port _ _ _ _
    · rfl
  have h4 : s4.port = s3.port := foldl_reads State.port (fun a x => State.setSlot_port _ _ _) _ s3
  rw [modPort_port, sealTile_port, modPort_port, h4, h3, h2, h1, h0]

/-! ## What the port die holds of an image -/

/-- BOOTSTAT, the running image, the update and the heartbeats, as the port die holds them. -/
def imageHeld (s : State) : Word × Option HelmImage × Option Update × Word × Bool :=
  (s.port.boot, s.port.image, s.port.update, s.port.hb, s.port.hbHold)

theorem imageHeld_of_port {s t : State} (h : t.port = s.port) : imageHeld t = imageHeld s := by rw [imageHeld, imageHeld, h]

/-- Loading a Helm graph leaves at most a report on the port die. -/
theorem loadGraph_imageHeld (s : State) (h : HelmImage) (g : Nat) : imageHeld (loadGraph s h g) = imageHeld s := by
  unfold loadGraph
  split
  next =>
    extract_lets s1
    have h1 : imageHeld s1 = imageHeld s := imageHeld_of_port (foldl_reads State.port (fun a u => loadTile_port _ _ _ _ _ _ _ _ _) _ s)
    refine ite_reads imageHeld ?_ h1
    exact (foldl_reads imageHeld (fun a tl => imageHeld_of_port (State.setTel_port _ _ _)) _ s1).trans h1
  next => split <;> rfl

theorem startSlot_port (s : State) (n base : Nat) : (startSlot s n base).port = s.port := by
  obtain ⟨_, _, _, h⟩ := startSlot_rest s n base
  rw [h]

theorem startGraph_imageHeld (s : State) (h : HelmImage) (g : Nat) : imageHeld (startGraph s h g) = imageHeld s := by
  refine imageHeld_of_port ?_
  unfold startGraph
  split
  · refine foldl_reads State.port (fun a u => foldl_reads State.port (fun b x => ?_) _ a) _ s
    exact ite_reads State.port (startSlot_port _ _ _) rfl
  · rfl

/-- Helm graphs that are loaded and started, one after another. -/
theorem foldl_startGraph_imageHeld (h : HelmImage) (gs : List Nat) (s : State) :
    imageHeld (gs.foldl (fun a g => startGraph (loadGraph a h g) h g) s) = imageHeld s :=
  foldl_reads imageHeld (fun _ _ => (startGraph_imageHeld _ _ _).trans (loadGraph_imageHeld _ _ _)) gs s

theorem fireMsix_imageHeld (s : State) (fn v : Nat) : imageHeld (fireMsix s fn v) = imageHeld s := rfl
theorem write_port (s : State) (a v n : Nat) : (s.write a v n).port = s.port := rfl

theorem completePacket_imageHeld (s : State) (c : Nat) (w0 : Word) (kern abnd status cause : Nat) :
    imageHeld (completePacket s c w0 kern abnd status cause) = imageHeld s := by
  unfold completePacket
  extract_lets x s1 n s2
  have h1 : s1.port = s.port := State.setCtx_port _ _ _
  have h2 : s2.port = s.port := (write_port _ _ _ _).trans h1
  split
  · exact (fireMsix_imageHeld _ _ _).trans (imageHeld_of_port ((State.setCtx_port _ _ _).trans h2))
  · exact imageHeld_of_port h1

/-- A completion signals the host and leaves the image that runs, and its update, alone. -/
theorem completeBarrier_imageHeld (s : State) (c status cause : Nat) : imageHeld (completeBarrier s c status cause) = imageHeld s := by
  unfold completeBarrier
  split
  · exact (imageHeld_of_port (State.setCtx_port _ _ _)).trans (completePacket_imageHeld _ _ _ _ _ _ _)
  · rfl

end Sys2Proof.Machine
end

section
/-! # Image updates (R374, R375, R377, R402, R403) -/

namespace Sys2Proof.Machine

theorem Plans.port {s t : State} (h : Plans s t) : t.port = s.port := h.keeps State.port fun _ => rfl

/-! ## The packet (R374, R375) -/

/-- Q of an update: the cycle after the next decision, or the next tick where no Almanac is armed. -/
def quiesceAt (s : State) : Nat := ((nextDecision s).map (· + 1)).getD (nextTick s)

section
variable {s : State} {reason : Nat} {h : HelmImage} (hv : verifySlot s ((lane s.arg.v 1).toNat % 2) false = (reason, h))
include hv

theorem imageUpdatePacket_refuses (hno : s.port.update ≠ none ∨ updateOk s s.arg.v reason h = false) :
    exec .imageUpdatePacket s = .next (completeBarrier s s.arg.a 7 0) := by
  have hcond : s.port.update.isSome = true ∨ (!updateOk s s.arg.v reason h) = true :=
    hno.imp Option.isSome_iff_ne_none.mpr fun hbad => by rw [hbad]; rfl
  change execImageUpdatePacket s = _
  simp only [execImageUpdatePacket, hv, hcond, if_true]

/-- An update that passes its checks waits for Q. -/
theorem imageUpdatePacket_waits (hfree : s.port.update = none) (hok : updateOk s s.arg.v reason h = true) :
    exec .imageUpdatePacket s = .next (State.planN { s with port := { s.port with
      update := some { ctx := s.arg.a, w0 := lane s.arg.v 0, w1 := lane s.arg.v 1, q := quiesceAt s, stage := 1, new := h, old := s.port.hb } } }
      (quiesceAt s) rkHold .updateQuiesce 0 0) := by
  have hcond : ¬ (s.port.update.isSome = true ∨ (!updateOk s s.arg.v reason h) = true) := by simp [hfree, hok]
  change execImageUpdatePacket s = _
  cases hd : nextDecision s with
  | none => simp only [execImageUpdatePacket, hv, hcond, hd, quiesceAt, Option.map_none, Option.getD_none, if_false]
  | some d => simp only [execImageUpdatePacket, hv, hcond, hd, quiesceAt, Option.map_some, Option.getD_some, if_false]

end

/-! ## Heartbeats (R373, R375, R403) -/

/-- The end of a TRY clears it in the boot record; no slot changes, and nothing on the port die. -/
theorem endTry_keeps (s : State) : (endTry s).port = s.port ∧ (endTry s).slots = s.slots :=
  ⟨ite_reads State.port rfl rfl, ite_reads State.slots rfl rfl⟩

section
variable {s : State}

/-- A heartbeat with the expected value, outside an update, sets the bit of its copy; a complete one ends a TRY. -/
theorem heartbeatArrival_sets {k : Nat} (hk : beatBit s.arg.a s.arg.b = some k)
    (hexp : s.arg.c % 65536 = (s.port.hb.extractLsb' 0 16).toNat) (hfree : s.port.update = none) :
    let s1 := { s with port := { s.port with hb := s.port.hb ||| BitVec.ofNat 32 (2 ^ k) } }
    exec .heartbeatArrival s = .next (if beatComplete s1.port.hb then endTry s1 else s1) := by
  intro s1
  change execHeartbeatArrival s = _
  simp only [execHeartbeatArrival, hk, hexp, hfree, ne_eq, not_true_eq_false, if_false, s1]

theorem heartbeatArrival_of_other {k : Nat} (hk : beatBit s.arg.a s.arg.b = some k)
    (hexp : s.arg.c % 65536 ≠ (s.port.hb.extractLsb' 0 16).toNat) : exec .heartbeatArrival s = .next s := by
  change execHeartbeatArrival s = _
  simp only [execHeartbeatArrival, hk, hexp, ne_eq, not_false_eq_true, if_true]

theorem heartbeatArrival_of_none (hk : beatBit s.arg.a s.arg.b = none) : exec .heartbeatArrival s = .next s := by
  change execHeartbeatArrival s = _
  simp only [execHeartbeatArrival, hk]

end

/-! ## Stages (R375 to R377) -/

/-- Handover structures are written to memory alone. -/
theorem writeHandover_keeps (s : State) (hovr : Word) (g : Nat) :
    (writeHandover s hovr g).port = s.port ∧ (writeHandover s hovr g).slots = s.slots :=
  ⟨foldl_reads State.port (fun a _ => foldl_reads State.port (fun b _ => write_port b _ _ _) _ a) _ s,
    foldl_reads State.slots (fun a _ => foldl_reads State.slots (fun b _ => (replies_write b _ _ _).slots) _ a) _ s⟩

theorem auditAll_plans (s : State) (no c : Nat) : Plans s (auditAll s no c) :=
  Plans.foldl (fun a _ => (Plans.refl a).plan _ _ _) (.refl s) _

/-- The service of a power command plans events, and the port die is busy with it. -/
theorem servePower_imageHeld (s : State) : imageHeld (servePower s) = imageHeld s := by
  have hheld {s1 t : State} (h : Plans s1 t) (h1 : imageHeld s1 = imageHeld s) : imageHeld t = imageHeld s :=
    (imageHeld_of_port h.port).trans h1
  unfold servePower
  split
  · rfl
  next code _ _ _ =>
    split
    · rfl
    · extract_lets p s1
      have h1 : imageHeld s1 = imageHeld s := rfl
      split
      · exact hheld ((Plans.refl s1).plan _ _ _) h1
      · refine hheld (Plans.plan (Plans.ite ?_ (.refl s1)) _ _ _) h1
        exact (auditAll_plans _ _ _).trans ((auditAll_plans _ _ _).trans (auditAll_plans _ _ _))

/-- What was held is served: launches, retirements and power commands; the image, the update and the heartbeats stay. -/
theorem serveHeld_imageHeld (s : State) : imageHeld (serveHeld s) = imageHeld s := by
  unfold serveHeld
  extract_lets p s1 s2
  have h2 : imageHeld s2 = imageHeld s1 := by
    refine foldl_reads imageHeld (fun a id => ?_) p.heldLaunches s1
    split <;> rfl
  have hplans := Plans.foldl (fun a (r : Nat × Nat) => (Plans.refl a).plan s.mcnt rkArrive (.ev .launchRetire (Arg.of r.1 r.2 0 0 0)))
    (.refl s2) p.heldRetires
  calc _ = imageHeld _ := servePower_imageHeld _
    _ = imageHeld s2 := imageHeld_of_port hplans.port
    _ = imageHeld s := h2

section
variable {s : State} {u : Update} (hu : s.port.update = some u)
include hu

theorem updateQuiesce_hands_over {run : HelmImage} (hrun : s.port.image = some run) (hstage : u.stage = 1) (hq : u.q = s.mcnt) :
    ∃ s1 : State, s1.port = s.port ∧ s1.slots = s.slots ∧ exec .updateQuiesce s
      = .next ((State.planN { s1 with port := { s1.port with update := some { u with stage := 2 } } }
        (s.mcnt + 800 * 2900) rkHold .updateReloadComplete 0 0).planN (s.mcnt + 2000 * 2900) rkHold .updateHeartbeatDeadline 0 0) := by
  refine ⟨([0, 1, 3].filter (named u.w1)).foldl (fun a g => writeHandover a run.hovr g) s,
    foldl_reads State.port (fun a g => (writeHandover_keeps _ _ _).1) _ s, foldl_reads State.slots (fun a g => (writeHandover_keeps _ _ _).2) _ s, ?_⟩
  change execUpdateQuiesce s = _
  simp only [execUpdateQuiesce, hu, hrun, hstage, hq, ne_eq, not_true_eq_false, or_self, if_false]

/-- The new images of the named graphs are loaded and started; their heartbeats are waited for, EXP being theirs. -/
theorem updateReloadComplete_starts (hstage : u.stage = 2) (hneeds : beatsNeeded u.w1 ≠ 0) :
    exec .updateReloadComplete s = .next (([0, 1, 3].filter (named u.w1)).foldl (fun a g => startGraph (loadGraph a u.new g) u.new g)
      { s with port := { s.port with
        hb := (u.new.hovr.extractLsb' 0 16).setWidth 32, hbHold := true, update := some { u with stage := 3 } } }) := by
  change execUpdateReloadComplete s = _
  simp only [execUpdateReloadComplete, hu, hstage, hneeds, ne_eq, not_true_eq_false, if_false]

theorem updateHeartbeatDeadline_rolls_back (hstage : u.stage = 2 ∨ u.stage = 3) : exec .updateHeartbeatDeadline s
    = .next ((State.raise { s with port := { s.port with update := some { u with stage := 4 } } } 0 0x1C9 (.nobody 8 0) s.mcnt
      (u.w1.toNat % 2)).planN (s.mcnt + 400 * 2900) rkHold .updateRollbackComplete 0 0) := by
  have hno : ¬ (u.stage ≠ 2 ∧ u.stage ≠ 3) := by omega
  change execUpdateHeartbeatDeadline s = _
  simp only [execUpdateHeartbeatDeadline, hu, hno, if_false]

/-- The old graphs run again, EXP is the old value, the packet completes, and what was held is served. -/
theorem updateRollbackComplete_restores {run : HelmImage} (hrun : s.port.image = some run) (hstage : u.stage = 4) :
    ∃ s1, imageHeld s1 = imageHeld s ∧ exec .updateRollbackComplete s = .next (serveHeld (completeBarrier
      { s1 with port := { s1.port with update := none, hbHold := false, hb := u.old &&& 0xFFFF#32 } } u.ctx 7 0x1C9)) := by
  refine ⟨_, foldl_startGraph_imageHeld run ([0, 1, 3].filter (named u.w1)) s, ?_⟩
  change execUpdateRollbackComplete s = _
  simp only [execUpdateRollbackComplete, hu, hrun, hstage, ne_eq, not_true_eq_false, if_false]

end

/-- Settles O53: each clause reads the state that the lemma about its event gives. -/
theorem updatesRun : Obligations.UpdatesRun := by
  unfold Obligations.UpdatesRun
  intro s g w1
  refine ⟨fun reason h hv => ⟨fun hno => ?refused, fun hfree hok => ?waits⟩,
    fun k hk => ⟨fun hexp hfree => ?beat, heartbeatArrival_of_other hk⟩, heartbeatArrival_of_none,
    fun u hu => ⟨fun run hrun hstage hq => ?quiesced, fun hstage hneeds => ?reloaded, fun hstage => ?late, fun run hrun hstage => ?rolledBack⟩⟩
  case refused =>
    have hheld := completeBarrier_imageHeld s g.a 7 0
    exact ⟨_, imageUpdatePacket_refuses hv hno, congrArg (fun p => p.2.2.1) hheld, congrArg (fun p => p.2.1) hheld,
      (replies_completeBarrier _ _ _ _).slots⟩
  case waits =>
    refine ⟨_, imageUpdatePacket_waits hv hfree hok, rfl, rfl, quiesceAt s, rfl, fun hnone => ?_, fun c hc => ?_, (mem_plan _ _ _ _ _).mpr (.inl rfl)⟩
    · rw [quiesceAt, hnone]; rfl
    · rw [quiesceAt, hc]; rfl
  case beat =>
    obtain ⟨hport, hslots⟩ := endTry_keeps { s with port := { s.port with hb := s.port.hb ||| BitVec.ofNat 32 (2 ^ k) } }
    refine ⟨_, heartbeatArrival_sets hk hexp hfree, ?_⟩
    split
    · exact ⟨congrArg PortDie.hb hport, hslots⟩
    · exact ⟨rfl, rfl⟩
  case quiesced =>
    obtain ⟨s1, -, hslots, hexec⟩ := updateQuiesce_hands_over hu hrun hstage hq
    exact ⟨_, hexec, rfl, (mem_plan _ _ _ _ _).mpr (.inr ((mem_plan _ _ _ _ _).mpr (.inl rfl))), (mem_plan _ _ _ _ _).mpr (.inl rfl), hslots⟩
  case reloaded =>
    have hheld := foldl_startGraph_imageHeld u.new ([0, 1, 3].filter (named u.w1)) { s with port := { s.port with
      hb := (u.new.hovr.extractLsb' 0 16).setWidth 32, hbHold := true, update := some { u with stage := 3 } } }
    exact ⟨_, updateReloadComplete_starts hu hstage hneeds, congrArg (fun p => p.2.2.1) hheld, congrArg (fun p => p.2.2.2.1) hheld,
      congrArg (fun p => p.2.2.2.2) hheld⟩
  case late =>
    have hseq := raise_seq { s with port := { s.port with update := some { u with stage := 4 } } } 0 0x1C9 (.nobody 8 0) s.mcnt (u.w1.toNat % 2)
    obtain ⟨x, -, hx⟩ := raise_records { s with port := { s.port with update := some { u with stage := 4 } } } 0 0x1C9 (.nobody 8 0) s.mcnt
      (u.w1.toNat % 2)
    exact ⟨_, updateHeartbeatDeadline_rolls_back hu hstage, congrArg PortDie.update hx.port, hseq, hx.slots, hx.mem,
      (mem_plan _ _ _ _ _).mpr (.inl rfl)⟩
  case rolledBack =>
    obtain ⟨s1, hs1, hexec⟩ := updateRollbackComplete_restores hu hrun hstage
    have himage : s1.port.image = some run := (congrArg (fun p => p.2.1) hs1).trans hrun
    have hheld := (serveHeld_imageHeld _).trans (completeBarrier_imageHeld
      { s1 with port := { s1.port with update := none, hbHold := false, hb := u.old &&& 0xFFFF#32 } } u.ctx 7 0x1C9)
    exact ⟨_, hexec, congrArg (fun p => p.2.2.1) hheld, (congrArg (fun p => p.2.1) hheld).trans himage, congrArg (fun p => p.2.2.2.1) hheld,
      congrArg (fun p => p.2.2.2.2) hheld⟩

end Sys2Proof.Machine
end

section
/-! # Boot, heartbeats, fuses, flash and registers (R369, R371 to R373, R402) -/

namespace Sys2Proof.Machine

/-! ## BOOTSTAT (R372) -/

theorem bootStage_setStage (s : State) {k : Nat} (hk : k < 16) : bootStage (setStage s k) = k := by
  have hlow : (s.port.boot.toNat &&& 0x0FFF_FFFF) >>> 28 = 0 := by
    rw [Nat.shiftRight_and_distrib]
    simp
  have hstage : k * 2 ^ 28 % 2 ^ 32 / 2 ^ 28 % 16 = k := by omega
  have hfield : bootStage (setStage s k) = (((s.port.boot.toNat &&& 0x0FFF_FFFF) ||| (k * 2 ^ 28 % 2 ^ 32)) >>> 28) % 2 ^ 4 := by
    simp [bootStage, setStage]
  rw [hfield, Nat.shiftRight_or_distrib, hlow, Nat.zero_or, Nat.shiftRight_eq_div_pow]
  exact hstage

theorem bootStage_of_boot {s t : State} (h : t.port.boot = s.port.boot) : bootStage t = bootStage s := by rw [bootStage, bootStage, h]

/-- STAGE, SLOT and FB of a BOOTSTAT word whose fields are within their bits. -/
theorem bootWord_fields {stage slot try_ fb vfa vfb : Nat} (hstage : stage < 16) (hslot : slot < 2) (htry : try_ < 2) (hfb : fb < 2)
    (hvfa : vfa < 512) (hvfb : vfb < 256) :
    ((bootWord stage slot try_ fb vfa vfb).extractLsb' 28 4).toNat = stage
    ∧ (bootWord stage slot try_ fb vfa vfb).getLsbD 27 = decide (slot = 1)
    ∧ (bootWord stage slot try_ fb vfa vfb).getLsbD 25 = decide (fb = 1) := by
  unfold bootWord
  refine ⟨?_, ?_, ?_⟩
  · rw [BitVec.extractLsb'_toNat, BitVec.toNat_ofNat, Nat.shiftRight_eq_div_pow]
    omega
  · rw [BitVec.getLsbD_ofNat, Nat.testBit_eq_decide_div_mod_eq]
    simp
    omega
  · rw [BitVec.getLsbD_ofNat, Nat.testBit_eq_decide_div_mod_eq]
    simp
    omega

/-! ## Verification of a slot (R371) -/

theorem verifyImage_lt (hdr body : List (BitVec 8)) (magic : Nat) (graphs lenOk : Bool) (rollback : Nat) :
    verifyImage hdr body magic graphs lenOk rollback < 256 := by
  unfold verifyImage
  repeat' split
  all_goals decide

/-- The reason that a slot does not verify fits its field of BOOTSTAT. -/
theorem verifySlot_lt (s : State) (slot : Nat) (lost : Bool) : (verifySlot s slot lost).1 < 256 := by
  change (if lost then 6 else verifyImage _ _ _ _ _ _) < 256
  split
  · decide
  · exact verifyImage_lt _ _ _ _ _ _

/-! ## Stage 2: a slot is verified and runs (R371, R372) -/

/-- Byte 0 of the boot record: the preferred slot, and TRY. -/
def bootRecord (s : State) : Nat := ((flashBytes s 0 1).headD 0).toNat

/-- BOOTSTAT after the slots have been verified. -/
def withBoot (s : State) (w : Word) : State := { s with port := { s.port with boot := w } }

theorem startHelm_held (s : State) (h : HelmImage) : (startHelm s h).port.boot = s.port.boot ∧ (startHelm s h).port.image = some h := by
  have hheld := foldl_startGraph_imageHeld h (List.range 5) { s with port := { s.port with
    image := some h, stage3 := s.mcnt, hb := (h.hovr.extractLsb' 0 16).setWidth 32, hbHold := false, missed := 0, bootCount := s.port.rollback } }
  exact ⟨congrArg (fun p => p.1) hheld, congrArg (fun p => p.2.1) hheld⟩

/-- A state that a verified slot leads to holds its BOOTSTAT word and its image. -/
theorem helmStarted_holds {s t : State} {w : Word} {h : HelmImage} (hplans : Plans (startHelm (withBoot s w) h) t) :
    t.port.boot = w ∧ t.port.image = some h := by
  obtain ⟨hboot, himage⟩ := startHelm_held (withBoot s w) h
  rw [hplans.port]
  exact ⟨hboot, himage⟩

section
variable {s : State} {g : Arg} (hc : g.c = 0)
include hc

/-- The preferred slot verifies: it runs, and the other is not looked at. -/
theorem verifyBoot_prefers {h : HelmImage} (hv : verifySlot s (bootRecord s % 2) (g.d.testBit (bootRecord s % 2)) = (0, h)) :
    Plans (startHelm (withBoot s (bootWord 3 (bootRecord s % 2) (bootRecord s / 2 % 2) 0 0 0)) h) (verifyBoot s g) := by
  have hbyte : ((flashBytes s 0 1).headD 0).toNat = bootRecord s := rfl
  have hstage : ¬ (3 = 15) := by decide
  simp only [verifyBoot, hc, hbyte, hv, hstage, ite_self, ne_eq, not_true_eq_false, decide_false, Bool.toNat_false, true_or, if_true, if_false]
  exact Plans.plan (Plans.ite (Plans.plan (.refl _) _ _ _) (.refl _)) _ _ _

section
variable {r : Nat} {i : HelmImage} (hv : verifySlot s (bootRecord s % 2) (g.d.testBit (bootRecord s % 2)) = (r, i)) (hr : r ≠ 0)
include hv hr

/-- The preferred slot does not verify and the other does: the other runs, with FB. -/
theorem verifyBoot_falls_back {h : HelmImage}
    (hw : verifySlot s (1 - bootRecord s % 2) (g.d.testBit (1 - bootRecord s % 2)) = (0, h)) :
    Plans (startHelm (withBoot s (bootWord 3 (1 - bootRecord s % 2) (bootRecord s / 2 % 2) 1
      (if 0 = bootRecord s % 2 then r else 0) (if 1 = bootRecord s % 2 then r else 0))) h) (verifyBoot s g) := by
  have hbyte : ((flashBytes s 0 1).headD 0).toNat = bootRecord s := rfl
  have hstage : ¬ (3 = 15) := by decide
  have hother : (1 - bootRecord s % 2 ≠ bootRecord s % 2) = True := eq_true (by omega)
  simp only [verifyBoot, hc, hbyte, hv, hr, hw, hstage, hother, decide_true, Bool.toNat_true, or_true, if_true, if_false]
  exact Plans.plan (Plans.ite (Plans.plan (.refl _) _ _ _) (.refl _)) _ _ _

/-- Neither slot verifies: boot stops in stage 15. -/
theorem verifyBoot_stops {q : Nat} {j : HelmImage}
    (hw : verifySlot s (1 - bootRecord s % 2) (g.d.testBit (1 - bootRecord s % 2)) = (q, j)) (hq : q ≠ 0) :
    verifyBoot s g = withBoot s (bootWord 15 (1 - bootRecord s % 2) (bootRecord s / 2 % 2) 1
      (if 0 = bootRecord s % 2 then r else q) (if 1 = bootRecord s % 2 then r else q)) := by
  have hbyte : ((flashBytes s 0 1).headD 0).toNat = bootRecord s := rfl
  have hother : (1 - bootRecord s % 2 ≠ bootRecord s % 2) = True := eq_true (by omega)
  simp only [verifyBoot, hc, hbyte, hv, hr, hw, hq, hother, decide_true, Bool.toNat_true, or_self, if_true, if_false, withBoot]

end

end

/-! ## The other stages (R372) -/

theorem Plans.tel {s t : State} (h : Plans s t) (k : Nat) : t.tel k = s.tel k := h.keeps (State.tel · k) fun _ => rfl

theorem planEv_plans (s : State) (c r : Nat) (i : Instr) (a : Arg) : Plans s (s.planEv c r i a) := (Plans.refl s).plan _ _ _

theorem sendBeats_plans (s : State) : Plans s (sendBeats s) := by
  unfold sendBeats
  split
  · exact Plans.ite (.refl s) (Plans.foldl (fun a _ => (Plans.refl a).plan _ _ _) (.refl s) _)
  · exact .refl s

/-- A pass that trains Tellers has trained each that it names. -/
theorem foldl_train {l : List Nat} {k : Nat} {s : State} (h : k ∈ l ∨ (s.tel k).trdy = true) :
    ((l.foldl (fun a tl => a.modTel tl (fun x => { x with
      trdy := true, tt := (List.range 10).map (fun i => (i, Config.trainedTiming tl i)) })) s).tel k).trdy = true := by
  induction l generalizing s with
  | nil => exact h.resolve_left List.not_mem_nil
  | cons tl l ih =>
    refine ih ?_
    dsimp only
    rw [State.modTel_eq, State.setTel_tel]
    split
    · exact .inr rfl
    next hk => exact h.imp_left fun hmem => (List.mem_cons.mp hmem).resolve_left hk

/-- Every Teller is trained, and audits are planned; memory and slots stay, and of the port die all but STAGE. -/
theorem trainDevice_trains (s : State) : (trainDevice s).port = (setStage s 4).port ∧ (∀ k < 64, ((trainDevice s).tel k).trdy = true)
    ∧ (trainDevice s).mem = s.mem ∧ (trainDevice s).slots = s.slots := by
  unfold trainDevice
  extract_lets s1 s2
  have hport : s2.port = (setStage s 4).port :=
    (foldl_reads State.port (fun a tl => State.setTel_port _ _ _) _ s1).trans (foldl_reads State.port (fun a d => State.setDie_port _ _ _) _ _)
  have hmem : s2.mem = (setStage s 4).mem :=
    (foldl_reads State.mem (fun a tl => State.setTel_mem _ _ _) _ s1).trans (foldl_reads State.mem (fun a d => State.setDie_mem _ _ _) _ _)
  have hslots : s2.slots = (setStage s 4).slots :=
    (foldl_reads State.slots (fun a tl => State.setTel_slots _ _ _) _ s1).trans (foldl_reads State.slots (fun a d => State.setDie_slots _ _ _) _ _)
  have htel (k : Nat) (hk : k < 64) : (s2.tel k).trdy = true := foldl_train (.inl (List.mem_range.mpr hk))
  clear_value s2
  have hplans := Plans.foldl (fun a no => auditAll_plans a no 10) (.refl s2) [0, 5, 7, 20]
  refine ⟨hplans.port.trans hport, fun k hk => ?_, hplans.mem.trans hmem, hplans.slots.trans hslots⟩
  rw [hplans.keeps (State.tel · k) fun _ => rfl]
  exact htel k hk

/-- STAGE 5 in STANDBY, with the first scan of each context planned. -/
def scansPlanned (s : State) : State :=
  (List.range 8).foldl (fun a c => a.plan (cycleMod (s.mcnt + 1) (64 * c) 512) rkArrive (.ev .schedulerScan (Arg.of c 0 0 0 0)))
    (setStage { s with port := { s.port with power := 0 } } 5)

theorem scansPlanned_plans (s : State) : Plans (setStage { s with port := { s.port with power := 0 } } 5) (scansPlanned s) :=
  Plans.foldl (fun a _ => (Plans.refl a).plan _ _ _) (.refl _) _

theorem becomeReady_plans (s : State) : Plans (scansPlanned s) (becomeReady s) :=
  (Plans.plan (Plans.plan (.refl _) _ _ _) _ _ _).trans (sendBeats_plans _)

section
variable {s : State}

/-- STAGE 1 in STANDBY, with the clock that the module sets. -/
def sensed (s : State) : State :=
  setStage { s with nck := if Config.fastModule (flashBytes s 0x1000 4096) then 1600 else 1200, port := { s.port with power := 0 } } 1

/-- The measurements and the trim of each tick, planned. -/
def ticksPlanned (s : State) : State :=
  [Instr.thermalSensorRead, .powerMeasureTick, .sextantTrimTick].foldl (fun a i => a.planN (nextTick s) rkStart i 0 0) (sensed s)

theorem ticksPlanned_plans (s : State) : Plans (sensed s) (ticksPlanned s) :=
  Plans.foldl (fun a _ => (Plans.refl a).plan _ _ _) (.refl _) _

theorem bootSequence_senses (hb : s.arg.b = 0) : exec .bootSequence s
    = .next ((planPps (ticksPlanned s)).planEv (s.mcnt + 2900) rkStart .bootSequence { s.arg with b := 1 }) := by
  change execBootSequence s = _
  simp only [execBootSequence, hb]
  rfl

theorem planPps_port (s : State) : (planPps s).port = s.port := rfl

theorem bootSequence_runs_rom (hb : s.arg.b = 1) : exec .bootSequence s
    = .next ((setStage s 2).planEv (s.mcnt + 2900) rkStart .bootSequence { s.arg with b := 2 }) := by
  change execBootSequence s = _
  simp only [execBootSequence, hb]

theorem bootSequence_verifies (hb : s.arg.b = 2) : exec .bootSequence s = .next (verifyBoot s s.arg) := by
  change execBootSequence s = _
  simp only [execBootSequence, hb]

theorem bootSequence_trains (hb : s.arg.b = 3) : exec .bootSequence s
    = .next ((trainDevice s).planEv (((s.mcnt + 7168) / 2900 + 1) * 2900) rkStart .bootSequence { s.arg with b := 4 }) := by
  change execBootSequence s = _
  simp only [execBootSequence, hb]

theorem bootSequence_readies (hb : 4 ≤ s.arg.b) : exec .bootSequence s = .next (becomeReady s) := by
  obtain ⟨n, hn⟩ := Nat.exists_eq_add_of_le' hb
  change execBootSequence s = _
  simp only [execBootSequence, hn]

/-! ## Heartbeats and TRY (R373, R403) -/

theorem heartbeatPeriod_held (hhold : s.port.hbHold = true) : exec .heartbeatPeriod s
    = .next (sendBeats (s.planN (s.mcnt + 2969600) rkStart .heartbeatPeriod 0 0)) := by
  change execHeartbeatPeriod s = _
  simp only [execHeartbeatPeriod, hhold, if_true]

/-- The bits are cleared, and the periods missed in a row are n. -/
def beatsJudged (s : State) (n : Nat) : State :=
  { s.planN (s.mcnt + 2969600) rkStart .heartbeatPeriod 0 0 with port := { s.port with hb := s.port.hb &&& 0xFFFF#32, missed := n } }

theorem heartbeatPeriod_complete (hhold : s.port.hbHold = false) (hbeat : beatComplete s.port.hb = true) :
    exec .heartbeatPeriod s = .next (sendBeats (beatsJudged s 0)) := by
  have h02 : ¬ (0 = 2) := by decide
  change execHeartbeatPeriod s = _
  simp only [execHeartbeatPeriod, beatsJudged, hhold, hbeat, h02, Bool.false_eq_true, if_true, if_false]

theorem heartbeatPeriod_misses (hhold : s.port.hbHold = false) (hbeat : beatComplete s.port.hb = false) (hfirst : s.port.missed ≠ 1) :
    exec .heartbeatPeriod s = .next (sendBeats (beatsJudged s (s.port.missed + 1))) := by
  have hone : ¬ (s.port.missed + 1 = 2) := by omega
  change execHeartbeatPeriod s = _
  simp only [execHeartbeatPeriod, beatsJudged, hhold, hbeat, hone, Bool.false_eq_true, if_false]

/-- The second period missed in a row signals the host, and the count begins again. -/
theorem heartbeatPeriod_signals (hhold : s.port.hbHold = false) (hbeat : beatComplete s.port.hb = false) (hsecond : s.port.missed = 1) :
    exec .heartbeatPeriod s = .next (sendBeats (fireMsix (beatsJudged s 0) 0 0)) := by
  have htwo : 1 + 1 = 2 := rfl
  change execHeartbeatPeriod s = _
  simp only [execHeartbeatPeriod, beatsJudged, hhold, hbeat, hsecond, htwo, Bool.false_eq_true, if_true, if_false]

theorem bootTryTimeout_boots_other (s : State) : exec .bootTryTimeout s
    = .next ((setStage (resetFabric (fireMsix { s with port := { s.port with
        kept := s.port.kept ++ [0x1C9 + 512 * (s.port.boot.getLsbD 27).toNat] } } 0 0)) 2).planEv (s.mcnt + 2900) rkStart .bootSequence
      (Arg.of 0 2 (1 + (1 - (s.port.boot.getLsbD 27).toNat)) 0 0)) := rfl

/-! ## Writes of the host (R361, R369, R373) -/

section
variable (hfn : 0 ∉ s.fnFrozen)
include hfn

theorem fusecmtWrite_blows {h : HelmImage} (himage : s.port.image = some h) (hle : s.arg.a ≤ h.rbix) :
    exec .fusecmtWrite s = .next { s with port := { s.port with rollback := max s.port.rollback (min s.arg.a 64) } } := by
  change execFusecmtWrite s = _
  simp only [execFusecmtWrite, byHost_of_free hfn, himage, hle, if_true]

theorem fusecmtWrite_ignored {h : HelmImage} (himage : s.port.image = some h) (hlt : h.rbix < s.arg.a) :
    exec .fusecmtWrite s = .next s := by
  change execFusecmtWrite s = _
  simp only [execFusecmtWrite, byHost_of_free hfn, himage, Nat.not_le.mpr hlt, if_false]

theorem flashWindowWrite_writes (hwidth : s.arg.c = 0 ∨ s.arg.c = 4)
    (hrun : ∀ k, runningSlot s = some k → ¬ (slotAt k ≤ s.port.flash + s.arg.a % 65536 / 4 * 4
      ∧ s.port.flash + s.arg.a % 65536 / 4 * 4 < slotAt k + slotSize k)) :
    exec .flashWindowWrite s = .next (s.write (flashBase + (s.port.flash + s.arg.a % 65536 / 4 * 4)) (s.arg.b % 2 ^ 32) 4) := by
  have hno : ¬ (s.arg.c ≠ 0 ∧ s.arg.c ≠ 4) := by omega
  change execFlashWindowWrite s = _
  cases hk : runningSlot s with
  | none => simp only [execFlashWindowWrite, byHost_of_free hfn, hno, hk, Bool.false_eq_true, or_self, if_false]
  | some k =>
    simp only [execFlashWindowWrite, byHost_of_free hfn, hno, hk, ← Bool.decide_and, hrun k hk, decide_false, Bool.false_eq_true, or_self, if_false]

theorem flashWindowWrite_aborts {k : Nat} (hk : runningSlot s = some k) (hlo : slotAt k ≤ s.port.flash + s.arg.a % 65536 / 4 * 4)
    (hhi : s.port.flash + s.arg.a % 65536 / 4 * 4 < slotAt k + slotSize k) :
    exec .flashWindowWrite s = .next { s with port := { s.port with aborts := s.port.aborts + 1 } } := by
  change execFlashWindowWrite s = _
  simp only [execFlashWindowWrite, byHost_of_free hfn, hk, hlo, hhi, decide_true, Bool.and_self, or_true, if_true]

/-- A word that the physical function writes to a register of its own. -/
theorem registerWrite_writes (hwidth : s.arg.c = 0 ∨ s.arg.c = 4) (ha : s.arg.a < 40) :
    exec .registerWrite s = .next (writeRegister s s.arg.a (BitVec.ofNat 32 s.arg.b)) := by
  have hno : ¬ (s.arg.c ≠ 0 ∧ s.arg.c ≠ 4) := by omega
  have hpf : fnOfRegister s s.arg.a = 0 := if_neg (by omega)
  change execRegisterWrite s = _
  simp only [execRegisterWrite, hpf, byHost_of_free hfn, hno, if_false]

end

theorem registerWrite_aborts (h : s.arg.c ≠ 0 ∧ s.arg.c ≠ 4 ∨ fnOfRegister s s.arg.a ∈ s.fnFrozen) :
    exec .registerWrite s = .next { s with port := { s.port with aborts := s.port.aborts + 1 } } := by
  change execRegisterWrite s = _
  by_cases hfn : fnOfRegister s s.arg.a ∈ s.fnFrozen
  · simp only [execRegisterWrite, byHost_of_frozen hfn]
  · simp only [execRegisterWrite, byHost_of_free hfn, h.resolve_right hfn, ne_eq, not_false_eq_true, and_self, if_true]

/-- While the physical function is frozen, its writes do nothing. -/
theorem hostWrite_frozen (hfn : 0 ∈ s.fnFrozen) {i : Instr} (hi : i ∈ [Instr.flashWindowWrite, .fusecmtWrite, .todbaseWrite, .sxofsWrite]) :
    exec i s = .next { s with port := { s.port with aborts := s.port.aborts + 1 } } := by
  simp only [List.mem_cons, List.not_mem_nil, or_false] at hi
  rcases hi with rfl | rfl | rfl | rfl <;> exact congrArg Host.Outcome.next (byHost_of_frozen hfn _)

end

/-! ## Where the boot sequence leads (R372) -/

section
variable {s : State}

theorem bootSequence_leads_to_stage1 (hb : s.arg.b = 0) :
    Leads .bootSequence s (fun t => bootStage t = 1 ∧ t.port.power = 0 ∧ t.mem = s.mem ∧ t.slots = s.slots) := by
  have hticks := ticksPlanned_plans s
  have hport : (planPps (ticksPlanned s)).port = (sensed s).port := (planPps_port _).trans hticks.port
  have hplans := planEv_plans (planPps (ticksPlanned s)) (s.mcnt + 2900) rkStart .bootSequence { s.arg with b := 1 }
  have hboot := congrArg PortDie.boot (hplans.port.trans hport)
  exact ⟨_, bootSequence_senses hb, (bootStage_of_boot hboot).trans (bootStage_setStage _ (by decide)),
    congrArg PortDie.power (hplans.port.trans hport), hplans.mem.trans hticks.mem, hplans.slots.trans hticks.slots⟩

theorem bootSequence_leads_to_stage2 (hb : s.arg.b = 1) :
    Leads .bootSequence s (fun t => bootStage t = 2 ∧ t.mem = s.mem ∧ t.slots = s.slots) := by
  have hplans := planEv_plans (setStage s 2) (s.mcnt + 2900) rkStart .bootSequence { s.arg with b := 2 }
  have hboot := congrArg PortDie.boot hplans.port
  exact ⟨_, bootSequence_runs_rom hb, (bootStage_of_boot hboot).trans (bootStage_setStage s (by decide)), hplans.mem, hplans.slots⟩

theorem bootSequence_leads_to_stage4 (hb : s.arg.b = 3) :
    Leads .bootSequence s (fun t => bootStage t = 4 ∧ (∀ k < 64, (t.tel k).trdy = true) ∧ t.mem = s.mem ∧ t.slots = s.slots) := by
  obtain ⟨hport, htel, hmem, hslots⟩ := trainDevice_trains s
  have hplans := planEv_plans (trainDevice s) (((s.mcnt + 7168) / 2900 + 1) * 2900) rkStart .bootSequence { s.arg with b := 4 }
  have hboot := congrArg PortDie.boot (hplans.port.trans hport)
  have htrained (k : Nat) (hk : k < 64) := (congrArg Tel.trdy (hplans.tel k)).trans (htel k hk)
  exact ⟨_, bootSequence_trains hb, (bootStage_of_boot hboot).trans (bootStage_setStage s (by decide)), htrained,
    hplans.mem.trans hmem, hplans.slots.trans hslots⟩

theorem bootSequence_leads_to_stage5 (hb : 4 ≤ s.arg.b) :
    Leads .bootSequence s (fun t => bootStage t = 5 ∧ t.port.power = 0 ∧ t.mem = s.mem ∧ t.slots = s.slots
      ∧ ∀ c < 8, ({ time := 16 * cycleMod (s.mcnt + 1) (64 * c) 512 + rkArrive, act := .ev .schedulerScan (Arg.of c 0 0 0 0) } : Item)
        ∈ t.agenda) := by
  have hplans := (scansPlanned_plans s).trans (becomeReady_plans s)
  have hboot := congrArg PortDie.boot hplans.port
  exact ⟨_, bootSequence_readies hb, (bootStage_of_boot hboot).trans (bootStage_setStage _ (by decide)),
    congrArg PortDie.power hplans.port, hplans.mem, hplans.slots,
    fun c hc => (becomeReady_plans s).agenda (mem_foldl_plan _ _ _ (List.mem_range.mpr hc) _)⟩

end

/-! ## The slot that runs (R371, R372) -/

theorem withBoot_reads (s : State) (w : Word) : bootStage (withBoot s w) = (w.extractLsb' 28 4).toNat
    ∧ (withBoot s w).slots = s.slots ∧ (withBoot s w).mem = s.mem ∧ (withBoot s w).agenda = s.agenda := ⟨rfl, rfl, rfl, rfl⟩

section
variable {s : State} (hb : s.arg.b = 2) (hc : s.arg.c = 0)
include hb hc

theorem bootSequence_leads_to_preferred (hv : (verifySlot s (bootRecord s % 2) (s.arg.d.testBit (bootRecord s % 2))).1 = 0) :
    Leads .bootSequence s (fun t => bootStage t = 3 ∧ t.port.boot.getLsbD 27 = decide (bootRecord s % 2 = 1)
      ∧ t.port.boot.getLsbD 25 = false
      ∧ t.port.image = some (verifySlot s (bootRecord s % 2) (s.arg.d.testBit (bootRecord s % 2))).2) := by
  obtain ⟨r, h, hrh⟩ : ∃ r h, verifySlot s (bootRecord s % 2) (s.arg.d.testBit (bootRecord s % 2)) = (r, h) := ⟨_, _, rfl⟩
  rw [hrh] at hv ⊢
  obtain rfl : r = 0 := hv
  obtain ⟨hboot, himage⟩ := helmStarted_holds (verifyBoot_prefers hc hrh)
  obtain ⟨hstage, hslot, hfb⟩ := bootWord_fields (stage := 3) (slot := bootRecord s % 2) (try_ := bootRecord s / 2 % 2) (fb := 0) (vfa := 0) (vfb := 0)
    (by decide) (Nat.mod_lt _ (by decide)) (Nat.mod_lt _ (by decide)) (by decide) (by decide) (by decide)
  refine ⟨_, bootSequence_verifies hb, ?_, ?_, ?_, himage⟩
  · rw [bootStage, hboot, hstage]
  · rw [hboot, hslot]
  · rw [hboot, hfb]
    rfl

section
variable (hv : (verifySlot s (bootRecord s % 2) (s.arg.d.testBit (bootRecord s % 2))).1 ≠ 0)
include hv

theorem bootSequence_leads_to_other
    (hw : (verifySlot s (1 - bootRecord s % 2) (s.arg.d.testBit (1 - bootRecord s % 2))).1 = 0) :
    Leads .bootSequence s (fun t => bootStage t = 3 ∧ t.port.boot.getLsbD 27 = decide (1 - bootRecord s % 2 = 1)
      ∧ t.port.boot.getLsbD 25 = true
      ∧ t.port.image = some (verifySlot s (1 - bootRecord s % 2) (s.arg.d.testBit (1 - bootRecord s % 2))).2) := by
  have hr := verifySlot_lt s (bootRecord s % 2) (s.arg.d.testBit (bootRecord s % 2))
  obtain ⟨r, i, hri⟩ : ∃ r i, verifySlot s (bootRecord s % 2) (s.arg.d.testBit (bootRecord s % 2)) = (r, i) := ⟨_, _, rfl⟩
  obtain ⟨q, h, hqh⟩ : ∃ q h, verifySlot s (1 - bootRecord s % 2) (s.arg.d.testBit (1 - bootRecord s % 2)) = (q, h) := ⟨_, _, rfl⟩
  rw [hri] at hv hr
  rw [hqh] at hw ⊢
  obtain rfl : q = 0 := hw
  obtain ⟨hboot, himage⟩ := helmStarted_holds (verifyBoot_falls_back hc hri hv hqh)
  obtain ⟨hstage, hslot, hfb⟩ := bootWord_fields (stage := 3) (slot := 1 - bootRecord s % 2) (try_ := bootRecord s / 2 % 2) (fb := 1)
    (vfa := if 0 = bootRecord s % 2 then r else 0) (vfb := if 1 = bootRecord s % 2 then r else 0)
    (by decide) (by omega) (Nat.mod_lt _ (by decide)) (by decide) (by split <;> omega) (by split <;> omega)
  refine ⟨_, bootSequence_verifies hb, ?_, ?_, ?_, himage⟩
  · rw [bootStage, hboot, hstage]
  · rw [hboot, hslot]
  · rw [hboot, hfb]
    rfl

theorem bootSequence_stops
    (hw : (verifySlot s (1 - bootRecord s % 2) (s.arg.d.testBit (1 - bootRecord s % 2))).1 ≠ 0) :
    Leads .bootSequence s (fun t => bootStage t = 15 ∧ t.slots = s.slots ∧ t.mem = s.mem ∧ t.agenda = s.agenda) := by
  have hr := verifySlot_lt s (bootRecord s % 2) (s.arg.d.testBit (bootRecord s % 2))
  have hq := verifySlot_lt s (1 - bootRecord s % 2) (s.arg.d.testBit (1 - bootRecord s % 2))
  obtain ⟨r, i, hri⟩ : ∃ r i, verifySlot s (bootRecord s % 2) (s.arg.d.testBit (bootRecord s % 2)) = (r, i) := ⟨_, _, rfl⟩
  obtain ⟨q, h, hqh⟩ : ∃ q h, verifySlot s (1 - bootRecord s % 2) (s.arg.d.testBit (1 - bootRecord s % 2)) = (q, h) := ⟨_, _, rfl⟩
  rw [hri] at hv hr
  rw [hqh] at hw hq
  obtain ⟨hstage, -, -⟩ := bootWord_fields (stage := 15) (slot := 1 - bootRecord s % 2) (try_ := bootRecord s / 2 % 2) (fb := 1)
    (vfa := if 0 = bootRecord s % 2 then r else q) (vfb := if 1 = bootRecord s % 2 then r else q)
    (by decide) (by omega) (Nat.mod_lt _ (by decide)) (by decide) (by split <;> omega) (by split <;> omega)
  have hexec := bootSequence_verifies hb
  rw [verifyBoot_stops hc hri hv hqh hw] at hexec
  obtain ⟨hboot, hkeeps⟩ := withBoot_reads _ _
  exact ⟨_, hexec, hboot.trans hstage, hkeeps⟩

end

end

/-! ## Where a heartbeat period and the end of a TRY lead (R373) -/

/-- The port die and the agenda of each clause are those of the state that sendBeats adds its messages to. -/
theorem heartbeatPeriod_leads (s : State) : Leads .heartbeatPeriod s (fun t => t.mem = s.mem ∧ t.slots = s.slots
    ∧ ({ time := 16 * (s.mcnt + 2969600) + rkStart, act := .ev .heartbeatPeriod (Arg.of 0 0 0 0 0) } : Item) ∈ t.agenda
    ∧ (s.port.hbHold = true → t.port = s.port)
    ∧ (s.port.hbHold = false → t.port.hb = s.port.hb &&& 0xFFFF#32
      ∧ (beatComplete s.port.hb = true → t.port.missed = 0 ∧ t.port.msix = s.port.msix)
      ∧ (beatComplete s.port.hb = false → s.port.missed = 0 → t.port.missed = 1 ∧ t.port.msix = s.port.msix)
      ∧ (beatComplete s.port.hb = false → s.port.missed = 1 → t.port.missed = 0 ∧ t.port.msix = s.port.msix ++ [(0, 0)]))) := by
  have hitem : ({ time := 16 * (s.mcnt + 2969600) + rkStart, act := .ev .heartbeatPeriod (Arg.of 0 0 0 0 0) } : Item)
      ∈ (s.planN (s.mcnt + 2969600) rkStart .heartbeatPeriod 0 0).agenda := (mem_plan _ _ _ _ _).mpr (.inl rfl)
  cases hhold : s.port.hbHold with
  | true =>
    have hplans := sendBeats_plans (s.planN (s.mcnt + 2969600) rkStart .heartbeatPeriod 0 0)
    exact ⟨_, heartbeatPeriod_held hhold, hplans.mem, hplans.slots, hplans.agenda hitem, fun _ => hplans.port, nofun⟩
  | false =>
    cases hbeat : beatComplete s.port.hb with
    | true =>
      have hplans := sendBeats_plans (beatsJudged s 0)
      have hmissed := congrArg PortDie.missed hplans.port
      have hmsix := congrArg PortDie.msix hplans.port
      exact ⟨_, heartbeatPeriod_complete hhold hbeat, hplans.mem, hplans.slots, hplans.agenda hitem, nofun,
        fun _ => ⟨congrArg PortDie.hb hplans.port, fun _ => ⟨hmissed, hmsix⟩, nofun, nofun⟩⟩
    | false =>
      by_cases hsecond : s.port.missed = 1
      · have hplans := sendBeats_plans (fireMsix (beatsJudged s 0) 0 0)
        have hmissed := congrArg PortDie.missed hplans.port
        exact ⟨_, heartbeatPeriod_signals hhold hbeat hsecond, hplans.mem, hplans.slots, hplans.agenda hitem, nofun,
          fun _ => ⟨congrArg PortDie.hb hplans.port, nofun, fun _ hzero => absurd (hzero.symm.trans hsecond) (by decide),
            fun _ _ => ⟨hmissed, congrArg PortDie.msix hplans.port⟩⟩⟩
      · have hplans := sendBeats_plans (beatsJudged s (s.port.missed + 1))
        have hmissed := congrArg PortDie.missed hplans.port
        have hmsix := congrArg PortDie.msix hplans.port
        exact ⟨_, heartbeatPeriod_misses hhold hbeat hsecond, hplans.mem, hplans.slots, hplans.agenda hitem, nofun,
          fun _ => ⟨congrArg PortDie.hb hplans.port, nofun,
            fun _ hzero => ⟨hmissed.trans (congrArg (· + 1) hzero), hmsix⟩, fun _ hone => absurd hone hsecond⟩⟩

theorem bootTryTimeout_leads (s : State) : Leads .bootTryTimeout s (fun t => bootStage t = 2
    ∧ t.port.kept = s.port.kept ++ [0x1C9 + 512 * (s.port.boot.getLsbD 27).toNat] ∧ t.port.msix = s.port.msix ++ [(0, 0)]
    ∧ t.mem = s.mem ∧ t.slots = [] ∧ t.port.rollback = s.port.rollback
    ∧ ({ time := 16 * (s.mcnt + 2900) + rkStart,
         act := .ev .bootSequence (Arg.of 0 2 (1 + (1 - (s.port.boot.getLsbD 27).toNat)) 0 0) } : Item) ∈ t.agenda) := by
  obtain ⟨u, hu⟩ : ∃ u, u = fireMsix { s with port := { s.port with kept := s.port.kept ++ [0x1C9 + 512 * (s.port.boot.getLsbD 27).toNat] } } 0 0 :=
    ⟨_, rfl⟩
  have hexec := bootTryTimeout_boots_other s
  rw [← hu] at hexec
  have hplans := planEv_plans (setStage (resetFabric u) 2) (s.mcnt + 2900) rkStart .bootSequence
    (Arg.of 0 2 (1 + (1 - (s.port.boot.getLsbD 27).toNat)) 0 0)
  have hkept : u.port.kept = s.port.kept ++ [0x1C9 + 512 * (s.port.boot.getLsbD 27).toNat] := by rw [hu]; rfl
  have hmsix : u.port.msix = s.port.msix ++ [(0, 0)] := by rw [hu]; rfl
  have hrollback : u.port.rollback = s.port.rollback := by rw [hu]; rfl
  have hmem : u.mem = s.mem := by rw [hu]; rfl
  exact ⟨_, hexec, (bootStage_of_boot (congrArg PortDie.boot hplans.port)).trans (bootStage_setStage _ (by decide)),
    (congrArg PortDie.kept hplans.port).trans hkept, (congrArg PortDie.msix hplans.port).trans hmsix, hplans.mem.trans hmem, hplans.slots,
    (congrArg PortDie.rollback hplans.port).trans hrollback, (mem_plan _ _ _ _ _).mpr (.inl rfl)⟩

/-- Settles O49: each clause is the lemma about where its event leads. -/
theorem bootsAndBeats : Obligations.BootsAndBeats := by
  unfold Obligations.BootsAndBeats
  intro s g rec0 first
  refine ⟨?stage1, ?stage2, ?prefers, ?other, ?stage4, ?stage5, ?beats, ?timeout, ?fuses, ?flash, ?registers, ?aborts, ?frozen⟩
  case stage1 => exact bootSequence_leads_to_stage1
  case stage2 => exact bootSequence_leads_to_stage2
  case prefers => exact bootSequence_leads_to_preferred
  case other => exact fun hb hc hv => ⟨bootSequence_leads_to_other hb hc hv, bootSequence_stops hb hc hv⟩
  case stage4 => exact bootSequence_leads_to_stage4
  case stage5 => exact bootSequence_leads_to_stage5
  case beats => exact heartbeatPeriod_leads s
  case timeout => exact bootTryTimeout_leads s
  case fuses => exact fun h himage => ⟨fun hle hfn => fusecmtWrite_blows hfn himage hle, fun hlt hfn => fusecmtWrite_ignored hfn himage hlt⟩
  case flash =>
    intro off hfn
    refine ⟨fun hwidth hrun hwf => ?_, fun ⟨k, hk, hlo, hhi⟩ => flashWindowWrite_aborts hfn hk hlo hhi⟩
    refine ⟨_, flashWindowWrite_writes hfn hwidth hrun, ?_, write_port _ _ _ _, rfl, fun a ha => ?_⟩
    · calc
        _ = s.arg.b % 2 ^ 32 % 256 ^ 4 := readNat_writeNat hwf _ _ 4
        _ = s.arg.b % 2 ^ 32 := Nat.mod_mod _ _
    · exact readByte_writeNat hwf _ _ 4 a ha
  case registers =>
    intro hfn hwidth
    refine ⟨fun hlo hhi => ?_, fun ha hlive => ?_, fun ha hfree => ?_⟩
    · have hpast : ¬ s.arg.a < 8 := Nat.not_lt.mpr (Nat.le_trans (by decide) hlo)
      rw [registerWrite_writes hfn hwidth (Nat.lt_trans hhi (by decide)), writeRegister, if_neg hpast, if_pos ⟨hlo, hhi⟩]
    · rw [registerWrite_writes hfn hwidth (Nat.lt_trans ha (by decide)), writeRegister, if_pos ha, if_pos hlive]
    · rw [registerWrite_writes hfn hwidth (Nat.lt_trans ha (by decide)), writeRegister, if_pos ha, if_neg (Bool.eq_false_iff.mp hfree)]
  case aborts => exact fun h => registerWrite_aborts h
  case frozen => exact fun hfn i hi => hostWrite_frozen hfn hi

end Sys2Proof.Machine
end

section
/-! # Reset and the head of the agenda -/

namespace Sys2Proof.Machine

/-- Settles O59: memory lists nothing, and the agenda holds the boot sequence alone. -/
theorem resetIsSound : Obligations.ResetIsSound :=
  ⟨rfl, List.pairwise_singleton _ _⟩

/-! ## What the head of the agenda asks of a slot (R15, R30, R69, R72, R96) -/

theorem fetchSlot_absent {s : State} {n : Nat} (h : slotCount ≤ n) : fetchSlot s n = .absent := if_pos h

theorem fetchSlot_idle {s : State} {n : Nat} (hn : n < slotCount)
    (h : (s.slot n).st ≠ .running ∨ (s.elem (veOfSlot n)).blocked = true) : fetchSlot s n = .idle := by
  rw [fetchSlot, if_neg (Nat.not_le.mpr hn), if_pos h]

/-- A slot that runs in a sound element fetches: a poisoned word, or words that decode to nothing, are the illegal word. -/
theorem fetchSlot_running {s : State} {n : Nat} (hn : n < slotCount) (hr : (s.slot n).st = .running)
    (hb : (s.elem (veOfSlot n)).blocked = false) :
    (fetchPoisoned s n = true → fetchSlot s n = .run .illegalWordIssue)
    ∧ (fetchPoisoned s n = false → (∀ i, fetchAt s n = .ok i → fetchSlot s n = .run i)
      ∧ ∀ why, fetchAt s n = .error why → fetchSlot s n = .run .illegalWordIssue) := by
  have hgo : ¬((s.slot n).st ≠ .running ∨ (s.elem (veOfSlot n)).blocked = true) := by simp [hr, hb]
  refine ⟨fun hp => ?_, fun hp => ⟨fun i hi => ?_, fun why hw => ?_⟩⟩
  · rw [fetchSlot, if_neg (Nat.not_le.mpr hn), if_neg hgo, if_pos hp]
  · simp only [fetchSlot, if_neg (Nat.not_le.mpr hn), if_neg hgo, hp, hi, Bool.false_eq_true, if_false]
  · simp only [fetchSlot, if_neg (Nat.not_le.mpr hn), if_neg hgo, hp, hw, Bool.false_eq_true, if_false]

/-- A sequenced slot decodes the words at its instruction address (R71). -/
theorem fetchAt_sequenced {s : State} {n : Nat} (h : s.isSeq n = true) :
    fetchAt s n = decodeSeq ((List.range (min 3 (2048 - (s.slot n).ia.toNat))).map
      (fun k => mget 0 (s.elem (veOfSlot n)).imem ((s.slot n).ia.toNat + k))) := if_pos h

/-- A ring-mode slot decodes the entries at its three pointers (R25, R69). -/
theorem fetchAt_ring {s : State} {n : Nat} (h : s.isSeq n = false) :
    fetchAt s n = decodeRing (mget 0 (s.elem (veOfSlot n)).imem ((s.slot n).rings.op + (s.slot n).opp))
      (halfAt (s.elem (veOfSlot n)).imem ((s.slot n).rings.rt + (s.slot n).rtp))
      (halfAt (s.elem (veOfSlot n)).imem ((s.slot n).rings.ra + (s.slot n).rap)) := by
  simp only [fetchAt, h, Bool.false_eq_true, if_false]

/-! ## A step by the head of the agenda -/

/-- The state once the head of the agenda is taken: time has moved on to its cycle. -/
def afterHead (s : State) (it : Item) (rest : List Item) : State := { s with agenda := rest, mcnt := max s.mcnt (it.time / 16) }

theorem step_ev {s : State} {it : Item} {rest : List Item} (h : s.agenda = it :: rest) {i : Instr} {a : Arg}
    (ha : it.act = .ev i a) : step s = exec i { afterHead s it rest with arg := a } := by
  simp only [step, h, ha, afterHead]

theorem step_issue {s : State} {it : Item} {rest : List Item} (h : s.agenda = it :: rest) {n : Nat} (ha : it.act = .issue n) :
    (∀ i, fetchSlot (afterHead s it rest) n = .run i →
      step s = exec i { afterHead s it rest with cur := n, arg := Arg.of n 0 0 0 0 })
    ∧ (fetchSlot (afterHead s it rest) n = .idle → step s = .next (afterHead s it rest))
    ∧ (fetchSlot (afterHead s it rest) n = .absent → step s = .fault .noSuchUnit) := by
  refine ⟨fun i hi => ?_, fun hi => ?_, fun hi => ?_⟩ <;> simp only [afterHead] at hi <;> simp only [step, h, ha, hi, afterHead]

theorem step_teller {s : State} {it : Item} {rest : List Item} (h : s.agenda = it :: rest) {k : Nat} (ha : it.act = .teller k) :
    (∀ i, fetchTeller (afterHead s it rest) k = .run i → step s = exec i { afterHead s it rest with cur := k, arg := Arg.none })
    ∧ (∀ t, fetchTeller (afterHead s it rest) k = .refused t → step s = .next t)
    ∧ (fetchTeller (afterHead s it rest) k = .absent → step s = .fault .noSuchUnit) := by
  refine ⟨fun i hi => ?_, fun t hi => ?_, fun hi => ?_⟩ <;> simp only [afterHead] at hi <;> simp only [step, h, ha, hi, afterHead]

theorem fetchTeller_absent {s : State} {k : Nat} (h : tellerCount ≤ k) : fetchTeller s k = .absent := if_pos h

/-- A Teller with a run in progress whose word is sound runs the command that it decodes to, or refuses it (R202, R207). -/
theorem fetchTeller_decodes {s : State} {k : Nat} {r : TRun} (hk : k < tellerCount) (hr : activeRun (s.tel k) (ckOf s s.mcnt) = some r)
    (hp : (s.tel k).storePoison.contains (progBase (mget 0#32 (s.tel k).progs r.prog) + r.ix) = false) :
    (∀ i, decodeTeller (runWord (s.tel k) r) = .ok i → fetchTeller s k = .run i)
    ∧ ∀ why, decodeTeller (runWord (s.tel k) r) = .error why → fetchTeller s k = .refused (badWord s k false) := by
  constructor <;> intro i hi <;>
    simp only [fetchTeller, if_neg (Nat.not_le.mpr hk), hr, hp, hi, Bool.false_eq_true, if_false]

/-- Settles O54: each kind of head through what it fetches. -/
theorem stepRunsDecoded : Obligations.StepRunsDecoded := by
  unfold Obligations.StepRunsDecoded
  refine ⟨fun s h => by simp only [step, h], fun s it rest h => ⟨fun i a ha => step_ev h ha, fun n ha hn => ?_,
    fun n ha hn => (step_issue h ha).2.2 (fetchSlot_absent hn), fun k ha hk => (step_teller h ha).2.2 (fetchTeller_absent hk),
    fun k r ha hk hr hp => ?_⟩⟩
  · obtain ⟨hrun, hidle, -⟩ := step_issue h ha
    refine ⟨fun hi => hidle (fetchSlot_idle hn hi), fun hr hb hp => hrun _ ((fetchSlot_running hn hr hb).1 hp), fun hr hb hp hq => ?_,
      fun hr hb hp hq => ?_⟩
    all_goals obtain ⟨hok, hbad⟩ := (fetchSlot_running hn hr hb).2 hp
    · exact ⟨fun i hi => hrun i (hok i ((fetchAt_sequenced hq).trans hi)), fun w hw => hrun _ (hbad w ((fetchAt_sequenced hq).trans hw))⟩
    · exact ⟨fun i hi => hrun i (hok i ((fetchAt_ring hq).trans hi)), fun w hw => hrun _ (hbad w ((fetchAt_ring hq).trans hw))⟩
  · obtain ⟨hrun, hrefused, -⟩ := step_teller h ha
    obtain ⟨hok, hbad⟩ := fetchTeller_decodes (s := afterHead s it rest) hk hr hp
    exact ⟨fun i hi => hrun i (hok i hi), fun w hw => hrefused _ (hbad w hw)⟩

end Sys2Proof.Machine
end

section
/-! # Soundness: the operations that touch memory or the agenda -/

namespace Sys2Proof.Machine

-- Elaborated one after another: these many short proofs at once ask for more threads than the check's memory holds.
set_option Elab.async false

/-- The agenda is in order of time. -/
def InOrder (l : List Item) : Prop := l.Pairwise (fun a b => a.time ≤ b.time)

theorem inOrder_insertItem (x : Item) {l : List Item} (h : InOrder l) : InOrder (insertItem x l) := by
  induction l with
  | nil => exact List.pairwise_singleton _ _
  | cons y r ih =>
    obtain ⟨hy, hr⟩ := List.pairwise_cons.mp h
    simp only [insertItem]
    split
    case isTrue hle =>
      refine List.pairwise_cons.mpr ⟨fun z hz => ?_, ih hr⟩
      rcases (mem_insertItem z x r).mp hz with rfl | hz
      · exact hle
      · exact hy z hz
    case isFalse hlt =>
      have hxy : x.time ≤ y.time := Nat.le_of_lt (Nat.not_le.mp hlt)
      refine List.pairwise_cons.mpr ⟨fun z hz => ?_, h⟩
      rcases List.mem_cons.mp hz with rfl | hz
      · exact hxy
      · exact Nat.le_trans hxy (hy z hz)

theorem inOrder_insertBefore (p : Act → Bool) (x : Item) {l : List Item} (h : InOrder l) : InOrder (insertBefore p x l) := by
  induction l with
  | nil => exact List.pairwise_singleton _ _
  | cons y r ih =>
    obtain ⟨hy, hr⟩ := List.pairwise_cons.mp h
    simp only [insertBefore]
    split
    case isTrue hle =>
      refine List.pairwise_cons.mpr ⟨fun z hz => ?_, ih hr⟩
      rcases (mem_insertBefore p z x r).mp hz with rfl | hz
      · omega
      · exact hy z hz
    case isFalse hlt =>
      have hxy : x.time ≤ y.time := by omega
      refine List.pairwise_cons.mpr ⟨fun z hz => ?_, h⟩
      rcases List.mem_cons.mp hz with rfl | hz
      · exact hxy
      · exact Nat.le_trans hxy (hy z hz)

theorem inOrder_foldl_insertItem (g : Item → Item) (new : List Item) {l : List Item} (h : InOrder l) :
    InOrder (new.foldl (fun a it => insertItem (g it) a) l) := by
  induction new generalizing l with
  | nil => exact h
  | cons x r ih => exact ih (inOrder_insertItem (g x) h)

/-- Items put in one by one stand in order, whatever their own order was. -/
theorem inOrder_of_inserts (new : List Item) : InOrder (new.foldl (fun a it => insertItem it a) []) :=
  inOrder_foldl_insertItem id new List.Pairwise.nil

/-- An outcome that leads on leads to a sound state. -/
def Steady (o : Host.Outcome State Fault Refusal) : Prop := ∀ t, o = .next t → t.Sound

theorem wf_foldl_writeBytes {β : Type} {a : β → Nat} {bs : List (BitVec 8)} {l : List β} {m : List Host.Cell} (h : Memory.wf m = true) :
    Memory.wf (l.foldl (fun m e => writeBytes m (a e) bs) m) = true :=
  List.foldlRecOn (motive := fun m => Memory.wf m = true) l _ h fun _ hm _ _ => wf_writeBytes hm _ _

theorem Steady.fault {f : Fault} : Steady (.fault f) := fun _ h => nomatch h
theorem Steady.refused {r : Refusal} : Steady (.refused r) := fun _ h => nomatch h
theorem Steady.ite {a b : Host.Outcome State Fault Refusal} {c : Prop} [Decidable c] (h : Steady a) (g : Steady b) :
    Steady (if c then a else b) := by
  split
  · exact h
  · exact g

/-! ## Ways to keep soundness -/

namespace State.Sound

variable {s t : State}

/-- What touches neither memory nor the agenda. -/
theorem same (h : s.Sound) (hm : t.mem = s.mem := by rfl) (ha : t.agenda = s.agenda := by rfl) : t.Sound := by
  rw [State.Sound, hm, ha]; exact h

theorem of_eq (hm : t.mem = s.mem) (ha : t.agenda = s.agenda) (h : s.Sound) : t.Sound := h.same hm ha

/-- What puts the agenda in an order of its own. -/
theorem reorder (h : s.Sound) (ha : InOrder t.agenda) (hm : t.mem = s.mem := by rfl) : t.Sound := by
  rw [State.Sound, hm]; exact ⟨h.1, ha⟩

/-- What writes memory. -/
theorem rewrite (h : s.Sound) (hm : Memory.wf t.mem = true) (ha : t.agenda = s.agenda := by rfl) : t.Sound := by
  rw [State.Sound, ha]; exact ⟨hm, h.2⟩

theorem ite {c : Prop} [Decidable c] (h : s.Sound) (g : t.Sound) : (if c then s else t).Sound := by
  split
  · exact h
  · exact g

theorem ite_st {a b : Issued} {c : Prop} [Decidable c] (h : a.st.Sound) (g : b.st.Sound) : (if c then a else b).st.Sound := by
  split
  · exact h
  · exact g

theorem next (h : s.Sound) : Steady (.next s) := fun _ ht => by cases ht; exact h

theorem foldl {β : Type} {l : List β} (h : s.Sound) {f : State → β → State} (hf : ∀ a b, a.Sound → (f a b).Sound) :
    (l.foldl f s).Sound := by
  induction l generalizing s with
  | nil => exact h
  | cons b r ih => exact ih (hf s b h)

theorem plan (h : s.Sound) {c r : Nat} {a : Act} : (s.plan c r a).Sound := h.reorder (inOrder_insertItem _ h.2)
theorem planResult (h : s.Sound) {n q c : Nat} {i : Instr} {a : Arg} : (s.planResult n q c i a).Sound :=
  h.reorder (inOrder_insertBefore _ _ h.2)
theorem unplan (h : s.Sound) {p : Act → Bool} : (s.unplan p).Sound := h.reorder (h.2.filter _)
theorem write (h : s.Sound) {a v n : Nat} : (s.write a v n).Sound := h.rewrite (wf_write h.1 a v n)
theorem writeLanes (h : s.Sound) {a : Nat} {m : Mask} {v : Vec} {n : Nat} : (Machine.writeLanes s a m v n).Sound := by
  induction n with
  | zero => exact h
  | succ n ih => exact ite ih.write ih
theorem scatter (h : s.Sound) {b : Bool} {ps : List Part} : (Machine.scatter s b ps).Sound := h.rewrite (wf_scatter h.1 b ps)

end State.Sound

end Sys2Proof.Machine
end

section
/-! # Soundness: what the operations of the model keep

Each operation of the model that gives a state leads a sound state to a sound one. The lemmas stand in the order of the model's files; each proof
names, in the order in which they are made, the operations that its own operation is made of. -/

namespace Sys2Proof.Machine

-- Elaborated one after another: these many short proofs at once ask for more threads than the check's memory holds.
set_option Elab.async false

namespace State.Sound

variable {s t : State}

/-! ## Parts of the state, the agenda, faults, counters -/

theorem setSlot (h : s.Sound) {n : Nat} {x : Slot} : (s.setSlot n x).Sound :=
  h.same
theorem modSlot (h : s.Sound) {n : Nat} {f : Slot → Slot} : (s.modSlot n f).Sound :=
  h.setSlot
theorem setElem (h : s.Sound) {v : Nat} {x : Elem} : (s.setElem v x).Sound :=
  h.same
theorem modElem (h : s.Sound) {v : Nat} {f : Elem → Elem} : (s.modElem v f).Sound :=
  h.setElem
theorem setTile (h : s.Sound) {t : Nat} {x : Tile} : (s.setTile t x).Sound :=
  h.same
theorem modTile (h : s.Sound) {t : Nat} {f : Tile → Tile} : (s.modTile t f).Sound :=
  h.setTile
theorem setSport (h : s.Sound) {m : Nat} {x : SPort} : (s.setSport m x).Sound :=
  h.same
theorem modSport (h : s.Sound) {m : Nat} {f : SPort → SPort} : (s.modSport m f).Sound :=
  h.setSport
theorem setNode (h : s.Sound) {t : Nat} {x : MNode} : (s.setNode t x).Sound :=
  h.same
theorem modNode (h : s.Sound) {t : Nat} {f : MNode → MNode} : (s.modNode t f).Sound :=
  h.setNode
theorem setLode (h : s.Sound) {t : Nat} {x : LNode} : (s.setLode t x).Sound :=
  h.same
theorem modLode (h : s.Sound) {t : Nat} {f : LNode → LNode} : (s.modLode t f).Sound :=
  h.setLode
theorem modChan (h : s.Sound) {t c : Nat} {f : Chan → Chan} : (s.modChan t c f).Sound :=
  h.same
theorem modBte (h : s.Sound) {t : Nat} {f : Bte → Bte} : (s.modBte t f).Sound :=
  h.same
theorem setTel (h : s.Sound) {tl : Nat} {x : Tel} : (s.setTel tl x).Sound :=
  h.same
theorem modTel (h : s.Sound) {tl : Nat} {f : Tel → Tel} : (s.modTel tl f).Sound :=
  h.setTel
theorem setDie (h : s.Sound) {d : Nat} {x : Die} : (s.setDie d x).Sound :=
  h.same
theorem modDie (h : s.Sound) {d : Nat} {f : Die → Die} : (s.modDie d f).Sound :=
  h.setDie
theorem setCtx (h : s.Sound) {c : Nat} {x : Ctx} : (s.setCtx c x).Sound :=
  h.same
theorem modCtx (h : s.Sound) {c : Nat} {f : Ctx → Ctx} : (s.modCtx c f).Sound :=
  h.setCtx
theorem setInq (h : s.Sound) {q : Nat} {x : InQueue} : (s.setInq q x).Sound :=
  h.same
theorem drawWord (h : s.Sound) : (s.drawWord).2.Sound :=
  h.same
theorem fresh (h : s.Sound) : (s.fresh).2.Sound :=
  h.same
theorem planEv (h : s.Sound) {cycle rank : Nat} {i : Instr} {a : Arg} : (s.planEv cycle rank i a).Sound :=
  h.plan
theorem planN (h : s.Sound) {cycle rank : Nat} {i : Instr} {a b : Nat} : (s.planN cycle rank i a b).Sound :=
  h.planEv
theorem planIssue (h : s.Sound) {n c : Nat} : (s.planIssue n c).Sound :=
  h.plan
theorem modLogical (h : s.Sound) {k : Nat} {f : Tile → Tile} : (s.modLogical k f).Sound :=
  h.modTile
theorem postRecord (h : s.Sound) {t src : Nat} {r : BitVec 128} : (s.postRecord t src r).Sound :=
  h.modTile
theorem postLogical (h : s.Sound) {k src : Nat} {r : BitVec 128} : (s.postLogical k src r).Sound :=
  h.modLogical

theorem raiseFor (h : s.Sound) {die cause : Nat} {m : Master} {t detail : Nat} {ls : List Nat} :
    (s.raiseFor die cause m t detail ls).Sound :=
  (h.setDie.planN.ite h.setDie).ite h.setDie

theorem raise (h : s.Sound) {die cause : Nat} {m : Master} {t detail : Nat} : (s.raise die cause m t detail).Sound :=
  h.raiseFor
theorem failLoad (h : s.Sound) {t : Nat} {p : CfgPart} {ix : Nat} : (s.failLoad t p ix).Sound :=
  h.ite h.modTile.raise
theorem mendWord (h : s.Sound) {t : Nat} {p : CfgPart} {ix : Nat} : (s.mendWord t p ix).Sound :=
  h.ite h.modTile
theorem holdGroup (h : s.Sound) {n t : Nat} : (s.holdGroup n t).Sound :=
  h.planN.ite h
theorem freezeSlot (h : s.Sound) {n t : Nat} : (s.freezeSlot n t).Sound :=
  h.setElem.unplan.modSlot.holdGroup.ite h
theorem trapAt (h : s.Sound) {n cause detail t : Nat} : (s.trapAt n cause detail t).Sound :=
  (h.ite h.modSlot).raise.freezeSlot
theorem trapSlot (h : s.Sound) {n cause detail : Nat} : (s.trapSlot n cause detail).Sound :=
  h.trapAt

theorem resumeSlot (h : s.Sound) {n t : Nat} : (s.resumeSlot n t).Sound := by
  unfold State.resumeSlot
  refine State.Sound.ite (State.Sound.planN (State.Sound.modSlot (State.Sound.foldl (h.setElem.unplan) fun _ _ h => ?_)))
    (State.Sound.planIssue (State.Sound.modSlot (State.Sound.foldl (h.setElem.unplan) fun _ _ h => ?_)))
  · split
    · exact h.planResult
    · exact h.planResult
  · split
    · exact h.planResult
    · exact h.planResult

theorem discardSlot (h : s.Sound) {n : Nat} : (s.discardSlot n).Sound :=
  h.setElem.unplan.modSlot
theorem blockElem (h : s.Sound) {v cause detail : Nat} : (s.blockElem v cause detail).Sound :=
  h.setElem.unplan.raise
theorem arrive (h : s.Sound) {t b : Nat} : (s.arrive t b).Sound :=
  h.modTile
theorem credit (h : s.Sound) {t k : Nat} {amount : Int} : (s.credit t k amount).1.Sound :=
  h.modTile
theorem creditLogical (h : s.Sound) {home k : Nat} {amount : Int} : (s.creditLogical home k amount).1.Sound :=
  h.modLogical
theorem announce (h : s.Sound) {t k : Nat} {b : Word} : (s.announce t k b).1.Sound :=
  h.modTile

/-! ## Memory -/

theorem write32 (h : s.Sound) {a : Nat} {w : Word} : (s.write32 a w).Sound :=
  h.write
theorem writeTok (h : s.Sound) {a : Nat} {t : Token} : (s.writeTok a t).Sound :=
  h.writeLanes.same.ite h.writeLanes

/-! ## Objects -/

theorem fetchObject (h : s.Sound) {t c obj : Nat} : (s.fetchObject t c obj).Sound :=
  h.ite h.modTile.planEv
theorem fillObject (h : s.Sound) {t c obj : Nat} : (Machine.fillObject s t c obj).Sound :=
  h.modTile

/-! ## Links -/

theorem modLink (h : s.Sound) {l : Nat} {f : Link → Link} : (s.modLink l f).Sound :=
  h.same

theorem sendBeat (h : s.Sound) {id c : Nat} : (Machine.sendBeat s id c).Sound := by
  unfold Machine.sendBeat
  split
  · exact h
  · split
    · exact h
    · refine State.Sound.ite h ?_
      split
      · exact h.modLink.planN
      · exact h

theorem sendFrom (h : s.Sound) {c : Nat} {p : Packet} {lead : Nat} : (s.sendFrom c p lead).Sound := by
  unfold State.sendFrom
  split
  · exact h.plan
  · exact h.fresh.same.planN

theorem send (h : s.Sound) {p : Packet} {lead : Nat} : (s.send p lead).Sound :=
  h.sendFrom

theorem passOn (h : s.Sound) {id : Nat} {p : Packet} : (Machine.passOn s id p).Sound := by
  simp only [Machine.passOn]
  split
  · exact h
  · split
    · exact h.same.plan
    · exact h.same.planN

theorem countLanes (h : s.Sound) {k : Hop} {m : Nat} {bad : Bool} {lanes : List Nat} :
    (Machine.countLanes s k m bad lanes).Sound :=
  h.modLink.foldl fun _ _ h => h.modLink.planN.ite h

theorem passPoisoned (h : s.Sound) {id : Nat} {p : Packet} : (Machine.passPoisoned s id p).Sound :=
  h.passOn

theorem releaseWaiting (h : s.Sound) {l : Nat} {p : Packet} : (Machine.releaseWaiting s l p).Sound := by
  unfold Machine.releaseWaiting
  refine State.Sound.foldl (h.modLink) fun _ _ h => ?_
  split
  · exact h.passOn
  · exact h

theorem markFaulty (h : s.Sound) {k : Hop} {m : Nat} : (Machine.markFaulty s k m).Sound :=
  h.drawWord.modLink.planN

theorem receiveBeat (h : s.Sound) {id : Nat} {p : Packet} {k : Hop} {err : BitVec 704} {lanes : List Nat} :
    (Machine.receiveBeat s id p k err lanes).Sound := by
  have h2 (m : Nat) (bad : Bool) (f : Link → Link) :
      ((if lanes.isEmpty then s else Machine.countLanes s k m bad lanes).modLink k.link f).Sound :=
    (h.ite h.countLanes).modLink
  unfold Machine.receiveBeat
  dsimp only
  refine ite ((h2 _ _ _).modLink.ite (h2 _ _ _).passOn.releaseWaiting) (ite (planEv (modLink ?_)) ?_)
  · exact .of_eq rfl rfl (h.ite h.countLanes)
  · exact ((h2 _ _ _).raise.passPoisoned.markFaulty.ite (h2 _ _ _).raise.passPoisoned).releaseWaiting

/-! ## Ports and operands -/

theorem planOnce (h : s.Sound) {c r a b d : Nat} {i : Instr} : (Machine.planOnce s c r i a b d).Sound :=
  h.ite (h.reorder (inOrder_insertItem _ h.2))

theorem kickRead (h : s.Sound) {m n : Nat} : (Machine.kickRead s m n).Sound := by
  induction n generalizing s with
  | zero => exact h
  | succ n ih => exact h.ite (h.planOnce.ite ((ih h.setSport.planEv).ite h))

theorem sendOff (h : s.Sound) {v g : Nat} {t : OutTok} {c : Nat} : (Machine.sendOff s v g t c).Sound := by
  unfold Machine.sendOff
  refine State.Sound.ite ?_ ?_
  · split
    · exact h.modSport.planEv
    · exact h
  · split
    · exact h.setInq.sendFrom
    · exact h

theorem drainCheck (h : s.Sound) {n : Nat} : (s.drainCheck n).Sound :=
  h.planN.ite h
theorem drainBlock (h : s.Sound) {n : Nat} : (s.drainBlock n).Sound :=
  h.foldl fun _ _ h => h.drainCheck.ite h
theorem endCommand (h : s.Sound) {id slot : Nat} : (s.endCommand id slot).Sound :=
  h.same.drainBlock
theorem endEngine (h : s.Sound) {t engine : Nat} {begun : Bool} : (Machine.endEngine s t engine begun).Sound :=
  h.foldl fun _ _ h => h.endCommand
theorem stopTable (h : s.Sound) {t : Nat} : (Machine.stopTable s t).Sound :=
  h.modNode.unplan

theorem drainOut (h : s.Sound) {v g n : Nat} : (Machine.drainOut s v g n).Sound := by
  induction n generalizing s with
  | zero => exact h
  | succ n ih =>
    unfold Machine.drainOut
    dsimp only
    split
    · exact h
    · exact (ih h.modElem.sendOff.drainCheck).ite h

theorem wakeProducers (h : s.Sound) {q : Nat} : (Machine.wakeProducers s q).Sound := by
  unfold Machine.wakeProducers
  refine State.Sound.foldl h fun _ _ h => ?_
  split
  · exact h.drainOut.ite h
  · exact h

theorem pop (h : s.Sound) {v port phase : Nat} : (s.pop v port phase).Sound := by
  unfold State.pop
  refine State.Sound.ite ?_ (State.Sound.ite (h.modElem) (State.Sound.ite (h.modTile.ite h.modTile.planN) ?_))
  · split
    · exact h.setInq.wakeProducers
    · exact h
  · split
    · exact h.modSport.kickRead
    · exact h

theorem setVreg (h : s.Sound) {n i : Nat} {v : Vec} : (s.setVreg n i v).Sound :=
  h.modElem
theorem setSreg (h : s.Sound) {n i : Nat} {w : Word} : (s.setSreg n i w).Sound :=
  h.modElem

/-! ## Issue and completion -/

theorem delayGroup (h : s.Sound) {n : Nat} : (Machine.delayGroup s n).Sound :=
  (h.reorder (inOrder_of_inserts _)).modElem
theorem delay (h : s.Sound) {n : Nat} : (s.delay n).Sound :=
  h.delayGroup.ite h
theorem bubble (h : s.Sound) {n : Nat} : (s.bubble n).Sound :=
  h.delay.planIssue
theorem starve (h : s.Sound) {n cause : Nat} : (s.starve n cause).Sound :=
  h.trapSlot.ite h.bubble
theorem flushMerged (h : s.Sound) {n : Nat} : (Machine.flushMerged s n).Sound :=
  h.foldl fun _ _ h => h.planN.ite h
theorem Issued_only (h : s.Sound) : (Machine.Issued.only s).st.Sound :=
  h
theorem Issued_value (h : s.Sound) {lat : Nat} {d : Delivery} : (Machine.Issued.value s lat d).st.Sound :=
  h
theorem Issued_ends (h : s.Sound) {v : Verdict} : (Machine.Issued.ends s v).st.Sound :=
  h
theorem launchResult (h : s.Sound) {r : Result} : (s.launchResult r).Sound :=
  h.modElem.planResult

theorem holdSlot (h : s.Sound) {n : Nat} : (s.holdSlot n).Sound := by
  simp only [State.holdSlot]
  split
  · exact (h.modSlot.ite h.modSlot.delay).planN.planN.ite (h.modSlot.ite h.modSlot.delay).planN
  · exact (h.modSlot.ite h.modSlot.delay).planN

theorem finish {o : Opnds} {r : Issued} (h : r.st.Sound) : (Machine.finish o r).Sound := by
  have h3 : (match r.res with
    | some (kind, lat, d) => ((r.st.modSlot o.slot (fun x => advance x o.op r.jump)).unplan (fun a => match a with
        | .ev .holdOverrun g => g.a == o.slot
        | _ => false)).launchResult (resultOf o r.st.mcnt kind lat d)
    | none => (r.st.modSlot o.slot (fun x => advance x o.op r.jump)).unplan (fun a => match a with
        | .ev .holdOverrun g => g.a == o.slot
        | _ => false)).Sound := by
    split
    · exact h.modSlot.unplan.launchResult
    · exact h.modSlot.unplan
  unfold Machine.finish
  exact h3.ite h3.planIssue

/-- An instruction whose own effect keeps soundness keeps it at its issue, however its checks end. -/
theorem issueVE (h : s.Sound) {maj : Nat} {op : Op} {body : Opnds → State → Issued}
    (hb : ∀ o p, p.Sound → (body o p).st.Sound) : (Machine.issueVE maj op body s).Sound := by
  have hr := hb (s.operands s.cur maj op) _
    (h.foldl (l := popList op (s.operands s.cur maj op).trip) fun a p h => h.pop (v := veOfSlot s.cur) (port := p)
      (phase := (s.operands s.cur maj op).trip.phase))
  unfold Machine.issueVE
  dsimp only
  split
  · exact h
  · exact h.blockElem
  · exact h.trapSlot
  · exact h.starve
  · exact h.failLoad.bubble
  · split
    · exact hr.finish
    · exact h.starve
    · exact h.flushMerged.starve
    · exact h.fetchObject.bubble
    · exact h.trapSlot
    · exact hr.finish.trapAt
    · exact hr.finish.planEv
    · exact hr.holdSlot

theorem aluVE (h : s.Sound) {maj lat : Nat} {op : Op} {f : State → Opnds → Nat → Word × Flags} :
    (Machine.aluVE maj lat op f s).Sound :=
  h.issueVE fun _ _ h => h

theorem actVE (h : s.Sound) {maj : Nat} {op : Op} {f : Opnds → State → Issued} (hf : ∀ o p, p.Sound → (f o p).st.Sound) :
    (Machine.actVE maj op f s).Sound :=
  h.issueVE fun o p h => (hf o p h).ite_st h

theorem cmpVE (h : s.Sound) {maj : Nat} {op : Op} {m : State → Opnds → Nat → Bool × Flags} : (Machine.cmpVE maj op m s).Sound :=
  h.issueVE fun _ _ h => h

theorem iterVE (h : s.Sound) {maj lat int : Nat} {op : Op} {f : State → Opnds → Nat → Word × Flags} :
    (Machine.iterVE maj lat int op f s).Sound :=
  h.issueVE fun _ _ h => h.modElem

theorem pushOut (h : s.Sound) {n seq : Nat} {fan : BitVec 6} {phase : Nat} {tok : Token} {reserved : Bool} :
    (Machine.pushOut s n seq fan phase tok reserved).Sound :=
  h.foldl fun _ _ h => h.modElem.drainOut.ite h

theorem writeDest (h : s.Sound) {r : Result} : (Machine.writeDest s r).Sound := by
  unfold Machine.writeDest
  split
  · split
    · exact h.setVreg
    · exact h.setVreg
    · exact h.setSreg.ite h
    · exact h.setSreg.ite h
    · exact h.modSlot
    · exact h
  · exact h.ite h.modSlot
  · exact h.modSlot.ite h
  · exact h.modSlot.ite h
  · exact h.setSreg.ite h
  · exact h

theorem applyResult (h : s.Sound) {r : Result} : (Machine.applyResult s r).Sound :=
  h.writeDest.modSlot.pushOut.drainCheck

theorem completeResult (h : s.Sound) {n seq : Nat} : (Machine.completeResult n seq s).Sound := by
  simp only [Machine.completeResult]
  split
  · exact h.setElem.applyResult
  · exact h

/-! ## Accesses -/

theorem withoutDue (h : s.Sound) : (Machine.withoutDue s).Sound :=
  h.same
theorem takeBanks (h : s.Sound) {m : Nat} {b : Mask} : (Machine.takeBanks s m b).Sound :=
  h.same
theorem sendAccess (h : s.Sound) {a : Access} : (Machine.sendAccess s a).Sound :=
  h.fresh.same.planN.planN

theorem accessBody (h : s.Sound) {maj : Nat} {o : Opnds} : (Machine.accessBody maj o s).st.Sound := by
  unfold Machine.accessBody
  dsimp only
  split
  · exact h
  · split
    · exact h
    · split
      · exact h
      · exact h
      · split
        · exact h
        · exact h.sendAccess
      · split
        · exact h
        · exact h.takeBanks.sendAccess

theorem fillResult (h : s.Sound) {n seq size : Nat} {tok : Vec} {w : Word} : (Machine.fillResult s n seq size tok w).Sound :=
  h.modElem
theorem dropResult (h : s.Sound) {n seq : Nat} : (Machine.dropResult s n seq).Sound :=
  h.modElem
theorem endAccess (h : s.Sound) {id : Nat} : (Machine.endAccess s id).Sound :=
  h.same
theorem bankRead (h : s.Sound) {id : Nat} {a : Access} : (Machine.bankRead s id a).Sound :=
  h.endAccess.trapAt.drainCheck.ite (h.dropResult.endAccess.trapAt.drainCheck.ite h)
theorem storeBytes (h : s.Sound) {a : Access} : (Machine.storeBytes s a).Sound :=
  h.writeLanes.ite h.write
theorem performAperture (h : s.Sound) {a : Access} : (Machine.performAperture s a).Sound :=
  h.planEv

theorem performAccess (h : s.Sound) {id : Nat} {a : Access} : (Machine.performAccess s id a).Sound := by
  unfold Machine.performAccess
  split
  · exact h.fillResult.endAccess
  · exact h.storeBytes.endAccess
  · exact h.planN.ite (h.same.flushMerged.planN.ite h.storeBytes.endAccess)
  · exact h.fillResult.write32.endAccess
  · exact h.endAccess.performAperture

theorem capRes (h : s.Sound) {o : Opnds} {lat : Nat} {c : BitVec 128} : (Machine.capRes s o lat c).st.Sound :=
  h.Issued_only

/-! ## Barriers, counters, records -/

theorem arriveSlot (h : s.Sound) {o : Opnds} : (Machine.arriveSlot s o).Sound :=
  h.arrive.ite h.arrive.modTile
theorem ctrUpdate {k : Nat} {r : State × Bool} (h : r.1.Sound) : (Machine.ctrUpdate k r).st.Sound :=
  State.Sound.ite_st h h

/-! ## System instructions -/

theorem trapStop (h : s.Sound) {n cause : Nat} : (Machine.trapStop s n cause).Sound :=
  (h.ite h.modSlot).raise.freezeSlot
theorem setAssay (h : s.Sound) {t g : Nat} {a : Assay} : (s.setAssay t g a).Sound :=
  h.modTile
theorem planAssay (h : s.Sound) {t g kind : Nat} {v : Vec} : (Machine.planAssay s t g kind v).Sound :=
  h.planEv

theorem askAudit (h : s.Sound) {c n t : Nat} {w0 : Option Word} : (Machine.askAudit s c n t w0).2.Sound := by
  unfold Machine.askAudit
  split
  · exact h.modCtx.planEv
  · exact h.raise

theorem helmRequest (h : s.Sound) {kind : Nat} {a : Word} {b : Vec} {t : Nat} : (Machine.helmRequest s kind a b t).Sound := by
  unfold Machine.helmRequest
  split
  · exact h.same
  · exact h.fresh.same.planN

/-! ## Configuration -/

theorem modPort (h : s.Sound) {t : Nat} {f : CfgPort → CfgPort} : (s.modPort t f).Sound :=
  h.same

theorem cfgWrite (h : s.Sound) {t : Nat} {loc : CfgLoc} {raw : Word} : (Machine.cfgWrite s t loc raw).Sound := by
  simp only [Machine.cfgWrite]
  split
  · refine State.Sound.modElem ?_
    split
    · exact h.mendWord
    · exact h
  · refine State.Sound.modElem ?_
    split
    · exact h.mendWord
    · exact h
  · refine State.Sound.modElem ?_
    split
    · exact h.mendWord
    · exact h
  · refine State.Sound.modSlot (State.Sound.modElem ?_)
    split
    · exact h.mendWord
    · exact h
  · refine State.Sound.modElem ?_
    split
    · exact h.mendWord
    · exact h
  · refine State.Sound.modElem ?_
    split
    · exact h.mendWord
    · exact h
  · refine State.Sound.modElem ?_
    split
    · exact h.mendWord
    · exact h
  · refine State.Sound.modElem ?_
    split
    · exact h.mendWord
    · exact h
  · refine State.Sound.foldl ?_ fun _ _ h => (h.modSlot)
    split
    · exact h.mendWord
    · exact h
  · split
    · exact h.mendWord
    · exact h
  · refine State.Sound.modSlot ?_
    split
    · exact h.mendWord
    · exact h
  · refine State.Sound.modTile ?_
    split
    · exact h.mendWord
    · exact h
  · refine State.Sound.modTile ?_
    split
    · exact h.mendWord
    · exact h
  · refine State.Sound.modNode ?_
    split
    · exact h.mendWord
    · exact h
  · refine State.Sound.modNode ?_
    split
    · exact h.mendWord
    · exact h
  · refine State.Sound.modPort ?_
    split
    · exact h.mendWord
    · exact h
  · refine State.Sound.modLode ?_
    split
    · exact h.mendWord
    · exact h
  · refine State.Sound.modLode ?_
    split
    · exact h.mendWord
    · exact h
  · refine State.Sound.modSport ?_
    split
    · exact h.mendWord
    · exact h
  · refine State.Sound.modTile ?_
    split
    · exact h.mendWord
    · exact h
  · refine State.Sound.modTile ?_
    split
    · exact h.mendWord
    · exact h
  · refine State.Sound.modPort ?_
    split
    · exact h.mendWord
    · exact h
  · refine State.Sound.modPort ?_
    split
    · exact h.mendWord
    · exact h
  · refine State.Sound.ite (State.Sound.modSlot ?_) ?_
    · split
      · exact h.mendWord
      · exact h
    · split
      · exact h.mendWord
      · exact h
  · refine State.Sound.ite (State.Sound.modSlot ?_) ?_
    · split
      · exact h.mendWord
      · exact h
    · split
      · exact h.mendWord
      · exact h
  · refine State.Sound.modLode ?_
    split
    · exact h.mendWord
    · exact h
  · refine State.Sound.modLode ?_
    split
    · exact h.mendWord
    · exact h
  · refine State.Sound.modPort ?_
    split
    · exact h.mendWord
    · exact h
  · refine State.Sound.modPort ?_
    split
    · exact h.mendWord
    · exact h
  · refine State.Sound.modElem ?_
    split
    · exact h.mendWord
    · exact h
  · refine State.Sound.modElem ?_
    split
    · exact h.mendWord
    · exact h
  · refine State.Sound.modSlot ?_
    split
    · exact h.mendWord
    · exact h

theorem resetWords (h : s.Sound) {t : Nat} {as : List Nat} : (Machine.resetWords s t as).Sound := by
  unfold Machine.resetWords
  refine State.Sound.foldl h fun _ _ h => ?_
  split
  · exact h.cfgWrite
  · exact h

theorem clearTile (h : s.Sound) {t : Nat} : (Machine.clearTile s t).Sound :=
  (((h.foldl fun _ _ h => h.setElem).foldl fun _ _ h => h.setSlot).foldl fun _ _ h => h.modSport).modTile.modNode.setLode.modPort
theorem seedTile (h : s.Sound) {t : Nat} {fresh : Bool} : (Machine.seedTile s t fresh).Sound :=
  (h.foldl fun _ _ h => h.ite h.modSlot).modLode.ite (h.foldl fun _ _ h => h.ite h.modSlot)
theorem preloadTile (h : s.Sound) {t c : Nat} : (Machine.preloadTile s t c).Sound :=
  h.foldl fun _ _ h => h.fillObject.ite h
theorem couple (h : s.Sound) {v : Nat} : (Machine.couple s v).Sound :=
  h.modElem
theorem sealTile (h : s.Sound) {t : Nat} {fresh : Bool} : (Machine.sealTile s t fresh).Sound :=
  (h.seedTile.foldl fun _ _ h => h.couple).preloadTile.ite (h.seedTile.foldl fun _ _ h => h.couple)

theorem cfgWrites (h : s.Sound) {t : Nat} {r : CfgReq} : (Machine.cfgWrites s t r).Sound := by
  unfold Machine.cfgWrites
  refine State.Sound.ite (h.modPort) (State.Sound.foldl h fun _ _ h => ?_)
  split
  · exact h.cfgWrite.modPort
  · exact h

theorem serveCfg (h : s.Sound) {t : Nat} {r : CfgReq} : (Machine.serveCfg s t r).1.Sound := by
  unfold Machine.serveCfg
  dsimp only
  split
  · exact h
  · split
    · exact h.modPort
    · exact h.cfgWrites
    · split
      · exact h.sealTile.modPort
      · exact h.resetWords.modPort
    · exact h.clearTile
    · exact h.clearTile
    · split
      · exact h
      · exact h.clearTile
    · exact h

theorem sendCfg (h : s.Sound) {op : Nat} {o : Opnds} : (Machine.sendCfg op o s).st.Sound := by
  unfold Machine.sendCfg
  split
  · exact (h.planEv.ite h).Issued_only
  · exact h.Issued_ends.ite_st h.modPort.planN.Issued_only

/-! ## Translation -/

theorem sendReq (h : s.Sound) {r : Req} : (Machine.sendReq s r).Sound :=
  h.fresh.same.send.ite (h.fresh.same.planN.ite h.fresh.same.send)

theorem readEntry (h : s.Sound) {t : Nat} : (Machine.readEntry s t).Sound := by
  unfold Machine.readEntry
  split
  · exact h
  · exact h.modTile.planEv.ite h.modTile.sendReq

theorem queueWalk (h : s.Sound) {t who ctx va table : Nat} {write : Bool} :
    (Machine.queueWalk s t who ctx va table write).Sound :=
  h.fresh.modTile.planEv.ite h.fresh.modTile

theorem fillPage (h : s.Sound) {t : Nat} {e : PageEntry} : (Machine.fillPage s t e).Sound :=
  h.modTile

theorem prefetchHit (h : s.Sound) {t ctx obj ver va : Nat} : (Machine.prefetchHit s t ctx obj ver va).Sound := by
  unfold Machine.prefetchHit
  split
  · exact h.queueWalk.ite h
  · exact h

theorem prefetch (h : s.Sound) {o : Opnds} : (Machine.prefetch s o).Sound := by
  unfold Machine.prefetch
  refine State.Sound.ite h ?_
  split
  · exact h.fetchObject.planEv
  · exact h.prefetchHit

/-! ## Stream ports -/

theorem portFault (h : s.Sound) {m n cause detail : Nat} : (Machine.portFault s m n cause detail).Sound :=
  h.modSport.trapAt
theorem portWalk (h : s.Sound) {m table va : Nat} {write : Bool} : (Machine.portWalk s m table va write).Sound :=
  h.modSport.queueWalk

theorem portHalt (h : s.Sound) {m : Nat} {write : Bool} {x3 : Halt} : (Machine.portHalt s m write x3).Sound := by
  unfold Machine.portHalt
  split
  · exact h.portFault
  · exact h.portWalk
  · exact h.portFault.ite h.fetchObject
  · exact h

theorem presentPlain (h : s.Sound) {m : Nat} : (Machine.presentPlain s m).Sound := by
  unfold Machine.presentPlain
  refine State.Sound.ite h ?_
  split
  · exact h
  · exact h.planOnce.ite (h.setSport.planOnce.ite h.setSport)

theorem loadGroup (h : s.Sound) {m c : Nat} : (Machine.loadGroup s m c).Sound :=
  h.ite (h.planOnce.ite (h.setSport.planOnce.ite h.setSport.planEv))

theorem presentGroup (h : s.Sound) {m : Nat} : (Machine.presentGroup s m).Sound := by
  simp only [Machine.presentGroup]
  split
  · exact h
  · exact h.ite (h.planOnce.ite (h.ite (h.ite (h.planOnce.ite (h.setSport.planOnce.loadGroup.ite h.setSport.planOnce)))))

theorem groupRead (h : s.Sound) {m ix : Nat} {tok : Token} : (Machine.groupRead s m ix tok).Sound :=
  h.modSport.presentGroup
theorem portWhole (h : s.Sound) {m ix : Nat} {tok : Token} : (Machine.portWhole s m ix tok).Sound :=
  h.groupRead.ite h.setSport.presentPlain

theorem portReturn (h : s.Sound) {m walk ix : Nat} {tok : Token} : (Machine.portReturn s m walk ix tok).Sound := by
  unfold Machine.portReturn
  refine State.Sound.ite h ?_
  split
  · exact h.portWhole
  · exact h.setSport.portWhole.ite h.setSport

theorem readAsked (h : s.Sound) {m : Nat} : (Machine.readAsked s m).Sound :=
  (h.setSport.loadGroup.ite h.setSport.planEv).ite h.setSport
theorem askToken (h : s.Sound) {m ix : Nat} {ps : List Part} {valid : Mask} : (Machine.askToken s m ix ps valid).Sound :=
  (h.ite h.setSport).foldl fun _ _ h => h.sendReq

theorem requestRead (h : s.Sound) {m : Nat} : (Machine.requestRead s m).Sound := by
  unfold Machine.requestRead
  refine State.Sound.ite (h.planEv) (State.Sound.ite (h.flushMerged.planEv) ?_)
  split
  · exact h
  · exact (h.planEv.ite h).portHalt
  · split
    · exact h.modSport.readAsked.planEv
    · exact (h.planEv.ite h.modSport.takeBanks.readAsked.planEv).ite (h.planEv.ite h.modSport.readAsked.askToken)

theorem readOwn (h : s.Sound) {m ix : Nat} : (Machine.readOwn s m ix).Sound := by
  simp only [Machine.readOwn]
  split
  · exact (h.planEv.ite h).portHalt
  · exact h.portReturn

theorem wakeInput (h : s.Sound) {m : Nat} : (Machine.wakeInput s m).Sound :=
  h.foldl fun _ _ h => h.drainOut.ite h

theorem sendWrite (h : s.Sound) {m id : Nat} {ps : List Part} {poison : Bool} : (Machine.sendWrite s m id ps poison).Sound := by
  unfold Machine.sendWrite
  split
  · exact h.planN
  · exact h.planN.ite (h.foldl fun _ _ h => h.sendReq)

theorem writeDone (h : s.Sound) {m id : Nat} {ps : List Part} : (Machine.writeDone s m id ps).Sound :=
  h.modSport
theorem flushPort (h : s.Sound) {m : Nat} : (Machine.flushPort s m).Sound :=
  h.modSport.foldl fun _ _ h => h.planN.ite h.sendWrite

theorem acceptPlain (h : s.Sound) {m : Nat} {w : WToken} {ps : List (Part × Nat)} : (Machine.acceptPlain s m w ps).Sound :=
  (h.ite h.modSport.sendWrite).ite (((h.ite h.modSport.sendWrite).flushPort.ite (h.ite
    h.modSport.sendWrite)).modSport.flushPort.ite ((h.ite h.modSport.sendWrite).flushPort.ite (h.ite
    h.modSport.sendWrite)).modSport)

theorem acceptGroup (h : s.Sound) {m : Nat} {t : WToken} : (Machine.acceptGroup s m t).Sound := by
  unfold Machine.acceptGroup
  refine State.Sound.ite (h.setSport) ?_
  split
  · exact h.setSport.portHalt
  · exact h.setSport.sendWrite

theorem takeInput (h : s.Sound) {m : Nat} : (Machine.takeInput s m).Sound := by
  simp only [Machine.takeInput]
  split
  · exact h
  · refine State.Sound.ite (h.setSport.trapAt.wakeInput) (State.Sound.ite (h.planN) (State.Sound.ite ?_ ?_))
    · split
      · exact h.planN.portHalt
      · exact (h.planN.ite h.fresh.modSport.takeBanks.acceptGroup.wakeInput).ite h.fresh.modSport.acceptGroup.wakeInput
    · split
      · exact h.planN.portHalt.ite h.fresh.modSport.portHalt.wakeInput
      · exact h.planN.ite ((h.planN.ite h.fresh.modSport.takeBanks.acceptPlain.wakeInput).ite
          h.fresh.modSport.acceptPlain.wakeInput)

theorem arriveInput (h : s.Sound) {m : Nat} : (Machine.arriveInput s m).Sound := by
  simp only [Machine.arriveInput]
  split
  · exact h
  · exact h.setSport.trapAt.wakeInput.ite h.setSport.planN

theorem endWalk (h : s.Sound) {m : Nat} : (Machine.endWalk s m).Sound :=
  h.fresh.setSport.ite h.fresh.setSport.flushPort
theorem beginPort (h : s.Sound) {m : Nat} : (Machine.beginPort s m).Sound :=
  h.setSport.ite (h.setSport.loadGroup.ite h.setSport.kickRead)

/-! ## Copies -/

theorem setCopy (h : s.Sound) {id : Nat} {c : Copy} : (s.setCopy id c).Sound :=
  h.same

theorem modCopy (h : s.Sound) {id : Nat} {f : Copy → Copy} : (s.modCopy id f).Sound := by
  unfold State.modCopy
  split
  · exact h.setCopy
  · exact h

theorem copyFetch (h : s.Sound) {c : Copy} {o : Nat} : (Machine.copyFetch s c o).Sound :=
  h.fetchObject

theorem checkCopy (h : s.Sound) {id : Nat} : (Machine.checkCopy s id).Sound := by
  unfold Machine.checkCopy
  split
  · exact (h.reorder (inOrder_insertBefore _ _ h.2)).ite h
  · exact h

theorem freezeChan (h : s.Sound) {t ch cause : Nat} : (Machine.freezeChan s t ch cause).Sound := by
  unfold Machine.freezeChan
  split
  · exact h.modChan.modCopy.checkCopy
  · exact h.modChan

theorem copyFault (h : s.Sound) {c : Copy} {cause detail : Nat} : (Machine.copyFault s c cause detail).Sound :=
  h.raiseFor.freezeChan

theorem stopCopy (h : s.Sound) {id status cause detail lim : Nat} : (Machine.stopCopy s id status cause detail lim).Sound := by
  unfold Machine.stopCopy
  split
  · exact h
  · exact h.raiseFor.ite h.setCopy.copyFault.checkCopy

theorem kickChan (h : s.Sound) {t ch c : Nat} : (Machine.kickChan s t ch c).Sound := by
  unfold Machine.kickChan
  split
  · exact h.planOnce
  · exact h

theorem dropCopy (h : s.Sound) {id : Nat} {c : Copy} : (Machine.dropCopy s id c).Sound :=
  (h.same.modChan.endCommand.ite h.same.modChan.endCommand.planOnce).ite (h.same.modChan.endCommand.ite
    h.same.modChan.endCommand.planOnce).kickChan

theorem giveBack (h : s.Sound) {c : Copy} {n : Nat} : (Machine.giveBack s c n).Sound :=
  h.modTel

theorem finishCopy (h : s.Sound) {id : Nat} {c : Copy} : (Machine.finishCopy s id c).Sound := by
  have hcredit : (match tmCtr c.ws with
    | some k => s.creditLogical (creditHome s c) k (bytesDone c)
    | none => (s, false)).1.Sound := by
    split
    · exact .of_eq rfl rfl h
    · exact h
  have harrive {a : State} (ha : a.Sound) : (match tmBar c.ws with
    | some b => a.modLogical (homeOf c.tile c.lt) (fun x => x.arrive s.mcnt b)
    | none => a).Sound := by
    split
    · exact ha.modLogical
    · exact ha
  have hend {a : State} (ha : a.Sound) : (Machine.dropCopy (if c.resv = 0 then a else Machine.giveBack a c c.resv) id c).Sound
    := by
    refine State.Sound.dropCopy ?_
    exact ha.ite ha.giveBack
  have hpost {a : State} (ha : a.Sound) : (if tmEvr c.ws || c.stop.isSome then
      a.postLogical (homeOf c.tile c.lt) 2 (copyRecord s c) else a).Sound := ha.postLogical.ite ha
  have hdone := hend (hpost (harrive hcredit))
  unfold Machine.finishCopy
  exact hdone.copyFault.ite hdone

theorem discardWaiting (h : s.Sound) {t ch n : Nat} : (Machine.discardWaiting s t ch n).Sound := by
  induction n generalizing s with
  | zero => exact h
  | succ n ih =>
    unfold Machine.discardWaiting
    split
    · exact h
    · exact ih h.modChan.finishCopy

theorem releaseChan (h : s.Sound) {t ch : Nat} : (Machine.releaseChan s t ch).Sound :=
  h.discardWaiting.modChan
theorem abandonCopies (h : s.Sound) {n : Nat} : (Machine.abandonCopies s n).Sound :=
  (h.foldl fun _ _ h => h.dropCopy).same

theorem postRuns (h : s.Sound) {id n : Nat} : (Machine.postRuns s id n).Sound := by
  induction n generalizing s with
  | zero => exact h
  | succ n ih =>
    unfold Machine.postRuns
    split
    · exact h
    · exact h.ite (ih h.setCopy.modTel.send)

theorem copyRunEnd (h : s.Sound) {id status : Nat} : (Machine.copyRunEnd s id status).Sound := by
  unfold Machine.copyRunEnd
  split
  · exact h
  · exact (h.setCopy.ite h).postRuns.checkCopy

theorem copySend (h : s.Sound) {c : Copy} {d1 : Nat} {t1 : Option Nat} {d2 : Nat} {t2 : Option Nat} {rank extra : Nat}
    {i : Instr} {a : Arg} : (Machine.copySend s c d1 t1 d2 t2 rank extra i a).Sound :=
  h.send

theorem kickCopyRead (h : s.Sound) {id c : Nat} : (Machine.kickCopyRead s id c).Sound :=
  h.planOnce
theorem kickCopyWrite (h : s.Sound) {id c : Nat} : (Machine.kickCopyWrite s id c).Sound :=
  h.planOnce

theorem copyReturn (h : s.Sound) {id k : Nat} {tok : Token} : (Machine.copyReturn s id k tok).Sound := by
  unfold Machine.copyReturn
  split
  · exact h
  · exact h.ite (h.stopCopy.ite h.setCopy.kickCopyWrite)

theorem copyReq (h : s.Sound) {id : Nat} {c : Copy} {k pa die : Nat} {tile : Option Nat} {w : Option Token} :
    (Machine.copyReq s id c k pa die tile w).Sound :=
  h.sendReq

theorem beginRead (h : s.Sound) {id : Nat} {c : Copy} : (Machine.beginRead s id c).Sound := by
  unfold Machine.beginRead
  refine State.Sound.ite h (State.Sound.ite (h.kickCopyRead) (State.Sound.ite (h.kickCopyRead.copyFetch) (State.Sound.ite
    (h.kickCopyRead) ?_)))
  split
  · exact h.stopCopy
  · exact (h.kickCopyRead.ite h.takeBanks.setCopy.modBte.kickCopyRead.planEv).ite h.setCopy.modBte.kickCopyRead.copySend
  · exact h.setCopy.modBte.kickCopyRead.copyReq
  · exact h

theorem meRead (h : s.Sound) {id : Nat} {c : Copy} {step k : Nat} : (Machine.meRead s id c step k).Sound := by
  unfold Machine.meRead
  split
  · exact (h.planEv.ite h.takeBanks.planEv).ite (h.copyReturn.ite h.copySend)
  · exact h.stopCopy
  · exact h

theorem sendToken (h : s.Sound) {id : Nat} {c : Copy} {k : Nat} {tok : Token} {die : Nat} {tile : Option Nat} :
    (Machine.sendToken s id c k tok die tile).Sound := by
  unfold Machine.sendToken
  split
  · exact h.stopCopy
  · exact h.setCopy.planEv.ite h.setCopy.copySend
  · exact h.setCopy.copyReq
  · exact h.setCopy.modTel.copySend

theorem leaveTeller (h : s.Sound) {id : Nat} {c : Copy} {k : Nat} {tok : Token} : (Machine.leaveTeller s id c k tok).Sound :=
  h.ite (h.planEv.ite h.sendToken)

theorem beginWrite (h : s.Sound) {id : Nat} {c : Copy} : (Machine.beginWrite s id c).Sound := by
  unfold Machine.beginWrite
  refine State.Sound.ite (h.kickCopyWrite.ite h) (State.Sound.ite (h.kickCopyWrite) (State.Sound.ite (h.kickCopyWrite.copyFetch)
    (State.Sound.ite (h.kickCopyWrite) ?_)))
  split
  · exact h
  · exact h.modBte.sendToken.kickCopyWrite

theorem meAccept (h : s.Sound) {id : Nat} {c : Copy} {k : Nat} {tok : Token} : (Machine.meAccept s id c k tok).Sound := by
  unfold Machine.meAccept
  split
  · exact h.planEv.ite h.takeBanks.setCopy.planEv
  · exact h.stopCopy
  · exact h

theorem copyWrote (h : s.Sound) {id : Nat} : (Machine.copyWrote s id).Sound :=
  h.modCopy.checkCopy

theorem burstIssued (h : s.Sound) {id g n : Nat} : (Machine.burstIssued s id g n).Sound := by
  unfold Machine.burstIssued
  split
  · exact h
  · exact h.setCopy.giveBack.ite h.setCopy

theorem burstRead (h : s.Sound) {id g data : Nat} {poison : Bool} : (Machine.burstRead s id g data poison).Sound := by
  unfold Machine.burstRead
  split
  · exact h
  · exact h.setCopy.ite (h.setCopy.giveBack.ite (h.setCopy.giveBack.stopCopy.ite h.setCopy.giveBack.leaveTeller)).postRuns

theorem beginCopy (h : s.Sound) {id : Nat} {c : Copy} : (Machine.beginCopy s id c).Sound := by
  have h2 : ∀ m c1 f, ((({ s with cmds := mset s.cmds id m }.setCopy id c1).modChan c.tile c.chan f).drainBlock c.slot).Sound :=
    fun m c1 f => (h.same (t := { s with cmds := mset s.cmds id m })).setCopy.modChan.drainBlock
  unfold Machine.beginCopy
  dsimp only
  split
  · split
    · exact (h2 _ _ _).setCopy.stopCopy
    · exact (h2 _ _ _).drawWord.setCopy.stopCopy
  · exact (h2 _ _ _).postRuns.ite ((h2 _ _ _).kickCopyRead.postRuns.ite (h2 _ _ _).kickCopyRead)

theorem acceptCopy (h : s.Sound) {t ch tm slot bound : Nat} {ws : List Word} {start : Nat} :
    (Machine.acceptCopy s t ch tm slot bound ws start).Sound := by
  refine State.Sound.planOnce (State.Sound.modBte ?_)
  exact .of_eq rfl rfl h

theorem startCopy (h : s.Sound) {o : Opnds} {ch tm : Nat} {ws : List Word} {start : Nat} :
    (Machine.startCopy o ch tm ws start s).st.Sound :=
  h.Issued_ends.ite_st h.acceptCopy.Issued_only

/-! ## Loads -/

theorem writeRemap (h : s.Sound) {c n : Nat} {ps : List (BitVec 10 × Nat)} : (Machine.writeRemap s c n ps).Sound :=
  h.same

theorem copyTable (h : s.Sound) {c : Nat} : (Machine.copyTable s c).Sound := by
  unfold Machine.copyTable
  split
  · exact h
  · exact h.rewrite (wf_foldl_writeBytes h.1)

theorem writeReplicas (h : s.Sound) {c t : Nat} {g : Config.TileImg} : (Machine.writeReplicas s c t g).Sound := by
  unfold Machine.writeReplicas
  split
  · exact h
  · exact h.foldl fun _ _ h => (h.rewrite (wf_writeBytes h.1 _ _)).ite h

theorem dropObjects (h : s.Sound) {c t : Nat} {off : BitVec 8} : (Machine.dropObjects s c t off).Sound :=
  h.foldl fun _ _ h => h.foldl fun _ _ h => h.write32.ite h
theorem refreshCaches (h : s.Sound) {c : Nat} : (Machine.refreshCaches s c).Sound :=
  h.same
theorem applyFuses (h : s.Sound) {c t : Nat} : (Machine.applyFuses s c t).Sound :=
  h.ite h.modTile.dropObjects.refreshCaches
theorem loadSlot (h : s.Sound) {t : Nat} {g : Config.SlotImg} : (Machine.loadSlot s t g).Sound :=
  h.modSlot
theorem emptyTile (h : s.Sound) {t : Nat} : (Machine.emptyTile s t).Sound :=
  h.same

theorem loadTile (h : s.Sound) {t : Nat} {ctx graph : Option Nat} {seed : BitVec 64} {n : Nat} {keep : Bool}
    {g : Config.TileImg} {words : Map Word} : (Machine.loadTile s t ctx graph seed n keep g words).Sound := by
  unfold Machine.loadTile
  refine State.Sound.modPort (State.Sound.sealTile (State.Sound.modPort (State.Sound.foldl (State.Sound.foldl
    ((h.clearTile.emptyTile.ite h.clearTile.emptyTile.setLode).setNode.modTile) fun _ _ h => ?_) fun _ _ h => (h.loadSlot))))
  split
  · exact h.cfgWrite
  · exact h

theorem flushTile (h : s.Sound) {t : Nat} : (Machine.flushTile s t).Sound :=
  h.ite (h.foldl fun _ _ h => h.ite h.planN)

theorem patchTile (h : s.Sound) {t n : Nat} {g : Config.TileImg} {words : Map Word} {vs : List Nat} :
    (Machine.patchTile s t n g words vs).Sound := by
  unfold Machine.patchTile
  refine State.Sound.modTile (State.Sound.foldl (State.Sound.foldl (State.Sound.foldl h fun _ _ h => ?_) fun _ _ h =>
    (h.loadSlot.modSlot.ite h.loadSlot)) fun _ _ h => (h.couple))
  split
  · exact h.cfgWrite
  · exact h

theorem buildCircuit (h : s.Sound) {c : Nat} {g : Config.CircImg} : (Machine.buildCircuit s c g).Sound := by
  unfold Machine.buildCircuit
  split
  · exact h.same
  · exact h

theorem buildCircuits (h : s.Sound) {c : Nat} : (Machine.buildCircuits s c).Sound := by
  unfold Machine.buildCircuits
  split
  · exact h.same.foldl fun _ _ h => h.foldl fun _ _ h => h.buildCircuit
  · exact h.same

theorem loadTellers (h : s.Sound) {c : Nat} {i : Config.Image} {ld : Config.LoadImg} : (Machine.loadTellers s c i ld).Sound :=
  (h.foldl fun _ _ h => h.ite h.setTel).foldl fun _ _ h => h.modLink
theorem watchAudits (h : s.Sound) {c : Nat} : (Machine.watchAudits s c).Sound :=
  h.planEv

/-! ## The Lodestone node -/

theorem freezeLode (h : s.Sound) {t : Nat} : (Machine.freezeLode s t).Sound :=
  h.unplan.setLode.endEngine
theorem releaseLode (h : s.Sound) {t : Nat} : (Machine.releaseLode s t).Sound :=
  h.freezeLode.modLode.endEngine
theorem lodeRecord (h : s.Sound) {t : Nat} {c : LCmd} {status count : Nat} : (Machine.lodeRecord s t c status count).Sound :=
  h.postRecord

theorem kickLode (h : s.Sound) {t : Nat} : (Machine.kickLode s t).Sound := by
  unfold Machine.kickLode
  split
  · exact h.planOnce.ite h
  · exact h

theorem storeLode (h : s.Sound) {x : LNode} {c : LCmd} {k : Nat} : (Machine.storeLode s x c k).Sound :=
  h.foldl fun _ _ h => h.write32
theorem nextColour (h : s.Sound) {t k : Nat} {c : LCmd} : (Machine.nextColour s t k c).Sound :=
  h.planN.ite h.planN
theorem endSweep (h : s.Sound) {t : Nat} {c : LCmd} : (Machine.endSweep s t c).Sound :=
  (h.setLode.modLode.ite h.setLode.nextColour).ite h.setLode.planN
theorem lodeToken (h : s.Sound) {t k : Nat} {c : LCmd} : (Machine.lodeToken s t k c).Sound :=
  h.planEv.ite (h.takeBanks.planEv.planEv.ite h.takeBanks.planEv.planN)
theorem lodeBank (h : s.Sound) {t k : Nat} {c : LCmd} : (Machine.lodeBank s t k c).Sound :=
  h.setLode.ite (h.setLode.ite h.storeLode)

theorem lodeEffect (h : s.Sound) {t : Nat} {c : LCmd} : (Machine.lodeEffect s t c).Sound := by
  unfold Machine.lodeEffect
  split
  · exact h.setLode
  · exact h.setLode
  · exact h.setLode
  · exact h.setLode
  · exact h

theorem lodeComplete (h : s.Sound) {t : Nat} {c : LCmd} : (Machine.lodeComplete s t c).Sound := by
  simp only [Machine.lodeComplete]
  split
  · exact ((h.lodeEffect.setLode.lodeRecord.ite h.lodeEffect.setLode).arrive.ite (h.lodeEffect.setLode.lodeRecord.ite
      h.lodeEffect.setLode)).endCommand.modLode.ite ((h.lodeEffect.setLode.lodeRecord.ite h.lodeEffect.setLode).arrive.ite
      (h.lodeEffect.setLode.lodeRecord.ite h.lodeEffect.setLode)).endCommand.planOnce
  · exact ((h.lodeEffect.setLode.lodeRecord.ite h.lodeEffect.setLode).arrive.ite (h.lodeEffect.setLode.lodeRecord.ite
      h.lodeEffect.setLode)).endCommand.modLode.ite ((h.lodeEffect.setLode.lodeRecord.ite h.lodeEffect.setLode).arrive.ite
      (h.lodeEffect.setLode.lodeRecord.ite h.lodeEffect.setLode)).endCommand

theorem stopLode (h : s.Sound) {t : Nat} : (Machine.stopLode s t).Sound :=
  h.ite (h.modLode.ite h.modLode)

theorem resumeLode (h : s.Sound) {t : Nat} : (Machine.resumeLode s t).Sound := by
  simp only [Machine.resumeLode]
  split
  · exact h.modLode.nextColour.ite h.modLode
  · exact h.modLode.kickLode

theorem queueLode (h : s.Sound) {o : Opnds} {maj addr : Nat} : (Machine.queueLode o maj addr s).st.Sound :=
  (State.Sound.ite_st (a := Issued.only _) (h.lodeRecord.ite h)
    (State.Sound.ite_st (a := Issued.ends s _) (b := Issued.only _) h (h.same.modLode.kickLode)))

theorem withExtent (h : s.Sound) {maj : Nat} {need : BitVec 8} {align size : Opnds → Nat} {o : Opnds} :
    (Machine.withExtent maj need align size o s).st.Sound := by
  unfold Machine.withExtent
  split
  · exact h.Issued_ends
  · exact h.queueLode

theorem loadLode (h : s.Sound) {maj unit align : Nat} {o : Opnds} : (Machine.loadLode maj unit align o s).st.Sound :=
  h.Issued_ends.ite_st h.withExtent

/-! ## The matrix node -/

theorem shiftNode (h : s.Sound) {t : Nat} : (Machine.shiftNode s t).Sound :=
  (h.reorder (inOrder_of_inserts _)).modNode
theorem freezeNode (h : s.Sound) {t : Nat} : (Machine.freezeNode s t).Sound :=
  h.stopTable.unplan.setNode.endEngine
theorem regionFault (h : s.Sound) {t cause detail : Nat} : (Machine.regionFault s t cause detail).Sound :=
  h.raise.foldl fun _ _ h => h.freezeNode
theorem releaseNode (h : s.Sound) {t : Nat} : (Machine.releaseNode s t).Sound :=
  h.freezeNode.modNode.endEngine
theorem regionPoison (h : s.Sound) {t detail : Nat} : (Machine.regionPoison s t detail).Sound :=
  h.raise
theorem pipeView (h : s.Sound) {r : MRun} : (Machine.pipeView s r).Sound :=
  h.foldl fun _ _ h => h.writeTok
theorem pipeReturn (h : s.Sound) {t ix : Nat} {tok : Token} : (Machine.pipeReturn s t ix tok).Sound :=
  h.modNode
theorem askTokens (h : s.Sound) {t cmd : Nat} {l : List Nat} : (Machine.askTokens s t cmd l).Sound :=
  h.foldl fun _ _ h => h.ite h.sendReq

theorem pipeHalt (h : s.Sound) {t : Nat} {x2 : Halt} : (Machine.pipeHalt s t x2).Sound := by
  unfold Machine.pipeHalt
  split
  · exact h.regionFault
  · exact h.ite h.queueWalk
  · exact h.regionFault.ite h.fetchObject
  · exact h.askTokens

theorem matrixRecord (h : s.Sound) {t : Nat} {w : BitVec 64} {entry status count : Nat} :
    (Machine.matrixRecord s t w entry status count).Sound :=
  h.postRecord

theorem finishMatrix (h : s.Sound) {t : Nat} {r : MRun} : (Machine.finishMatrix s t r).Sound :=
  ((h.matrixRecord.ite h).arrive.ite (h.matrixRecord.ite h)).endCommand

theorem kickQueue (h : s.Sound) {t : Nat} : (Machine.kickQueue s t).Sound := by
  unfold Machine.kickQueue
  split
  · exact h.planOnce
  · exact h

theorem kickFeed (h : s.Sound) {t : Nat} : (Machine.kickFeed s t).Sound :=
  h.planOnce

theorem acceptMatrix (h : s.Sound) {t : Nat} {w : BitVec 64} {entry slot acc : Nat} :
    (Machine.acceptMatrix s t w entry slot acc).Sound :=
  h.fresh.same.modNode.kickQueue.kickFeed

/-- A matrix command that begins keeps soundness where its own start does. -/
theorem beginWith (h : s.Sound) {t : Nat} {i : Instr} {start : State → MRun → State} (hs : ∀ a r, a.Sound → (start a r).Sound) :
    (Machine.beginWith s t i start).Sound := by
  unfold Machine.beginWith
  split
  · dsimp only
    split
    · split
      · exact h.failLoad
      · split
        · refine State.Sound.kickQueue (hs _ _ (State.Sound.drainBlock ?_))
          exact .of_eq rfl rfl h
        · exact h.ite h.planOnce
    · exact h
  · exact h

theorem planTable (h : s.Sound) {t c : Nat} : (Machine.planTable s t c).Sound := by
  unfold Machine.planTable
  split
  · exact h.unplan.planN
  · exact h.unplan

theorem extendFeed (h : s.Sound) {t : Nat} : (Machine.extendFeed s t).Sound := by
  unfold Machine.extendFeed
  refine State.Sound.ite ?_ h
  split
  · exact h.modNode
  · exact h

theorem takePort (h : s.Sound) {m : Nat} : (Machine.takePort s m).Sound :=
  h.modSport.kickRead

theorem popFeed (h : s.Sound) {t p : Nat} : (Machine.popFeed s t p).Sound := by
  simp only [Machine.popFeed]
  split
  · exact h
  · split
    · exact h
    · split
      · exact h.setNode.takePort
      · exact h

theorem pruneFeed (h : s.Sound) {t : Nat} : (Machine.pruneFeed s t).Sound :=
  h.modNode
theorem putWeight (h : s.Sound) {t bank b : Nat} {x : Blk} : (Machine.putWeight s t bank b x).Sound :=
  h.modNode
theorem markWeights (h : s.Sound) {t bank b n : Nat} {fresh pois : Bool} : (Machine.markWeights s t bank b n fresh pois).Sound :=
  h.modNode
theorem modWld (h : s.Sound) {t bank : Nat} {f : MRun → MRun} : (Machine.modWld s t bank f).Sound :=
  h.modNode
theorem beginWld (h : s.Sound) {r : MRun} : (Machine.beginWld s r).Sound :=
  h.modNode.planEv.planEv.ite h.modNode.planEv

theorem loadWeight (h : s.Sound) {t k bank : Nat} : (Machine.loadWeight s t k bank).Sound := by
  simp only [Machine.loadWeight]
  split
  · exact h
  · split
    · exact h.pipeHalt.ite h.pipeHalt.modWld.planEv
    · exact h.modWld.planEv.kickQueue.ite ((h.drawWord.regionPoison.ite h).putWeight.markWeights.modWld.planEv.ite
        (h.drawWord.regionPoison.ite h).putWeight.markWeights.modWld.planEv)

theorem writeWeights (h : s.Sound) {t k bank : Nat} {r : MRun} {tok : Token} : (Machine.writeWeights s t k bank r tok).Sound :=
  ((h.regionPoison.ite h).foldl fun _ _ h => h.putWeight).markWeights.modWld
theorem beginAct (h : s.Sound) {r : MRun} : (Machine.beginAct s r).Sound :=
  h.modNode.planEv.kickFeed
theorem bankPoison (h : s.Sound) {t bank : Nat} : (Machine.bankPoison s t bank).Sound :=
  h.foldl fun _ _ h => h.drawWord.regionPoison

theorem readPoison (h : s.Sound) {t n : Nat} {port : Option Nat} : (Machine.readPoison s t port n).Sound := by
  induction n generalizing s with
  | zero => exact h
  | succ n ih =>
    refine ih ?_
    split
    · exact h.regionPoison
    · exact h.drawWord.regionPoison

theorem takeGroup (h : s.Sound) {t g : Nat} {r : MRun} {bs : List Blk} {p : Nat} : (Machine.takeGroup s t g r bs p).Sound :=
  (h.readPoison.bankPoison.modNode.planEv.planEv.ite h.readPoison.bankPoison.modNode.planEv).planEv.ite
    (h.readPoison.bankPoison.modNode.planEv.planEv.ite h.readPoison.bankPoison.modNode.planEv)

theorem groupTurn (h : s.Sound) {t g : Nat} : (Machine.groupTurn s t g).Sound := by
  unfold Machine.groupTurn
  split
  · exact h
  · refine State.Sound.ite h (State.Sound.ite (h.planEv) ?_)
    split
    · exact h.planEv
    · exact h.pipeHalt.ite h.pipeHalt.modNode.planEv
    · exact h.ite (h.planEv.ite h.takeGroup)

theorem applyGroup (h : s.Sound) {t g : Nat} {w : BitVec 64} : (Machine.applyGroup s t g w).Sound :=
  h.ite h.modNode
theorem beginDrnMx (h : s.Sound) {r : MRun} : (Machine.beginDrnMx s r).Sound :=
  h.modNode.planN
theorem pushRow (h : s.Sound) {t row : Nat} : (Machine.pushRow s t row).Sound :=
  h.foldl fun _ _ h => h.modElem
theorem beginDrnRaw (h : s.Sound) {r : MRun} : (Machine.beginDrnRaw s r).Sound :=
  h.modNode.planN
theorem drainPieces (h : s.Sound) {t cmd : Nat} {ps : List (Nat × Nat)} {v : Nat} : (Machine.drainPieces s t cmd ps v).Sound :=
  (h.foldl fun _ _ h => h.write).foldl fun _ _ h => h.sendReq

theorem drainRaw (h : s.Sound) {t i : Nat} : (Machine.drainRaw s t i).Sound := by
  unfold Machine.drainRaw
  split
  · exact h
  · refine State.Sound.ite (h.planN.ite h.planEv) ?_
    split
    · exact h.pipeHalt.ite h.pipeHalt.modNode.planN
    · exact h.drainPieces.modNode.planN.ite h.drainPieces.modNode.planEv

theorem beginNorm (h : s.Sound) {r : MRun} : (Machine.beginNorm s r).Sound :=
  h.modNode.planEv

theorem retakeGroup (h : s.Sound) {m g : Nat} : (Machine.retakeGroup s m g).Sound := by
  unfold Machine.retakeGroup
  split
  · exact h.unplan.planEv
  · exact h

theorem retake (h : s.Sound) {a : Arg} {c : Nat} : (Machine.retake s a c).Sound :=
  (h.foldl fun _ _ h => h.retakeGroup).ite h.planEv

theorem resumeNode (h : s.Sound) {t : Nat} : (Machine.resumeNode s t).Sound := by
  unfold Machine.resumeNode
  refine State.Sound.kickQueue ?_
  split
  · exact h.modNode.planEv.ite h.modNode
  · exact h.modNode

theorem discardAtNode (h : s.Sound) {t : Nat} {w : BitVec 64} : (Machine.discardAtNode s t w).Sound :=
  h.matrixRecord.ite h

theorem handMatrix (h : s.Sound) {kind : Nat} {o : Opnds} : (Machine.handMatrix kind o s).st.Sound := by
  unfold Machine.handMatrix
  refine State.Sound.ite_st (h.Issued_ends) (State.Sound.ite_st (h.discardAtNode.Issued_only) ?_)
  split
  · exact h.Issued_ends.ite_st h.acceptMatrix.Issued_only
  · exact h.Issued_ends

theorem discardQueue (h : s.Sound) {t n : Nat} : (Machine.discardQueue s t n).Sound :=
  (h.modNode.foldl fun _ _ h => h.endCommand).kickFeed
theorem startTable (h : s.Sound) {t slot period c : Nat} : (Machine.startTable s t slot period c).Sound :=
  (h.modNode.planTable.ite h.modNode.planTable.planN).kickFeed

theorem tableCommand (h : s.Sound) {t kind slot a b : Nat} : (Machine.tableCommand s t kind slot a b).Sound := by
  unfold Machine.tableCommand
  split
  · exact h.startTable
  · exact h.mendWord.mendWord.modNode.planTable
  · exact h.stopTable.discardQueue

theorem handTable (h : s.Sound) {kind : Nat} {o : Opnds} {b : Nat} : (Machine.handTable kind o b s).st.Sound :=
  (h.ite (h.modNode.tableCommand.ite h.modNode.planEv)).Issued_only
theorem armTable (h : s.Sound) {o : Opnds} : (Machine.armTable o s).st.Sound :=
  h.Issued_ends.ite_st (h.Issued_only.ite_st h.handTable)

/-! ## Control -/

theorem transfer (h : s.Sound) {taken : Bool} {t : BitVec 11} : (Machine.transfer s taken t).st.Sound :=
  h.Issued_only
theorem endBlock (h : s.Sound) {n : Nat} : (Machine.endBlock s n).st.Sound :=
  h.modSlot.Issued_only
theorem abandon (h : s.Sound) {n : Nat} : (Machine.abandon s n).Sound :=
  (h.abandonCopies.same.modSlot.foldl fun _ _ h => h.stopTable).drainBlock
theorem saveSlot (h : s.Sound) {n : Nat} {k : Nat × Nat × Nat} : (Machine.saveSlot s n k).Sound :=
  h.modSlot.planN

theorem safePoint (h : s.Sound) {o : Opnds} : (Machine.safePoint o s).st.Sound := by
  unfold Machine.safePoint
  split
  · split
    · exact h.saveSlot
    · exact h
  · exact h

/-! ## The Vault -/

theorem park (h : s.Sound) {x : TileSave} {r : Req} {w : Nat} {tok : Token} : (Machine.park s x r w tok).Sound :=
  h.fresh.same

theorem replyRead (h : s.Sound) {r : Req} {tok : Token} : (Machine.replyRead s r tok).Sound := by
  unfold Machine.replyRead
  split
  · exact h.park
  · split
    · exact h.portReturn
    · exact h.copyReturn
    · exact h.same
    · exact h.pipeReturn
    · exact h.planEv
    · exact h

theorem replyWrite (h : s.Sound) {r : Req} : (Machine.replyWrite s r).Sound := by
  unfold Machine.replyWrite
  split
  · exact h.park
  · split
    · exact h.writeDone
    · exact h.copyWrote
    · exact h.same
    · exact h

theorem sendReply (h : s.Sound) {id : Nat} {r : Req} {die extra : Nat} {tok : Token} :
    (Machine.sendReply s id r die extra tok).Sound :=
  h.send

theorem walkFault (h : s.Sound) {t : Nat} {w : WalkReq} {cause : Nat} : (Machine.walkFault s t w cause).Sound :=
  h.portFault.ite (h.regionFault.ite h)

theorem walkEnds (h : s.Sound) {t : Nat} {w : WalkReq} {rest : List WalkReq} {e : WalkEnd} :
    (Machine.walkEnds s t w rest e).Sound := by
  unfold Machine.walkEnds
  refine State.Sound.readEntry (State.Sound.ite (State.Sound.planOnce (State.Sound.modSport ?_)) ?_)
  · split
    · exact h.modTile.fillPage
    · exact h.modTile.walkFault
  · split
    · exact h.modTile.fillPage
    · exact h.modTile.walkFault

/-! ## Logical quanta -/

theorem renameSlots (h : s.Sound) {f : Nat → Nat} : (Machine.renameSlots s f).Sound :=
  h.same
theorem moveState (h : s.Sound) {a b d : Nat} : (Machine.moveState s a b d).Sound :=
  h.same.renameSlots
theorem moveQueues (h : s.Sound) {t : Nat} {l : BitVec 10} {out : Bool} : (Machine.moveQueues s t l out).Sound :=
  h.foldl fun _ _ h => h.ite (h.same.ite (h.same.ite h))
theorem swapOut (h : s.Sound) {t base : Nat} : (Machine.swapOut s t base).Sound :=
  (h.reorder (t := { s with saved := _, agenda := _ }) (h.2.filter _)).moveState.moveQueues

theorem swapIn (h : s.Sound) {t base : Nat} {l : BitVec 10} : (Machine.swapIn s t l base).Sound := by
  unfold Machine.swapIn
  split
  case h_1 => exact h.setTile
  case h_2 x _ =>
    have hm : (Machine.moveState { s with saved := mdel s.saved (homeOf t l) } (parkedTile t l) t (base - x.base)).Sound := by
      refine State.Sound.moveState ?_
      exact h.same
    refine foldl (foldl (foldl (moveQueues ?_) fun _ _ h => h.reorder (inOrder_insertItem _ h.2)) fun _ _ h =>
      h.foldl fun _ _ h => h.drainOut) fun _ _ h => h.drainCheck
    exact hm.same

theorem defer (h : s.Sound) {k : Nat} {i : Instr} {g : Arg} : (s.defer k i g).Sound := by
  unfold State.defer
  split
  · exact h.same
  · exact h

theorem bringIn (h : s.Sound) {t : Nat} {l : BitVec 10} : (Machine.bringIn s t l).Sound :=
  h.ite (h.swapOut.ite h).swapIn

theorem startRotation (h : s.Sound) {t : Nat} : (Machine.startRotation s t).Sound := by
  have hu (l : BitVec 10) : ((Machine.bringIn s t l).unplan fun a => match a with
      | .ev .quantumBoundary g => g.a == t
      | _ => false).Sound := h.bringIn.unplan
  unfold Machine.startRotation
  split
  · refine State.Sound.planEv ?_
    exact (hu _).same
  · exact .of_eq rfl rfl h

theorem settleBefore (h : s.Sound) {t x : Nat} : (Machine.settleBefore s t x).Sound :=
  h.reorder (inOrder_of_inserts _)

/-! ## Launches -/

theorem byHost (h : s.Sound) {f : Nat} (g : t.Sound) : (s.byHost f t).Sound :=
  h.same.ite g
theorem hostAgain (h : s.Sound) {i : Instr} : (Machine.hostAgain s i).Sound :=
  h.planEv
theorem hostRest (h : s.Sound) {i : Instr} {k n : Nat} : (Machine.hostRest s i k n).Sound :=
  h.ite h.planEv
theorem fireMsix (h : s.Sound) {fn v : Nat} : (Machine.fireMsix s fn v).Sound :=
  h.same

theorem completePacket (h : s.Sound) {c : Nat} {w0 : Word} {kern abnd status cause : Nat} :
    (Machine.completePacket s c w0 kern abnd status cause).Sound :=
  h.modCtx.write.modCtx.fireMsix.ite h.modCtx

theorem completeBarrier (h : s.Sound) {c status cause : Nat} : (Machine.completeBarrier s c status cause).Sound := by
  unfold Machine.completeBarrier
  split
  · exact h.completePacket.modCtx
  · exact h

theorem armSlot (h : s.Sound) {n b : Nat} {arg : Option Word} {caps : List (BitVec 128)} {launch entry : Option Nat} :
    (Machine.armSlot s n b arg caps launch entry).Sound := by
  simp only [Machine.armSlot]
  split
  · exact h.modSlot.setSreg
  · exact h.modSlot

theorem startSlot (h : s.Sound) {n base : Nat} : (Machine.startSlot s n base).Sound := by
  unfold Machine.startSlot
  refine State.Sound.ite ?_ h
  split
  · exact h.defer
  · exact h.modSlot.planIssue

theorem disarm (h : s.Sound) {n : Nat} : (Machine.disarm s n).Sound :=
  h.modSlot.ite h
theorem setLaunch (h : s.Sound) {id : Nat} {l : Launch} : (s.setLaunch id l).Sound :=
  h.same
theorem dropLaunch (h : s.Sound) {id : Nat} : (s.dropLaunch id).Sound :=
  h.same
theorem dispatch (h : s.Sound) {id : Nat} {l : Launch} : (Machine.dispatch s id l).Sound :=
  (h.setLaunch.foldl fun _ _ h => h.planN.planN).planEv
theorem vacate (h : s.Sound) {n : Nat} : (Machine.vacate s n).Sound :=
  h.modElem.unplan.modSlot
theorem restoreSlot (h : s.Sound) {id base : Nat} {g : SavedSlot} : (Machine.restoreSlot s id base g).Sound :=
  h.modElem.setSlot.holdGroup.ite h.modElem.setSlot.planIssue
theorem haltNodes (h : s.Sound) {ts : List Nat} : (Machine.haltNodes s ts).Sound :=
  h.foldl fun _ _ h => h.planOnce.stopLode
theorem saveNodes (h : s.Sound) {ts : List Nat} {l : Launch} : (Machine.saveNodes s ts l).1.Sound :=
  (h.foldl fun _ _ h => h.unplan.modNode).foldl fun _ _ h => h.unplan.modLode
theorem restoreNodes (h : s.Sound) {id : Nat} {l : Launch} : (Machine.restoreNodes s id l).Sound :=
  (h.foldl fun _ _ h => h.setNode.resumeNode.planTable.kickFeed).foldl fun _ _ h => h.setLode.resumeLode
theorem takeCommands (h : s.Sound) {ts : List Nat} {l : Launch} : (Machine.takeCommands s ts l).1.Sound :=
  (h.foldl fun _ _ h => h.modNode.modLode).same
theorem postCommands (h : s.Sound) {l : Launch} : (Machine.postCommands s l).Sound :=
  ((h.same.foldl fun _ _ h => h.modNode.kickQueue).foldl fun _ _ h => h.modLode.kickLode).foldl fun _ _ h => h.setCopy.kickChan

theorem requestSave (h : s.Sound) {id : Nat} {l : Launch} : (Machine.requestSave s id l).Sound := by
  unfold Machine.requestSave
  refine State.Sound.ite (State.Sound.foldl h fun _ _ h => ?_) h
  split
  · exact h.setLaunch.planN.ite h
  · exact h

theorem slotRetired (h : s.Sound) {n : Nat} : (Machine.slotRetired s n).Sound := by
  simp only [Machine.slotRetired]
  split
  · exact h.ite (h.setLaunch.planN.ite (h.setLaunch.planN.ite h.setLaunch))
  · exact h

theorem endLaunch (h : s.Sound) {id : Nat} {l : Launch} {kern status cause : Nat} :
    (Machine.endLaunch s id l kern status cause).Sound :=
  h.dropLaunch.completePacket.ite (h.dropLaunch.postLogical.ite h.dropLaunch)

theorem creditLaunch (h : s.Sound) {l : Launch} : (Machine.creditLaunch s l).Sound := by
  unfold Machine.creditLaunch
  split
  case h_1 home k _ =>
    have hc : (s.creditLogical home k 1).1.Sound := .of_eq rfl rfl h
    generalize s.creditLogical home k 1 = r at hc ⊢
    exact hc.raise.ite hc
  case h_2 => exact h

theorem killSlot (h : s.Sound) {n : Nat} : (Machine.killSlot s n).Sound :=
  h.ite h.discardSlot

theorem releaseEngines (h : s.Sound) {ns : List Nat} : (Machine.releaseEngines s ns).Sound :=
  h.foldl fun _ _ h => (((((h.releaseNode.ite h).foldl fun _ _ h => h.modNode.endCommand.ite h).releaseLode.ite
    ((h.releaseNode.ite h).foldl fun _ _ h => h.modNode.endCommand.ite h)).foldl fun _ _ h => h.modLode.endCommand.ite h).foldl
    fun _ _ h => h.releaseChan.ite h).foldl fun _ _ h => h.dropCopy

theorem endTask (h : s.Sound) {id : Nat} {l : Launch} {status cause where_ : Nat} :
    (Machine.endTask s id l status cause where_).Sound :=
  (h.releaseEngines.foldl fun _ _ h => h.killSlot).unplan.setLaunch.ite (h.releaseEngines.foldl fun _ _ h =>
    h.killSlot).unplan.endLaunch

/-! ## The scan -/

theorem planPacket (h : s.Sound) {c : Nat} {v : Vec} : (Machine.planPacket s c v).Sound :=
  h.planEv
theorem readPacket (h : s.Sound) {c : Nat} : (Machine.readPacket s c).Sound :=
  h.modCtx.completePacket.ite (h.modCtx.modCtx.ite h.modCtx.planPacket)

theorem stepBarrier (h : s.Sound) {c : Nat} : (Machine.stepBarrier s c).Sound := by
  unfold Machine.stepBarrier
  split
  · exact h
  · exact (h.planPacket.ite h).ite (h.modCtx.planPacket.ite h)

theorem dropBad (h : s.Sound) {p : Nat × Launch} : (Machine.dropBad s p).Sound := by
  unfold Machine.dropBad
  refine State.Sound.ite (h.endLaunch) ?_
  split
  · exact h.endLaunch
  · exact h.endLaunch.ite h

theorem dispatchBest (h : s.Sound) {c : Nat} : (Machine.dispatchBest s c).Sound := by
  simp only [Machine.dispatchBest]
  split
  · exact h
  · exact (h.foldl fun _ _ h => h.setLaunch).dispatch

theorem preemptFor (h : s.Sound) {c : Nat} : (Machine.preemptFor s c).Sound := by
  unfold Machine.preemptFor
  refine State.Sound.foldl h fun _ _ h => (State.Sound.ite (State.Sound.foldl h fun _ _ h => ?_) h)
  split
  · exact h.requestSave
  · exact h

theorem scanDispatch (h : s.Sound) {c : Nat} : (Machine.scanDispatch s c).Sound :=
  h.ite (((h.foldl fun _ _ h => h.dropBad).foldl fun _ _ h => h.dispatchBest).preemptFor.ite ((h.foldl fun _ _ h =>
    h.dropBad).foldl fun _ _ h => h.dispatchBest))

theorem takeLatch (h : s.Sound) {c : Nat} : (Machine.takeLatch s c).Sound :=
  h.ite (h.modCtx.modCtx.ite h.modCtx.modCtx.raise)

/-! ## Tellers -/

theorem modRun (h : s.Sound) {tl id : Nat} {f : TRun → TRun} : (Machine.modRun s tl id f).Sound :=
  h.modTel
theorem planCommand (h : s.Sound) {tl : Nat} {r : TRun} : (Machine.planCommand s tl r).Sound :=
  h.ite h.plan

theorem nextCommand (h : s.Sound) {tl id : Nat} : (Machine.nextCommand s tl id).Sound := by
  simp only [Machine.nextCommand]
  split
  · exact h.modRun.planCommand
  · exact h.modRun

theorem violate (h : s.Sound) {tl : Nat} {r : TRun} {cause detail : Nat} : (Machine.violate s tl r cause detail).Sound :=
  h.modRun.raiseFor.modTel.ite h.modRun.raiseFor.modTel.modCopy.freezeChan

theorem badWord (h : s.Sound) {tl : Nat} {poisoned : Bool} : (Machine.badWord s tl poisoned).Sound := by
  simp only [Machine.badWord]
  split
  · exact h
  · exact (h.violate.ite h.violate).nextCommand

/-- A Teller's command whose own effect keeps soundness keeps it, also where it is refused. -/
theorem command (h : s.Sound) {off : BitVec 9} {c : TRun → TCmd} {ok : State → Nat → TRun → Bool}
    {f : State → Tel → Nat → TRun → Nat → State} (hf : ∀ a x tl r ck, a.Sound → (f a x tl r ck).Sound) :
    (Machine.command off c ok f s).Sound := by
  unfold Machine.command
  dsimp only
  split
  · exact h
  · refine State.Sound.nextCommand (State.Sound.ite (State.Sound.modRun ?_) ?_) <;>
      exact h.ite ((hf _ _ _ _ _ h.setTel.modRun).ite (h.modRun.ite (h.ite h.violate)))

theorem noEffect (h : s.Sound) {x1 : Tel} {x2 : Nat} {x3 : TRun} {x4 : Nat} : (Machine.noEffect s x1 x2 x3 x4).Sound :=
  h

theorem readBurst (h : s.Sound) {bank : BitVec 4} {col : BitVec 6} {x : Tel} {tl : Nat} {r : TRun} {ck : Nat} :
    (Machine.readBurst bank col s x tl r ck).Sound :=
  h.ite h.planEv

theorem writeBurst (h : s.Sound) {bank : BitVec 4} {col : BitVec 6} {x : Tel} {tl : Nat} {r : TRun} {ck : Nat} :
    (Machine.writeBurst bank col s x tl r ck).Sound := by
  unfold Machine.writeBurst
  refine State.Sound.ite (h.same.write) ?_
  split
  · exact h
  · refine State.Sound.ite (h.burstIssued) ?_
    split
    · exact h
    · exact h.burstIssued.planEv

theorem burstCommand (h : s.Sound) {off : BitVec 9} {bank : BitVec 4} {col : BitVec 6} {wr auto : Bool} :
    (Machine.burstCommand off bank col wr auto s).Sound := by
  refine h.command fun a x tl r ck h => ?_
  split
  · exact h.writeBurst
  · exact h.readBurst

theorem readMode (h : s.Sound) {ma : BitVec 8} {x2 : Tel} {tl : Nat} {x4 : TRun} {x5 : Nat} :
    (Machine.readMode ma s x2 tl x4 x5).Sound :=
  h.drawWord.modTel.raise.ite h.drawWord.modTel

theorem queueRun (h : s.Sound) {tl : Nat} {r : TRun} : (Machine.queueRun s tl r).Sound :=
  h.modTel.planN
theorem writeTel (h : s.Sound) {tl k v : Nat} : (Machine.writeTel s tl k v).Sound :=
  h.modTel.ite (h.modTel.ite ((h.modTel.unplan.ite h.modTel.unplan.planN).ite (h.modTel.ite (h.ite h.modTel))))
theorem releaseTT (h : s.Sound) {tl : Nat} : (Machine.releaseTT s tl).Sound :=
  (h.modTel.foldl fun _ _ h => h.writeTel).ite h
theorem dropRun (h : s.Sound) {tl : Nat} {r : TRun} {status : Nat} : (Machine.dropRun s tl r status).Sound :=
  (h.modTel.copyRunEnd.ite h.modTel).releaseTT

theorem recoverBanks (h : s.Sound) {tl : Nat} {r : TRun} : (Machine.recoverBanks s tl r).Sound := by
  unfold Machine.recoverBanks
  refine State.Sound.foldl h fun _ _ h => ?_
  split
  · exact h.modTel.modTel
  · exact h.modTel.planN

theorem pageBurst (h : s.Sound) {tl id k : Nat} : (Machine.pageBurst s tl id k).Sound := by
  unfold Machine.pageBurst
  split
  · exact h
  · exact h.scatter.ite h.same

theorem pageDone (h : s.Sound) {id : Nat} : (Machine.pageDone s id).Sound := by
  unfold Machine.pageDone
  split
  · exact h
  · refine State.Sound.ite (h.same.replyWrite) ?_
    split
    · exact h.same.replyRead
    · exact h.sendReply

theorem planPage (h : s.Sound) {x : Tel} {ck : Nat} {wr : Bool} {i : Instr} {a : Nat → Arg} :
    (Machine.planPage s x ck wr i a).Sound :=
  h.planEv.planEv.planEv

theorem queueHost (h : s.Sound) {tl id : Nat} : (Machine.queueHost s tl id).Sound :=
  h.modTel.ite h.modTel.planEv
theorem replanHost (h : s.Sound) {tl : Nat} : (Machine.replanHost s tl).Sound :=
  h.modTel.foldl fun _ _ h => h.queueHost
theorem abortHost (h : s.Sound) {id : Nat} {r : Req} : (Machine.abortHost s id r).Sound :=
  h.same
theorem freezeFn (h : s.Sound) {f : Nat} : (Machine.freezeFn s f).Sound :=
  h.same
theorem planStream (h : s.Sound) {tl ctx ck : Nat} : (Machine.planStream s tl ctx ck).Sound :=
  h.ite h.planOnce

theorem fitStream (h : s.Sound) {tl start ctx : Nat} {ids : List Nat} : (Machine.fitStream s tl start ctx ids).Sound := by
  induction ids generalizing s with
  | nil => exact h
  | cons id rest ih =>
    unfold Machine.fitStream
    split
    · exact ih h.modTel
    · dsimp only
      split
      · exact h
      · split
        · exact h
        · exact ih h.setTel.planPage

/-! ## Packets -/

theorem planReconf (h : s.Sound) {c n : Nat} {l : BitVec 10} : (Machine.planReconf s c n l).Sound := by
  unfold Machine.planReconf
  split
  · exact h.planEv
  · exact h

theorem beginLoad (h : s.Sound) {c n : Nat} {i : Config.Image} {ld : Config.LoadImg} {ps : List (BitVec 10 × Nat)} :
    (Machine.beginLoad s c n i ld ps).Sound :=
  h.fresh.copyTable.writeRemap.modCtx.foldl fun _ _ h => h.planReconf

theorem refuseLoad (h : s.Sound) {c : Nat} {r : Option Config.Report} : (Machine.refuseLoad s c r).Sound :=
  h.modCtx.completeBarrier

theorem endLoad (h : s.Sound) {c n : Nat} : (Machine.endLoad s c n).Sound := by
  simp only [Machine.endLoad]
  split
  · refine State.Sound.ite (State.Sound.completeBarrier (State.Sound.watchAudits (State.Sound.foldl ?_ fun _ _ h =>
      (h.startRotation.ite h)))) (State.Sound.watchAudits (State.Sound.foldl ?_ fun _ _ h => (h.startRotation.ite h)))
    · split
      · exact h.buildCircuits.loadTellers
      · exact h.buildCircuits
    · split
      · exact h.buildCircuits.loadTellers
      · exact h.buildCircuits
  · refine State.Sound.watchAudits (State.Sound.foldl ?_ fun _ _ h => (h.startRotation.ite h))
    split
    · exact h.buildCircuits.loadTellers
    · exact h.buildCircuits

theorem dropTable (h : s.Sound) {t : Nat} : (Machine.dropTable s t).Sound :=
  h.ite (h.stopTable.modNode.foldl fun _ _ h => h.endCommand)

/-! ## Requests of the Helm region -/

theorem creditOne (h : s.Sound) {t k : Nat} : (Machine.creditOne s t k).Sound :=
  h.credit.raise.ite h.credit
theorem dropHelm (h : s.Sound) {id : Nat} : (s.dropHelm id).Sound :=
  h.same

theorem creditRequest (h : s.Sound) {id : Nat} {r : HelmReq} : (Machine.creditRequest s id r).Sound := by
  simp only [Machine.creditRequest]
  split
  · split
    · refine State.Sound.creditOne ?_
      split
      · exact h.dropHelm.creditOne
      · exact h.dropHelm
    · split
      · exact h.dropHelm.creditOne
      · exact h.dropHelm
  · split
    · exact h.dropHelm.creditOne
    · exact h.dropHelm

theorem actOn (h : s.Sound) {id : Nat} {r : HelmReq} {f : State → State} (hf : (f s).Sound) : (Machine.actOn s id r f).Sound := by
  unfold Machine.actOn
  split
  · exact hf
  · exact h.dropHelm
  · exact h.dropHelm.raise

theorem again (h : s.Sound) {id : Nat} {r : HelmReq} : (Machine.again s id r).Sound :=
  h.same.planN

theorem rteEffect (h : s.Sound) {a b : Word} (ht : Machine.rteEffect s a b = some t) : t.Sound := by
  unfold Machine.rteEffect at ht
  dsimp only at ht
  split at ht
  · cases ht
  · split at ht
    · split at ht
      · cases ht
      · cases ht; exact h.resumeSlot
    · cases ht; exact h.discardSlot
    · cases ht

theorem grantEscrow (h : s.Sound) {c e : Nat} {ws : List Word} : (Machine.grantEscrow s c e ws).Sound :=
  h.modCtx
theorem revokeEscrow (h : s.Sound) {c e : Nat} : (Machine.revokeEscrow s c e).Sound :=
  h.modCtx
theorem drainEscrow (h : s.Sound) {c e : Nat} : (Machine.drainEscrow s c e).Sound :=
  h.modCtx
theorem dropWindows (h : s.Sound) {c e : Nat} : (Machine.dropWindows s c e).Sound :=
  h.foldl fun _ _ h => h.foldl fun _ _ h => h.modSport

theorem escrowAct (h : s.Sound) {id : Nat} {r : HelmReq} : (Machine.escrowAct s id r).Sound := by
  unfold Machine.escrowAct
  refine State.Sound.ite (h.dropHelm.raise) ?_
  split
  · exact h.grantEscrow.creditRequest
  · exact h.revokeEscrow.again
  · exact h.drainEscrow.again.ite h.creditRequest

theorem raiseGen (h : s.Sound) {c : Nat} {g : Word} : (Machine.raiseGen s c g).Sound :=
  h.modCtx.foldl fun _ _ h => h.modDie
theorem copyPads (h : s.Sound) {c old new : Nat} {l : BitVec 10} : (Machine.copyPads s c l old new).Sound :=
  h.foldl fun _ _ h => h.ite ((h.foldl fun _ _ h => h.write32).ite (h.rewrite (wf_writeBytes h.1 _ _)))

theorem applyRemap (h : s.Sound) {c : Nat} {l : BitVec 10} {w : Word} : (Machine.applyRemap s c l w).Sound := by
  unfold Machine.applyRemap
  refine State.Sound.buildCircuits ?_
  split
  · refine State.Sound.ite ?_ (State.Sound.ite (State.Sound.startRotation ?_) ?_)
    · split
      · exact h.same.modTile.ite h.same
      · exact h.same
    · split
      · refine State.Sound.ite (State.Sound.copyPads (State.Sound.sealTile (State.Sound.modPort (State.Sound.modTile ?_))))
          (State.Sound.sealTile (State.Sound.modPort (State.Sound.modTile ?_)))
        · split
          · exact h.same.modTile.ite h.same
          · exact h.same
        · split
          · exact h.same.modTile.ite h.same
          · exact h.same
      · refine State.Sound.sealTile (State.Sound.modPort (State.Sound.modTile ?_))
        split
        · exact h.same.modTile.ite h.same
        · exact h.same
    · split
      · refine State.Sound.ite (State.Sound.copyPads (State.Sound.sealTile (State.Sound.modPort (State.Sound.modTile ?_))))
          (State.Sound.sealTile (State.Sound.modPort (State.Sound.modTile ?_)))
        · split
          · exact h.same.modTile.ite h.same
          · exact h.same
        · split
          · exact h.same.modTile.ite h.same
          · exact h.same
      · refine State.Sound.sealTile (State.Sound.modPort (State.Sound.modTile ?_))
        split
        · exact h.same.modTile.ite h.same
        · exact h.same
  · split
    · exact h.same.modTile.ite h.same
    · exact h.same

theorem takeRemap (h : s.Sound) {c : Nat} {l : BitVec 10} {id : Nat} {r : HelmReq} : (Machine.takeRemap s c l id r).Sound :=
  h.applyRemap.creditRequest.ite h.dropHelm.raise

theorem applyPending (h : s.Sound) {c : Nat} : (Machine.applyPending s c).Sound := by
  unfold Machine.applyPending
  refine State.Sound.foldl h fun _ _ h => ?_
  split
  · exact h.takeRemap
  · exact h

/-! ## Almanacs -/

theorem setWalker (h : s.Sound) {k : Nat} {w : Walker} : (s.setWalker k w).Sound :=
  h.same
theorem dropWalker (h : s.Sound) {k : Nat} : (s.dropWalker k).Sound :=
  h.same

theorem planEntry (h : s.Sound) {cycle rank : Nat} {i : Instr} {k frame : Nat} {e : AlmEntry} :
    (Machine.planEntry s cycle rank i k frame e).Sound :=
  h.planEv

theorem planFrame (h : s.Sound) {c a f : Nat} {which : AlmEntry → Bool} : (Machine.planFrame s c a f which).Sound :=
  h.foldl fun _ _ h => h.planEntry.ite h
theorem armBlock (h : s.Sound) {k b : Nat} {ns : List Nat} : (Machine.armBlock s k b ns).Sound :=
  h.foldl fun _ _ h => h.armSlot.ite h

theorem meetBad (h : s.Sound) {k : Nat} {e : AlmEntry} : (Machine.meetBad s k e).Sound := by
  unfold Machine.meetBad
  refine State.Sound.foldl h fun _ _ h => ?_
  split
  · exact h.failLoad
  · exact h

theorem clearGroups (h : s.Sound) {k : Nat} {e : AlmEntry} : (Machine.clearGroups s k e).Sound :=
  h.foldl fun _ _ h => h.foldl fun _ _ h => h.setAssay.ite h

theorem compareGroups (h : s.Sound) {k : Nat} {e : AlmEntry} {w : Walker} {groups : BitVec 8} :
    (Machine.compareGroups s k e w groups).1.Sound := by
  simp only [Machine.compareGroups]
  split
  · exact h
  · exact h.raise

theorem freezeBlock (h : s.Sound) {ns : List Nat} : (Machine.freezeBlock s ns).Sound :=
  (h.foldl fun _ _ h => h.disarm.ite h.freezeSlot).foldl fun _ _ h => (((h.foldl fun _ _ h => h.freezeNode).ite
    h).freezeLode.ite ((h.foldl fun _ _ h => h.freezeNode).ite h)).foldl fun _ _ h => h.freezeChan.ite h

theorem sampleBlock (h : s.Sound) {k : Nat} {e : AlmEntry} {w : Walker} {ns : List Nat} :
    (Machine.sampleBlock s k e w ns).1.Sound :=
  h.compareGroups.ite h.compareGroups.freezeBlock

theorem turnAccesses (h : s.Sound) {c o : Nat} : (Machine.turnAccesses s c o).Sound :=
  h.ite h.same
theorem publish (h : s.Sound) {k : Nat} {ns : List Nat} : (Machine.publish s k ns).Sound :=
  (h.foldl fun _ _ h => h.flushMerged).foldl fun _ _ h => (h.foldl fun _ _ h => h.write32).same.turnAccesses
theorem discardBlock (h : s.Sound) {ns : List Nat} : (Machine.discardBlock s ns).Sound :=
  h.releaseEngines.foldl fun _ _ h => h.killSlot

theorem planWaypoint (h : s.Sound) {c t : Nat} : (Machine.planWaypoint s c t).Sound := by
  unfold Machine.planWaypoint
  split
  · split
    · exact h.planN
    · exact h
  · exact h

theorem cancelArmed (h : s.Sound) {c a w : Nat} : (Machine.cancelArmed s c a w).Sound := by
  unfold Machine.cancelArmed
  refine State.Sound.foldl h fun _ _ h => (State.Sound.ite ?_ h)
  split
  · exact (h.foldl fun _ _ h => h.disarm.ite h).dropWalker
  · exact h.dropWalker

theorem leaveTimed (h : s.Sound) {c w : Nat} {l : Level} : (Machine.leaveTimed s c w l).Sound :=
  (h.foldl fun _ _ h => h.cancelArmed).modCtx.watchAudits.completeBarrier

/-! ## Contexts -/

theorem setPart (h : s.Sound) {d c : Nat} {w : Word} : (Machine.setPart s d c w).Sound :=
  h.modDie

theorem releaseTile (h : s.Sound) {t : Nat} : (Machine.releaseTile s t).Sound := by
  have h2 := (h.clearTile (t := t)).emptyTile (t := t)
  unfold Machine.releaseTile
  generalize Machine.emptyTile (Machine.clearTile s t) t = a at h2 ⊢
  exact h2.same

theorem endContext (h : s.Sound) {c : Nat} : (Machine.endContext s c).Sound := by
  unfold Machine.endContext
  refine State.Sound.setCtx (State.Sound.foldl ?_ fun _ _ h => (h.modDie))
  refine .of_eq rfl rfl ?_
  refine State.Sound.foldl (State.Sound.foldl ?_ fun _ _ h => ?_) fun _ _ h => (h.releaseTile)
  · exact .of_eq rfl rfl (h.foldl fun _ _ h => h.endTask)
  · split
    · exact h.discardBlock
    · exact h

theorem setCtxStat (h : s.Sound) {busy : Bool} {res c : Nat} : (Machine.setCtxStat s busy res c).Sound := by
  unfold Machine.setCtxStat
  exact h.same

theorem createContext (h : s.Sound) {c : Nat} : (Machine.createContext s c).Sound :=
  ((h.foldl fun _ _ h => h.setPart).foldl fun _ _ h => h.modDie).setCtx

theorem ctxCommand (h : s.Sound) {i : Instr} {f : State → Nat → Nat × State} (hf : ∀ c, (f s c).2.Sound) :
    (Machine.ctxCommand s i f).Sound :=
  ((hf _).setCtxStat.ite h.planEv).ite (h.ite (h.byHost h.setCtxStat.planEv))

theorem hostFault (h : s.Sound) {fn tag : Nat} {write : Bool} : (Machine.hostFault s fn tag write).Sound := by
  have h1 : (if s.fnFrozen.contains fn then s
      else { s.raise 0 0x1C8 (.host fn) s.mcnt fn with fnFrozen := fn :: s.fnFrozen }).Sound := h.ite (.of_eq rfl rfl h.raise)
  exact h1.ite (.of_eq rfl rfl h1)

/-! ## Fault handling -/

theorem askCourse (h : s.Sound) {c a : Nat} : (Machine.askCourse s c a).Sound :=
  h.modCtx

theorem degrade (h : s.Sound) {c : Nat} : (Machine.degrade s c).Sound := by
  unfold Machine.degrade
  split
  · exact h.askCourse
  · exact h.endContext

theorem moveTile (h : s.Sound) {c : Nat} {l : BitVec 10} {u : Nat} : (Machine.moveTile s c l u).Sound :=
  h.fresh.same.planN

theorem retireLogical (h : s.Sound) {c t : Nat} {l : BitVec 10} : (Machine.retireLogical s c t l).Sound := by
  unfold Machine.retireLogical
  split
  · exact h.loadTile.moveTile
  · exact h.degrade

theorem retireTile (h : s.Sound) {t : Nat} : (Machine.retireTile s t).Sound := by
  unfold Machine.retireTile
  refine State.Sound.ite h ?_
  split
  · exact h.modTile
  · exact h.modTile.foldl fun _ _ h => h.retireLogical.ite h

theorem safeState (h : s.Sound) : (Machine.safeState s).Sound :=
  (h.foldl fun _ _ h => h.freezeSlot.ite h).same.fireMsix
theorem loseHelm (h : s.Sound) {t : Nat} : (Machine.loseHelm s t).Sound :=
  h.ite (h.same.raise.safeState.ite h.same.raise)
theorem resetDie (h : s.Sound) {d : Nat} : (Machine.resetDie s d).Sound :=
  h.same
theorem markDown (h : s.Sound) {d : Nat} : (Machine.markDown s d).Sound :=
  h.ite ((h.raise.foldl fun _ _ h => h.endContext).foldl fun _ _ h => h.loseHelm).resetDie.modDie.planN
theorem dropLink (h : s.Sound) {l : Nat} : (Machine.dropLink s l).Sound :=
  h.modLink.foldl fun _ _ h => h.endContext

theorem recoverAudit (h : s.Sound) {no : Nat} {r : FaultRec} : (Machine.recoverAudit s no r).Sound :=
  (h.modTile.ite h.retireTile).ite (h.markDown.ite (h.retireTile.ite ((h.modTel.foldl fun _ _ h => h.degrade).ite (h.planN.ite
    (h.markDown.ite (h.raise.ite (h.drawWord.planEv.ite (h.safeState.ite h))))))))

theorem faultEnds (h : s.Sound) {r : FaultRec} {id : Nat} : (Machine.faultEnds s r id).Sound := by
  unfold Machine.faultEnds
  split
  · exact h.planEv
  · exact h

theorem elementBlocked (h : s.Sound) {r : FaultRec} : (Machine.elementBlocked s r).Sound :=
  (h.foldl fun _ _ h => h.planEv).retireTile

theorem trapTable (h : s.Sound) {r : FaultRec} : (Machine.trapTable s r).Sound := by
  unfold Machine.trapTable
  refine State.Sound.ite h ?_
  split
  · exact h.resumeSlot
  · split
    · exact h.discardSlot.setLaunch.slotRetired
    · exact h.discardSlot
  · exact h.foldl fun _ _ h => h.faultEnds

theorem countFault (h : s.Sound) {r : FaultRec} : (Machine.countFault s r).Sound :=
  h.same.ite h.same.retireTile
theorem loadFailed (h : s.Sound) {r : FaultRec} {timed : Bool} : (Machine.loadFailed s r timed).Sound :=
  (h.ite (h.foldl fun _ _ h => h.faultEnds)).retireTile.ite (h.ite (h.foldl fun _ _ h => h.faultEnds))

theorem countMismatch (h : s.Sound) {r : FaultRec} : (Machine.countMismatch s r).Sound := by
  unfold Machine.countMismatch
  split
  · exact h
  · split
    · exact h.same.ite h.same.same
    · exact h.same

theorem lowDram (h : s.Sound) {tl : Nat} : (Machine.lowDram s tl).Sound := by
  unfold Machine.lowDram
  refine State.Sound.planN (State.Sound.foldl h fun _ _ h => ?_)
  split
  · exact h.askCourse
  · exact h

theorem handleFault (h : s.Sound) {r : FaultRec} : (Machine.handleFault s r).Sound :=
  h.ite (h.recoverAudit.ite (h.countMismatch.ite (h.ite (h.lowDram.ite (h.markDown.ite (h.ite (h.loseHelm.ite
    (h.elementBlocked.ite (h.loadFailed.ite (h.countFault.ite (h.ite (h.trapTable.ite (h.foldl fun _ _ h =>
    h.faultEnds)))))))))))))

theorem storeLost (h : s.Sound) {d : Nat} : (Machine.storeLost s d).Sound :=
  h.ite h.modDie.raise

/-! ## Audits -/

theorem poisonFound (h : s.Sound) {no target detail : Nat} {w : Word} : (Machine.poisonFound s no target detail w).Sound :=
  h.same.ite (h.same.ite h)
theorem failAudit (h : s.Sound) {no target c : Nat} {w : Word} : (Machine.failAudit s no target c w).Sound :=
  h.poisonFound.raise.same.ite h.poisonFound.raise

theorem destroyState (h : s.Sound) {no t : Nat} : (Machine.destroyState s no t).Sound := by
  refine ite ?_ (ite (h.foldl fun _ _ h => h.modElem) h)
  exact .of_eq rfl rfl h

theorem planAudit (h : s.Sound) {cycle rank no target c phase : Nat} : (Machine.planAudit s cycle rank no target c phase).Sound :=
  h.ite h.planEv
theorem startAudit (h : s.Sound) {no target c : Nat} : (Machine.startAudit s no target c).Sound :=
  h.planEv.ite (h.planEv.same.planN.ite h.planEv.same.planN.planAudit)

theorem closeRequest (h : s.Sound) {c no : Nat} : (Machine.closeRequest s c no).Sound := by
  unfold Machine.closeRequest
  split
  · refine State.Sound.ite h ?_
    split
    · exact h.modCtx.completePacket
    · exact h.modCtx
  · exact h

theorem takeRequest (h : s.Sound) {c no : Nat} : (Machine.takeRequest s c no).Sound :=
  (h.same.foldl fun _ _ h => h.planAudit).closeRequest

theorem tryAudit (h : s.Sound) {no target : Nat} : (Machine.tryAudit s no target).Sound := by
  unfold Machine.tryAudit
  split
  · exact h.same
  · exact h.ite ((h.ite h.same).startAudit.ite (h.ite h.same).planAudit)

theorem endAudit (h : s.Sound) {no target c : Nat} : (Machine.endAudit s no target c).Sound := by
  simp only [Machine.endAudit]
  refine State.Sound.ite (((h.drawWord.destroyState.ite h.drawWord).ite (h.drawWord.destroyState.ite
    h.drawWord).failAudit).same) ?_
  split
  · exact (((h.drawWord.destroyState.ite h.drawWord).ite (h.drawWord.destroyState.ite h.drawWord).failAudit).same.ite
      ((h.drawWord.destroyState.ite h.drawWord).ite (h.drawWord.destroyState.ite
      h.drawWord).failAudit).same.modCtx).closeRequest.ite ((h.drawWord.destroyState.ite h.drawWord).ite
      (h.drawWord.destroyState.ite h.drawWord).failAudit).same
  · exact (h.drawWord.destroyState.ite h.drawWord).ite (h.drawWord.destroyState.ite h.drawWord).failAudit

theorem beginIntervals (h : s.Sound) {c : Nat} : (Machine.beginIntervals s c).Sound :=
  h.foldl fun _ _ h => h.foldl fun _ _ h => h.ite h.same.planN.planAudit

/-! ## The timebase -/

theorem rejoinAudits (h : s.Sound) {d : Nat} : (Machine.rejoinAudits s d).2.Sound :=
  List.foldlRecOn (motive := fun p : Bool × State => p.2.Sound) _ _ h fun _ h _ _ => h.drawWord.ite h.drawWord.failAudit
theorem sample (h : s.Sound) {e : Int} : (Machine.sample s e).Sound :=
  h.same
theorem checkHoldover (h : s.Sound) : (Machine.checkHoldover s).Sound :=
  h.raise.same.ite h
theorem planPps (h : s.Sound) : (Machine.planPps s).Sound :=
  h.unplan.planN

/-! ## Power -/

theorem auditAll (h : s.Sound) {no c : Nat} : (Machine.auditAll s no c).Sound :=
  h.foldl fun _ _ h => h.planEv

theorem servePower (h : s.Sound) : (Machine.servePower s).Sound := by
  unfold Machine.servePower
  split
  · exact h
  · exact h.ite (h.same.planN.ite (h.same.auditAll.auditAll.auditAll.ite h.same).planN)

theorem finishPower (h : s.Sound) {ok : Bool} : (Machine.finishPower s ok).Sound := by
  unfold Machine.finishPower
  split
  · exact h
  · refine State.Sound.servePower ?_
    split
    · exact (h.same.ite h.same.fireMsix).completeBarrier
    · exact h.same.ite h.same.fireMsix

theorem takeCommand (h : s.Sound) {code : Nat} {who : Option (Nat × Word)} : (Machine.takeCommand s code who).Sound :=
  h.same.servePower

theorem powerCommand (h : s.Sound) {code : Nat} {f : State → State} (hf : ∀ a, a.Sound → (f a).Sound) :
    (Machine.powerCommand s code f).Sound := by
  unfold Machine.powerCommand
  split
  · exact h.byHost h.takeCommand
  · exact (hf _ h.same).finishPower
  · exact h.finishPower

theorem thermalTrip (h : s.Sound) {sensor reading : Nat} : (Machine.thermalTrip s sensor reading).Sound := by
  refine h.ite (State.Sound.fireMsix ?_)
  exact .of_eq (s := s.unplan fun a => !portEvent a) rfl rfl h.unplan

/-! ## Boot -/

theorem setStage (h : s.Sound) {stage : Nat} : (Machine.setStage s stage).Sound :=
  h.same

theorem loadGraph (h : s.Sound) {k : HelmImage} {g : Nat} : (Machine.loadGraph s k g).Sound := by
  unfold Machine.loadGraph
  split
  · exact ((h.foldl fun _ _ h => h.loadTile).foldl fun _ _ h => h.modTel).ite (h.foldl fun _ _ h => h.loadTile)
  · split
    · exact h.same
    · exact h

theorem startGraph (h : s.Sound) {k : HelmImage} {g : Nat} : (Machine.startGraph s k g).Sound := by
  unfold Machine.startGraph
  split
  · exact h.foldl fun _ _ h => h.foldl fun _ _ h => h.armSlot.startSlot.ite h
  · exact h

theorem sendBeats (h : s.Sound) : (Machine.sendBeats s).Sound := by
  unfold Machine.sendBeats
  split
  · exact h.ite (h.foldl fun _ _ h => h.planEv)
  · exact h

theorem setBootRecord (h : s.Sound) {b : Nat} : (Machine.setBootRecord s b).Sound :=
  h.write
theorem endTry (h : s.Sound) : (Machine.endTry s).Sound :=
  h.unplan.setBootRecord.ite h
theorem becomeReady (h : s.Sound) : (Machine.becomeReady s).Sound :=
  (h.same.setStage.foldl fun _ _ h => h.planN).planN.planN.sendBeats
theorem trainDevice (h : s.Sound) : (Machine.trainDevice s).Sound :=
  ((h.setStage.foldl fun _ _ h => h.modDie).foldl fun _ _ h => h.modTel).foldl fun _ _ h => h.auditAll
theorem startHelm (h : s.Sound) {k : HelmImage} : (Machine.startHelm s k).Sound :=
  h.same.foldl fun _ _ h => h.loadGraph.startGraph
theorem verifyBoot (h : s.Sound) {g : Arg} : (Machine.verifyBoot s g).Sound :=
  h.same.ite (h.same.startHelm.planN.ite h.same.startHelm).planEv
theorem resetFabric (h : s.Sound) : (Machine.resetFabric s).Sound :=
  h.reorder (h.2.filter _)

/-! ## Updates -/

theorem writeHandover (h : s.Sound) {hovr : Word} {g : Nat} : (Machine.writeHandover s hovr g).Sound :=
  (h.foldl fun _ _ h => h.foldl fun _ _ h => h.write32).same

theorem serveHeld (h : s.Sound) : (Machine.serveHeld s).Sound := by
  unfold Machine.serveHeld
  refine State.Sound.servePower (State.Sound.foldl (State.Sound.foldl (h.same) fun _ _ h => ?_) fun _ _ h => (h.planN))
  split
  · exact h.fresh.setLaunch
  · exact h

theorem updateSucceeds (h : s.Sound) {u : Update} : (Machine.updateSucceeds s u).Sound :=
  h.same.unplan.setBootRecord.completeBarrier.serveHeld

/-! ## The mailbox -/

theorem respond (h : s.Sound) {bs : List (BitVec 8)} {keep : Bool} : (Machine.respond s bs keep).Sound :=
  h.same
theorem spdmError (h : s.Sound) {code data : BitVec 8} : (Machine.spdmError s code data).Sound :=
  h.respond
theorem answer (h : s.Sound) {f : State → State} (hf : (f s).Sound) : Steady (Machine.answer s f) :=
  (hf.ite h.spdmError).next
theorem respondSigned (h : s.Sound) {bs : List (BitVec 8)} : (Machine.respondSigned s bs).Sound :=
  h.same

/-! ## Conversions -/

theorem convVE (h : s.Sound) {maj : Nat} {op : Op} {cv : Word → Conv} : (Machine.convVE maj op cv s).Sound :=
  h.issueVE fun _ _ h => h.modSlot
theorem planRelease (h : s.Sound) {v : Nat} {q : QBlock} {p : Nat} : (Machine.planRelease s v q p).Sound :=
  h.planResult
theorem qblkIssue (h : s.Sound) {o : Opnds} : (Machine.qblkIssue o s).Sound :=
  (h.setElem.modSlot.foldl fun _ _ h => h.planRelease).ite (h.setElem.modSlot.planRelease.ite h.setElem.modSlot)
theorem quantFirst (h : s.Sound) {v : Nat} {q : QBlock} : (Machine.quantFirst s v q).2.Sound :=
  h.modElem.modSlot

theorem releaseToken (h : s.Sound) {v id p : Nat} : (Machine.releaseToken v id p s).Sound := by
  unfold Machine.releaseToken
  split
  · exact h
  · have h1 : ∀ q0 : QBlock, (if p = 0 then Machine.quantFirst s v q0 else (q0, s)).2.Sound := fun q0 => by
      split
      · exact h.quantFirst
      · exact h
    exact (h1 _).modSlot.pushOut.modElem.drainCheck.ite (h1 _).modSlot.pushOut

/-! ## Lane movement -/

theorem permVE (h : s.Sound) {maj : Nat} {op : Op} {f : Opnds → Nat → Word} : (Machine.permVE maj op f s).Sound :=
  h.aluVE

/-! ## Host registers -/

theorem writeSextant (h : s.Sound) {k : Nat} {w : Word} : (Machine.writeSextant s k w).Sound := by
  unfold Machine.writeSextant
  split
  · exact h.same
  · exact h.same
  · exact h.same
  · exact h.same

theorem writeRegister (h : s.Sound) {n : Nat} {w : Word} : (Machine.writeRegister s n w).Sound :=
  (h.ite h.same).ite (h.same.ite (h.writeSextant.ite (h.same.ite (h.same.ite ((h.modCtx.ite h).ite ((h.modCtx.ite h).ite
    (h.same.ite (h.modDie.ite (h.modTel.ite ((h.ite h.modLink).ite h))))))))))

end State.Sound

end Sys2Proof.Machine
end

section
/-! # Soundness: what the instructions, commands and events keep -/

namespace Sys2Proof.Machine

-- Elaborated one after another: these many short proofs at once ask for more threads than the check's memory holds.
set_option Elab.async false

namespace State.Sound

variable {s t : State}

/-! ## Links -/

theorem execLinkBeatReceive (h : s.Sound) : Steady (Machine.execLinkBeatReceive s) := by
  unfold Machine.execLinkBeatReceive
  refine State.Sound.next (State.Sound.ite (h.raise) ?_)
  split
  · exact h
  · refine State.Sound.ite (h.sendBeat) ?_
    split
    · exact h.receiveBeat
    · exact h

/-! ## Accesses -/

theorem execBankAccessPerform (h : s.Sound) : Steady (Machine.execBankAccessPerform s) := by
  unfold Machine.execBankAccessPerform
  refine State.Sound.next ?_
  split
  · exact h.bankRead.ite h.performAccess
  · exact h

theorem execStrlHeldPerform (h : s.Sound) : Steady (Machine.execStrlHeldPerform s) := by
  unfold Machine.execStrlHeldPerform
  refine State.Sound.next ?_
  split
  · exact h.performAccess
  · exact h

theorem execCbnd (h : s.Sound) {op : Op} : Steady (Machine.execCbnd op s) := by
  refine (h.issueVE fun o p h => ?_).next
  split
  · exact h.capRes
  · exact ite_st h h.capRes

theorem execCchk (h : s.Sound) {op : Op} : Steady (Machine.execCchk op s) := by
  refine (h.issueVE fun o p h => ?_).next
  dsimp only
  split
  · exact ite_st h h
  · exact h

/-! ## Configuration -/

theorem execCfgPortRequest (h : s.Sound) : Steady (Machine.execCfgPortRequest s) := by
  unfold Machine.execCfgPortRequest
  dsimp only
  refine State.Sound.next (State.Sound.ite (h.postRecord) ?_)
  split
  · exact h
  · split
    · exact h.modPort.serveCfg.planEv
    · exact h.modPort.serveCfg

/-! ## Stream ports -/

theorem execReadWalkTokenPresent (h : s.Sound) : Steady (Machine.execReadWalkTokenPresent s) := by
  unfold Machine.execReadWalkTokenPresent
  refine State.Sound.next (State.Sound.ite h ?_)
  split
  · exact h.requestRead
  · exact h.readOwn
  · exact h.portFault
  · exact h.presentGroup.ite h.presentPlain

theorem execSportArm (h : s.Sound) {op : Op} : Steady (Machine.execSportArm op s) := by
  refine (h.actVE fun o p h => ite_st h ?_).next
  split
  · exact h
  · exact h
  · exact ite_st h (ite_st h h.endWalk.modSport.beginPort)

/-! ## Copies -/

theorem execCopyComplete (h : s.Sound) : Steady (Machine.execCopyComplete s) := by
  unfold Machine.execCopyComplete
  refine State.Sound.next ?_
  split
  · exact h.finishCopy
  · exact h

theorem execCopyTokenRead (h : s.Sound) : Steady (Machine.execCopyTokenRead s) := by
  unfold Machine.execCopyTokenRead
  refine State.Sound.next ?_
  split
  · exact h
  · split
    · exact h.beginRead
    · exact h.copyReturn
    · exact h.meRead

theorem execCopyTokenWrite (h : s.Sound) : Steady (Machine.execCopyTokenWrite s) := by
  unfold Machine.execCopyTokenWrite
  refine State.Sound.next ?_
  split
  · exact h
  · split
    · exact h.beginWrite
    · exact h.meAccept
    · split
      · exact h.writeTok.copyWrote
      · exact h.stopCopy
      · exact h
    · exact h.write.copyWrote
    · exact h.leaveTeller
    · exact h.setCopy.postRuns

theorem execCopyBegin (h : s.Sound) : Steady (Machine.execCopyBegin s) := by
  unfold Machine.execCopyBegin
  refine State.Sound.next ?_
  split
  · exact h
  · refine State.Sound.ite h (State.Sound.ite h (State.Sound.ite (h.copyFault.ite h) (State.Sound.ite (h.kickChan)
      (State.Sound.ite (h.flushMerged.planOnce) (State.Sound.ite (h.planOnce) ?_)))))
    split
    · exact h.copyFault.ite h.planOnce.copyFetch
    · exact h.beginCopy

theorem execBteDeferredAccept (h : s.Sound) : Steady (Machine.execBteDeferredAccept s) := by
  unfold Machine.execBteDeferredAccept
  refine State.Sound.next (State.Sound.ite (State.Sound.ite (h.modBte) ?_) ?_)
  · split
    · exact h.failLoad
    · exact h.acceptCopy
  · split
    · exact h.ite (h.modBte.acceptCopy.ite h.modBte.acceptCopy.planOnce)
    · exact h

/-! ## The Lodestone node -/

theorem execLodestoneCommandBegin (h : s.Sound) : Steady (Machine.execLodestoneCommandBegin s) := by
  unfold Machine.execLodestoneCommandBegin
  refine State.Sound.next ?_
  split
  case h_1 c _ _ =>
    have hbegun (x : LNode) (m : Command) :
        (({ s.setLode s.arg.a x with cmds := mset (s.setLode s.arg.a x).cmds c.id m }).drainBlock c.slot).Sound := by
      refine State.Sound.drainBlock ?_
      exact h.same
    exact h.ite (h.planOnce.ite (((hbegun _ _).planN.ite (hbegun _ _).planN).ite ((hbegun _ _).planEv.ite (hbegun _ _).planN)))
  case h_2 => exact h

theorem execLodestoneColourUpdate (h : s.Sound) : Steady (Machine.execLodestoneColourUpdate s) := by
  unfold Machine.execLodestoneColourUpdate
  refine State.Sound.next ?_
  split
  · exact h
  · exact h.endSweep.ite (h.drawWord.raise.freezeLode.ite (h.setLode.modLode.ite h.setLode.nextColour))

theorem execLodestoneCommandComplete (h : s.Sound) : Steady (Machine.execLodestoneCommandComplete s) := by
  unfold Machine.execLodestoneCommandComplete
  refine State.Sound.next ?_
  split
  · exact h
  · split
    · exact h.lodeComplete
    · exact h.lodeToken
    · exact h.lodeBank

/-! ## The matrix node -/

theorem execMatrixWeightTokenWrite (h : s.Sound) : Steady (Machine.execMatrixWeightTokenWrite s) := by
  unfold Machine.execMatrixWeightTokenWrite
  dsimp only
  refine State.Sound.next ?_
  split
  · exact h
  · refine State.Sound.ite ?_ ?_
    · split
      · exact h.modWld.takePort.planEv.ite h.modWld.takePort
      · exact h.planEv
    · split
      · exact h.writeWeights.planEv.ite h.writeWeights.planEv
      · exact h.planEv

theorem execMatrixGroupApply (h : s.Sound) : Steady (Machine.execMatrixGroupApply s) := by
  unfold Machine.execMatrixGroupApply
  refine State.Sound.next ?_
  split
  · exact h
  · exact h.applyGroup.modNode.planEv.ite h.applyGroup.modNode

theorem execMatrixDrnRowPush (h : s.Sound) : Steady (Machine.execMatrixDrnRowPush s) := by
  unfold Machine.execMatrixDrnRowPush
  refine State.Sound.next ?_
  split
  · exact h
  · exact h.planN.ite (h.pushRow.modNode.planN.ite h.pushRow.modNode.planEv)

theorem execMatrixCommandComplete (h : s.Sound) : Steady (Machine.execMatrixCommandComplete s) := by
  unfold Machine.execMatrixCommandComplete
  refine State.Sound.next ?_
  split
  · exact h.setNode.finishMatrix
  · exact h

theorem execMatrixTableFire (h : s.Sound) : Steady (Machine.execMatrixTableFire s) := by
  unfold Machine.execMatrixTableFire
  refine State.Sound.next (State.Sound.ite (State.Sound.planTable (State.Sound.foldl h fun _ _ h => ?_)) (h.ite h.tableCommand))
  split
  · exact h.failLoad
  · exact h.acceptMatrix.modNode

/-! ## The Vault -/

theorem execVaultBankEvent (h : s.Sound) : Steady (Machine.execVaultBankEvent s) := by
  unfold Machine.execVaultBankEvent
  refine State.Sound.next ?_
  split
  · exact h
  · exact h.planN.ite (h.planN.ite (h.same.same.scatter.replyWrite.ite h.same.sendReply))

theorem execVaultReadReply (h : s.Sound) : Steady (Machine.execVaultReadReply s) := by
  unfold Machine.execVaultReadReply
  refine State.Sound.next ?_
  split
  · exact h
  · exact h.same.replyWrite.ite h.same.replyRead

theorem execTranslationWalkComplete (h : s.Sound) : Steady (Machine.execTranslationWalkComplete s) := by
  unfold Machine.execTranslationWalkComplete
  refine State.Sound.next (State.Sound.ite (h.prefetchHit) ?_)
  split
  · exact h
  · refine State.Sound.ite (h.ite h.readEntry) (State.Sound.ite h (State.Sound.ite (h.walkEnds) ?_))
    split
    · exact h.walkEnds
    · exact h.modTile.readEntry

/-! ## Logical quanta -/

theorem execQuantumBoundary (h : s.Sound) : Steady (Machine.execQuantumBoundary s) := by
  unfold Machine.execQuantumBoundary
  refine State.Sound.next ?_
  split
  · exact h
  · refine State.Sound.ite ?_ ?_
    · split
      · exact (h.swapIn.resumeNode.ite h.swapIn).same.planEv
      · exact h.startRotation
    · split
      · exact h.modNode.settleBefore.same.planEv
      · split
        · exact (h.swapOut.ite h).same.planEv
        · exact h.same

/-! ## Launches -/

theorem execPreemptRequest (h : s.Sound) : Steady (Machine.execPreemptRequest s) := by
  unfold Machine.execPreemptRequest
  refine State.Sound.next ?_
  split
  · exact (h.foldl fun _ _ h => (h.modSlot.unplan.saveSlot.ite h.modSlot).ite h).planN
  · exact h

theorem execLaunchSaved (h : s.Sound) : Steady (Machine.execLaunchSaved s) := by
  unfold Machine.execLaunchSaved
  dsimp only
  refine State.Sound.next ?_
  split
  · exact h.ite (h.haltNodes.planOnce.ite (h.takeCommands.saveNodes.foldl fun _ _ h => h.vacate).setLaunch)
  · exact h

theorem execLaunchRetire (h : s.Sound) : Steady (Machine.execLaunchRetire s) := by
  unfold Machine.execLaunchRetire
  refine State.Sound.next ?_
  split
  · exact h.ite (h.same.ite (h.planOnce.ite h.creditLaunch.endLaunch))
  · exact h

theorem execTaskEnd (h : s.Sound) : Steady (Machine.execTaskEnd s) := by
  unfold Machine.execTaskEnd
  refine State.Sound.next ?_
  split
  · exact h.endTask
  · exact h

theorem execArmRequestArrival (h : s.Sound) : Steady (Machine.execArmRequestArrival s) := by
  unfold Machine.execArmRequestArrival
  refine State.Sound.next ?_
  split
  · exact h
  · refine State.Sound.ite (h.armSlot.ite h) ?_
    split
    · exact h.endTask
    · exact h.setLaunch.restoreNodes.postCommands.ite (h.foldl fun _ _ h => h.disarm.ite h).setLaunch.unplan

theorem execSlotStart (h : s.Sound) : Steady (Machine.execSlotStart s) := by
  unfold Machine.execSlotStart
  refine State.Sound.next (State.Sound.ite (h.startSlot) ?_)
  split
  · exact h
  · refine State.Sound.ite h ?_
    split
    · exact h.defer
    · exact h.restoreSlot.setLaunch
    · exact h.startSlot

/-! ## The scan -/

theorem execDeviceLaunchArrival (h : s.Sound) : Steady (Machine.execDeviceLaunchArrival s) := by
  unfold Machine.execDeviceLaunchArrival
  refine State.Sound.next ?_
  split
  · exact h
  · exact (h.flushMerged.planEv.ite h.planEv).ite (h.endLaunch.ite (h.same.ite h.fresh.setLaunch))

theorem execSchedulerScan (h : s.Sound) : Steady (Machine.execSchedulerScan s) := by
  unfold Machine.execSchedulerScan
  refine State.Sound.next ?_
  split
  · exact h.planN.takeLatch.planN.ite h.planN
  · exact h.readPacket.planN.ite h.stepBarrier.planN
  · exact h.scanDispatch

/-! ## Tellers -/

theorem execTellerRunPost (h : s.Sound) : Steady (Machine.execTellerRunPost s) := by
  unfold Machine.execTellerRunPost
  refine State.Sound.next (State.Sound.ite (h.ite h.fresh.queueRun) ?_)
  split
  · exact h.ite h.fresh.queueRun
  · exact h

theorem execTellerRunStart (h : s.Sound) : Steady (Machine.execTellerRunStart s) := by
  unfold Machine.execTellerRunStart
  refine State.Sound.next ?_
  split
  · exact h
  · exact h.dropRun.ite (h.dropRun.ite (h.planN.violate.ite h.planN.planCommand))

theorem execTellerRunEndCheck (h : s.Sound) : Steady (Machine.execTellerRunEndCheck s) := by
  unfold Machine.execTellerRunEndCheck
  refine State.Sound.next ?_
  split
  · exact h
  · exact (h.ite h.violate).recoverBanks.dropRun

theorem execHostSlotService (h : s.Sound) : Steady (Machine.execHostSlotService s) := by
  unfold Machine.execHostSlotService
  refine State.Sound.next (State.Sound.ite (h.pageDone) (State.Sound.ite (h.pageBurst) ?_))
  split
  · exact h
  · exact h.ite (h.setTel.abortHost.releaseTT.ite (h.setTel.planPage.releaseTT.ite (h.setTel.recoverBanks.raise.freezeFn.ite
      h.setTel.recoverBanks).abortHost.releaseTT))

theorem execTellerStreamAccess (h : s.Sound) : Steady (Machine.execTellerStreamAccess s) := by
  unfold Machine.execTellerStreamAccess
  refine State.Sound.next ?_
  split
  · split
    · exact h
    · exact h.modTel.planStream
  · exact (h.fitStream.ite h).ite (h.fitStream.ite h).planStream
  · exact h.pageDone
  · exact h.pageBurst

/-! ## Packets -/

theorem execLoadGraphPacket (h : s.Sound) : Steady (Machine.execLoadGraphPacket s) := by
  unfold Machine.execLoadGraphPacket
  refine State.Sound.next ?_
  split
  · exact h.refuseLoad
  · split
    · exact h.beginLoad.endLoad.ite h.beginLoad
    · exact h.refuseLoad

/-- What keeps a state sound on every kept tile keeps it where there is none. -/
theorem getD_map {α : Type} {o : Option α} {f : α → State} (h : s.Sound) (hf : ∀ a, (f a).Sound) : ((o.map f).getD s).Sound := by
  cases o with
  | none => exact h
  | some a => exact hf a

theorem execReconfigurationTokenPass (h : s.Sound) : Steady (Machine.execReconfigurationTokenPass s) := by
  have hdrop (home : Option Nat) (part : Option (List Nat)) : (match home, part with
      | some t, none => Machine.dropTable s t
      | _, _ => s).Sound := by
    split
    · exact h.dropTable
    · exact h
  have himage (a : State) (ha : a.Sound) (l : BitVec 10) (part : Option (List Nat)) : (match tileImage a s.arg.b s.arg.d l with
      | some (i, ld, t) => match part with
        | some vs => Machine.patchTile a s.arg.a s.arg.d t ((loadingNow a s.arg.b s.arg.d i ld).completed t) vs
        | none => Machine.applyFuses (Machine.writeReplicas (Machine.loadTile a s.arg.a (some s.arg.b) (some (a.ctx
          s.arg.b).graph) i.seed
            s.arg.d ld.keepMx t ((loadingNow a s.arg.b s.arg.d i ld).completed t)) s.arg.b s.arg.a t) s.arg.b s.arg.a
      | none => a).Sound := by
    split
    · split
      · exact ha.patchTile
      · exact ha.loadTile.writeReplicas.applyFuses
    · exact ha
  have hdone (a : State) (ha : a.Sound) (f : Ctx → Ctx) : (if ((a.modCtx s.arg.b f).ctx s.arg.b).toLoad.isEmpty
      then Machine.endLoad (a.modCtx s.arg.b f) s.arg.b s.arg.d else a.modCtx s.arg.b f).Sound := ha.modCtx.endLoad.ite ha.modCtx
  unfold Machine.execReconfigurationTokenPass
  exact (h.ite ((getD_map (hdrop _ _) fun _ => (hdrop _ _).flushTile).planEv.ite
    (hdone _ (himage _ ((hdrop _ _).bringIn.ite (hdrop _ _)) _ _) _))).next

/-! ## Requests of the Helm region -/

theorem execRteAction (h : s.Sound) : Steady (Machine.execRteAction s) := by
  unfold Machine.execRteAction
  refine State.Sound.next ?_
  split
  · exact h
  · refine h.actOn ?_
    dsimp only
    split
    case h_1 hr => exact (h.rteEffect hr).creditRequest
    case h_2 => exact h.dropHelm.raise

theorem execHelmRequestCredit (h : s.Sound) : Steady (Machine.execHelmRequestCredit s) := by
  unfold Machine.execHelmRequestCredit
  refine State.Sound.next ?_
  split
  · exact h
  · exact (h.actOn h.escrowAct).ite (h.again.ite (h.again.ite h.dropWindows.creditRequest))

theorem execGenupArrival (h : s.Sound) : Steady (Machine.execGenupArrival s) := by
  unfold Machine.execGenupArrival
  refine State.Sound.next ?_
  split
  · exact h
  · refine State.Sound.ite (h.actOn ?_) (h.again.ite h.creditRequest)
    exact h.creditRequest.ite h.raiseGen.again

theorem execRemapApply (h : s.Sound) : Steady (Machine.execRemapApply s) := by
  unfold Machine.execRemapApply
  refine State.Sound.next ?_
  split
  · exact h
  case h_2 r _ =>
    have htick (c id : Nat) (l : BitVec 10) : (if (s.ctx c).level = .t then { s with helm := mset s.helm id { r with acted :=
      true } }
        else if tileIdle s c l then Machine.takeRemap s c l id r else Machine.again s id r).Sound :=
      State.Sound.ite (.of_eq rfl rfl h) (h.takeRemap.ite h.again)
    dsimp only
    split
    · refine State.Sound.ite (h.actOn ?_) (htick _ _ _)
      exact (htick _ _ _).ite h.dropHelm.raise
    · exact h.actOn h.dropHelm.raise

theorem execEscrowDeclarationPacket (h : s.Sound) : Steady (Machine.execEscrowDeclarationPacket s) := by
  unfold Machine.execEscrowDeclarationPacket
  refine State.Sound.next (State.Sound.ite h ?_)
  split
  · exact h.planEv
  · exact h.revokeEscrow.planEv.ite (h.grantEscrow.completePacket.ite h.planEv)
  · exact h.planEv.ite (h.planEv.ite h.dropWindows.completePacket)

/-! ## Almanacs -/

theorem execWalkerArm (h : s.Sound) : Steady (Machine.execWalkerArm s) := by
  unfold Machine.execWalkerArm
  refine State.Sound.next ?_
  split
  · exact h
  · exact h.ite ((h.planEntry.ite h.planEntry).ite (((h.meetBad.ite
      h.meetBad.armBlock).armBlock.setWalker.planEntry.planEntry.ite (h.meetBad.ite
      h.meetBad.armBlock).armBlock.setWalker.planEntry.planEntry.planEntry).planEntry.planEntry.ite ((h.meetBad.ite
      h.meetBad.armBlock).armBlock.setWalker.planEntry.planEntry.ite (h.meetBad.ite
      h.meetBad.armBlock).armBlock.setWalker.planEntry.planEntry.planEntry)).planEntry)

theorem execEntryStart (h : s.Sound) : Steady (Machine.execEntryStart s) := by
  unfold Machine.execEntryStart
  refine State.Sound.next ?_
  split
  · exact h.ite ((h.clearGroups.foldl fun _ _ h => h.disarm.ite h).ite ((h.clearGroups.foldl fun _ _ h =>
      h.planEv).setWalker.ite ((h.clearGroups.foldl fun _ _ h => h.modCtx.planReconf).setWalker.ite
      (h.clearGroups.setWalker.foldl fun _ _ h => h.startSlot.ite h))))
  · exact h

theorem execAssayEarlyCompare (h : s.Sound) : Steady (Machine.execAssayEarlyCompare s) := by
  unfold Machine.execAssayEarlyCompare
  refine State.Sound.next ?_
  split
  · exact h.ite h.setAssay
  · exact h.setAssay
  · exact h.setAssay.foldl fun _ _ h => h.planEv.ite h
  · split
    · exact h.compareGroups.setWalker
    · exact h

theorem execPrimarySample (h : s.Sound) : Steady (Machine.execPrimarySample s) := by
  unfold Machine.execPrimarySample
  refine State.Sound.next ?_
  split
  · exact h.ite h.sampleBlock.setWalker
  · exact h

theorem execEntryDeadline (h : s.Sound) : Steady (Machine.execEntryDeadline s) := by
  unfold Machine.execEntryDeadline
  refine State.Sound.next ?_
  split
  · exact h.ite ((h.publish.foldl fun _ _ h => h.disarm).dropWalker.ite ((h.discardBlock.raise.dropWalker.ite
      ((h.discardBlock.raise.clearGroups.setWalker.foldl fun _ _ h => h.startSlot).ite (h.discardBlock.raise.foldl fun _ _ h =>
      h.disarm.ite h).setWalker)).ite h.dropWalker))
  · exact h

theorem execDrbSample (h : s.Sound) : Steady (Machine.execDrbSample s) := by
  unfold Machine.execDrbSample
  refine State.Sound.next ?_
  split
  · exact h.ite (h.sampleBlock.setWalker.ite h.sampleBlock.raise.setWalker)
  · exact h

theorem execEntryPublication (h : s.Sound) : Steady (Machine.execEntryPublication s) := by
  unfold Machine.execEntryPublication
  refine State.Sound.next ?_
  split
  · exact h.ite (h.publish.dropWalker.ite ((h.discardBlock.dropWalker.ite h.discardBlock.dropWalker.raise).ite h))
  · exact h

theorem execWaypointDecision (h : s.Sound) : Steady (Machine.execWaypointDecision s) := by
  unfold Machine.execWaypointDecision
  refine State.Sound.next (State.Sound.ite h (State.Sound.planN ?_))
  split
  · exact (h.modCtx.foldl fun _ _ h => h.completePacket).foldl fun _ _ h => h.planEntry.ite h
  · exact h.modCtx.foldl fun _ _ h => h.completePacket

theorem execCourseChangeApply (h : s.Sound) : Steady (Machine.execCourseChangeApply s) := by
  unfold Machine.execCourseChangeApply
  dsimp only
  refine State.Sound.next (State.Sound.ite h ?_)
  split
  · exact h.applyPending.leaveTimed
  · exact h.applyPending.cancelArmed.modCtx.planFrame.planWaypoint
  · exact h.applyPending.modCtx.planWaypoint

theorem execCourseChangePacket (h : s.Sound) : Steady (Machine.execCourseChangePacket s) := by
  unfold Machine.execCourseChangePacket
  refine State.Sound.next ?_
  split
  · exact h.completePacket.ite h.modCtx
  · exact h.completePacket

/-! ## Contexts -/

theorem execCtxEnd (h : s.Sound) : Steady (Machine.execCtxEnd s) := by
  refine (h.ctxCommand fun c => ?_).next
  split
  · exact h.endContext
  · exact h

theorem execHostDramAccess (h : s.Sound) : Steady (Machine.execHostDramAccess s) := by
  unfold Machine.execHostDramAccess
  refine State.Sound.next ?_
  split
  · exact h.hostAgain.ite (h.hostFault.ite (h.hostAgain.ite h.fresh.same.queueHost.hostRest))
  · exact h.hostFault.ite h.hostAgain

/-! ## Fault handling -/

theorem execFaultRecordDelivery (h : s.Sound) : Steady (Machine.execFaultRecordDelivery s) := by
  unfold Machine.execFaultRecordDelivery
  refine State.Sound.next ?_
  split
  · split
    · exact h
    · exact h.planOnce.ite ((h.modDie.foldl fun _ _ h => h.planEv).planEv.storeLost.ite (h.modDie.foldl fun _ _ h =>
        h.planEv).planEv.storeLost.planOnce)
  · exact h.postRecord
  · exact h.handleFault

/-! ## Audits -/

theorem execAuditRun (h : s.Sound) : Steady (Machine.execAuditRun s) := by
  unfold Machine.execAuditRun
  refine State.Sound.next ?_
  split
  · exact h.takeRequest
  · exact h.ite h.startAudit
  · exact h.endAudit
  · exact h.tryAudit
  · exact h.beginIntervals

theorem execAuditOverdue (h : s.Sound) : Steady (Machine.execAuditOverdue s) := by
  unfold Machine.execAuditOverdue
  refine State.Sound.next ?_
  split
  · exact h
  · split
    · exact h.same
    · exact h.ite h.raise.planN

/-! ## Boot -/

theorem execBootSequence (h : s.Sound) : Steady (Machine.execBootSequence s) := by
  unfold Machine.execBootSequence
  refine State.Sound.next ?_
  split
  · exact (h.same.setStage.foldl fun _ _ h => h.planN).planPps.planEv
  · exact h.setStage.planEv
  · exact h.verifyBoot
  · exact h.trainDevice.planEv
  · exact h.becomeReady

theorem execFusecmtWrite (h : s.Sound) : Steady (Machine.execFusecmtWrite s) := by
  unfold Machine.execFusecmtWrite
  refine State.Sound.next (State.Sound.byHost h ?_)
  split
  · exact h.same.ite h
  · exact h

/-! ## Updates -/

theorem execUpdateQuiesce (h : s.Sound) : Steady (Machine.execUpdateQuiesce s) := by
  unfold Machine.execUpdateQuiesce
  refine State.Sound.next ?_
  split
  · exact h.ite (h.foldl fun _ _ h => h.writeHandover).same.planN.planN
  · exact h

theorem execUpdateReloadComplete (h : s.Sound) : Steady (Machine.execUpdateReloadComplete s) := by
  unfold Machine.execUpdateReloadComplete
  refine State.Sound.next ?_
  split
  · exact h.ite (h.same.updateSucceeds.ite (h.same.foldl fun _ _ h => h.loadGraph.startGraph))
  · exact h

theorem execHeartbeatArrival (h : s.Sound) : Steady (Machine.execHeartbeatArrival s) := by
  unfold Machine.execHeartbeatArrival
  refine State.Sound.next ?_
  split
  · exact h
  · refine State.Sound.ite h ?_
    split
    · exact (h.same.updateSucceeds.ite h.same).ite (h.same.endTry.ite h.same)
    · exact h.same.endTry.ite h.same

theorem execUpdateHeartbeatDeadline (h : s.Sound) : Steady (Machine.execUpdateHeartbeatDeadline s) := by
  unfold Machine.execUpdateHeartbeatDeadline
  refine State.Sound.next ?_
  split
  · exact h.ite h.same.raise.planN
  · exact h

theorem execUpdateRollbackComplete (h : s.Sound) : Steady (Machine.execUpdateRollbackComplete s) := by
  unfold Machine.execUpdateRollbackComplete
  refine State.Sound.next ?_
  split
  · exact h.ite (h.foldl fun _ _ h => h.loadGraph.startGraph).same.completeBarrier.serveHeld
  · exact h

/-! ## The mailbox -/

theorem execSpdmGetVersion (h : s.Sound) : Steady (Machine.execSpdmGetVersion s) :=
  h.answer (h.same.respond)
theorem execSpdmGetCapabilities (h : s.Sound) : Steady (Machine.execSpdmGetCapabilities s) :=
  h.answer (h.respond)
theorem execSpdmNegotiateAlgorithms (h : s.Sound) : Steady (Machine.execSpdmNegotiateAlgorithms s) :=
  h.answer (h.respond)
theorem execSpdmGetDigests (h : s.Sound) : Steady (Machine.execSpdmGetDigests s) :=
  h.answer (h.respond)
theorem execSpdmGetCertificate (h : s.Sound) : Steady (Machine.execSpdmGetCertificate s) :=
  h.answer (h.spdmError.ite h.respond)
theorem execSpdmChallenge (h : s.Sound) : Steady (Machine.execSpdmChallenge s) :=
  h.answer (h.spdmError.ite h.respondSigned)

theorem execSpdmGetMeasurements (h : s.Sound) : Steady (Machine.execSpdmGetMeasurements s) := by
  refine h.answer (h.spdmError.ite (h.respondSigned.ite ?_))
  exact .of_eq rfl rfl h

theorem execSpdmUnsupported (h : s.Sound) : Steady (Machine.execSpdmUnsupported s) :=
  h.answer (h.spdmError)
theorem execDoeDiscovery (h : s.Sound) : Steady (Machine.execDoeDiscovery s) :=
  h.answer (h.respond)

/-! ## Integers -/

theorem execMovI (h : s.Sound) {op : Op} : Steady (Machine.execMovI op s) := by
  refine (h.issueVE fun o p h => ?_).next
  split
  · exact h
  · exact h

/-! ## Every step of the opcode table -/

/-- Every instruction, command and event leads a sound state to a sound one: by the operations that it is made of. -/
theorem exec (h : s.Sound) (i : Instr) : Steady (Machine.exec i s) := by
  cases i
  case nop => exact (h.issueVE fun _ _ h => h.Issued_only).next
  case br | brs => exact (h.issueVE fun _ _ h => h.transfer).next
  case callI | loopI => exact (h.actVE fun _ _ h => h).next
  case retI => exact (h.actVE fun _ _ h => h.transfer).next
  case doneI => exact (h.actVE fun _ _ h => h.endBlock).drainCheck.next
  case doneAbandon => exact (h.actVE fun _ _ h => (h.ite h.abandon).endBlock).drainCheck.next
  case yieldI | safeI => exact (h.actVE fun _ _ h => h.safePoint).next
  case pset | plog | icmp | icmpu | fcmp => exact h.cmpVE.next
  case pcnt | iadd | isub | imul | iabs | ineg | imin | imax | andI | orI | xorI | andn | orn | shl | shr | asr | rol | clz | ctz | popc |
      brev | bfx | bfi | fadd | fsub | fmul | fmin | fmax | fsgn | ffma | frcp | frsq | fexp2 | flog2 | fclass | hadd | hsub | hmul |
      hfma | hmin | hmax | hcmp | hdot | dqblk | mint => exact h.aluVE.next
  case mfsr => exact (h.issueVE fun _ _ h => (h.modSlot.ite h).Issued_value).next
  case mtsr => exact (h.issueVE fun _ _ h => h).next
  case trapI => exact (h.actVE fun _ _ h => h.Issued_ends).next
  case rte | escrowGrant | escrowRevoke | escrowDrain | genup | remap => exact (h.actVE fun _ _ h => h.helmRequest.Issued_only).next
  case waittTick | waittMcnt | barWait | ctrWait | evwaitWait | cpyb =>
    exact (h.actVE fun _ _ h => h.Issued_ends.ite_st h.Issued_only).next
  case course => exact (h.actVE fun _ _ h => (h.modCtx.ite h.raise).Issued_only).next
  case launch => exact (h.actVE fun _ _ h => h.fresh.same.planEv.Issued_only).next
  case hops | vdq | sel | compr | redadd | redmin | redmax | redlog | spstat | cget | barPh | ctrRd | evwaitPeek | mxstat | mxrpr |
      lstat | cpyq => exact (h.issueVE fun _ _ h => h.Issued_value).next
  case sign | assayArm | assayClr => exact (h.actVE fun _ _ h => h.planAssay.Issued_only).next
  case audit => exact (h.actVE fun _ _ h => h.askAudit.Issued_only).next
  case cfgOpen | cfgWr | cfgSeal | cfgClear => exact (h.actVE fun _ _ h => h.sendCfg).next
  case vrfy => exact (h.actVE fun _ _ h => h.same.planEv.Issued_only).next
  case hbt => exact (h.actVE fun _ _ h => h.planEv.Issued_only).next
  case divI | remI | fdiv | fsqrt => exact h.iterVE.next
  case movI => exact h.execMovI
  case cvtf | cvti | cvth | cvtbi | cvthi | cvtib | cvtih | narw => exact h.convVE.next
  case qblk => exact (h.issueVE fun _ _ h => h.qblkIssue.Issued_only).next
  case qblkTokenRelease => exact h.releaseToken.next
  case shuf | bcast | rotl | lsh | intlv => exact h.permVE.next
  case ld | st | lda | strl | aadd | asub | aand | aor | axor | amin | amax | axch | acas | afadd =>
    exact (h.issueVE fun _ _ h => h.accessBody).next
  case fence => exact (h.actVE fun _ _ h => h.flushMerged.Issued_ends.ite_st h.Issued_only).next
  case pref => exact (h.actVE fun _ _ h => h.prefetch.Issued_only).next
  case tmsel => exact (h.actVE fun _ _ h => h.modSport.Issued_only).next
  case sportArm => exact h.execSportArm
  case sportStop => exact (h.actVE fun _ _ h => h.endWalk.modSport.Issued_only).next
  case sportRewind => exact (h.actVE fun _ _ h => (h.ite h.endWalk.modSport.beginPort).Issued_only).next
  case spwin => exact (h.actVE fun _ _ h => h.Issued_only.ite_st (h.Issued_ends.ite_st h.modSport.Issued_only)).next
  case cbnd => exact h.execCbnd
  case crgt | cmov => exact (h.issueVE fun _ _ h => h.capRes).next
  case cchk => exact h.execCchk
  case barArv => exact (h.actVE fun _ _ h => h.arriveSlot.Issued_only).next
  case barArvw => exact (h.actVE fun _ _ h => h.arriveSlot.modSlot.Issued_ends.ite_st (h.Issued_ends.ite_st h.Issued_only)).next
  case ctrAdd => exact (h.actVE fun _ _ h => State.Sound.ctrUpdate h.credit).next
  case ctrArvx => exact (h.actVE fun _ _ h => State.Sound.ctrUpdate h.announce).next
  case evpost => exact (h.actVE fun _ _ h => (h.planEv.ite h.postRecord).Issued_only.ite_st h.Issued_ends).next
  case eventRecordDeferredEnqueue => exact ((h.planEv.ite h.postRecord).ite h.modTile).next
  case mseed => exact (h.actVE fun _ _ h => h.modSlot.Issued_only).next
  case mxarm => exact (h.actVE fun _ _ h => h.armTable).next
  case mxwld | mxact | mxdrn | mxnorm | mxquad => exact (h.actVE fun _ _ h => h.handMatrix).next
  case mxtab => exact (h.actVE fun _ _ h => h.handTable.ite_st h.Issued_ends).next
  case mxstop => exact (h.actVE fun _ _ h => h.handTable).next
  case lwgt | lbias => exact (h.actVE fun _ _ h => h.loadLode).next
  case lbeta | lseed | lclamp | lfree | lsweep | lmag => exact (h.actVE fun _ _ h => h.queueLode).next
  case lread => exact (h.issueVE fun _ _ h => h.Issued_ends.ite_st h.Issued_value).next
  case lreadMe => exact (h.actVE fun _ _ h => h.withExtent).next
  case cpy | cpyat | cpyx => exact (h.actVE fun _ _ h => h.startCopy).next
  case tmplw => exact (h.actVE fun _ _ h => (h.foldl fun _ _ h => h.mendWord).modTile.modBte.Issued_only).next
  case resultCompletion => exact (h.completeResult.ite h.trapStop).next
  case tokenCircuitArrival => exact (h.ite h.setInq).next
  case meStreamInputToken => exact (h.arriveInput.ite h.takeInput).next
  case wKindHoldRelease => exact (h.delay.holdGroup.ite (h.ite (h.saveSlot.ite h.plan))).next
  case holdOverrun => exact (h.trapSlot.ite h).next
  case illegalWordIssue => exact (h.blockElem.ite h.blockElem).next
  case bankAccessPerform => exact h.execBankAccessPerform
  case strlHeldPerform => exact h.execStrlHeldPerform
  case readWalkTokenPresent => exact h.execReadWalkTokenPresent
  case writeWalkTokenPerform => exact h.scatter.writeDone.next
  case writePortUnFlush => exact ((h.ite h.flushPort).ite (h.planN.ite h.takeBanks.planN)).next
  case translationWalkComplete => exact h.execTranslationWalkComplete
  case objectCacheFill => exact (h.modTile.failLoad.ite h.fillObject).next
  case vaultBankEvent => exact h.execVaultBankEvent
  case vaultReadReply => exact h.execVaultReadReply
  case matrixTableFire => exact h.execMatrixTableFire
  case matrixWld => exact ((h.beginWith fun _ _ h => h.beginWld).ite h.loadWeight).next
  case matrixWeightTokenWrite => exact h.execMatrixWeightTokenWrite
  case matrixAct | matrixQuad => exact ((h.beginWith fun _ _ h => h.beginAct).ite h.groupTurn).next
  case matrixActivationPop =>
    exact (h.modNode.kickFeed.ite (h.ite ((h.modNode.pruneFeed.extendFeed.foldl fun _ _ h => h.popFeed).ite
      (h.modNode.pruneFeed.extendFeed.foldl fun _ _ h => h.popFeed).planOnce))).next
  case matrixGroupApply => exact h.execMatrixGroupApply
  case matrixDrnMx => exact (h.beginWith fun _ _ h => h.beginDrnMx).next
  case matrixDrnRowPush => exact h.execMatrixDrnRowPush
  case matrixDrnRaw => exact ((h.beginWith fun _ _ h => h.beginDrnRaw).ite h.drainRaw).next
  case matrixNorm => exact (h.beginWith fun _ _ h => h.beginNorm).next
  case matrixCommandComplete => exact h.execMatrixCommandComplete
  case matrixOperandLate => exact (h.regionFault.ite ((h.ite h.retake).ite (h.retake.foldl fun _ _ h => h.modNode.shiftNode).planEv)).next
  case matrixOperandArrived => exact ((h.foldl fun _ _ h => h.modNode.kickQueue).ite (h.foldl fun _ _ h => h.shiftNode).planEv).next
  case matrixRowProgressStop => exact h.modNode.next
  case lodestoneCommandBegin => exact h.execLodestoneCommandBegin
  case lodestoneColourUpdate => exact h.execLodestoneColourUpdate
  case lodestoneCommandComplete => exact h.execLodestoneCommandComplete
  case tellerRunPost => exact h.execTellerRunPost
  case tellerRunStart => exact h.execTellerRunStart
  case tellerCend => exact h.next
  case tellerAct | tellerPre | tellerPrea | tellerRefab | tellerRefpb | tellerZqs | tellerZql =>
    exact (h.command fun _ _ _ _ _ h => h.noEffect).next
  case tellerRd | tellerRda | tellerWr | tellerWra => exact h.burstCommand.next
  case tellerMrw => exact (h.command fun _ _ _ _ _ h => h.modTel).next
  case tellerMrr => exact (h.command fun _ _ _ _ _ h => h.readMode).next
  case tellerReadDataReturn => exact h.burstRead.next
  case tellerRunEndCheck => exact h.execTellerRunEndCheck
  case tellerRecoveryPrecharge => exact (h.ite (h.setTel.ite h.planN)).next
  case tellerTimingWrite => exact (h.modTel.ite (h.writeTel.ite h.writeTel.replanHost)).next
  case refreshWatchdogTick => exact ((h.setTel.raise.ite h.setTel).ite (h.setTel.raise.ite h.setTel).planN).next
  case rlapseClear => exact (h.planOnce.ite h.modTel).next
  case hostSlotService => exact h.execHostSlotService
  case tellerStreamAccess => exact h.execTellerStreamAccess
  case bteDeferredAccept => exact h.execBteDeferredAccept
  case copyBegin => exact h.execCopyBegin
  case copyTokenRead => exact h.execCopyTokenRead
  case copyTokenWrite => exact h.execCopyTokenWrite
  case copyComplete => exact h.execCopyComplete
  case doorbellWrite => exact (h.ite (h.hostAgain.ite (h.byHost h.modCtx))).next
  case schedulerScan => exact h.execSchedulerScan
  case loadGraphPacket => exact h.execLoadGraphPacket
  case armAlmanacPacket =>
    exact ((h.modCtx.watchAudits.completePacket.planWaypoint.ite h).ite (h.completePacket.ite (h.completePacket.ite
      h.modCtx.planFrame.planEv))).next
  case courseChangePacket => exact h.execCourseChangePacket
  case launchPacket => exact (h.completePacket.ite (h.completePacket.ite (h.completePacket.ite h.fresh.setLaunch))).next
  case determinismLevelPacket =>
    exact (h.modCtx.raise.completeBarrier.ite (h.modCtx.ite (((h.foldl fun _ _ h =>
      h.planN).modCtx.watchAudits.completeBarrier.foldl fun _ _ h => h.endLaunch).ite (h.foldl fun _ _ h =>
      h.planN).modCtx.watchAudits.completeBarrier))).next
  case fencePacket => exact (h.completeBarrier.ite ((h.foldl fun _ _ h => h.requestSave).ite h.completeBarrier)).next
  case powerStatePacket => exact h.takeCommand.next
  case auditRequestPacket => exact (h.askAudit.ite h.askAudit.completePacket).next
  case imageUpdatePacket => exact (h.completeBarrier.ite h.same.planN).next
  case escrowDeclarationPacket => exact h.execEscrowDeclarationPacket
  case deviceLaunchArrival => exact h.execDeviceLaunchArrival
  case armRequestArrival => exact h.execArmRequestArrival
  case slotStart => exact h.execSlotStart
  case slotDrainComplete => exact (h.modSlot.slotRetired.ite h).next
  case launchRetire => exact h.execLaunchRetire
  case taskEnd => exact h.execTaskEnd
  case preemptRequest => exact h.execPreemptRequest
  case launchSaved => exact h.execLaunchSaved
  case walkerArm => exact h.execWalkerArm
  case entryStart => exact h.execEntryStart
  case primarySample => exact h.execPrimarySample
  case entryDeadline => exact h.execEntryDeadline
  case drbSample => exact h.execDrbSample
  case entryPublication => exact h.execEntryPublication
  case assayEarlyCompare => exact h.execAssayEarlyCompare
  case waypointDecision => exact h.execWaypointDecision
  case courseChangeApply => exact h.execCourseChangeApply
  case quantumBoundary => exact h.execQuantumBoundary
  case reconfigurationTokenPass => exact h.execReconfigurationTokenPass
  case auditRun => exact h.execAuditRun
  case auditOverdue => exact h.execAuditOverdue
  case rteAction => exact h.execRteAction
  case genupArrival => exact h.execGenupArrival
  case helmRequestCredit => exact h.execHelmRequestCredit
  case remapApply => exact h.execRemapApply
  case cfgPortRequest => exact h.execCfgPortRequest
  case verifyEngineComplete => exact (h.postRecord.ite h.planEv).next
  case faultRecordDelivery => exact h.execFaultRecordDelivery
  case linkBeatReceive => exact h.execLinkBeatReceive
  case linkRetrySend => exact h.sendBeat.next
  case linkLaneRepair => exact (h.modLink.modLink.ite h.modLink.dropLink).next
  case meridianExchange => exact (h.planEv.ite h.planEv.planEv.same.planN).next
  case meridianExchangeReceive => exact (h.ite ((h.planN.ite h.raise).ite ((h.ite h.raise).planEv.ite (h.ite h.raise)))).next
  case dieRejoin => exact (h.ite (h.modDie.planN.ite (h.rejoinAudits.modDie.ite h.rejoinAudits.planN))).next
  case sxofsWrite => exact (h.byHost (h.sample.ite h)).next
  case ppsInputEdge | ptmSample => exact (h.sample.ite h).next
  case sextantTrimTick => exact (h.same.planN.planN.ite h.same.planN).checkHoldover.next
  case sextantHoldoverEntry => exact h.same.checkHoldover.next
  case ppsOutRise => exact h.same.planN.planPps.next
  case ppsOutFall | ptpFrameTimestamp => exact h.same.next
  case todbaseWrite => exact (h.byHost (h.same.ite h.same.planPps)).next
  case thermalSensorRead =>
    exact (((h.thermalTrip.ite h).thermalTrip.ite (h.thermalTrip.ite h)).ite (h.planN.foldl fun _ _ h => h.thermalTrip.ite
      h)).next
  case powerMeasureTick => exact h.same.planN.next
  case ctxCreate => exact (h.ctxCommand fun _ => h.createContext.ite h).next
  case ctxEnd => exact h.execCtxEnd
  case functionLevelReset => exact (h.foldl fun _ _ h => h.endContext).same.next
  case hostVaultAccess => exact (h.hostAgain.ite (h.hostFault.ite h.sendReq.hostRest)).next
  case hostDramAccess => exact h.execHostDramAccess
  case pwrcmdStandby | pwrcmdRun | pwrcmdInvalid => exact (h.powerCommand fun _ h => h).next
  case pwrcmdDiag => exact (h.powerCommand fun _ h => h.same.foldl fun _ _ h => h.auditAll).next
  case fusecmtWrite => exact h.execFusecmtWrite
  case flashWindowWrite => exact (h.byHost (h.same.ite h.write)).next
  case spdmGetVersion => exact h.execSpdmGetVersion
  case spdmGetCapabilities => exact h.execSpdmGetCapabilities
  case spdmNegotiateAlgorithms => exact h.execSpdmNegotiateAlgorithms
  case spdmGetDigests => exact h.execSpdmGetDigests
  case spdmGetCertificate => exact h.execSpdmGetCertificate
  case spdmChallenge => exact h.execSpdmChallenge
  case spdmGetMeasurements => exact h.execSpdmGetMeasurements
  case spdmUnsupported => exact h.execSpdmUnsupported
  case doeDiscovery => exact h.execDoeDiscovery
  case bootSequence => exact h.execBootSequence
  case heartbeatArrival => exact h.execHeartbeatArrival
  case heartbeatPeriod => exact (h.planN.ite (h.planN.same.fireMsix.ite h.planN.same)).sendBeats.next
  case bootTryTimeout => exact h.same.fireMsix.resetFabric.setStage.planEv.next
  case updateQuiesce => exact h.execUpdateQuiesce
  case updateReloadComplete => exact h.execUpdateReloadComplete
  case updateHeartbeatDeadline => exact h.execUpdateHeartbeatDeadline
  case vaultPartitionWrite => exact (h.setPart.ite h.raise).next
  case registerWrite => exact (h.byHost (h.same.ite h.writeRegister)).next
  case updateRollbackComplete => exact h.execUpdateRollbackComplete
  case supplyRemoval => exact (State.Sound.ite ⟨(wf_filter h.1 _).1, List.Pairwise.nil⟩ h).next

end State.Sound

end Sys2Proof.Machine
end

section
/-! # Soundness: every step -/

namespace Sys2Proof.Machine

-- Elaborated one after another: these many short proofs at once ask for more threads than the check's memory holds.
set_option Elab.async false

/-- Taking the head of the agenda keeps soundness. -/
theorem State.Sound.afterHead {s : State} {it : Item} {rest : List Item} (h : s.Sound) (ha : s.agenda = it :: rest) :
    (Machine.afterHead s it rest).Sound :=
  h.reorder (List.Pairwise.of_cons (ha ▸ h.2))

/-- What a Teller's word leads to keeps soundness, also where the word is refused. -/
theorem sound_of_fetchTeller_refused {s t : State} {k : Nat} (h : s.Sound) (hf : fetchTeller s k = .refused t) : t.Sound := by
  unfold fetchTeller at hf
  dsimp only at hf
  split at hf
  · cases hf
  · split at hf
    · cases hf
    · split at hf
      · cases hf; exact h.badWord
      · split at hf <;> cases hf
        exact h.badWord

theorem fetchSlot_not_refused {s t : State} {n : Nat} : fetchSlot s n ≠ .refused t := by
  unfold fetchSlot
  repeat' split
  all_goals exact nofun

/-- A step keeps soundness: the head of the agenda leaves, and what it asks for runs. -/
theorem steady_step {s : State} (h : s.Sound) : Steady (step s) := by
  unfold step
  split
  · exact State.Sound.next (.of_eq rfl rfl h)
  case h_2 it rest hagenda =>
    have hrest := h.afterHead hagenda
    dsimp only
    split
    · split
      · refine State.Sound.exec ?_ _
        exact .of_eq rfl rfl hrest
      · exact hrest.next
      case h_3 hf => exact absurd hf fetchSlot_not_refused
      · exact Steady.fault
    · split
      · refine State.Sound.exec ?_ _
        exact .of_eq rfl rfl hrest
      · exact hrest.next
      case h_3 hf => exact (sound_of_fetchTeller_refused hrest hf).next
      · exact Steady.fault
    · refine State.Sound.exec ?_ _
      exact .of_eq rfl rfl hrest

/-- Settles O60: what every instruction, command and event does to memory and the agenda keeps their form. -/
theorem stepsStaySound : Obligations.StepsStaySound :=
  fun _ t h ht => steady_step h t ht

end Sys2Proof.Machine
end

section
/-! # Queries and special registers -/

namespace Sys2Proof.Machine

-- Elaborated one after another: these many short proofs at once ask for more threads than the check's memory holds.
set_option Elab.async false

/-! ## Queries -/

/-- The mint reads the key words of the slot that issues it. -/
theorem mint_delivers {s : State} {op : Op} (h : Ready s 0xC4 op) :
    ∃ t, exec (.mint op) s = .next t ∧ Delivers s t 0xC4 op .value 10 (perLane (opndsOf s 0xC4 op) (fun l =>
      ((mint (s.slot s.cur).mk0 (s.slot s.cur).mk1 (s.slot s.cur).mtid (lane (opndsOf s 0xC4 op).a l) (lane (opndsOf s 0xC4 op).b l)
        (s.slot s.cur).mcz 0).word op.var.toNat, noFlags))) := by
  have hslot : (opndsOf s 0xC4 op).slot = s.cur := rfl
  rw [← hslot]
  exact ⟨_, rfl, aluVE_delivers h 10 _⟩

/-- Dies 0 to 3 stand in a square: each coordinate in which two of them differ is one crossing (R265). -/
theorem hopCount_of_lt_four (a b : Nat) (ha : a < 4) (hb : b < 4) :
    hopCount a b = (if a % 2 = b % 2 then 0 else 1) + (if a / 2 = b / 2 then 0 else 1) := by
  interval_cases a <;> interval_cases b <;> decide

/-- Settles O19: each query is an issue that delivers one scalar; the mint is lane-wise. -/
theorem queriesDeliver : Obligations.QueriesDeliver := by
  unfold Obligations.QueriesDeliver
  exact ⟨⟨yields_one fun _ _ => rfl, yields_one fun _ _ => rfl, yields_one fun _ _ => rfl,
    fun _ _ h => mint_delivers h⟩,
    yields_one fun _ _ => rfl, yields_one fun _ _ => rfl, hopCount_of_lt_four⟩

/-! ## Special registers -/

/-- Logical tile 0, parked on physical tile 0: its slots are numbered from 2¹⁴ tiles on, and its PTID is that of the physical tile (R33, R278). -/
theorem specialWord_ptid_parked (s : State) : specialWord s (64 * parkedTile 0 0) 6 = 0#32 := rfl

/-- Refutes O14: the slots of a parked logical tile are numbered from `parkedTile`, so the quotients of a slot number by 64 and 12 are
not the coordinates of its physical tile; PTID of slot 64 · 2¹⁴ has X = 0 where the statement says 4. -/
theorem not_specialRegisters : ¬ Obligations.SpecialRegisters := by
  unfold Obligations.SpecialRegisters
  rintro ⟨-, h⟩
  obtain ⟨-, -, -, -, -, -, hx, -⟩ := h State.reset (64 * parkedTile 0 0)
  rw [specialWord_ptid_parked] at hx
  exact absurd hx (by decide)

end Sys2Proof.Machine
end

section
/-! # Arrivals, counters, records and seeds -/

namespace Sys2Proof.Machine

-- Elaborated one after another: these many short proofs at once ask for more threads than the check's memory holds.
set_option Elab.async false

/-! ## Barriers (R167, R252) -/

/-- The arrival that completes the count inverts the phase, for every later reader (R167). -/
theorem Barrier.arrive_last {r : Barrier} {now : Nat} (hn : r.n ≤ 63) (h : r.a + 1 = r.n) :
    r.arrive now = { r with a := 0, phase := !r.phase, at_ := now, was := if r.at_ = now then r.was else r.phase } := by
  have ha : (r.a + 1) % 64 = r.n := by omega
  simp only [Barrier.arrive, ha, if_true]

/-- Any other arrival is counted (R167). -/
theorem Barrier.arrive_counts {r : Barrier} {now : Nat} (hn : r.n ≤ 63) (h : r.a + 1 < r.n) :
    r.arrive now = { r with a := r.a + 1 } := by
  have hm : (r.a + 1) % 64 = r.a + 1 := by omega
  simp only [Barrier.arrive, hm, Nat.ne_of_lt h, if_false]

/-- An arrival leaves what its barrier owes. -/
theorem Barrier.arrive_owe (r : Barrier) (now : Nat) : (r.arrive now).owe = r.owe := by
  unfold Barrier.arrive
  dsimp only
  split <;> rfl

/-- The barrier named by a tile and a number is the only one that an arrival there changes. -/
theorem bar_arrive (p : State) (t b u c : Nat) :
    (p.arrive t b).bar u c = if u = t ∧ c = b then (p.bar t b).arrive p.mcnt else p.bar u c := by
  by_cases hu : u = t
  · subst hu
    simp [State.arrive, State.bar, Tile.arrive]
  · simp [State.arrive, State.bar, hu]

/-- What a barrier owes once a slot has arrived: the arrivers that still have accesses under way (R252). -/
def owedAfter (p : State) (o : Opnds) : List (Nat × Nat) :=
  ((p.bar o.tile (o.sa.toNat % 32)).owe ++ [(o.slot, o.seq)]).filter (fun x => releasePending p x.1 x.2)

/-- The arrival of a slot is one arrival, after which the barrier owes what `owedAfter` says; no other barrier changes. -/
theorem bar_arriveSlot (p : State) (o : Opnds) (u c : Nat) : (arriveSlot p o).bar u c =
    if u = o.tile ∧ c = o.sa.toNat % 32 then
      { (p.bar o.tile (o.sa.toNat % 32)).arrive p.mcnt with owe := owedAfter p o }
    else p.bar u c := by
  change (if (owedAfter p o).isEmpty ∧ (p.bar o.tile (o.sa.toNat % 32)).owe.isEmpty then p.arrive o.tile (o.sa.toNat % 32)
    else (p.arrive o.tile (o.sa.toNat % 32)).modTile o.tile (fun x =>
      { x with bars := mmod Barrier.reset x.bars (o.sa.toNat % 32) (fun r => { r with owe := owedAfter p o }) })).bar u c = _
  split
  · next h =>
    rw [List.isEmpty_iff, List.isEmpty_iff] at h
    have hk := (Barrier.arrive_owe (p.bar o.tile (o.sa.toNat % 32)) p.mcnt).trans h.2
    rw [bar_arrive, h.1, ← hk]
  · by_cases hu : u = o.tile
    · subst hu
      have hb := bar_arrive p o.tile (o.sa.toNat % 32) o.tile
      simp only [State.bar, true_and] at hb
      by_cases hc : c = o.sa.toNat % 32 <;> simp [State.bar, mmod, hb, hc]
    · have hb := bar_arrive p o.tile (o.sa.toNat % 32) u c
      simpa [State.bar, hu] using hb

/-- An arrival changes nothing outside its tile. -/
theorem arriveSlot_setTile (p : State) (o : Opnds) :
    (arriveSlot p o).slots = p.slots ∧ (arriveSlot p o).mem = p.mem ∧ (arriveSlot p o).mcnt = p.mcnt := by
  unfold arriveSlot
  dsimp only
  split <;> exact ⟨rfl, rfl, rfl⟩

/-! ## Counters (R168) -/

/-- The view that an update of a counter leaves: an armed counter at zero completes its phase. -/
theorem settle_now (k : Counter) (v : CtrView) (e : BitVec 48) (now : Nat) :
    (settle k v e now).1.now = if v.armed = true ∧ v.c = 0#48 then { c := v.c, armed := false, phase := !v.phase } else v := by
  simp [settle]

/-- What a counter still expects: nothing once its phase is complete. -/
theorem settle_e (k : Counter) (v : CtrView) (e : BitVec 48) (now : Nat) :
    (settle k v e now).1.e = if v.armed = true ∧ v.c = 0#48 then 0#48 else e := by
  simp [settle]

/-- A counter is over-credited where it is armed and above zero. -/
theorem settle_over (k : Counter) (v : CtrView) (e : BitVec 48) (now : Nat) :
    (settle k v e now).2 = true ↔ v.armed = true ∧ 0 < v.c.toInt := by
  simp [settle]

/-- A credit is the update of its counter by `settle`. -/
theorem ctr_credit (s : State) (t k : Nat) (x : Int) :
    (s.credit t k x).1.ctr t k = (settle (s.ctr t k) { (s.ctr t k).now with c := (s.ctr t k).now.c + BitVec.ofInt 48 x }
      (s.ctr t k).e s.mcnt).1 := by
  simp [State.credit, State.ctr, Counter.credit]

/-- An announcement is the update of its counter by `settle`. -/
theorem ctr_announce (s : State) (t k : Nat) (b : Word) :
    (s.announce t k b).1.ctr t k = (settle (s.ctr t k) { (s.ctr t k).now with c := (s.ctr t k).now.c - b.setWidth 48, armed := true }
      ((s.ctr t k).e + b.setWidth 48) s.mcnt).1 := by
  simp [State.announce, State.ctr]

/-- An announcement over-credits its counter where that comes above zero. -/
theorem announce_over (s : State) (t k : Nat) (b : Word) :
    (s.announce t k b).2 = true ↔ 0 < ((s.ctr t k).now.c - b.setWidth 48).toInt := by
  simp [State.announce, settle_over]

/-- An update of a counter that does not over-credit it is an effect alone. -/
theorem ctrUpdate_only {k : Nat} {r : State × Bool} (h : r.2 = false) : ctrUpdate k r = Issued.only r.1 := by
  simp only [ctrUpdate, h, Bool.false_eq_true, if_false]

/-! ## Records -/

/-- An EVPOST to a queue with room waits while what it releases is under way, and else enters its record (R172, R252). -/
theorem evpost_only {s : State} {o : Opnds} (hr : (s.tile o.tile).evq.length < 64) (hw : (s.tile o.tile).evWait = []) :
    (if (s.tile o.tile).evq.length < 64 ∧ (s.tile o.tile).evWait.isEmpty then
      Issued.only (if releasePending s o.slot o.seq then
          s.planEv (s.mcnt + 1) rkArrive .eventRecordDeferredEnqueue { Arg.of o.slot 1 o.seq 0 0 with v := (postedRecord o.a).setWidth 512 }
        else s.postRecord o.tile 3 (postedRecord o.a))
    else Issued.ends s (.retry 0x08D))
    = Issued.only (if releasePending s o.slot o.seq then
          s.planEv (s.mcnt + 1) rkArrive .eventRecordDeferredEnqueue { Arg.of o.slot 1 o.seq 0 0 with v := (postedRecord o.a).setWidth 512 }
        else s.modTile o.tile (fun x => { x with evq := x.evq ++ [(s.mcnt, postedRecord o.a)] })) := by
  simp only [hr, hw, List.isEmpty_nil, and_self, if_true, State.postRecord, State.modTile_eq, Tile.post_of_room hw hr]

theorem does_evpost_wait : Does .evpost 0xC3 (fun _ p o => (p.tile o.tile).evq.length < 64 ∧ (p.tile o.tile).evWait = []
      ∧ releasePending p o.slot o.seq = true)
    (fun _ o p => p.planEv (p.mcnt + 1) rkArrive .eventRecordDeferredEnqueue
      { Arg.of o.slot 1 o.seq 0 0 with v := BitVec.setWidth 512 (0x03#8 ++ o.a.extractLsb' 0 120 : BitVec 128) }) := by
  refine does_of (fun _ _ => rfl) (fun _ p o hc => ?_) (fun _ _ _ => rfl)
  obtain ⟨hr, hw, hp⟩ := hc
  refine (evpost_only hr hw).trans ?_
  simp only [hp, if_true]
  rfl

theorem does_evpost_enter : Does .evpost 0xC3 (fun _ p o => (p.tile o.tile).evq.length < 64 ∧ (p.tile o.tile).evWait = []
      ∧ releasePending p o.slot o.seq = false)
    (fun _ o p => p.modTile o.tile (fun x => { x with evq := x.evq ++ [(p.mcnt, 0x03#8 ++ o.a.extractLsb' 0 120)] })) := by
  refine does_of (fun _ _ => rfl) (fun _ p o hc => ?_) (fun _ _ _ => rfl)
  obtain ⟨hr, hw, hp⟩ := hc
  refine (evpost_only hr hw).trans ?_
  simp only [hp, Bool.false_eq_true, if_false]
  rfl

/-- Settles O18: the effects are those of `arriveSlot`, `settle` and `Tile.post`. -/
theorem syncActs : Obligations.SyncActs := by
  unfold Obligations.SyncActs
  refine ⟨⟨does_of (fun _ _ => rfl) (fun _ _ _ _ => rfl) (fun _ o p => (arriveSlot_setTile p o).2.2), fun p o => ?_,
    does_of (fun _ _ => rfl) (fun _ _ _ hc => ctrUpdate_only hc) (fun _ _ _ => rfl),
    does_of (fun _ _ => rfl) (fun _ _ _ hc => ctrUpdate_only hc) (fun _ _ _ => rfl), does_evpost_wait, does_evpost_enter,
    does_of (fun _ _ => rfl) (fun _ _ _ _ => rfl) (fun _ _ _ => rfl)⟩, fun r now _ hn _ => ?_, fun s t k x b => ?_⟩
  · obtain ⟨hslots, hmem, -⟩ := arriveSlot_setTile p o
    refine ⟨by rw [bar_arriveSlot, if_pos ⟨rfl, rfl⟩]; rfl, fun u b hub => ?_, hslots, hmem⟩
    rw [bar_arriveSlot, if_neg (fun ⟨hu, hb⟩ => hub.elim (· hu) (· hb))]
  · refine ⟨fun h => ?_, fun h => ?_, ?_⟩
    · rw [Barrier.arrive_last hn h]
      exact ⟨rfl, rfl, fun c hc => if_neg (Ne.symm hc)⟩
    · rw [Barrier.arrive_counts hn h]
      exact ⟨rfl, rfl⟩
    · unfold Barrier.arrive
      dsimp only
      split <;> rfl
  · refine ⟨?_, settle_over (s.ctr t k) _ (s.ctr t k).e s.mcnt, ?_, ?_, announce_over s t k b⟩
    · rw [ctr_credit, settle_now]
    · rw [ctr_announce, settle_now]
      simp only [true_and]
    · rw [ctr_announce, settle_e]
      simp only [true_and]

end Sys2Proof.Machine
end

section
/-! # Capabilities and port instructions -/

namespace Sys2Proof.Machine

-- Elaborated one after another: these many short proofs at once ask for more threads than the check's memory holds.
set_option Elab.async false

/-! ## Capabilities (R155 to R158) -/

/-- An issue with a capability as its result. -/
theorem delivers_capability {s : State} {maj : Nat} {op : Op} (h : Ready s maj op) {body : Opnds → State → Issued} {lat : Nat}
    {c : BitVec 128} (hb : body (opndsOf s maj op) (afterPops s op) = capRes (afterPops s op) (opndsOf s maj op) lat c) :
    Delivers s (issueVE maj op body s) maj op .capability lat (capOut (opndsOf s maj op) c) :=
  (delivers_of h hb (Quiet.refl _ _) rfl rfl).1

/-- A narrowing whose bounds lie within those of its source delivers it (R156). -/
theorem cbnd_delivers {s : State} {op : Op} (h : Ready s 0xA8 op) {lo hi : Nat}
    (hc : cbndBounds op.var (opndsOf s 0xA8 op).cap (opndsOf s 0xA8 op).b = some (lo, hi)) :
    ∃ t, exec (.cbnd op) s = .next t ∧ Delivers s t 0xA8 op .capability 3
      (capOut (opndsOf s 0xA8 op) (capBounds (opndsOf s 0xA8 op).cap lo hi)) := by
  refine ⟨_, rfl, delivers_capability h ?_⟩
  simp only [hc]

/-- CCHK delivers at once unless it has to fetch the object's entry: at level T, with every lane off and where the look finds an answer
it does not (R158). -/
theorem cchk_delivers {s : State} {op : Op} (h : Ready s 0xAC op) (hf : s.levelOf (tileOfSlot s.cur) = .t ∨ (opndsOf s 0xAC op).on = false
      ∨ ∀ c x, checkObj s (tileOfSlot s.cur) (opndsOf s 0xAC op).cap ≠ .error (.fetch c x)) :
    ∃ t, exec (.cchk op) s = .next t ∧ Delivers s t 0xAC op .predicate 2
      (maskOut (opndsOf s 0xAC op) (cchkLane s (opndsOf s 0xAC op)) (fun _ => noFlags)) := by
  refine ⟨_, rfl, (delivers_of h (u := afterPops s op) (jump := none) ?_ (Quiet.refl _ _) rfl rfl).1⟩
  dsimp only
  split
  · next c x hx =>
    have hoff : ¬ ((opndsOf s 0xAC op).on = true ∧ (opndsOf s 0xAC op).level ≠ .t) := by
      rintro ⟨hon, hlevel⟩
      rcases hf with ht | hz | hn
      · exact hlevel ht
      · rw [hz] at hon; cases hon
      · exact hn c x hx
    rw [if_neg hoff]
    rfl
  · rfl

theorem capHi_lt (c : BitVec 128) : capHi c < 2 ^ 40 := (c.extractLsb' 40 40).isLt

/-- The bounds of CBND lie within those of its source (R156). -/
theorem cbndBounds_within {v : BitVec 3} {c : BitVec 128} {b : Vec} {lo hi : Nat} (h : cbndBounds v c b = some (lo, hi)) :
    capLo c ≤ lo ∧ hi ≤ capHi c ∧ lo ≤ hi := by
  have key : ∀ l h' : Nat, capLo c ≤ l → (if h' < l ∨ capHi c < h' then none else some (l, h')) = some (lo, hi) →
      capLo c ≤ lo ∧ hi ≤ capHi c ∧ lo ≤ hi := by
    intro l h' hl he
    split at he
    · cases he
    · cases he; omega
  unfold cbndBounds at h
  dsimp only at h
  split at h <;> exact key _ _ (by omega) h

/-- A slice of a slice. -/
theorem extractLsb'_extractLsb'_add {w i n k m : Nat} (x : BitVec w) (h : i + n ≤ m) :
    (x.extractLsb' k m).extractLsb' i n = x.extractLsb' (k + i) n := by
  ext j hj
  simp [Nat.add_assoc, show i + j < m by omega]

/-- Bounds of 40 bits read back, and every other field is the source's. -/
theorem capBounds_fields (c : BitVec 128) {lo hi : Nat} (hl : lo < 2 ^ 40) (hh : hi < 2 ^ 40) :
    capLo (capBounds c lo hi) = lo ∧ capHi (capBounds c lo hi) = hi ∧ capRgt (capBounds c lo hi) = capRgt c
      ∧ capObj (capBounds c lo hi) = capObj c ∧ capVer (capBounds c lo hi) = capVer c := by
  have above {k n : Nat} (hk : 80 ≤ k) (hn : k + n ≤ 128) : (capBounds c lo hi).extractLsb' k n = c.extractLsb' k n := by
    rw [capBounds, BitVec.extractLsb'_append_eq_of_le (by omega), BitVec.extractLsb'_append_eq_of_le (by omega),
      extractLsb'_extractLsb'_add c (by omega), show 80 + (k - 40 - 40) = k by omega]
  refine ⟨?_, ?_, above (by omega) (by omega), congrArg BitVec.toNat (above (by omega) (by omega)),
    congrArg BitVec.toNat (above (by omega) (by omega))⟩
  · rw [capLo, capBounds, BitVec.extractLsb'_append_eq_right, BitVec.toNat_ofNat, Nat.mod_eq_of_lt hl]
  · rw [capHi, capBounds, BitVec.extractLsb'_append_eq_of_le (Nat.le_refl _), BitVec.extractLsb'_append_eq_right,
      BitVec.toNat_ofNat, Nat.mod_eq_of_lt hh]

/-- Rights read back, and every other field is the source's. -/
theorem capRights_fields (c : BitVec 128) (r : BitVec 8) :
    capRgt (capRights c r) = r ∧ capLo (capRights c r) = capLo c ∧ capHi (capRights c r) = capHi c
      ∧ capObj (capRights c r) = capObj c ∧ capVer (capRights c r) = capVer c := by
  have below {k n : Nat} (hn : k + n ≤ 100) : (capRights c r).extractLsb' k n = c.extractLsb' k n := by
    rw [capRights, BitVec.extractLsb'_append_eq_of_add_le hn, extractLsb'_extractLsb'_add c hn, Nat.zero_add]
  refine ⟨?_, congrArg BitVec.toNat (below (by omega)), congrArg BitVec.toNat (below (by omega)), ?_,
    congrArg BitVec.toNat (below (by omega))⟩
  · rw [capRgt, capRights, BitVec.extractLsb'_append_eq_of_le (Nat.le_refl _), BitVec.extractLsb'_append_eq_right]
  · rw [capObj, capRights, BitVec.extractLsb'_append_eq_of_le (by omega), BitVec.extractLsb'_append_eq_left]
    rfl

/-- Settles O22: each of the five delivers, and what CBND and CRGT write is read back field by field. -/
theorem capabilitiesDeliver : Obligations.CapabilitiesDeliver := by
  unfold Obligations.CapabilitiesDeliver
  refine ⟨fun s op => ⟨fun h lo hi => cbnd_delivers h, fun h => ⟨_, rfl, delivers_capability h rfl⟩,
    fun h => ⟨_, rfl, delivers_capability h rfl⟩, fun h => ⟨_, rfl, (delivers_of h rfl (Quiet.refl _ _) rfl rfl).1⟩,
    cchk_delivers⟩, fun v c b lo hi r => ⟨fun h => ?_, capRights_fields c _⟩⟩
  obtain ⟨hlo, hhi, hle⟩ := cbndBounds_within h
  have hc := capHi_lt c
  exact ⟨hlo, hhi, hle, capBounds_fields c (by omega) (by omega)⟩

/-! ## Time stands still while an instruction acts -/

theorem mcnt_foldl {β : Type} (l : List β) (s : State) {f : State → β → State} (hf : ∀ a b, (f a b).mcnt = a.mcnt) :
    (l.foldl f s).mcnt = s.mcnt :=
  List.foldlRecOn (motive := fun t => t.mcnt = s.mcnt) l f rfl fun a ha b _ => (hf a b).trans ha

theorem mcnt_sendFrom (s : State) (c : Nat) (p : Packet) (lead : Nat) : (s.sendFrom c p lead).mcnt = s.mcnt := by
  unfold State.sendFrom
  split <;> rfl

theorem mcnt_sendReq (s : State) (r : Req) : (sendReq s r).mcnt = s.mcnt := by
  unfold sendReq
  dsimp only
  split
  · exact mcnt_sendFrom _ _ _ _
  · split
    · rfl
    · exact mcnt_sendFrom _ _ _ _

theorem mcnt_sendWrite (s : State) (m id : Nat) (ps : List Part) (poison : Bool) : (sendWrite s m id ps poison).mcnt = s.mcnt := by
  cases ps with
  | nil => rfl
  | cons q ps =>
    unfold sendWrite
    dsimp only
    split
    · rfl
    · exact mcnt_foldl _ _ fun a g => mcnt_sendReq a _

theorem mcnt_flushPort (s : State) (m : Nat) : (flushPort s m).mcnt = s.mcnt := by
  refine mcnt_foldl _ (s.modSport m _) fun a x => ?_
  split
  · rfl
  · exact mcnt_sendWrite _ _ _ _ _

theorem mcnt_endWalk (s : State) (m : Nat) : (endWalk s m).mcnt = s.mcnt := by
  unfold endWalk
  dsimp only
  split
  · rfl
  · split
    · rfl
    · exact mcnt_flushPort _ _

theorem mcnt_planOnce (s : State) (c r : Nat) (i : Instr) (a b k : Nat) : (planOnce s c r i a b k).mcnt = s.mcnt := by
  unfold planOnce
  dsimp only
  split <;> rfl

theorem mcnt_loadGroup (s : State) (m c : Nat) : (loadGroup s m c).mcnt = s.mcnt := by
  unfold loadGroup
  dsimp only
  split
  · rfl
  · split
    · exact mcnt_planOnce _ _ _ _ _ _ _
    · split
      · exact mcnt_planOnce _ _ _ _ _ _ _
      · rfl

theorem mcnt_beginPort (s : State) (m : Nat) : (beginPort s m).mcnt = s.mcnt := by
  unfold beginPort
  dsimp only
  split
  · rfl
  · split
    · exact mcnt_loadGroup _ _ _
    · exact ((QueuesOnly.refl _).kickRead m 8).mcnt

theorem mcnt_fetchObject (s : State) (t c obj : Nat) : (s.fetchObject t c obj).mcnt = s.mcnt := by
  unfold State.fetchObject
  split <;> rfl

theorem mcnt_queueWalk (s : State) (t who ctx va table : Nat) (write : Bool) : (queueWalk s t who ctx va table write).mcnt = s.mcnt := by
  unfold queueWalk
  dsimp only
  split <;> rfl

theorem mcnt_prefetchHit (s : State) (t ctx obj ver va : Nat) : (prefetchHit s t ctx obj ver va).mcnt = s.mcnt := by
  unfold prefetchHit
  split
  · split
    · exact mcnt_queueWalk _ _ _ _ _ _ _
    · rfl
  · rfl

theorem mcnt_prefetch (s : State) (o : Opnds) : (prefetch s o).mcnt = s.mcnt := by
  unfold prefetch
  dsimp only
  split
  · rfl
  · split
    · exact mcnt_fetchObject _ _ _ _
    · exact mcnt_prefetchHit _ _ _ _ _ _

/-! ## Port instructions (R154, R164, R165) -/

/-- ARM begins a walk of the selected map where its checks pass: the right, the object and its kind (R164). -/
theorem does_sportArm (r : ObjRec) : Does .sportArm 0xA5 (fun _ p o =>
      let m := 8 * o.tile + o.sa.toNat % 8
      let ws := mget [] (p.tile o.tile).tmaps (p.sport m).sel
      hasRights (mapCap ws) (rSP ||| (if mapWrite ws then rWR else rRD)) = true
        ∧ p.objLook o.tile (p.ctxOfTile o.tile) (capObj (mapCap ws)) = .hit r ∧ r.ver = capVer (mapCap ws) ∧ armKind p m r = true)
      (fun _ o p =>
        let m := 8 * o.tile + o.sa.toNat % 8
        beginPort ((endWalk p m).modSport m (fun q => { q with
          mapw := mget [] (p.tile o.tile).tmaps (p.sport m).sel, map := (p.sport m).sel, owner := o.slot, armed := o.seq, ord := r.ord, toks := 0 })) m) := by
  refine does_of_issue (fun _ _ => rfl) (fun op s o hc => ?_) (fun _ _ _ => (mcnt_beginPort _ _).trans (mcnt_endWalk _ _))
  obtain ⟨hr, hl, hv, hk⟩ := hc
  simp only [portIx, hl, hv, hk, Bool.not_true, Bool.false_eq_true, if_false, ne_eq, not_true_eq_false]
  exact if_neg fun hn => Bool.noConfusion (hr.symm.trans (Bool.not_eq_true' _ ▸ hn))

theorem does_sportRewind : Does .sportRewind 0xA5 (fun _ p o => (p.sport (8 * o.tile + o.sa.toNat % 8)).state ≠ 0) (fun _ o p =>
      let m := 8 * o.tile + o.sa.toNat % 8
      beginPort ((endWalk p m).modSport m (fun q => { q with armed := if q.owner = o.slot then o.seq else (p.slot q.owner).seq })) m) := by
  refine does_of (fun _ _ => rfl) (fun _ p o hc => ?_) (fun _ _ _ => (mcnt_beginPort _ _).trans (mcnt_endWalk _ _))
  exact congrArg Issued.only (if_neg hc)

/-- SPWIN writes the four masked words of an entry of the window of an idle port (R154). -/
theorem does_spwin : Does .spwin 0xAE (fun _ p o => o.sa.toNat < 2 ^ 16 ∧ o.sa.toNat / 64 % 16 ≤ 11 ∧ o.sa.toNat / 1024 % 16 ≤ 11
        ∧ (p.sport (8 * tileAt (o.sa.toNat / 2 ^ 14) (o.sa.toNat / 64 % 16) (o.sa.toNat / 1024 % 16) + o.sa.toNat / 8 % 8)).state = 0)
      (fun _ o p => p.modSport (8 * tileAt (o.sa.toNat / 2 ^ 14) (o.sa.toNat / 64 % 16) (o.sa.toNat / 1024 % 16) + o.sa.toNat / 8 % 8)
        (fun q => { q with win := mset q.win (o.sa.toNat % 8) [lane o.b 0 &&& 0x0FFF_FFFF#32, lane o.b 1 &&& 0x0FFF_FFFF#32,
          lane o.b 2 &&& 0x0FFF_FFFF#32, lane o.b 3 &&& 0xF000_0000#32] })) := by
  refine does_of (fun _ _ => rfl) (fun _ p o hc => ?_) (fun _ _ _ => rfl)
  obtain ⟨ha, hx, hy, hi⟩ := hc
  have hd : o.sa.toNat / 2 ^ 14 % 4 = o.sa.toNat / 2 ^ 14 := by omega
  have hn : ¬ (2 ^ 16 ≤ o.sa.toNat ∨ 11 < o.sa.toNat / 64 % 16 ∨ 11 < o.sa.toNat / 1024 % 16) := by omega
  dsimp only
  rw [hd, if_neg hn, if_neg (not_not_intro hi)]
  rfl

/-- Settles O23: each acts as its equation says, and none moves time. -/
theorem portInstructionsAct : Obligations.PortInstructionsAct := by
  unfold Obligations.PortInstructionsAct
  exact ⟨does_of (fun _ _ => rfl) (fun _ _ _ _ => rfl) (fun _ _ _ => rfl), does_sportArm,
    does_of (fun _ _ => rfl) (fun _ _ _ _ => rfl) (fun _ _ _ => mcnt_endWalk _ _), does_sportRewind,
    yields_one fun _ _ => rfl, does_spwin, does_of (fun _ _ => rfl) (fun _ _ _ _ => rfl) (fun _ _ _ => mcnt_prefetch _ _)⟩

end Sys2Proof.Machine
end

section
/-! # Holds: what a held slot leaves behind -/

namespace Sys2Proof.Machine

-- Elaborated one after another: these many short proofs at once ask for more threads than the check's memory holds.
set_option Elab.async false

/-! ## Pops and flushes plan, and take nothing from the agenda -/

theorem agenda_plan (s : State) (c r : Nat) (a : Act) : s.agenda ⊆ (s.plan c r a).agenda :=
  fun _ h => (mem_plan _ _ _ _ _).mpr (Or.inr h)

theorem agenda_planOnce (s : State) (c r : Nat) (i : Instr) (a b d : Nat) : s.agenda ⊆ (planOnce s c r i a b d).agenda := by
  unfold planOnce
  dsimp only
  split
  · exact fun _ h => h
  · exact fun _ h => (mem_insertItem _ _ _).mpr (Or.inr h)

theorem agenda_foldl {β : Type} (l : List β) (s : State) {f : State → β → State} (hf : ∀ a b, a.agenda ⊆ (f a b).agenda) :
    s.agenda ⊆ (l.foldl f s).agenda :=
  List.foldlRecOn (motive := fun t => s.agenda ⊆ t.agenda) l f (fun _ h => h) fun a ha b _ => List.Subset.trans ha (hf a b)

theorem agenda_sendFrom (s : State) (c : Nat) (p : Packet) (lead : Nat) : s.agenda ⊆ (s.sendFrom c p lead).agenda := by
  unfold State.sendFrom
  split
  · exact agenda_plan _ _ _ _
  · exact agenda_plan _ _ _ _

theorem agenda_sendOff (s : State) (v g : Nat) (t : OutTok) (c : Nat) : s.agenda ⊆ (sendOff s v g t c).agenda := by
  unfold sendOff
  split
  · split
    · exact agenda_plan (s.modSport _ _) _ _ _
    · exact fun _ h => h
  · split
    · exact agenda_sendFrom (s.setInq _ _) _ _ _
    · exact fun _ h => h

theorem agenda_drainCheck (s : State) (n : Nat) : s.agenda ⊆ (s.drainCheck n).agenda := by
  unfold State.drainCheck
  split
  · exact agenda_plan _ _ _ _
  · exact fun _ h => h

theorem agenda_drainOut (s : State) (v g n : Nat) : s.agenda ⊆ (drainOut s v g n).agenda := by
  induction n generalizing s with
  | zero => exact fun _ h => h
  | succ n ih =>
    unfold drainOut
    dsimp only
    split
    · exact fun _ h => h
    · split
      · exact List.Subset.trans (List.Subset.trans (agenda_sendOff (s.modElem v _) _ _ _ _) (agenda_drainCheck _ _)) (ih _)
      · exact fun _ h => h

theorem agenda_wakeProducers (s : State) (q : Nat) : s.agenda ⊆ (wakeProducers s q).agenda := by
  refine agenda_foldl _ _ fun a c => ?_
  split
  · split
    · exact agenda_drainOut _ _ _ _
    · exact fun _ h => h
  · exact fun _ h => h

theorem agenda_kickRead (s : State) (m n : Nat) : s.agenda ⊆ (kickRead s m n).agenda := by
  induction n generalizing s with
  | zero => exact fun _ h => h
  | succ n ih =>
    unfold kickRead
    dsimp only
    split
    · exact fun _ h => h
    · split
      · exact agenda_planOnce _ _ _ _ _ _ _
      · split
        · exact List.Subset.trans (agenda_plan (s.setSport m _) _ _ _) (ih _)
        · exact fun _ h => h

theorem agenda_pop (s : State) (v port phase : Nat) : s.agenda ⊆ (s.pop v port phase).agenda := by
  unfold State.pop
  dsimp only
  split
  · split
    · exact agenda_wakeProducers (s.setInq _ _) _
    · exact fun _ h => h
  · split
    · exact fun _ h => h
    · split
      · split
        · exact fun _ h => h
        · exact agenda_plan (s.modTile _ _) _ _ _
      · split
        · exact agenda_kickRead (s.modSport _ _) _ _
        · exact fun _ h => h

theorem agenda_afterPops (s : State) (op : Op) : s.agenda ⊆ (afterPops s op).agenda :=
  agenda_foldl _ _ fun _ _ => agenda_pop _ _ _ _

theorem agenda_flushMerged (s : State) (n : Nat) : s.agenda ⊆ (flushMerged s n).agenda := by
  refine agenda_foldl _ _ fun a k => ?_
  dsimp only
  split
  · exact agenda_plan _ _ _ _
  · exact fun _ h => h

theorem queuesOnly_flushMerged (s : State) (n : Nat) : QueuesOnly s (flushMerged s n) := by
  refine QueuesOnly.foldl _ (fun a k => ?_) _ (QueuesOnly.refl s)
  dsimp only
  split
  · exact (QueuesOnly.refl a).plan _ _ _
  · exact QueuesOnly.refl a

/-! ## A turn's delay of a coupled group (R18) -/

/-- A delay moves items and times, and no register, no memory and no tile. -/
theorem delay_kept (s : State) (n : Nat) : RegistersKept s (s.delay n) ∧ (s.delay n).tiles = s.tiles := by
  unfold State.delay
  split
  · refine ⟨⟨rfl, fun v => ?_, rfl⟩, rfl⟩
    simp only [delayGroup, State.modElem_eq, State.setElem_elem]
    split
    · next h => rw [h]; exact ⟨rfl, rfl⟩
    · exact ⟨rfl, rfl⟩
  · exact ⟨⟨rfl, fun _ => ⟨rfl, rfl⟩, rfl⟩, rfl⟩

theorem mem_foldl_insertItem (x : Item) (new l : List Item) : x ∈ new.foldl (fun a it => insertItem it a) l ↔ x ∈ new ∨ x ∈ l := by
  induction new generalizing l with
  | nil => simp
  | cons y r ih => rw [List.foldl_cons, ih, mem_insertItem, List.mem_cons]; tauto

/-- In a coupled group every item of the group from now on moves by a turn. -/
theorem delay_moves {s : State} {n : Nat} (h : s.inGroup n = true) {it : Item} (hi : it ∈ s.agenda)
    (hm : movesWith (coupledWith s n) s.mcnt it = true) :
    { it with time := it.time + 16 * (s.elem (veOfSlot n)).wheel } ∈ (s.delay n).agenda := by
  rw [State.delay, if_pos h]
  refine (mem_foldl_insertItem _ _ _).mpr (Or.inl (List.mem_map.mpr ⟨it, hi, ?_⟩))
  rw [if_pos hm]

/-! ## A slot that is held (R85, R150, R153) -/

/-- What a hold leaves: the slot stands since its first held cycle, looks again on its next turn, its coupled group has moved by a turn
except at a safe point, and memory, registers, tiles and the other slots are as they were. -/
structure Holds (s t : State) (n : Nat) : Prop where
  slot : t.slot n = { s.slot n with heldSince := some ((s.slot n).heldSince.getD s.mcnt) }
  slots : ∀ m, m ≠ n → t.slot m = s.slot m
  look : ({ time := 16 * s.turnOf n (s.mcnt + 1) + rkHold, act := .ev .wKindHoldRelease (Arg.of n 0 0 0 0) } : Item) ∈ t.agenda
  moves : s.inGroup n = true → atSafePoint s n = false → ∀ it ∈ s.agenda, movesWith (coupledWith s n) s.mcnt it = true →
    { it with time := it.time + 16 * (s.elem (veOfSlot n)).wheel } ∈ t.agenda
  regs : ∀ v, (t.elem v).pv = (s.elem v).pv ∧ (t.elem v).ps = (s.elem v).ps
  mem : t.mem = s.mem
  tiles : t.tiles = s.tiles

/-- The slot's mark, and its group's delay where it has one. -/
def heldMark (s : State) (n : Nat) : State :=
  let s1 := s.modSlot n (fun y => { y with heldSince := some (y.heldSince.getD s.mcnt) })
  if atSafePoint s n then s1 else s1.delay n

theorem heldMark_kept (s : State) (n : Nat) :
    (heldMark s n).slots = mset s.slots n { s.slot n with heldSince := some ((s.slot n).heldSince.getD s.mcnt) }
      ∧ (∀ v, ((heldMark s n).elem v).pv = (s.elem v).pv ∧ ((heldMark s n).elem v).ps = (s.elem v).ps)
      ∧ (heldMark s n).mem = s.mem ∧ (heldMark s n).tiles = s.tiles := by
  unfold heldMark
  dsimp only
  split
  · exact ⟨rfl, fun _ => ⟨rfl, rfl⟩, rfl, rfl⟩
  · obtain ⟨h, ht⟩ := delay_kept (s.modSlot n (fun y => { y with heldSince := some (y.heldSince.getD s.mcnt) })) n
    exact ⟨h.slots, h.elem, h.mem, ht⟩

/-- On top of the mark a hold plans the next look, and HOLD_OVERRUN where the hold is limited. -/
theorem holdSlot_plans (s : State) (n : Nat) :
    Plans ((heldMark s n).planN (s.turnOf n (s.mcnt + 1)) rkHold .wKindHoldRelease n 0) (s.holdSlot n) := by
  unfold State.holdSlot
  dsimp only
  split
  · split
    · exact (Plans.refl _).plan _ _ _
    · exact Plans.refl _
  · exact Plans.refl _

theorem heldMark_moves {s : State} {n : Nat} (h : s.inGroup n = true) (hs : atSafePoint s n = false) {it : Item} (hi : it ∈ s.agenda)
    (hm : movesWith (coupledWith s n) s.mcnt it = true) :
    { it with time := it.time + 16 * (s.elem (veOfSlot n)).wheel } ∈ (heldMark s n).agenda := by
  simp only [heldMark, hs, Bool.false_eq_true, if_false]
  exact delay_moves (s := s.modSlot n _) h hi hm

theorem holds_holdSlot (s : State) (n : Nat) : Holds s (s.holdSlot n) n := by
  have hp := holdSlot_plans s n
  obtain ⟨hslots, hregs, hmem, htiles⟩ := heldMark_kept s n
  have hslot (m : Nat) : (s.holdSlot n).slot m
      = if m = n then { s.slot n with heldSince := some ((s.slot n).heldSince.getD s.mcnt) } else s.slot m := by
    rw [State.slot, hp.slots]
    exact (congrArg (mget Slot.reset · m) hslots).trans (mget_mset _ _ _ _ _)
  refine ⟨(hslot n).trans (if_pos rfl), fun m hm => (hslot m).trans (if_neg hm), hp.agenda ((mem_plan _ _ _ _ _).mpr (.inl rfl)),
    fun hg hs it hi hm => hp.agenda ((mem_plan _ _ _ _ _).mpr (.inr (heldMark_moves hg hs hi hm))), fun v => ?_,
    hp.mem.trans hmem, (hp.keeps State.tiles fun _ => rfl).trans htiles⟩
  have he : (s.holdSlot n).elem v = (heldMark s n).elem v := hp.keeps (State.elem · v) fun _ => rfl
  rw [he]
  exact hregs v

/-! ## What a hold reads stays while tokens move -/

/-- In `u` slot `n` stands in its group, at its turns and at its instruction as in `s`; no item has gone, and registers, memory and the
other slots are the same. -/
structure StandsAs (s u : State) (n : Nat) : Prop where
  mcnt : u.mcnt = s.mcnt
  turn : ∀ c, u.turnOf n c = s.turnOf n c
  group : u.inGroup n = s.inGroup n
  coupled : coupledWith u n = coupledWith s n
  safe : atSafePoint u n = atSafePoint s n
  wheel : (u.elem (veOfSlot n)).wheel = (s.elem (veOfSlot n)).wheel
  agenda : s.agenda ⊆ u.agenda
  slots : ∀ m, m ≠ n → u.slot m = s.slot m
  regs : ∀ v, (u.elem v).pv = (s.elem v).pv ∧ (u.elem v).ps = (s.elem v).ps
  mem : u.mem = s.mem

theorem QueuesOnly.levelOf {s t : State} (h : QueuesOnly s t) (k : Nat) : t.levelOf k = s.levelOf k := by
  have hc : (t.tile k).ctx = (s.tile k).ctx := (congrArg Tile.ctx (h.tile k) :)
  simp only [State.levelOf, State.ctxOfTile, State.ctx, hc, h.ctxs]
  rfl

theorem QueuesOnly.coupledWith {s t : State} (h : QueuesOnly s t) (n : Nat) : coupledWith t n = coupledWith s n := by
  have hc : (t.elem (veOfSlot n)).coupled = (s.elem (veOfSlot n)).coupled := (congrArg Elem.coupled (h.elem _) :)
  simp only [Machine.coupledWith, hc]

theorem QueuesOnly.atSafePoint {s t : State} (h : QueuesOnly s t) (n : Nat) : atSafePoint t n = atSafePoint s n := by
  have hm : (t.elem (veOfSlot n)).imem = (s.elem (veOfSlot n)).imem := (congrArg Elem.imem (h.elem _) :)
  have hb : (t.elem (veOfSlot n)).bind = (s.elem (veOfSlot n)).bind := (congrArg Elem.bind (h.elem _) :)
  simp only [Machine.atSafePoint, fetchAt, State.isSeq, hm, hb, h.slot]
  rfl

/-- Tokens that move change nothing that a hold reads. -/
theorem QueuesOnly.standsAs {s t : State} (h : QueuesOnly s t) (ha : s.agenda ⊆ t.agenda) (n : Nat) : StandsAs s t n where
  mcnt := h.mcnt
  turn := (h.quiet n).turnOf n
  group := by simp only [State.inGroup, h.coupledWith, h.levelOf]
  coupled := h.coupledWith n
  safe := h.atSafePoint n
  wheel := (h.quiet n).wheel _
  agenda := ha
  slots := fun m _ => h.slot m
  regs := h.registersKept.elem
  mem := h.mem

theorem StandsAs.trans {s t u : State} {n : Nat} (h : StandsAs s t n) (g : StandsAs t u n) : StandsAs s u n where
  mcnt := g.mcnt.trans h.mcnt
  turn := fun c => (g.turn c).trans (h.turn c)
  group := g.group.trans h.group
  coupled := g.coupled.trans h.coupled
  safe := g.safe.trans h.safe
  wheel := g.wheel.trans h.wheel
  agenda := List.Subset.trans h.agenda g.agenda
  slots := fun m hm => (g.slots m hm).trans (h.slots m hm)
  regs := fun v => ⟨(g.regs v).1.trans (h.regs v).1, (g.regs v).2.trans (h.regs v).2⟩
  mem := g.mem.trans h.mem

/-- The pops of an instruction leave its slot standing as before. -/
theorem standsAs_afterPops (s : State) (op : Op) : StandsAs s (afterPops s op) s.cur :=
  (queuesOnly_afterPops s op).standsAs (agenda_afterPops s op) s.cur

end Sys2Proof.Machine
end

section
/-! # Safe points and waits -/

namespace Sys2Proof.Machine

-- Elaborated one after another: these many short proofs at once ask for more threads than the check's memory holds.
set_option Elab.async false

/-! ## Safe points (R18, R109) -/

/-- A request that is due reads the slot and the time, which no pop moves. -/
theorem QueuesOnly.preemptDue {s t : State} (h : QueuesOnly s t) (n : Nat) : preemptDue t n = preemptDue s n := by
  simp only [Machine.preemptDue, h.slot, h.mcnt]

/-- At level T, or with no request that is due, a safe point has nothing to do. -/
theorem safePoint_only {o : Opnds} {s : State} (h : o.level = .t ∨ preemptDue s o.slot = false) : safePoint o s = Issued.only s := by
  refine if_neg ?_
  rintro ⟨hl, hp⟩
  rcases h with ht | hn
  · exact hl ht
  · rw [hn] at hp; cases hp

/-- Where a request is due and the group stands at safe points, the slot is saved. -/
theorem safePoint_saves {o : Opnds} {s : State} (hl : o.level ≠ .t) (hp : preemptDue s o.slot = true) (hg : groupSafe s o.slot = true) :
    safePoint o s = { Issued.only (saveSlot s o.slot (keepAt (s.slot o.slot) o.maj)) with stop := true } := by
  simp only [safePoint, if_pos (show o.level ≠ .t ∧ preemptDue s o.slot = true from ⟨hl, hp⟩), hg, if_true]

/-- Where a request is due and the group does not stand at safe points yet, the slot is held. -/
theorem safePoint_holds {o : Opnds} {s : State} (hl : o.level ≠ .t) (hp : preemptDue s o.slot = true) (hg : groupSafe s o.slot = false) :
    safePoint o s = Issued.ends s .hold := by
  simp only [safePoint, if_pos (show o.level ≠ .t ∧ preemptDue s o.slot = true from ⟨hl, hp⟩), hg, Bool.false_eq_true, if_false]

theorem on_of_mask_eq_zero {o : Opnds} (h : o.mask = 0#16) : o.on = false := by
  simp only [Opnds.on, anyOn, h]; rfl

theorem on_of_mask_ne_zero {o : Opnds} (h : o.mask ≠ 0#16) : o.on = true := by
  simpa [Opnds.on, anyOn] using h

theorem safePoint_passes {s : State} {maj : Nat} {op : Op} (h : Ready s maj op)
    (hp : s.levelOf (tileOfSlot s.cur) = .t ∨ (opndsOf s maj op).mask = 0#16 ∨ preemptDue s s.cur = false) :
    Passes s (actVE maj op safePoint s) op none := by
  refine passes_of h (jump := none) ?_
  split
  · next hon =>
    refine safePoint_only ?_
    rcases hp with ht | hm | hd
    · exact .inl ht
    · rw [on_of_mask_eq_zero hm] at hon; cases hon
    · exact .inr (((queuesOnly_afterPops s op).preemptDue s.cur).trans hd)
  · rfl

/-- The slot is saved past the instruction, and its results stay in flight (R109). -/
theorem safePoint_saved {s : State} {maj : Nat} {op : Op} (h : Ready s maj op) (hl : s.levelOf (tileOfSlot s.cur) ≠ .t)
    (hm : (opndsOf s maj op).mask ≠ 0#16) (hp : preemptDue s s.cur = true) (hg : groupSafe (afterPops s op) s.cur = true) :
    let t := actVE maj op safePoint s
    t.slot s.cur = advance { s.slot s.cur with st := .saved, keep := keepAt (s.slot s.cur) maj } op none
      ∧ (t.elem (veOfSlot s.cur)).flight = (s.elem (veOfSlot s.cur)).flight ∧ Quiet s.cur s t := by
  intro t
  have hq := queuesOnly_afterPops s op
  have ht : t = finish (opndsOf s maj op) { Issued.only (saveSlot (afterPops s op) s.cur (keepAt (s.slot s.cur) maj)) with stop := true } := by
    rw [← hq.slot s.cur]
    have hb := safePoint_saves (o := opndsOf s maj op) hl ((hq.preemptDue s.cur).trans hp) hg
    simp only [t, actVE, issueVE_ready h, on_of_mask_ne_zero hm, if_true, hb]
    rfl
  have hsave : Quiet s.cur s (saveSlot (afterPops s op) s.cur (keepAt (s.slot s.cur) maj)) :=
    ((hq.quiet s.cur).setSlot _).plan _ _ _
  have hfin := finish_quiet (opndsOf s maj op)
    { Issued.only (saveSlot (afterPops s op) s.cur (keepAt (s.slot s.cur) maj)) with stop := true }
  rw [ht]
  refine ⟨(finish_slot _ _).trans ?_, (finish_flight _ _).trans ?_, hsave.trans hfin⟩
  · simp [Issued.only, saveSlot, opndsOf, State.operands, hq.slot]
  · simp [Issued.only, saveSlot, opndsOf, State.operands, hq.flight]

/-! ## Waits that are over -/

/-- What acts only when a lane is on and then only where it is held passes else. -/
theorem wait_passes {s : State} {maj : Nat} {op : Op} (h : Ready s maj op) {f : Opnds → State → Issued}
    (hf : (opndsOf s maj op).on = true → f (opndsOf s maj op) (afterPops s op) = Issued.only (afterPops s op)) :
    Passes s (actVE maj op f s) op none := by
  refine passes_of h (jump := none) ?_
  split
  · next hon => exact hf hon
  · rfl

/-- A wait whose condition is `hold` passes with every lane off and where the condition does not hold. -/
theorem wait_passes_unless {s : State} {maj : Nat} {op : Op} (h : Ready s maj op) {hold : State → Opnds → Bool} {v : Opnds → State → Issued}
    (hn : (opndsOf s maj op).on = false ∨ ¬ hold (afterPops s op) (opndsOf s maj op) = true) :
    Passes s (actVE maj op (fun o p => if hold p o then v o p else Issued.only p) s) op none := by
  refine wait_passes h fun hon => if_neg ?_
  rcases hn with hoff | hn
  · rw [hoff] at hon; cases hon
  · exact hn

/-- BAR.ARVW passes once it has arrived, its phase has changed and what that phase releases has been performed (R167, R252). -/
theorem barArvw_passes {s : State} {op : Op} (h : Ready s 0xC0 op)
    (hn : (opndsOf s 0xC0 op).on = false ∨ ¬ ∀ ph, ((afterPops s op).slot (opndsOf s 0xC0 op).slot).arvw = some ph →
      ((afterPops s op).bar (opndsOf s 0xC0 op).tile ((opndsOf s 0xC0 op).sa.toNat % 32)).seen (afterPops s op).mcnt = ph
        ∨ barOwes (afterPops s op) (opndsOf s 0xC0 op) = true) :
    ∃ t, exec (.barArvw op) s = .next t ∧ Passes s t op none := by
  refine ⟨_, rfl, wait_passes h fun hon => ?_⟩
  rcases hn with hoff | hn
  · rw [hoff] at hon; cases hon
  · simp only [not_forall, not_or] at hn
    obtain ⟨ph, ha, hph, howe⟩ := hn
    have hheld : barArvwHeld (afterPops s op) (opndsOf s 0xC0 op) = false := by
      simp only [barArvwHeld, ha, Bool.eq_false_iff.mpr howe, Bool.or_false, beq_eq_false_iff_ne]
      exact hph
    simp only [ha, Option.isNone_some, hheld, Bool.false_eq_true, if_false]

/-- Settles O11: SAFE and YIELD by what `safePoint` does, the waits by the condition that holds each. -/
theorem safePointsAndWaits : Obligations.SafePointsAndWaits := by
  unfold Obligations.SafePointsAndWaits
  refine ⟨fun s op maj i hi h => ⟨fun hp => ?_, fun hl hm hp hg => ?_⟩, fun s op => ?_⟩
  · rcases hi with ⟨rfl, rfl⟩ | ⟨rfl, rfl⟩
    · exact ⟨_, rfl, safePoint_passes h hp⟩
    · exact ⟨_, rfl, safePoint_passes h hp⟩
  · rcases hi with ⟨rfl, rfl⟩ | ⟨rfl, rfl⟩
    · exact ⟨_, rfl, safePoint_saved h hl hm hp hg⟩
    · exact ⟨_, rfl, safePoint_saved h hl hm hp hg⟩
  · refine ⟨fun h hn => ⟨_, rfl, wait_passes_unless (hold := waitTickHeld) h hn⟩,
      fun h hn => ⟨_, rfl, wait_passes_unless (hold := waitMcntHeld) h hn⟩,
      fun h hn => ⟨_, rfl, wait_passes_unless (hold := barWaitHeld) h (hn.imp_right fun hn hb => hn ?_)⟩,
      barArvw_passes, fun h hn => ⟨_, rfl, wait_passes_unless (hold := ctrWaitHeld) h (hn.imp_right fun hn hb => hn ?_)⟩,
      fun h hn => ⟨_, rfl, wait_passes_unless (hold := fun p o => (p.records o.tile).isEmpty) h (hn.imp_right fun hn hb => hn ?_)⟩,
      fun h hn => ⟨_, rfl, wait_passes_unless (hold := fun p o => fenceHeld p o.slot) h hn⟩,
      fun h hn => ⟨_, rfl, wait_passes_unless (hold := cpybHeld) h hn⟩⟩
    · simpa only [barWaitHeld, waitPhase, barIx, Bool.or_eq_true, beq_iff_eq] using hb
    · simpa only [ctrWaitHeld, waitPhase, ctrIx, beq_iff_eq] using hb
    · exact List.isEmpty_iff.mp hb

end Sys2Proof.Machine
end

section
/-! # Waits that hold -/

namespace Sys2Proof.Machine

-- Elaborated one after another: these many short proofs at once ask for more threads than the check's memory holds.
set_option Elab.async false

/-- What O12 says of a slot that is held: `x` is the slot as the instruction leaves it before its mark. -/
def Stays (s t : State) (x : Slot) : Prop :=
  t.slot s.cur = { x with heldSince := some (x.heldSince.getD s.mcnt) }
    ∧ ({ time := 16 * s.turnOf s.cur (s.mcnt + 1) + rkHold, act := .ev .wKindHoldRelease (Arg.of s.cur 0 0 0 0) } : Item) ∈ t.agenda
    ∧ (s.inGroup s.cur = true → atSafePoint s s.cur = false → ∀ it ∈ s.agenda, movesWith (coupledWith s s.cur) s.mcnt it = true →
        { it with time := it.time + 16 * (s.elem (veOfSlot s.cur)).wheel } ∈ t.agenda)
    ∧ t.mem = s.mem ∧ (∀ m, m ≠ s.cur → t.slot m = s.slot m) ∧ ∀ v, (t.elem v).pv = (s.elem v).pv ∧ (t.elem v).ps = (s.elem v).ps

/-- A hold in a state in which the slot still stands as in `s` is what O12 says. -/
theorem StandsAs.stays {s u : State} (h : StandsAs s u s.cur) : Stays s (u.holdSlot s.cur) (u.slot s.cur) := by
  have hh := holds_holdSlot u s.cur
  refine ⟨?_, ?_, fun hg hs it hi hm => ?_, hh.mem.trans h.mem, fun m hm => (hh.slots m hm).trans (h.slots m hm), fun v => ?_⟩
  · rw [hh.slot, h.mcnt]
  · rw [← h.turn, ← h.mcnt]
    exact hh.look
  · rw [← h.wheel]
    refine hh.moves (h.group.trans hg) (h.safe.trans hs) it (h.agenda hi) ?_
    rw [h.coupled, h.mcnt]
    exact hm
  · exact ⟨(hh.regs v).1.trans (h.regs v).1, (hh.regs v).2.trans (h.regs v).2⟩

/-- With a lane on, an instruction that ends held leaves its slot held in the state that its body leaves. -/
theorem actVE_holds {s : State} {maj : Nat} {op : Op} (h : Ready s maj op) (ho : (opndsOf s maj op).on = true)
    {f : Opnds → State → Issued} {u : State} (hf : f (opndsOf s maj op) (afterPops s op) = Issued.ends u .hold) :
    actVE maj op f s = u.holdSlot s.cur := by
  simp only [actVE, issueVE_ready h, ho, if_true, hf]
  rfl

/-- Where only tokens have moved, the hold is O12's, and no barrier has changed. -/
theorem wait_holds {s : State} {maj : Nat} {op : Op} (h : Ready s maj op) (ho : (opndsOf s maj op).on = true)
    {f : Opnds → State → Issued} {u : State} (hf : f (opndsOf s maj op) (afterPops s op) = Issued.ends u .hold)
    (hu : QueuesOnly (afterPops s op) u) (ha : (afterPops s op).agenda ⊆ u.agenda) :
    Stays s (actVE maj op f s) (s.slot s.cur) ∧ ∀ t b, (actVE maj op f s).bar t b = s.bar t b := by
  have hq := (queuesOnly_afterPops s op).trans hu
  have hst := hq.standsAs (List.Subset.trans (agenda_afterPops s op) ha) s.cur
  rw [actVE_holds h ho hf, ← hq.slot s.cur]
  refine ⟨hst.stays, fun t b => ?_⟩
  have hb : (u.tile t).bars = (s.tile t).bars := (congrArg Tile.bars (hq.tile t) :)
  simp only [State.bar, State.tile, (holds_holdSlot u s.cur).tiles]
  exact congrArg (mget Barrier.reset · b) hb

/-! ## BAR.ARVW arrives first (R167) -/

/-- An arrival changes the barriers of one tile. -/
theorem arriveSlot_parts (p : State) (o : Opnds) : (∃ l, arriveSlot p o = { p with tiles := l })
    ∧ ∀ k, ((arriveSlot p o).tile k).qoff = (p.tile k).qoff ∧ ((arriveSlot p o).tile k).ctx = (p.tile k).ctx := by
  have hone : ∀ (q : State) (f : Tile → Tile), (∀ x, (f x).qoff = x.qoff ∧ (f x).ctx = x.ctx) →
      ∀ k, ((q.modTile o.tile f).tile k).qoff = (q.tile k).qoff ∧ ((q.modTile o.tile f).tile k).ctx = (q.tile k).ctx := by
    intro q f hf k
    rw [State.modTile_eq, State.setTile_tile]
    split
    · next hk => rw [hk]; exact hf _
    · exact ⟨rfl, rfl⟩
  have h1 := hone p (fun x => x.arrive p.mcnt (barIx o)) fun _ => ⟨rfl, rfl⟩
  unfold arriveSlot
  dsimp only
  split
  · exact ⟨⟨_, rfl⟩, h1⟩
  · refine ⟨⟨_, rfl⟩, fun k => ?_⟩
    have h2 := hone (p.arrive o.tile (barIx o)) (fun x => { x with bars := mmod Barrier.reset x.bars (barIx o) (fun r => { r with
      owe := ((p.bar o.tile (barIx o)).owe ++ [(o.slot, o.seq)]).filter (fun x => releasePending p x.1 x.2) }) }) (fun _ => ⟨rfl, rfl⟩) k
    exact ⟨h2.1.trans (h1 k).1, h2.2.trans (h1 k).2⟩

/-- A mark on slot `n` that leaves its position and its predicates leaves it standing as before. -/
theorem standsAs_arrival (p : State) (o : Opnds) (ph : Bool) (n : Nat) :
    StandsAs p ((arriveSlot p o).modSlot n (fun x => { x with arvw := some ph })) n := by
  obtain ⟨⟨l, hl⟩, hk⟩ := arriveSlot_parts p o
  have hqoff := (hk (tileOfSlot n)).1
  have hctx := (hk (tileOfSlot n)).2
  rw [hl] at hqoff hctx ⊢
  refine ⟨rfl, fun c => ?_, ?_, rfl, ?_, rfl, List.Subset.refl _, fun m hm => ?_, fun _ => ⟨rfl, rfl⟩, rfl⟩
  · exact congrArg (fun off => turnFrom (p.elem (veOfSlot n)).wheel (n % 8) off c) hqoff
  · have hlevel : State.levelOf { p with tiles := l } (tileOfSlot n) = p.levelOf (tileOfSlot n) := by
      simp only [State.levelOf, State.ctxOfTile, hctx]
      rfl
    exact congrArg (fun v => decide (1 < (coupledWith p n).length) && v != Level.t) hlevel
  · simp only [atSafePoint, fetchAt, State.isSeq, State.modSlot_eq, State.setSlot_slot, State.setSlot_elem, if_true]
    rfl
  · simp only [State.modSlot_eq, State.setSlot_slot, if_neg hm]
    rfl

theorem barArvw_arrives {s : State} {op : Op} (h : Ready s 0xC0 op) (ho : (opndsOf s 0xC0 op).on = true) (ha : (s.slot s.cur).arvw = none) :
    ∃ t, exec (.barArvw op) s = .next t
      ∧ Stays s t { s.slot s.cur with arvw := some (s.bar (opndsOf s 0xC0 op).tile ((opndsOf s 0xC0 op).sa.toNat % 32)).phase }
      ∧ ∀ u b, t.bar u b = (arriveSlot (afterPops s op) (opndsOf s 0xC0 op)).bar u b := by
  have hq := queuesOnly_afterPops s op
  let p := afterPops s op
  let o := opndsOf s 0xC0 op
  have hbars (t : Nat) : (p.tile t).bars = (s.tile t).bars := (congrArg Tile.bars (hq.tile t) :)
  have hbar (t b : Nat) : p.bar t b = s.bar t b := congrArg (mget Barrier.reset · b) (hbars t)
  let u := (arriveSlot p o).modSlot s.cur (fun x => { x with arvw := some (p.bar o.tile (barIx o)).phase })
  have hst : StandsAs s u s.cur := (standsAs_afterPops s op).trans (standsAs_arrival p o _ s.cur)
  have hu : u.slot s.cur = { s.slot s.cur with arvw := some (s.bar o.tile (o.sa.toNat % 32)).phase } := by
    have hs : (arriveSlot p o).slot s.cur = s.slot s.cur :=
      (congrArg (mget Slot.reset · s.cur) (arriveSlot_setTile p o).1).trans (hq.slot s.cur)
    simp only [u, State.modSlot_eq, State.setSlot_slot, if_true, hs, hbar]
    rfl
  have hex : actVE 0xC0 op (fun o s1 =>
      if (s1.slot o.slot).arvw.isNone then
        Issued.ends ((arriveSlot s1 o).modSlot o.slot (fun x => { x with arvw := some (s1.bar o.tile (barIx o)).phase })) .hold
      else if barArvwHeld s1 o then Issued.ends s1 .hold
      else Issued.only s1) s = u.holdSlot s.cur := by
    refine actVE_holds h ho (if_pos ?_)
    rw [hq.slot]
    exact congrArg Option.isNone ha
  refine ⟨_, rfl, ?_, fun t b => ?_⟩
  · rw [← hu]
    exact hex ▸ hst.stays
  · refine (congrArg (State.bar · t b) hex).trans ?_
    simp only [State.bar, State.tile, (holds_holdSlot u s.cur).tiles]
    rfl

/-- The instructions that wait, each with the condition that holds it. -/
theorem held_holds {s : State} {op : Op} {i : Op → Instr} {maj : Nat} {f : Opnds → State → Issued}
    (hi : exec (i op) s = .next (actVE maj op f s)) (h : Ready s maj op) (ho : (opndsOf s maj op).on = true)
    (hf : f (opndsOf s maj op) (afterPops s op) = Issued.ends (afterPops s op) .hold) :
    ∃ t, exec (i op) s = .next t ∧ Stays s t (s.slot s.cur) ∧ ∀ u b, t.bar u b = s.bar u b :=
  ⟨_, hi, wait_holds h ho hf (QueuesOnly.refl _) (List.Subset.refl _)⟩

/-- A BAR.ARVW that has arrived is held as its phase says (R167, R252). -/
theorem barArvw_holds {s : State} {op : Op} (h : Ready s 0xC0 op) (ho : (opndsOf s 0xC0 op).on = true)
    (hheld : ((s.slot s.cur).arvw.isSome && barArvwHeld (afterPops s op) (opndsOf s 0xC0 op)) = true) :
    ∃ t, exec (.barArvw op) s = .next t ∧ Stays s t (s.slot s.cur) ∧ ∀ u b, t.bar u b = s.bar u b := by
  obtain ⟨hsome, hh⟩ := Bool.and_eq_true_iff.mp hheld
  refine held_holds rfl h ho ((if_neg ?_).trans (if_pos hh))
  rw [(queuesOnly_afterPops s op).slot]
  change ¬ (s.slot s.cur).arvw.isNone = true
  rw [Option.isNone_eq_false_iff.mpr hsome]
  exact Bool.false_ne_true

/-- A safe point is held where a request is due and the group does not stand at safe points. -/
theorem safePoint_held {o : Opnds} {p : State} (h : (o.level != .t && preemptDue p o.slot && !groupSafe p o.slot) = true) :
    safePoint o p = Issued.ends p .hold := by
  simp only [Bool.and_eq_true, bne_iff_ne, ne_eq, Bool.not_eq_true'] at h
  obtain ⟨⟨hl, hp⟩, hg⟩ := h
  exact safePoint_holds hl hp hg

/-- Settles O12: each is the hold of the state that its pops, and BAR.ARVW's arrival, leave. -/
theorem waitsHold : Obligations.WaitsHold := by
  unfold Obligations.WaitsHold
  intro s op n p stays
  refine ⟨?_, ?_⟩
  · intro h o k ho ha
    have hq := queuesOnly_afterPops s op
    have hbars (t : Nat) : (p.tile t).bars = (s.tile t).bars := (congrArg Tile.bars (hq.tile t) :)
    have hbar (t b : Nat) : p.bar t b = s.bar t b := congrArg (mget Barrier.reset · b) (hbars t)
    obtain ⟨t, ht, hst, hb⟩ := barArvw_arrives h ho ha
    refine ⟨t, ht, hst, ?_, fun u b hub => ?_⟩
    · rw [hb, bar_arriveSlot, if_pos ⟨rfl, rfl⟩, ← hbar, ← hq.mcnt]
      rfl
    · rw [hb, bar_arriveSlot, if_neg (fun ⟨hu, hb⟩ => hub.elim (· hu) (· hb))]
      exact hbar u b
  · intro i maj held o hcase h ho hheld
    subst hheld
    rcases hcase with ⟨rfl, rfl, hh⟩ | ⟨rfl, rfl, hh⟩ | ⟨rfl, rfl, hh⟩ | ⟨rfl, rfl, hh⟩ | ⟨rfl, rfl, hh⟩ | ⟨rfl, rfl, hh⟩ | ⟨rfl, rfl, hh⟩
      | ⟨rfl, rfl, hh⟩ | ⟨rfl, rfl, hh⟩ | ⟨rfl, rfl, hh⟩
    · exact held_holds rfl h ho (if_pos hh.symm)
    · exact held_holds rfl h ho (if_pos hh.symm)
    · exact held_holds rfl h ho (if_pos hh.symm)
    · exact barArvw_holds h ho hh.symm
    · exact held_holds rfl h ho (if_pos hh.symm)
    · exact held_holds rfl h ho (if_pos hh.symm)
    · exact ⟨_, rfl, wait_holds h ho (if_pos hh.symm) (queuesOnly_flushMerged _ _) (agenda_flushMerged _ _)⟩
    · exact held_holds rfl h ho (if_pos hh.symm)
    · exact held_holds rfl h ho (safePoint_held hh.symm)
    · exact held_holds rfl h ho (safePoint_held hh.symm)

end Sys2Proof.Machine
end

section
/-! # Stops: a slot that freezes, resumes or is discarded -/

namespace Sys2Proof.Machine

-- Elaborated one after another: these many short proofs at once ask for more threads than the check's memory holds.
set_option Elab.async false

/-! ## Records (R323) -/

/-- A record changes its die and may plan its delivery. -/
theorem raise_plans (s : State) (d cause : Nat) (m : Master) (t detail : Nat) :
    ∃ x : Die, Plans (s.setDie d x) (s.raise d cause m t detail) := by
  obtain ⟨x, -, h⟩ := raise_records s d cause m t detail
  exact ⟨x, h⟩

/-- A record leaves slots, elements and memory, and plans only its delivery. -/
theorem raise_keeps (s : State) (d cause : Nat) (m : Master) (t detail : Nat) : let u := s.raise d cause m t detail
    u.slots = s.slots ∧ u.elems = s.elems ∧ u.tiles = s.tiles ∧ u.mem = s.mem ∧ u.mcnt = s.mcnt ∧ u.cur = s.cur := by
  obtain ⟨x, h⟩ := raise_plans s d cause m t detail
  exact ⟨h.slots, h.keeps State.elems fun _ => rfl, h.keeps State.tiles fun _ => rfl, h.mem, h.keeps State.mcnt fun _ => rfl,
    h.keeps State.cur fun _ => rfl⟩

theorem length_insertRec (r : FaultRec) (l : List FaultRec) : (insertRec r l).length = l.length + 1 := by
  induction l generalizing r with
  | nil => rfl
  | cons x l ih =>
    unfold insertRec
    split
    · simp [ih]
    · simp [ih]

/-- A record takes the next number of its die, and enters the FIFO or is counted as lost (R323). -/
theorem raise_die (s : State) (d cause : Nat) (m : Master) (c detail : Nat) : let t := s.raise d cause m c detail
    (t.die d).seq = ((s.die d).seq + 1) % 4096
      ∧ ((s.die d).fifo.length < 512 → (t.die d).fifo.length = (s.die d).fifo.length + 1 ∧ (t.die d).lost = (s.die d).lost)
      ∧ (512 ≤ (s.die d).fifo.length → (t.die d).fifo = (s.die d).fifo ∧ (t.die d).lost = (s.die d).lost + 1) := by
  dsimp only
  unfold State.raise State.raiseFor
  dsimp only
  split
  · next h =>
    split
    · simp [length_insertRec, Nat.not_le.mpr h]
    · simp [length_insertRec, Nat.not_le.mpr h]
  · next h => simp [h]

/-! ## The freeze (R31) -/

/-- A hold of a slot's group plans at most a look. -/
theorem holdGroup_plans (s : State) (n t : Nat) : Plans s (s.holdGroup n t)
    ∧ ∀ it ∈ (s.holdGroup n t).agenda, it ∈ s.agenda ∨ it.act = .ev .wKindHoldRelease (Arg.of n 0 0 0 0) := by
  unfold State.holdGroup
  split
  · refine ⟨(Plans.refl s).plan _ _ _, fun it hit => ?_⟩
    rcases (mem_plan _ _ _ _ _).mp hit with rfl | h
    · exact .inr rfl
    · exact .inl h
  · exact ⟨.refl s, fun _ h => .inl h⟩

/-- What a freeze leaves of a slot and its element: the results that complete at the freeze cycle or later stand in the flight record with
what remains of their latency, and no turn of the slot is planned. -/
structure Freezes (s t : State) (n c : Nat) : Prop where
  slot : ∃ q, t.slot n = { s.slot n with st := .frozen, heldSince := none, qpos := q }
  slots : ∀ m, m ≠ n → t.slot m = s.slot m
  mem : t.mem = s.mem
  regs : (t.elem (veOfSlot n)).pv = (s.elem (veOfSlot n)).pv ∧ (t.elem (veOfSlot n)).ps = (s.elem (veOfSlot n)).ps
  diverted : ∀ r ∈ (s.elem (veOfSlot n)).flight, r.slot = n → c ≤ r.due →
    ({ res := r, nrem := r.due - c } : Held) ∈ (t.elem (veOfSlot n)).record ∧ r ∉ (t.elem (veOfSlot n)).flight
  flight : ∀ r ∈ (s.elem (veOfSlot n)).flight, (r.slot ≠ n ∨ r.due < c) → r ∈ (t.elem (veOfSlot n)).flight
  turns : ∀ it ∈ t.agenda, it.act ≠ .issue n

theorem freezes_freezeSlot {s : State} {n : Nat} (c : Nat) (h : (s.slot n).st = .running ∨ (s.slot n).st = .draining) :
    Freezes s (s.freezeSlot n c) n c := by
  unfold State.freezeSlot
  rw [if_pos h]
  extract_lets v e broken late e1 s1
  generalize hu : s1.modSlot n (fun y => { y with st := .frozen, heldSince := none, qpos := if broken.isEmpty then y.qpos else 0 }) = u
  obtain ⟨hp, hagenda⟩ := holdGroup_plans u n c
  have he (k : Nat) : (u.holdGroup n c).elem k = if k = v then e1 else s.elem k := by
    rw [hp.keeps (State.elem · k) fun _ => rfl, ← hu]
    exact State.setElem_elem s v e1 k
  have hs (m : Nat) : (u.holdGroup n c).slot m = u.slot m := hp.keeps (State.slot · m) fun _ => rfl
  have hv : (u.holdGroup n c).elem (veOfSlot n) = e1 := (he v).trans (if_pos rfl)
  refine ⟨⟨if broken.isEmpty then (s.slot n).qpos else 0, ?_⟩, fun m hm => ?_, ?_, ?_, fun r hr hn hc => ?_, fun r hr hor => ?_, fun it hit => ?_⟩
  · rw [hs, ← hu]
    simp only [State.modSlot_eq, State.setSlot_slot, if_true]
    rfl
  · rw [hs, ← hu]
    simp only [State.modSlot_eq, State.setSlot_slot, if_neg hm]
    rfl
  · rw [hp.mem, ← hu]
    rfl
  · rw [hv]
    exact ⟨rfl, rfl⟩
  · have hmem : (r.slot == n && decide (c ≤ r.due)) = true := by simp [hn, hc]
    rw [hv]
    refine ⟨List.mem_append_right _ (List.mem_map.mpr ⟨r, List.mem_append_left _ (List.mem_filter.mpr ⟨hr, hmem⟩), rfl⟩), fun hin => ?_⟩
    have := (List.mem_filter.mp hin).2
    rw [hmem] at this
    cases this
  · rw [hv]
    refine List.mem_filter.mpr ⟨hr, ?_⟩
    rcases hor with hn | hd
    · simp [hn]
    · simp [Nat.not_le.mpr hd]
  · intro hact
    rcases hagenda it hit with hin | hr
    · rw [← hu] at hin
      have hkept := ((mem_unplan (s.setElem v e1) (fun a => isTurnOf n a || isRelease n a) it).mp hin).2
      rw [hact] at hkept
      simp [isTurnOf] at hkept
    · rw [hact] at hr
      cases hr

/-- The state that a stop freezes: CAUSE and EPC are written and the record has been made. -/
structure Marked (s u : State) (n cause : Nat) : Prop where
  slot : u.slot n = { s.slot n with cause := BitVec.ofNat 32 cause, epc := s.position n }
  slots : ∀ m, m ≠ n → u.slot m = s.slot m
  elems : u.elems = s.elems
  mem : u.mem = s.mem

theorem marked_raise (s : State) (n cause d : Nat) (m : Master) (c detail : Nat) :
    Marked s ((s.modSlot n (fun y => { y with cause := BitVec.ofNat 32 cause, epc := s.position n })).raise d cause m c detail) n cause := by
  obtain ⟨hslots, helems, -, hmem, -, -⟩ :=
    raise_keeps (s.modSlot n (fun y => { y with cause := BitVec.ofNat 32 cause, epc := s.position n })) d cause m c detail
  refine ⟨?_, fun k hk => ?_, helems, hmem⟩
  · rw [State.slot, hslots]
    exact (mget_mset _ _ _ _ _).trans (if_pos rfl)
  · rw [State.slot, hslots]
    exact (mget_mset _ _ _ _ _).trans (if_neg hk)

/-- What a stop leaves: a freeze, with CAUSE and EPC written. -/
structure Stops (s t : State) (n cause c : Nat) : Prop where
  slot : ∃ q, t.slot n = { s.slot n with
    st := .frozen, heldSince := none, qpos := q, cause := BitVec.ofNat 32 cause, epc := s.position n }
  slots : ∀ m, m ≠ n → t.slot m = s.slot m
  mem : t.mem = s.mem
  regs : (t.elem (veOfSlot n)).pv = (s.elem (veOfSlot n)).pv ∧ (t.elem (veOfSlot n)).ps = (s.elem (veOfSlot n)).ps
  diverted : ∀ r ∈ (s.elem (veOfSlot n)).flight, r.slot = n → c ≤ r.due →
    ({ res := r, nrem := r.due - c } : Held) ∈ (t.elem (veOfSlot n)).record ∧ r ∉ (t.elem (veOfSlot n)).flight
  flight : ∀ r ∈ (s.elem (veOfSlot n)).flight, (r.slot ≠ n ∨ r.due < c) → r ∈ (t.elem (veOfSlot n)).flight
  turns : ∀ it ∈ t.agenda, it.act ≠ .issue n

theorem Marked.stops {s u : State} {n cause : Nat} (h : Marked s u n cause) (c : Nat)
    (hst : (s.slot n).st = .running ∨ (s.slot n).st = .draining) : Stops s (u.freezeSlot n c) n cause c := by
  have hust : (u.slot n).st = .running ∨ (u.slot n).st = .draining := by rw [h.slot]; exact hst
  have hf := freezes_freezeSlot c hust
  have he : u.elem (veOfSlot n) = s.elem (veOfSlot n) := congrArg (mget Elem.reset · (veOfSlot n)) h.elems
  obtain ⟨q, hq⟩ := hf.slot
  refine ⟨⟨q, by rw [hq, h.slot]⟩, fun m hm => (hf.slots m hm).trans (h.slots m hm), hf.mem.trans h.mem,
    he ▸ hf.regs, he ▸ hf.diverted, he ▸ hf.flight, hf.turns⟩

theorem ne_frozen {x : SlotState} (h : x = .running ∨ x = .draining) : x ≠ .frozen := by
  rcases h with rfl | rfl <;> decide

/-- A cause against a slot that runs or drains stops it (R31, R36). -/
theorem stops_trapAt {s : State} {n : Nat} (cause detail c : Nat) (h : (s.slot n).st = .running ∨ (s.slot n).st = .draining) :
    Stops s (s.trapAt n cause detail c) n cause c := by
  unfold State.trapAt
  dsimp only
  rw [if_neg (ne_frozen h)]
  exact (marked_raise s n cause _ _ _ _).stops c h

/-- The stop of a TRAP (R229). -/
theorem stops_trapStop {s : State} {n : Nat} (cause : Nat) (h : (s.slot n).st = .running ∨ (s.slot n).st = .draining) :
    Stops s (trapStop s n cause) n cause s.mcnt := by
  unfold trapStop
  dsimp only
  rw [if_neg (ne_frozen h)]
  exact (marked_raise s n cause _ _ _ _).stops s.mcnt h

/-- A second cause against a frozen slot makes a record and nothing else (R324). -/
theorem trapAt_frozen {s : State} {n : Nat} (cause detail c : Nat) (h : (s.slot n).st = .frozen) : let t := s.trapAt n cause detail c
    t.slots = s.slots ∧ t.elems = s.elems ∧ t.mem = s.mem := by
  obtain ⟨hslots, helems, -, hmem, -, -⟩ := raise_keeps s (dieOfTile (tileOfSlot n)) cause (.slot n) c detail
  have hst : ((s.raise (dieOfTile (tileOfSlot n)) cause (.slot n) c detail).slot n).st = .frozen := by
    rw [State.slot, hslots]; exact h
  have hnot : ¬ (((s.raise (dieOfTile (tileOfSlot n)) cause (.slot n) c detail).slot n).st = .running
      ∨ ((s.raise (dieOfTile (tileOfSlot n)) cause (.slot n) c detail).slot n).st = .draining) := fun hr => ne_frozen hr hst
  dsimp only [State.trapAt]
  rw [if_pos h, State.freezeSlot, if_neg hnot]
  exact ⟨hslots, helems, hmem⟩

/-! ## Resuming and discarding (R230, R324) -/

theorem planResult_keeps (s : State) (n q c : Nat) (i : Instr) (a : Arg) : let t := s.planResult n q c i a
    t.slots = s.slots ∧ t.elems = s.elems ∧ t.tiles = s.tiles := ⟨rfl, rfl, rfl⟩

/-- A resume takes the flight record of its slot back into flight and plans the slot's next issue. -/
theorem resumeSlot_replays (s : State) (n c : Nat) : let t := s.resumeSlot n c
    (∀ h ∈ (s.elem (veOfSlot n)).record, h.res.slot = n → (∀ b p, h.res.kind ≠ .quant b p) →
        { h.res with due := c + h.nrem } ∈ (t.elem (veOfSlot n)).flight)
      ∧ (∀ h ∈ (t.elem (veOfSlot n)).record, h.res.slot ≠ n)
      ∧ ((s.slot n).ended = false →
        ({ time := 16 * s.turnOf n c + rkIssue (veOfSlot n), act := .issue n } : Item) ∈ t.agenda) := by
  unfold State.resumeSlot
  extract_lets v e mine back s1 s2 t
  have h2 : s2.slots = s1.slots ∧ s2.elems = s1.elems ∧ s2.tiles = s1.tiles := by
    refine List.foldlRecOn back _ (motive := fun a : State => a.slots = s1.slots ∧ a.elems = s1.elems ∧ a.tiles = s1.tiles)
      ⟨rfl, rfl, rfl⟩ fun a ha r _ => ?_
    split <;> exact ha
  obtain ⟨-, helems, htiles⟩ := h2
  have he : s2.elem v = { e with
      record := e.record.filter (fun h => h.res.slot != n)
      flight := e.flight ++ back.filter (fun r => match r.kind with
        | .quant _ _ => false
        | _ => true)
      iterUntil := back.foldl (fun u r => if r.iter then max u (r.due + 1) else u) e.iterUntil } := by
    rw [State.elem, helems]
    exact (State.setElem_elem s v _ v).trans (if_pos rfl)
  have hturn (x : Slot) (k : Nat) : (s2.setSlot n x).turnOf n k = s.turnOf n k := by
    have hw : (s2.elem v).wheel = e.wheel := by rw [he]; rfl
    have hq : (s2.tile (tileOfSlot n)).qoff = (s.tile (tileOfSlot n)).qoff := by rw [State.tile, htiles]; rfl
    exact congrArg₂ (fun w q => turnFrom w (n % 8) q k) hw hq
  have key : ∀ t : State, t.elem v = s2.elem v →
      (∀ h ∈ (s.elem (veOfSlot n)).record, h.res.slot = n → (∀ b p, h.res.kind ≠ .quant b p) →
        { h.res with due := c + h.nrem } ∈ (t.elem (veOfSlot n)).flight)
      ∧ (∀ h ∈ (t.elem (veOfSlot n)).record, h.res.slot ≠ n) := by
    intro t ht
    rw [ht, he]
    refine ⟨fun h hh hn hk => List.mem_append_right _ (List.mem_filter.mpr ⟨List.mem_map.mpr ⟨h, ?_, rfl⟩, ?_⟩), fun h hh => ?_⟩
    · exact List.mem_filter.mpr ⟨hh, by simpa using hn⟩
    · dsimp only
      split
      · next b p hq => exact absurd hq (hk b p)
      · rfl
    · simpa using (List.mem_filter.mp hh).2
  by_cases hend : (s.slot n).ended = true
  · rw [show t = _ from if_pos hend]
    obtain ⟨h1, h2⟩ := key ((s2.modSlot n (fun y => { y with st := .draining })).planN c rkArrive .slotDrainComplete n 0) rfl
    exact ⟨h1, h2, fun hne => absurd hend (by rw [hne]; decide)⟩
  · rw [show t = _ from if_neg hend]
    obtain ⟨h1, h2⟩ := key ((s2.modSlot n (fun y => { y with st := .running })).planIssue n c) rfl
    refine ⟨h1, h2, fun _ => ?_⟩
    rw [State.planIssue_eq, mem_plan, State.modSlot_eq, hturn]
    exact .inl rfl

/-- Releasing reservations leaves what is in flight, and the record. -/
theorem foldl_releaseFan (fans : List (BitVec 6)) (e : Elem) :
    (fans.foldl releaseFan e).record = e.record ∧ (fans.foldl releaseFan e).flight = e.flight :=
  List.foldlRecOn (motive := fun a : Elem => a.record = e.record ∧ a.flight = e.flight) fans _ ⟨rfl, rfl⟩ fun _ ha _ _ => ha

/-- A discard empties the slot's part of the flight record and of what is in flight, and leaves the slot BOUND. -/
theorem discardSlot_empties (s : State) (n : Nat) : let t := s.discardSlot n
    (t.slot n).st = .bound ∧ (∀ m, m ≠ n → t.slot m = s.slot m) ∧ t.mem = s.mem
      ∧ (∀ h ∈ (t.elem (veOfSlot n)).record, h.res.slot ≠ n) ∧ (∀ r ∈ (t.elem (veOfSlot n)).flight, r.slot ≠ n)
      ∧ (∀ it ∈ t.agenda, it.act ≠ .issue n) := by
  unfold State.discardSlot
  extract_lets v e mine live e1 s1 t
  obtain ⟨hrec, hfl⟩ := foldl_releaseFan (mine ++ live) { e with
    record := e.record.filter (fun h => h.res.slot != n), flight := e.flight.filter (fun r => r.slot != n)
    quant := e.quant.filter (fun q => q.slot != n) }
  have hv : t.elem v = e1 := (State.setElem_elem s v e1 v).trans (if_pos rfl)
  refine ⟨?_, fun m hm => ?_, rfl, fun h hh => ?_, fun r hr => ?_, fun it hit hact => ?_⟩
  · simp only [t, State.modSlot_eq, State.setSlot_slot, if_true]
  · simp only [t, State.modSlot_eq, State.setSlot_slot, if_neg hm]
    rfl
  · rw [hv, hrec] at hh
    simpa using (List.mem_filter.mp hh).2
  · rw [hv, hfl] at hr
    simpa using (List.mem_filter.mp hr).2
  · have hkept := ((mem_unplan (s.setElem v e1) (fun a => isTurnOf n a || isRelease n a) it).mp hit).2
    rw [hact] at hkept
    simp [isTurnOf] at hkept

/-- Settles O46: a stop by `stops_trapAt`, the ways back by what each leaves of the flight record, a record by its die. -/
theorem faultsFreeze : Obligations.FaultsFreeze := by
  unfold Obligations.FaultsFreeze
  intro s n cause detail c v
  refine ⟨fun h => ?_, fun h => ?_, fun d m => ?_⟩
  · have hs := stops_trapAt cause detail c h
    obtain ⟨q, hq⟩ := hs.slot
    dsimp only
    rw [hq]
    exact ⟨rfl, rfl, rfl, rfl, rfl, rfl, rfl, rfl, hs.slots, hs.mem, hs.regs.1, hs.regs.2, hs.diverted, hs.flight, hs.turns⟩
  · obtain ⟨hslots, helems, hmem⟩ := trapAt_frozen cause detail c h
    obtain ⟨hslot, hothers, hrmem⟩ := resumeSlot_effect s n c
    exact ⟨hslots, helems, hmem, ⟨hslot, hothers, hrmem, resumeSlot_replays s n c⟩, discardSlot_empties s n⟩
  · obtain ⟨hseq, hroom, hfull⟩ := raise_die s d cause m c detail
    obtain ⟨hslots, -, -, hmem, -, -⟩ := raise_keeps s d cause m c detail
    exact ⟨hseq, hroom, hfull, hmem, hslots⟩

/-! ## Holds that end (R18, R153) -/

/-- An element that is blocked discards what it has in flight; slots, memory and other elements stay (R30). -/
theorem blockElem_discards (s : State) (v cause detail : Nat) : let t := s.blockElem v cause detail
    (t.elem v).blocked = true ∧ (t.elem v).flight = [] ∧ (t.elem v).record = [] ∧ t.slots = s.slots ∧ t.mem = s.mem
      ∧ ∀ k, k ≠ v → t.elem k = s.elem k := by
  unfold State.blockElem
  extract_lets e s1 s2
  obtain ⟨hslots, helems, -, hmem, -, -⟩ := raise_keeps s2 (dieOfTile (tileOfVe v)) cause (.element v) s.mcnt detail
  have he (k : Nat) : (s2.raise (dieOfTile (tileOfVe v)) cause (.element v) s.mcnt detail).elem k = s1.elem k :=
    congrArg (mget Elem.reset · k) helems
  have hv := (he v).trans ((State.setElem_elem s v _ v).trans (if_pos rfl))
  refine ⟨?_, ?_, ?_, hslots, hmem, fun k hk => (he k).trans ((State.setElem_elem s v _ k).trans (if_neg hk))⟩ <;> rw [hv]

/-- What a look of a slot that a W-kind instruction holds leads to: a save where one is due, or else its issue (R18, R153). -/
theorem wKindHoldRelease_held {s : State} (hrun : (s.slot s.arg.a).st = .running) (hsome : (s.slot s.arg.a).heldSince.isSome = true) :
    exec .wKindHoldRelease s = .next (if s.levelOf (tileOfSlot s.arg.a) ≠ .t ∧ savedHeld s s.arg.a = true then saveSlot s s.arg.a keepAll
      else s.plan s.mcnt (rkIssue (veOfSlot s.arg.a)) (.issue s.arg.a)) := by
  have hn : ¬ ((s.slot s.arg.a).st ≠ .running ∨ (s.slot s.arg.a).heldSince.isNone = true) := by
    rintro (h | h)
    · exact h hrun
    · rw [Option.isNone_iff_eq_none] at h
      rw [h] at hsome
      cases hsome
  have hf : (s.slot s.arg.a).st ≠ .frozen := by rw [hrun]; decide
  exact congrArg Host.Outcome.next ((if_neg hf).trans (if_neg hn))

/-- Settles O29: each event by the branch of its equation that the slot's state selects. -/
theorem holdsEnd : Obligations.HoldsEnd := by
  unfold Obligations.HoldsEnd
  intro s n x held
  have hheld : held = true ↔ x.st = .running ∧ x.heldSince.isSome = true := by simp [held]
  refine ⟨fun h hn => ?_, fun h hl hsv => ?_, fun h => ⟨fun hst => ?_, ?_⟩, fun h => ?_, fun h => ?_, ?_⟩
  · obtain ⟨hrun, hsome⟩ := hheld.mp h
    refine (wKindHoldRelease_held hrun hsome).trans (congrArg Host.Outcome.next (if_neg fun ⟨hl, hsv⟩ => ?_))
    rcases hn with ht | hf
    · exact hl ht
    · exact Bool.noConfusion (hf.symm.trans hsv)
  · obtain ⟨hrun, hsome⟩ := hheld.mp h
    refine ⟨_, (wKindHoldRelease_held hrun hsome).trans (congrArg Host.Outcome.next (if_pos ⟨hl, hsv⟩)), ?_, rfl, fun m hm => ?_⟩
    · exact (State.setSlot_slot s n _ n).trans (if_pos rfl)
    · exact (State.setSlot_slot s n _ m).trans (if_neg hm)
  · refine congrArg Host.Outcome.next ((if_neg hst).trans (if_pos ?_))
    by_contra hcon
    rw [not_or, not_not, Option.isNone_iff_eq_none, ← Option.not_isSome_iff_eq_none, not_not] at hcon
    rw [hheld.mpr hcon] at h
    cases h
  · refine congrArg Host.Outcome.next (if_neg fun hcon => ?_)
    rw [hheld.mpr hcon] at h
    cases h
  · exact congrArg Host.Outcome.next (if_pos h)
  · obtain ⟨hrun, hsome⟩ := hheld.mp h
    have hs := stops_trapAt 0x082 (s.epcDetail n) s.mcnt (.inl hrun)
    obtain ⟨q, hq⟩ := hs.slot
    refine ⟨_, congrArg Host.Outcome.next (if_pos ⟨hrun, hsome⟩), ?_, ?_, ?_, hs.mem, hs.slots⟩ <;>
      exact (congrArg _ hq).trans rfl
  · have hb (c d : Nat) := blockElem_discards s (veOfSlot n) c d
    cases hp : fetchPoisoned s n with
    | true => exact ⟨_, congrArg Host.Outcome.next (if_pos hp), hb _ _⟩
    | false => exact ⟨_, congrArg Host.Outcome.next (if_neg (by rw [hp]; decide)), hb _ _⟩

end Sys2Proof.Machine
end

section
/-! # Results that complete -/

namespace Sys2Proof.Machine

-- Elaborated one after another: these many short proofs at once ask for more threads than the check's memory holds.
set_option Elab.async false

/-! ## The register write, file by file (R76, R86) -/

/-- The operand file after a result's write. -/
def destO (x : Slot) (r : Result) : Map Vec :=
  if r.kind = .value ∧ r.dcls = 2 then mset x.o r.didx (blend r.lanes r.value (mget 0 x.o r.didx)) else x.o

/-- The predicates after a result's write. -/
def destP (x : Slot) (r : Result) : Map Mask :=
  if r.kind = .predicate ∧ r.dcls ≠ 3 then mset x.p r.didx ((mget 0xFFFF#16 x.p r.didx &&& ~~~r.lanes)
    ||| (ofMask (fun l => (lane r.value l) != 0#32) &&& r.lanes)) else x.p

/-- The capability registers after a result's write. -/
def destC (x : Slot) (r : Result) : Map (BitVec 128) :=
  if r.kind = .capability ∧ anyOn r.lanes = true then mset x.c r.didx (r.value.setWidth 128) else x.c

/-- FLG after a result's write. -/
def destFlg (x : Slot) (now : Nat) (r : Result) : Flags :=
  if r.kind = .flags ∧ anyOn r.lanes = true then
    flgMerge x.flg (some ((lane r.value 0).setWidth 6)) (if x.flgAt = now then x.flgNow else noFlags)
  else x.flg

/-- The vector registers after a result's write. -/
def destV (s : State) (r : Result) : Map Vec :=
  if r.kind = .value ∧ (r.dcls = 0 ∨ r.dcls = 4) then
    mset (s.elem (veOfSlot r.slot)).pv (s.vbase r.slot + r.didx) (blend r.lanes r.value (s.vreg r.slot r.didx))
  else (s.elem (veOfSlot r.slot)).pv

/-- The scalar registers after a result's write. -/
def destS (s : State) (r : Result) : Map Word :=
  if (r.kind = .value ∧ (r.dcls = 1 ∨ r.dcls = 5) ∨ r.kind = .link) ∧ anyOn r.lanes = true then
    mset (s.elem (veOfSlot r.slot)).ps (s.sbase r.slot + r.didx) (lane r.value 0)
  else (s.elem (veOfSlot r.slot)).ps

/-- A completing result writes these files of its slot and its element, and nothing else. -/
structure Writes (s t : State) (r : Result) : Prop where
  slot : t.slot r.slot = { s.slot r.slot with
    o := destO (s.slot r.slot) r, p := destP (s.slot r.slot) r, c := destC (s.slot r.slot) r, flg := destFlg (s.slot r.slot) s.mcnt r }
  slots : ∀ m, m ≠ r.slot → t.slot m = s.slot m
  own : { t.elem (veOfSlot r.slot) with pvPoison := [], psPoison := [] } = { s.elem (veOfSlot r.slot) with
    pv := destV s r, ps := destS s r, pvPoison := [], psPoison := [] }
  elems : ∀ u, u ≠ veOfSlot r.slot → t.elem u = s.elem u
  tiles : t.tiles = s.tiles
  mem : t.mem = s.mem
  mcnt : t.mcnt = s.mcnt

/-- A write to the element alone. -/
theorem writes_setElem {s : State} {r : Result} {e : Elem} (ho : destO (s.slot r.slot) r = (s.slot r.slot).o)
    (hp : destP (s.slot r.slot) r = (s.slot r.slot).p) (hc : destC (s.slot r.slot) r = (s.slot r.slot).c)
    (hf : destFlg (s.slot r.slot) s.mcnt r = (s.slot r.slot).flg)
    (he : { e with pvPoison := [], psPoison := [] } = { s.elem (veOfSlot r.slot) with
      pv := destV s r, ps := destS s r, pvPoison := [], psPoison := [] }) :
    Writes s (s.setElem (veOfSlot r.slot) e) r := by
  refine ⟨by rw [ho, hp, hc, hf]; rfl, fun _ _ => rfl, ?_, fun u hu => (State.setElem_elem s _ _ u).trans (if_neg hu), rfl, rfl, rfl⟩
  rw [State.setElem_elem, if_pos rfl]
  exact he

/-- A write to the slot alone. -/
theorem writes_setSlot {s : State} {r : Result} {x : Slot} (hv : destV s r = (s.elem (veOfSlot r.slot)).pv)
    (hs : destS s r = (s.elem (veOfSlot r.slot)).ps) (hx : x = { s.slot r.slot with
      o := destO (s.slot r.slot) r, p := destP (s.slot r.slot) r, c := destC (s.slot r.slot) r, flg := destFlg (s.slot r.slot) s.mcnt r }) :
    Writes s (s.setSlot r.slot x) r := by
  refine ⟨(State.setSlot_slot s _ _ _).trans ((if_pos rfl).trans hx), fun m hm => (State.setSlot_slot s _ _ m).trans (if_neg hm),
    ?_, fun _ _ => rfl, rfl, rfl, rfl⟩
  rw [hv, hs]
  rfl

/-- A result that writes no register. -/
theorem writes_refl {s : State} {r : Result} (ho : destO (s.slot r.slot) r = (s.slot r.slot).o)
    (hp : destP (s.slot r.slot) r = (s.slot r.slot).p) (hc : destC (s.slot r.slot) r = (s.slot r.slot).c)
    (hf : destFlg (s.slot r.slot) s.mcnt r = (s.slot r.slot).flg) (hv : destV s r = (s.elem (veOfSlot r.slot)).pv)
    (hs : destS s r = (s.elem (veOfSlot r.slot)).ps) : Writes s s r :=
  ⟨by rw [ho, hp, hc, hf], fun _ _ => rfl, by rw [hv, hs], fun _ _ => rfl, rfl, rfl, rfl⟩

/-- A scalar register is written where a lane is on. -/
theorem writes_sreg {s : State} {r : Result} (h : r.kind = .value ∧ (r.dcls = 1 ∨ r.dcls = 5) ∨ r.kind = .link) :
    Writes s (if anyOn r.lanes then s.setSreg r.slot r.didx (lane r.value 0) else s) r := by
  have ho : destO (s.slot r.slot) r = (s.slot r.slot).o :=
    if_neg (by rintro ⟨hk, hd⟩; rcases h with ⟨-, h1⟩ | hl; omega; rw [hk] at hl; cases hl)
  have hp : destP (s.slot r.slot) r = (s.slot r.slot).p := if_neg (by rintro ⟨hk, -⟩; rcases h with ⟨hl, -⟩ | hl <;> simp [hk] at hl)
  have hc : destC (s.slot r.slot) r = (s.slot r.slot).c := if_neg (by rintro ⟨hk, -⟩; rcases h with ⟨hl, -⟩ | hl <;> simp [hk] at hl)
  have hf : destFlg (s.slot r.slot) s.mcnt r = (s.slot r.slot).flg :=
    if_neg (by rintro ⟨hk, -⟩; rcases h with ⟨hl, -⟩ | hl <;> simp [hk] at hl)
  have hv : destV s r = (s.elem (veOfSlot r.slot)).pv :=
    if_neg (by rintro ⟨hk, hd⟩; rcases h with ⟨-, h1⟩ | hl; omega; rw [hk] at hl; cases hl)
  split
  · next hon =>
    refine writes_setElem ho hp hc hf ?_
    rw [hv, destS, if_pos ⟨h, hon⟩]
  · next hoff => exact writes_refl ho hp hc hf hv (if_neg fun hn => hoff hn.2)

/-- A vector register is written in the lanes that are on. -/
theorem writes_vreg {s : State} {r : Result} (hk : r.kind = .value) (hd : r.dcls = 0 ∨ r.dcls = 4) :
    Writes s (s.setVreg r.slot r.didx (blend r.lanes r.value (s.vreg r.slot r.didx))) r := by
  have hs : destS s r = (s.elem (veOfSlot r.slot)).ps := if_neg (by rw [hk]; rintro ⟨⟨-, h⟩ | h, -⟩; omega; cases h)
  refine writes_setElem (if_neg (by omega)) ?_ ?_ ?_ ?_
  · simp [destP, hk]
  · simp [destC, hk]
  · simp [destFlg, hk]
  · rw [hs, destV, if_pos ⟨hk, hd⟩]

/-- The register write of a result is the files' (R76, R86). -/
theorem writes_writeDest (s : State) (r : Result) : Writes s (writeDest s r) r := by
  unfold writeDest
  dsimp only
  split
  next hk =>
    split
    next hd => exact writes_vreg hk (.inl hd)
    next hd => exact writes_vreg hk (.inr hd)
    next hd => exact writes_sreg (.inl ⟨hk, .inl hd⟩)
    next hd => exact writes_sreg (.inl ⟨hk, .inr hd⟩)
    next hd =>
      refine writes_setSlot ?_ ?_ ?_
      · simp [destV, hd]
      · simp [destS, hk, hd]
      · simp [destO, destP, destC, destFlg, hk, hd]
    next h0 h4 h1 h5 h2 =>
      refine writes_refl ?_ ?_ ?_ ?_ ?_ ?_
      · exact if_neg fun h => h2 h.2
      · simp [destP, hk]
      · simp [destC, hk]
      · simp [destFlg, hk]
      · exact if_neg fun h => h.2.elim h0 h4
      · rw [destS, hk]
        exact if_neg fun h => h.1.elim (fun h => h.2.elim h1 h5) nofun
  next hk =>
    split
    next hd =>
      refine writes_refl ?_ ?_ ?_ ?_ ?_ ?_
      · simp [destO, hk]
      · simp [destP, hd]
      · simp [destC, hk]
      · simp [destFlg, hk]
      · simp [destV, hk]
      · simp [destS, hk]
    next hd => exact writes_setSlot (by simp [destV, hk]) (by simp [destS, hk]) (by simp [destO, destP, destC, destFlg, hk, hd])
  next hk =>
    split
    next hon => exact writes_setSlot (by simp [destV, hk]) (by simp [destS, hk]) (by simp [destO, destP, destC, destFlg, hk, hon, writeFlg])
    next hoff =>
      exact writes_refl (by simp [destO, hk]) (by simp [destP, hk]) (by simp [destC, hk]) (by simp [destFlg, hoff])
        (by simp [destV, hk]) (by simp [destS, hk])
  next hk =>
    split
    next hon => exact writes_setSlot (by simp [destV, hk]) (by simp [destS, hk]) (by simp [destO, destP, destC, destFlg, hk, hon])
    next hoff =>
      exact writes_refl (by simp [destO, hk]) (by simp [destP, hk]) (by simp [destC, hoff]) (by simp [destFlg, hk])
        (by simp [destV, hk]) (by simp [destS, hk])
  next hk => exact writes_sreg (.inr hk)
  next hk =>
    exact writes_refl (by simp [destO, hk]) (by simp [destP, hk]) (by simp [destC, hk]) (by simp [destFlg, hk])
      (by simp [destV, hk]) (by simp [destS, hk])

/-! ## The pushes of a result (R67, R316) -/

/-- From `s` to `t` tokens have moved, and the reservations of element `v` have changed. -/
structure Emits (v : Nat) (s t : State) : Prop where
  rest : t.unqueued = s.unqueued
  own : { (t.elem v).unqueued with resv := [] } = { (s.elem v).unqueued with resv := [] }
  elem : ∀ u, u ≠ v → (t.elem u).unqueued = (s.elem u).unqueued
  tile : ∀ k, (t.tile k).unqueued = (s.tile k).unqueued

theorem Emits.refl (v : Nat) (s : State) : Emits v s s := ⟨rfl, rfl, fun _ _ => rfl, fun _ => rfl⟩

theorem Emits.trans {v : Nat} {s t u : State} (h : Emits v s t) (g : Emits v t u) : Emits v s u :=
  ⟨g.rest.trans h.rest, g.own.trans h.own, fun k hk => (g.elem k hk).trans (h.elem k hk), fun k => (g.tile k).trans (h.tile k)⟩

theorem QueuesOnly.emits {s t : State} (h : QueuesOnly s t) (v : Nat) : Emits v s t :=
  ⟨h.rest, by rw [h.elem v], fun u _ => h.elem u, h.tile⟩

theorem emits_setElem (s : State) (v : Nat) (q : Map (List OutTok)) (l : Map Nat) :
    Emits v s (s.setElem v { s.elem v with outq := q, resv := l }) := by
  refine ⟨rfl, ?_, fun u hu => ?_, fun _ => rfl⟩
  · rw [State.setElem_elem, if_pos rfl]
    rfl
  · rw [State.setElem_elem, if_neg hu]

theorem emits_pushOut (s : State) (n seq : Nat) (fan : BitVec 6) (phase : Nat) (tok : Token) (res : Bool) :
    Emits (veOfSlot n) s (pushOut s n seq fan phase tok res) := by
  refine List.foldlRecOn (motive := fun t => Emits (veOfSlot n) s t) _ _ (Emits.refl _ s) fun a ha g _ => ?_
  split
  · exact ha.trans ((emits_setElem a (veOfSlot n) _ _).trans (((QueuesOnly.refl _).drainOut _ _ _).emits _))
  · exact ha

/-! ## The completion (R21, R24, R31) -/

/-- The slot after a result: its files, its flags, and the last-result file where its kind shifts it. -/
def afterResult (x : Slot) (now : Nat) (r : Result) : Slot :=
  let y := { x with o := destO x r, p := destP x r, c := destC x r, flg := destFlg x now r }
  let z := if r.flags = 0 then y else raiseFlags y now r.flags
  if shifts r then shiftQ z (lastResult r) else z

/-- What a completion leaves, with `fl` in flight in its element. -/
structure Applies (s t : State) (r : Result) (fl : List Result) : Prop where
  slot : t.slot r.slot = afterResult (s.slot r.slot) s.mcnt r
  slots : ∀ m, m ≠ r.slot → t.slot m = s.slot m
  pv : (t.elem (veOfSlot r.slot)).pv = destV s r
  ps : (t.elem (veOfSlot r.slot)).ps = destS s r
  flight : (t.elem (veOfSlot r.slot)).flight = fl
  bind : (t.elem (veOfSlot r.slot)).bind = (s.elem (veOfSlot r.slot)).bind
  elems : ∀ u, u ≠ veOfSlot r.slot → (t.elem u).unqueued = (s.elem u).unqueued
  tiles : ∀ k, (t.tile k).unqueued = (s.tile k).unqueued
  mem : t.mem = s.mem

theorem applies_applyResult (s : State) (r : Result) : Applies s (applyResult s r) r (s.elem (veOfSlot r.slot)).flight := by
  have hw := writes_writeDest s r
  have hpv1 : ((writeDest s r).elem (veOfSlot r.slot)).pv = destV s r := (congrArg Elem.pv hw.own :)
  have hps1 : ((writeDest s r).elem (veOfSlot r.slot)).ps = destS s r := (congrArg Elem.ps hw.own :)
  have hfl1 : ((writeDest s r).elem (veOfSlot r.slot)).flight = (s.elem (veOfSlot r.slot)).flight := (congrArg Elem.flight hw.own :)
  have hbd1 : ((writeDest s r).elem (veOfSlot r.slot)).bind = (s.elem (veOfSlot r.slot)).bind := (congrArg Elem.bind hw.own :)
  unfold applyResult
  extract_lets s1 s2
  have hs2 : s2.slot r.slot = afterResult (s.slot r.slot) s.mcnt r := by
    refine (State.setSlot_slot s1 _ _ _).trans ((if_pos rfl).trans ?_)
    simp only [s1, hw.slot]
    rfl
  have hem : Emits (veOfSlot r.slot) s2 ((pushOut s2 r.slot r.seq r.fan r.phase
      { data := r.value, valid := r.valid, poison := false } true).drainCheck r.slot) :=
    (emits_pushOut s2 _ _ _ _ _ _).trans (((QueuesOnly.refl _).drainCheck _).emits _)
  generalize (pushOut s2 r.slot r.seq r.fan r.phase { data := r.value, valid := r.valid, poison := false } true).drainCheck r.slot = t at hem
  have hslots : t.slots = s2.slots := (congrArg State.slots hem.rest :)
  have hslot (m : Nat) : t.slot m = s2.slot m := congrArg (mget Slot.reset · m) hslots
  have hpv : (t.elem (veOfSlot r.slot)).pv = (s2.elem (veOfSlot r.slot)).pv := (congrArg Elem.pv hem.own :)
  have hps : (t.elem (veOfSlot r.slot)).ps = (s2.elem (veOfSlot r.slot)).ps := (congrArg Elem.ps hem.own :)
  have hfl : (t.elem (veOfSlot r.slot)).flight = (s2.elem (veOfSlot r.slot)).flight := (congrArg Elem.flight hem.own :)
  have hbd : (t.elem (veOfSlot r.slot)).bind = (s2.elem (veOfSlot r.slot)).bind := (congrArg Elem.bind hem.own :)
  have hmem : t.mem = s2.mem := (congrArg State.mem hem.rest :)
  refine ⟨(hslot _).trans hs2, fun m hm => ?_, hpv.trans hpv1, hps.trans hps1, hfl.trans hfl1, hbd.trans hbd1, fun u hu => ?_,
    fun k => ?_, hmem.trans hw.mem⟩
  · rw [hslot]
    exact (State.setSlot_slot s1 _ _ m).trans ((if_neg hm).trans (hw.slots m hm))
  · rw [hem.elem u hu]
    exact congrArg Elem.unqueued (hw.elems u hu)
  · rw [hem.tile k]
    exact congrArg (fun m => (mget Tile.reset m k).unqueued) hw.tiles

/-! ## What the completed slot reads as -/

section
variable (x : Slot) (now : Nat) (r : Result)

/-- Flags and the last-result file aside, the slot is as the register write leaves it. -/
theorem afterResult_files : ∃ f fa fn q0 q1 q2 q3, afterResult x now r = { x with
    o := destO x r, p := destP x r, c := destC x r, flg := f, flgAt := fa, flgNow := fn, q0 := q0, q1 := q1, q2 := q2, q3 := q3 } := by
  unfold afterResult raiseFlags shiftQ
  dsimp only
  split <;> split <;> exact ⟨_, _, _, _, _, _, _, rfl⟩

theorem afterResult_flg : (afterResult x now r).flg = destFlg x now r ||| r.flags := by
  unfold afterResult raiseFlags shiftQ
  dsimp only
  split <;> split <;> simp_all

theorem afterResult_shifts (h : shifts r = true) : (afterResult x now r).q0 = lastResult r ∧ (afterResult x now r).q1 = x.q0
    ∧ (afterResult x now r).q2 = x.q1 ∧ (afterResult x now r).q3 = x.q2 := by
  unfold afterResult raiseFlags shiftQ
  dsimp only
  rw [if_pos h]
  split <;> exact ⟨rfl, rfl, rfl, rfl⟩

theorem afterResult_stays (h : shifts r = false) : (afterResult x now r).q0 = x.q0 ∧ (afterResult x now r).q1 = x.q1
    ∧ (afterResult x now r).q2 = x.q2 ∧ (afterResult x now r).q3 = x.q3 := by
  unfold afterResult raiseFlags shiftQ
  dsimp only
  rw [if_neg (by rw [h]; decide)]
  split <;> exact ⟨rfl, rfl, rfl, rfl⟩

end

/-- What enters the last-result file is zero in lanes that are off. -/
theorem lane_lastResult (r : Result) {l : Nat} (hl : l < 16) :
    lane (lastResult r) l = if r.lanes.getLsbD l then lane r.value l else 0#32 := by
  rw [lastResult, blend, lane_ofLanes _ hl]
  split
  · rfl
  · simp [lane]

/-- The state in which a result of element `v` completes: it has left the results in flight. -/
def landed (s : State) (n seq : Nat) : State := s.setElem (veOfSlot n) { s.elem (veOfSlot n) with
  flight := (s.elem (veOfSlot n)).flight.filter (fun q => !(q.slot == n && q.seq == seq)) }

theorem landed_elem (s : State) (n seq : Nat) : (landed s n seq).elem (veOfSlot n) = { s.elem (veOfSlot n) with
    flight := (s.elem (veOfSlot n)).flight.filter (fun q => !(q.slot == n && q.seq == seq)) } :=
  (State.setElem_elem s _ _ _).trans (if_pos rfl)

/-- The registers of the element, their bases and their contents, do not depend on what is in flight. -/
theorem landed_regs (s : State) (r : Result) (seq : Nat) :
    destV (landed s r.slot seq) r = destV s r ∧ destS (landed s r.slot seq) r = destS s r := by
  have he := landed_elem s r.slot seq
  constructor
  · simp only [destV, State.vreg, State.vbase, he]
  · simp only [destS, State.sbase, he]

/-- A result that is in flight at its cycle completes. -/
theorem resultCompletion_applies {s : State} {r : Result} (hc : s.arg.c = 0)
    (hr : (s.elem (veOfSlot s.arg.a)).flight.find? (fun q => q.slot == s.arg.a && q.seq == s.arg.b && q.due == s.mcnt) = some r) :
    r.slot = s.arg.a ∧ exec .resultCompletion s = .next (applyResult (landed s s.arg.a s.arg.b) r) := by
  have hslot : r.slot = s.arg.a := by
    have := List.find?_some hr
    simp only [Bool.and_eq_true, beq_iff_eq] at this
    exact this.1.1
  refine ⟨hslot, congrArg Host.Outcome.next ((if_pos hc).trans ?_)⟩
  unfold completeResult
  dsimp only
  rw [hr]
  rfl

/-! ## Each file, by the kind of the result -/

section
variable {x : Slot} {now : Nat} {r : Result}

theorem destFlg_of_ne (h : r.kind ≠ .flags) : destFlg x now r = x.flg := if_neg fun hc => h hc.1
theorem destC_of_ne (h : r.kind ≠ .capability) : destC x r = x.c := if_neg fun hc => h hc.1

end

/-- The registers that a completion leaves, as its slot reads them. -/
theorem Applies.vreg {s t : State} {r : Result} {fl : List Result} (h : Applies s t r fl) (hk : r.kind = .value) (hd : r.dcls = 0 ∨ r.dcls = 4) :
    t.vreg r.slot r.didx = blend r.lanes r.value (s.vreg r.slot r.didx)
      ∧ ∀ j, j ≠ s.vbase r.slot + r.didx → mget 0 (t.elem (veOfSlot r.slot)).pv j = mget 0 (s.elem (veOfSlot r.slot)).pv j := by
  have hb : t.vbase r.slot = s.vbase r.slot := by simp only [State.vbase, h.bind]
  have hp := h.pv.trans (if_pos ⟨hk, hd⟩)
  refine ⟨?_, fun j hj => ?_⟩
  · rw [State.vreg, hp, hb, mget_mset, if_pos rfl]
  · rw [hp, mget_mset, if_neg hj]

theorem Applies.sreg {s t : State} {r : Result} {fl : List Result} (h : Applies s t r fl) (hk : r.kind = .value ∧ (r.dcls = 1 ∨ r.dcls = 5) ∨ r.kind = .link) :
    (anyOn r.lanes = true → t.sreg r.slot r.didx = lane r.value 0)
      ∧ ∀ j, j ≠ s.sbase r.slot + r.didx → mget 0 (t.elem (veOfSlot r.slot)).ps j = mget 0 (s.elem (veOfSlot r.slot)).ps j := by
  have hb : t.sbase r.slot = s.sbase r.slot := by simp only [State.sbase, h.bind]
  refine ⟨fun hon => ?_, fun j hj => ?_⟩
  · rw [State.sreg, h.ps, destS, if_pos ⟨hk, hon⟩, hb, mget_mset, if_pos rfl]
  · rw [h.ps, destS]
    split
    · rw [mget_mset, if_neg hj]
    · rfl

/-- A completion read as O45 reads it. -/
theorem Applies.reads {s t : State} {r : Result} {fl : List Result} (h : Applies s t r fl) :
    let y := t.slot r.slot
    let x := s.slot r.slot
    let v := veOfSlot r.slot
    (t.elem v).flight = fl
    ∧ (shifts r = true → (∀ l < 16, lane y.q0 l = if r.lanes.getLsbD l then lane r.value l else 0#32) ∧ y.q1 = x.q0 ∧ y.q2 = x.q1 ∧ y.q3 = x.q2)
    ∧ (shifts r = false → y.q0 = x.q0 ∧ y.q1 = x.q1 ∧ y.q2 = x.q2 ∧ y.q3 = x.q3)
    ∧ (r.kind ≠ .flags → y.flg = x.flg ||| r.flags)
    ∧ (r.kind = .flags → r.flags = noFlags → anyOn r.lanes = true → y.flg = flgMerge x.flg (some ((lane r.value 0).setWidth 6))
        (if x.flgAt = s.mcnt then x.flgNow else noFlags))
    ∧ (r.kind = .value → (r.dcls = 0 ∨ r.dcls = 4) → t.vreg r.slot r.didx = blend r.lanes r.value (s.vreg r.slot r.didx)
        ∧ ∀ j, j ≠ s.vbase r.slot + r.didx → mget 0 (t.elem v).pv j = mget 0 (s.elem v).pv j)
    ∧ (¬(r.kind = .value ∧ (r.dcls = 0 ∨ r.dcls = 4)) → (t.elem v).pv = (s.elem v).pv)
    ∧ ((r.kind = .value ∧ (r.dcls = 1 ∨ r.dcls = 5) ∨ r.kind = .link) → anyOn r.lanes = true → t.sreg r.slot r.didx = lane r.value 0)
    ∧ ((r.kind = .value ∧ (r.dcls = 1 ∨ r.dcls = 5) ∨ r.kind = .link) →
        ∀ j, j ≠ s.sbase r.slot + r.didx → mget 0 (t.elem v).ps j = mget 0 (s.elem v).ps j)
    ∧ (¬(r.kind = .value ∧ (r.dcls = 1 ∨ r.dcls = 5) ∨ r.kind = .link) → (t.elem v).ps = (s.elem v).ps)
    ∧ (r.kind = .value → r.dcls = 2 → y.o = mset x.o r.didx (blend r.lanes r.value (mget 0 x.o r.didx)))
    ∧ (¬(r.kind = .value ∧ r.dcls = 2) → y.o = x.o)
    ∧ (r.kind = .predicate → r.dcls ≠ 3 → mget 0xFFFF#16 y.p r.didx
        = (mget 0xFFFF#16 x.p r.didx &&& ~~~r.lanes) ||| (ofMask (fun l => (lane r.value l) != 0#32) &&& r.lanes))
    ∧ (¬(r.kind = .predicate ∧ r.dcls ≠ 3) → y.p = x.p)
    ∧ (r.kind = .capability → anyOn r.lanes = true → y.c = mset x.c r.didx (r.value.setWidth 128))
    ∧ (r.kind ≠ .capability → y.c = x.c)
    ∧ y.k = x.k ∧ y.ia = x.ia ∧ y.ic = x.ic ∧ y.dth = x.dth ∧ y.cause = x.cause ∧ y.epc = x.epc ∧ y.hrw = x.hrw ∧ y.haw = x.haw ∧ y.st = x.st
    ∧ (∀ m, m ≠ r.slot → t.slot m = s.slot m) ∧ (∀ u, u ≠ v → (t.elem u).unqueued = (s.elem u).unqueued)
    ∧ (∀ k, (t.tile k).unqueued = (s.tile k).unqueued) ∧ t.mem = s.mem := by
  intro y x v
  have hy : y = afterResult x s.mcnt r := h.slot
  have hflg : y.flg = destFlg x s.mcnt r ||| r.flags := by rw [hy, afterResult_flg]
  obtain ⟨f, fa, fn, q0, q1, q2, q3, hfiles⟩ := afterResult_files x s.mcnt r
  have ho : y.o = destO x r := by rw [hy, hfiles]
  have hp : y.p = destP x r := by rw [hy, hfiles]
  have hc : y.c = destC x r := by rw [hy, hfiles]
  refine ⟨h.flight, fun hs => ?_, fun hs => hy ▸ afterResult_stays x s.mcnt r hs, fun hk => by rw [hflg, destFlg_of_ne hk], fun hk h0 hon => ?_,
    h.vreg, fun hk => h.pv.trans (if_neg hk), fun hk => (h.sreg hk).1, fun hk => (h.sreg hk).2,
    fun hk => h.ps.trans (if_neg fun hn => hk hn.1), fun hk hd => ho.trans (if_pos ⟨hk, hd⟩), fun hk => ho.trans (if_neg hk),
    fun hk hd => ?_, fun hk => hp.trans (if_neg hk), fun hk hon => hc.trans (if_pos ⟨hk, hon⟩), fun hk => hc.trans (destC_of_ne hk), ?_⟩
  · obtain ⟨h0, h1⟩ := afterResult_shifts x s.mcnt r hs
    rw [hy]
    exact ⟨fun l hl => h0 ▸ lane_lastResult r hl, h1⟩
  · rw [hflg, destFlg, if_pos ⟨hk, hon⟩, h0]
    exact BitVec.or_zero
  · rw [hp, destP, if_pos ⟨hk, hd⟩, mget_mset, if_pos rfl]
  · rw [hy, hfiles]
    exact ⟨rfl, rfl, rfl, rfl, rfl, rfl, rfl, rfl, rfl, h.slots, h.elems, h.tiles, h.mem⟩

/-- A completion from the state in which the result has left the results in flight is one from the state before. -/
theorem applies_landed (s : State) (r : Result) (seq : Nat) : Applies s (applyResult (landed s r.slot seq) r) r
    ((s.elem (veOfSlot r.slot)).flight.filter (fun q => !(q.slot == r.slot && q.seq == seq))) := by
  have ha := applies_applyResult (landed s r.slot seq) r
  have he := landed_elem s r.slot seq
  obtain ⟨hV, hS⟩ := landed_regs s r seq
  refine ⟨ha.slot, ha.slots, ha.pv.trans hV, ha.ps.trans hS, ha.flight.trans (by rw [he]), ha.bind.trans (by rw [he]), fun u hu => ?_,
    ha.tiles, ha.mem⟩
  rw [ha.elems u hu]
  exact congrArg Elem.unqueued ((State.setElem_elem s _ _ u).trans (if_neg hu))

/-- Settles O45: a completion by what `applyResult` writes, file by file, and the stop of a TRAP by `stops_trapStop`. -/
theorem resultsComplete : Obligations.ResultsComplete := by
  unfold Obligations.ResultsComplete
  intro s n v x mine
  refine ⟨fun r hc hr => ?_, fun hc hr => ?_, fun hc hst => ?_⟩
  · obtain ⟨hslot, hexec⟩ := resultCompletion_applies hc hr
    have hreads := (applies_landed s r s.arg.b).reads
    rw [hslot] at hreads
    exact ⟨_, hexec, hreads⟩
  · refine congrArg Host.Outcome.next ((if_pos hc).trans ?_)
    unfold completeResult
    dsimp only
    rw [hr]
  · have hs := stops_trapStop s.arg.c hst
    obtain ⟨q, hq⟩ := hs.slot
    refine ⟨_, congrArg Host.Outcome.next (if_neg hc), ?_, ?_, ?_, hs.slots, hs.mem⟩ <;> exact (congrArg _ hq).trans rfl

end Sys2Proof.Machine
end

section
/-! # Scratchpad accesses: issue and performance -/

namespace Sys2Proof.Machine

-- Elaborated one after another: these many short proofs at once ask for more threads than the check's memory holds.
set_option Elab.async false

/-! ## Issue (R145 to R147) -/

/-- An access that its checks let through and its ME accepts takes its banks and is on its way. -/
theorem accessBody_sends {maj : Nat} {o : Opnds} {p : State} {me addr ord : Nat} (hon : o.on = true)
    (hrel : maj = 0xA2 → releaseOut p o.slot = false) (hcheck : checkAccess p o maj = .hit me addr ord)
    (horder : orderBlocks p o.slot me ord addr (accessSize maj o.op.var) = false)
    (hacc : accepts p o me (banksOf (accessSize maj o.op.var) addr) = true) :
    accessBody maj o p = { Issued.only (sendAccess (takeBanks p (8 * o.tile + me) (banksOf (accessSize maj o.op.var) addr))
      (accessOf p o maj (accKind maj) (8 * o.tile + me) addr)) with res := accessResult maj o } := by
  have hhold : ¬ (maj = 0xA2 ∧ releaseOut p o.slot = true) := by
    rintro ⟨hm, hr⟩
    rw [hrel hm] at hr
    cases hr
  simp only [accessBody, hon, hcheck, horder, hacc, Bool.not_true, Bool.or_false, Bool.false_eq_true, if_false, if_neg hhold]

theorem issue_sends {i : Op → Instr} {maj : Nat} {s : State} {op : Op} {me addr ord : Nat}
    (hi : exec (i op) s = .next (issueVE maj op (accessBody maj) s)) (h : Ready s maj op) (hon : (opndsOf s maj op).on = true)
    (hrel : maj = 0xA2 → releaseOut (afterPops s op) s.cur = false) (hcheck : checkAccess (afterPops s op) (opndsOf s maj op) maj = .hit me addr ord)
    (horder : orderBlocks (afterPops s op) s.cur me ord addr (accessSize maj op.var) = false)
    (hacc : accepts (afterPops s op) (opndsOf s maj op) me (banksOf (accessSize maj op.var) addr) = true) :
    ∃ t, exec (i op) s = .next t
      ∧ Acts s t maj op (sendAccess (takeBanks (afterPops s op) (8 * tileOfSlot s.cur + me) (banksOf (accessSize maj op.var) addr))
          (accessOf (afterPops s op) (opndsOf s maj op) maj (accKind maj) (8 * tileOfSlot s.cur + me) addr))
        (accessResult maj (opndsOf s maj op)) :=
  ⟨_, hi, acts_of h (accessBody_sends hon hrel hcheck horder hacc) (mcnt_afterPops s op)⟩

/-- The result of an access, by its kind: latency 7 for a load, 9 for an atomic that delivers (R93). -/
theorem accessResult_atomic {maj : Nat} {o : Opnds} (hk : accKind maj = .atomic) :
    accessResult maj o = (if isRet maj o.op.var then some 9 else none).map (fun n => (.value, n, perLane o (fun _ => (0#32, noFlags)))) := by
  simp only [accessResult, hk]
  split <;> rfl

/-! ## The checks trap in order (R146) -/

/-- The first three checks of an access end its issue with a trap. -/
theorem accessBody_traps {maj : Nat} {o : Opnds} {p : State} {c d : Nat} (hon : o.on = true)
    (hrel : maj = 0xA2 → releaseOut p o.slot = false)
    (hcheck : checkCap o.cap (accessNeed maj) (eaOf maj o) (accessSize maj o.op.var) (p.epcDetail o.slot) = some (c, d)) :
    accessBody maj o p = Issued.ends p (.trap c d) := by
  have hhold : ¬ (maj = 0xA2 ∧ releaseOut p o.slot = true) := by
    rintro ⟨hm, hr⟩
    rw [hrel hm] at hr
    cases hr
  simp only [accessBody, hon, Bool.not_true, Bool.false_eq_true, if_false, if_neg hhold, checkAccess, hcheck]

/-- A trap freezes the slot at its instruction; nothing else of the issue happens. -/
theorem issue_traps {i : Op → Instr} {maj : Nat} {s : State} {op : Op} {c d : Nat} {body : Opnds → State → Issued}
    (hi : exec (i op) s = .next (issueVE maj op body s)) (h : Ready s maj op)
    (hb : body (opndsOf s maj op) (afterPops s op) = Issued.ends (afterPops s op) (.trap c d)) :
    ∃ t, exec (i op) s = .next t ∧ (t.slot s.cur).st = .frozen
      ∧ (t.slot s.cur).cause = BitVec.ofNat 32 c ∧ (t.slot s.cur).epc = s.position s.cur ∧ t.mem = s.mem
      ∧ ∀ m, m ≠ s.cur → t.slot m = s.slot m := by
  have hs := stops_trapAt c d s.mcnt (.inl h.running)
  obtain ⟨q, hq⟩ := hs.slot
  have ht : issueVE maj op body s = s.trapAt s.cur c d s.mcnt := by
    simp only [issueVE_ready h, hb]
    rfl
  refine ⟨_, hi, ?_⟩
  rw [ht, hq]
  exact ⟨rfl, rfl, rfl, hs.mem, hs.slots⟩

/-- Settles O20: every access instruction issues by `accessBody`. -/
theorem accessesAreChecked : Obligations.AccessesAreChecked := by
  unfold Obligations.AccessesAreChecked
  refine ⟨fun s op => ?_, fun s op i maj hmem h hon hrel => ?_⟩
  · have atomic (i : Op → Instr) (maj : Nat) (lat : Option Nat) (hi : exec (i op) s = .next (issueVE maj op (accessBody maj) s))
        (hk : accKind maj = .atomic) (hl : (if isRet maj op.var then some 9 else none) = lat) :
        ∀ me addr ord, Ready s maj op → (opndsOf s maj op).on = true → (maj = 0xA2 → releaseOut (afterPops s op) s.cur = false) →
          checkAccess (afterPops s op) (opndsOf s maj op) maj = .hit me addr ord →
          orderBlocks (afterPops s op) s.cur me ord addr (accessSize maj op.var) = false →
          accepts (afterPops s op) (opndsOf s maj op) me (banksOf (accessSize maj op.var) addr) = true →
          ∃ t, exec (i op) s = .next t
            ∧ Acts s t maj op (sendAccess (takeBanks (afterPops s op) (8 * tileOfSlot s.cur + me) (banksOf (accessSize maj op.var) addr))
                (accessOf (afterPops s op) (opndsOf s maj op) maj .atomic (8 * tileOfSlot s.cur + me) addr))
              (lat.map (fun n => (.value, n, perLane (opndsOf s maj op) (fun _ => (0#32, noFlags))))) := by
      intro me addr ord h hon hrel hcheck horder hacc
      have ha := issue_sends hi h hon hrel hcheck horder hacc
      rw [accessResult_atomic hk, hk] at ha
      rw [← hl]
      exact ha
    refine ⟨fun _ _ _ h hon hr hc ho ha => issue_sends (i := .ld) rfl h hon hr hc ho ha,
      fun _ _ _ h hon hr hc ho ha => issue_sends (i := .st) rfl h hon hr hc ho ha,
      fun _ _ _ h hon hr hc ho ha => issue_sends (i := .lda) rfl h hon hr hc ho ha,
      fun _ _ _ h hon hr hc ho ha => issue_sends (i := .strl) rfl h hon hr hc ho ha,
      atomic .aadd 0xB0 _ rfl rfl ?_, atomic .asub 0xB1 _ rfl rfl ?_, atomic .aand 0xB2 _ rfl rfl ?_, atomic .aor 0xB3 _ rfl rfl ?_,
      atomic .axor 0xB4 _ rfl rfl ?_, atomic .amin 0xB5 _ rfl rfl ?_, atomic .amax 0xB6 _ rfl rfl ?_, atomic .axch 0xB7 _ rfl rfl ?_,
      atomic .acas 0xB8 _ rfl rfl ?_, atomic .afadd 0xB9 _ rfl rfl ?_⟩ <;> simp [isRet]
  · have hi : exec (i op) s = .next (issueVE maj op (accessBody maj) s) := by
      simp only [List.mem_cons, Prod.mk.injEq, List.not_mem_nil, or_false] at hmem
      rcases hmem with ⟨rfl, rfl⟩ | ⟨rfl, rfl⟩ | ⟨rfl, rfl⟩ | ⟨rfl, rfl⟩ | ⟨rfl, rfl⟩ | ⟨rfl, rfl⟩ <;> rfl
    intro o ea size traps
    have key (c : Nat) (hc : checkCap o.cap (accessNeed maj) ea size ((afterPops s op).epcDetail s.cur)
        = some (c, (afterPops s op).epcDetail s.cur)) : traps c :=
      issue_traps hi h (accessBody_traps hon hrel hc)
    refine ⟨fun hr => key _ ?_, fun hr hm => key _ ?_, fun hr hm hb => key _ ?_⟩
    · simp only [checkCap, hr, Bool.not_false, if_true]
    · simp only [checkCap, hr, Bool.not_true, Bool.false_eq_true, if_false, if_pos hm]
    · simp only [checkCap, hr, Bool.not_true, Bool.false_eq_true, if_false, hm, ne_eq, not_true_eq_false, if_pos hb]

/-! ## Performance (R147, R148, R159) -/

theorem readNat_congr {m m' : List Host.Cell} {a n : Nat} (h : ∀ k, a ≤ k → k < a + n → readByte m k = readByte m' k) :
    readNat m a n = readNat m' a n := by
  induction n generalizing a with
  | zero => rfl
  | succ n ih =>
    rw [readNat, readNat, h a (Nat.le_refl _) (by omega), ih fun k h1 h2 => h k (by omega) (by omega)]

/-- A store of 16 lanes writes the words of the lanes that are on, and no other byte. -/
theorem writeLanes_words {s : State} (h : Memory.wf s.mem = true) (a : Nat) (m : Mask) (v : Vec) (n : Nat) :
    (∀ l < n, (writeLanes s a m v n).read32 (a + 4 * l) = if m.getLsbD l then lane v l else s.read32 (a + 4 * l))
      ∧ ∀ k, k < a ∨ a + 4 * n ≤ k → readByte (writeLanes s a m v n).mem k = readByte s.mem k := by
  induction n with
  | zero => exact ⟨fun l hl => absurd hl (Nat.not_lt_zero l), fun _ _ => rfl⟩
  | succ n ih =>
    obtain ⟨hw, hb⟩ := ih
    have hwf := wf_writeLanes h a m v n
    simp only [writeLanes]
    by_cases hm : m.getLsbD n = true
    · rw [if_pos hm]
      have hother (k : Nat) (hk : k < a + 4 * n ∨ a + 4 * n + 4 ≤ k) :
          readByte ((writeLanes s a m v n).write (a + 4 * n) (lane v n).toNat 4).mem k = readByte (writeLanes s a m v n).mem k :=
        readByte_writeNat hwf _ _ _ _ hk
      refine ⟨fun l hl => ?_, fun k hk => (hother k (by omega)).trans (hb k (by omega))⟩
      by_cases hln : l = n
      · subst hln
        rw [if_pos hm]
        exact read32_write32 hwf _ _
      · rw [← hw l (by omega)]
        exact congrArg (BitVec.ofNat 32) (readNat_congr fun k h1 h2 => hother k (by omega))
    · rw [if_neg hm]
      refine ⟨fun l hl => ?_, fun k hk => hb k (by omega)⟩
      by_cases hln : l = n
      · subst hln
        rw [if_neg hm]
        exact congrArg (BitVec.ofNat 32) (readNat_congr fun k h1 h2 => hb k (by omega))
      · exact hw l (by omega)

/-- A value given to a result in flight. -/
theorem fillResult_gives (s : State) (n seq size : Nat) (tok : Vec) (w : Word) :
    ∀ r ∈ (s.elem (veOfSlot n)).flight, r.slot = n → r.seq = seq →
      { r with value := bankValue r size tok w } ∈ ((fillResult s n seq size tok w).elem (veOfSlot n)).flight := by
  intro r hr hn hq
  unfold fillResult
  dsimp only
  rw [State.modElem_eq, State.setElem_elem, if_pos rfl]
  refine List.mem_map.mpr ⟨r, hr, ?_⟩
  rw [if_pos ⟨hn, hq⟩]

theorem performs {s : State} {a : Access} (ha : mfind s.accs s.arg.a = some a) (hb : s.arg.b ≠ 0) :
    exec .bankAccessPerform s = .next (performAccess s s.arg.a a) := by
  change Host.Outcome.next (match mfind s.accs s.arg.a with
    | some a => if s.arg.b = 0 then bankRead s s.arg.a a else performAccess s s.arg.a a
    | none => s) = _
  rw [ha]
  exact congrArg Host.Outcome.next (if_neg hb)

theorem performAccess_load {s : State} {a : Access} (id : Nat) (hk : a.kind = .load) : performAccess s id a
    = endAccess (fillResult s a.slot a.seq a.size (s.readTok a.addr) (BitVec.ofNat 32 (s.read a.addr a.size))) id := by
  simp only [performAccess, hk]

theorem performAccess_store {s : State} {a : Access} (id : Nat) (hk : a.kind = .store) :
    performAccess s id a = endAccess (storeBytes s a) id := by
  simp only [performAccess, hk]

theorem performAccess_atomic {s : State} {a : Access} (id : Nat) (hk : a.kind = .atomic) : performAccess s id a
    = endAccess ((fillResult s a.slot a.seq 4 0 (s.read32 a.addr)).write32 a.addr
        (atomicFn a.maj a.var a.cmp (s.read32 a.addr) (lane a.data 0))) id := by
  simp only [performAccess, hk]

/-! ## The functions of the atomics (R159) -/

theorem toInt_ite_slt (x b : Word) : (if b.slt x then b else x).toInt = min x.toInt b.toInt
    ∧ (if x.slt b then b else x).toInt = max x.toInt b.toInt := by
  simp only [BitVec.slt, decide_eq_true_eq]
  constructor <;> split <;> omega

theorem toNat_ite_ult (x b : Word) : (if b.ult x then b else x).toNat = min x.toNat b.toNat
    ∧ (if x.ult b then b else x).toNat = max x.toNat b.toNat := by
  simp only [BitVec.ult, decide_eq_true_eq]
  constructor <;> split <;> omega

/-- Settles O21: a performance by the kind of its access. -/
theorem accessesPerform : Obligations.AccessesPerform := by
  unfold Obligations.AccessesPerform
  refine ⟨fun s a hwf hfind hb => ⟨fun hk => ?_, fun hk hs => ?_, fun hk hs => ?_, fun hk => ?_⟩, fun x b c v => ?_⟩
  · rw [performs hfind hb, performAccess_load _ hk]
    exact ⟨_, rfl, rfl, mfind_mdel_self _ _, fillResult_gives _ _ _ _ _ _⟩
  · rw [performs hfind hb, performAccess_store _ hk, storeBytes, if_neg hs]
    refine ⟨_, rfl, mfind_mdel_self _ _, ?_, fun k hk => readByte_writeNat hwf _ _ _ _ hk⟩
    have hread := readNat_writeNat hwf a.addr ((lane a.data 0).toNat % 2 ^ (8 * a.size)) a.size
    have hpow : (256 : Nat) ^ a.size = 2 ^ (8 * a.size) := by rw [show (256 : Nat) = 2 ^ 8 from rfl, ← Nat.pow_mul]
    rw [hpow, Nat.mod_mod] at hread
    exact hread
  · rw [performs hfind hb, performAccess_store _ hk, storeBytes, if_pos hs]
    obtain ⟨hwords, hbytes⟩ := writeLanes_words hwf a.addr a.lanes a.data 16
    exact ⟨_, rfl, mfind_mdel_self _ _, hwords, hbytes⟩
  · rw [performs hfind hb, performAccess_atomic _ hk]
    exact ⟨_, rfl, mfind_mdel_self _ _, read32_write32 (s := fillResult s a.slot a.seq 4 0 (s.read32 a.addr)) hwf _ _,
      fun k hk => readByte_writeNat hwf _ _ _ _ hk⟩
  · obtain ⟨hmin, hmax⟩ := toInt_ite_slt x b
    obtain ⟨humin, humax⟩ := toNat_ite_ult x b
    refine ⟨rfl, rfl, rfl, rfl, rfl, fun hv => ?_, fun hv => ?_, rfl, rfl⟩
    · simp only [atomicFn, hv, if_true]
      exact ⟨hmin, hmax⟩
    · have hv0 : v % 2 ≠ 0 := by omega
      simp only [atomicFn, if_neg hv0]
      exact ⟨humin, humax⟩

end Sys2Proof.Machine
end

section
/-! # Conversions -/

namespace Sys2Proof.Machine

-- Elaborated one after another: these many short proofs at once ask for more threads than the check's memory holds.
set_option Elab.async false

/-- A conversion delivers five cycles on, and steps the dither register of its slot at once (R23, R46). -/
theorem conv_acts {i : Op → Instr} {maj : Nat} {cv : Op → Word → Conv} (hi : ∀ op s, exec (i op) s = .next (convVE maj op (cv op) s))
    (s : State) (op : Op) (h : Ready s maj op) :
    let o := opndsOf s maj op
    let c := cv op (s.elem o.ve).s5
    ∃ t, exec (i op) s = .next t
      ∧ Acts s t maj op ((afterPops s op).modSlot s.cur (fun x => { x with dth := dthAfter c (s.elem o.ve).s5 o (s.slot s.cur).dth }))
          (some (.value, 5, perLane o (fun l => convLane c (lane (s.slot s.cur).dth l) (lane o.a l)))) :=
  ⟨_, hi op s, acts_of h rfl (mcnt_afterPops s op)⟩

/-- The quantiser takes an input, or releases its block, in no time (R137). -/
theorem mcnt_qblkIssue (o : Opnds) (s : State) : (qblkIssue o s).mcnt = s.mcnt := by
  unfold qblkIssue
  dsimp only
  split
  · exact mcnt_foldl (List.range 32) _ fun _ _ => rfl
  · split <;> rfl

theorem qblk_acts {s : State} {op : Op} (h : Ready s 0x88 op) : ∃ t, exec (.qblk op) s = .next t
    ∧ Acts s t 0x88 op (qblkIssue (opndsOf s 0x88 op) (afterPops s op)) none :=
  ⟨_, rfl, acts_of h rfl ((mcnt_qblkIssue _ _).trans (mcnt_afterPops s op))⟩

/-! ## The dither register (R23) -/

/-- A step shifts right by one and inverts the taps where bit 0 was set. -/
theorem dthStep_eq (w : Word) : dthStep w = (w >>> 1) ^^^ (if w.getLsbD 0 then 0x8020_0003#32 else 0#32) := by
  unfold dthStep
  split
  · rfl
  · exact (BitVec.xor_zero).symm

/-- The top tap sets bit 31, and a word without bit 0 loses no bit. -/
theorem dthStep_ne_zero {w : Word} (h : w ≠ 0#32) : dthStep w ≠ 0#32 := by
  unfold dthStep
  split
  · intro hz
    have h31 : ((w >>> 1) ^^^ 0x80200003#32).getLsbD 31 = true := by
      simp
    rw [hz] at h31
    exact absurd h31 (by decide)
  · next hb =>
    intro hz
    have hodd : w.toNat % 2 = 0 := by
      have : w.getLsbD 0 = decide (w.toNat % 2 = 1) := by simp [BitVec.getLsbD, Nat.testBit_zero]
      rw [this, decide_eq_true_eq] at hb
      omega
    have hs : w.toNat / 2 = 0 := by simpa [Nat.shiftRight_eq_div_pow] using congrArg BitVec.toNat hz
    exact h (BitVec.eq_of_toNat_eq (by simpa using (show w.toNat = 0 by omega)))

theorem dthSteps_ne_zero {w : Word} (h : w ≠ 0#32) (k : Nat) : dthSteps w k ≠ 0#32 := by
  induction k with
  | zero => exact h
  | succ k ih => exact dthStep_ne_zero ih

/-- Settles O7: every conversion issues by `convVE`. -/
theorem conversionsDeliver : Obligations.ConversionsDeliver := by
  unfold Obligations.ConversionsDeliver
  refine ⟨conv_acts (i := .cvtf) (cv := fun op s5 => convFromInt fp32 op.var s5 false) fun _ _ => rfl,
    conv_acts (i := .cvti) (cv := fun op s5 => convToInt fp32 op.var s5 false) fun _ _ => rfl,
    conv_acts (i := .cvth) (cv := fun op s5 => convH op.var s5) fun _ _ => rfl,
    conv_acts (i := .cvtbi) (cv := fun op s5 => convFromInt bf16 op.var s5 true) fun _ _ => rfl,
    conv_acts (i := .cvthi) (cv := fun op s5 => convFromInt fp16 op.var s5 true) fun _ _ => rfl,
    conv_acts (i := .cvtib) (cv := fun op s5 => convToInt bf16 op.var s5 true) fun _ _ => rfl,
    conv_acts (i := .cvtih) (cv := fun op s5 => convToInt fp16 op.var s5 true) fun _ _ => rfl,
    conv_acts (i := .narw) (cv := fun op s5 => convNarw op.var s5) fun _ _ => rfl,
    yields_alu fun _ _ => rfl, fun _ _ => qblk_acts, fun w k => ⟨rfl, dthStep_eq _, fun h => dthSteps_ne_zero h k⟩⟩

end Sys2Proof.Machine
end

section
/-! # Integer results -/

namespace Sys2Proof.Machine

-- Elaborated one after another: these many short proofs at once ask for more threads than the check's memory holds.
set_option Elab.async false

/-! ## One element of 32 bits -/

/-- On 32-bit elements a lane is one element. -/
theorem intLane_32 (f : Nat → Nat → Nat × Flags) (a b : Word) :
    intLane 32 f a b = (BitVec.ofNat 32 (f a.toNat b.toNat).1, (f a.toNat b.toNat).2) := by
  have ha : elemK 32 a 0 = a.toNat := by simp [elemK, Nat.mod_eq_of_lt a.isLt]
  have hb : elemK 32 b 0 = b.toNat := by simp [elemK, Nat.mod_eq_of_lt b.isLt]
  have hn : noFlags ||| (f a.toNat b.toNat).2 = (f a.toNat b.toNat).2 := BitVec.zero_or
  have hm (x : Nat) : BitVec.ofNat 32 (x % 4294967296) = BitVec.ofNat 32 x := by
    apply BitVec.eq_of_toNat_eq
    simp
  simp [intLane, elems, ha, hb, hn, hm]

theorem intLane_plain {f : Nat → Nat → Nat × Flags} {a b w : Word} {x : Nat} (hf : f a.toNat b.toNat = plain x)
    (hx : BitVec.ofNat 32 x = w) : intLane 32 f a b = (w, noFlags) := by
  rw [intLane_32, hf, ← hx]
  rfl

/-- A word as a signed number. -/
theorem sextNat_toNat (a : Word) : sextNat a.toNat 32 = a.toInt := by
  have ha := a.isLt
  rw [sextNat, lowBits, Nat.mod_eq_of_lt ha, BitVec.toInt_eq_toNat_cond]
  split <;> split <;> omega

theorem ofNat_wrapInt (x : Int) : BitVec.ofNat 32 (wrapInt x 32) = BitVec.ofInt 32 x := by
  apply BitVec.eq_of_toNat_eq
  rw [BitVec.toNat_ofNat, BitVec.toNat_ofInt, wrapInt]
  have : (x % 2 ^ 32).toNat < 2 ^ 32 := by omega
  exact Nat.mod_eq_of_lt this

/-- A number below the word's range as a word. -/
theorem ofNat_eq_of_toNat {x : Nat} {w : Word} (h : x = w.toNat) : BitVec.ofNat 32 x = w := by
  rw [h, BitVec.ofNat_toNat, BitVec.setWidth_eq]

/-! ## Sums, products and bits (R113) -/

theorem intLane_add (a b : Word) : intLane 32 (addF 0 32) a b = (a + b, noFlags) := by
  refine intLane_plain rfl ?_
  apply BitVec.eq_of_toNat_eq
  rw [BitVec.toNat_ofNat, BitVec.toNat_add]

theorem intLane_sub (a b : Word) : intLane 32 (subF 0 32) a b = (a - b, noFlags) := by
  refine intLane_plain rfl ((ofNat_wrapInt _).trans ?_)
  apply BitVec.eq_of_toNat_eq
  have hb := b.isLt
  rw [BitVec.toNat_ofInt, BitVec.toNat_sub]
  omega

theorem intLane_mul (a b : Word) : intLane 32 (mulF 0 32) a b = (a * b, noFlags) := by
  refine intLane_plain rfl ?_
  apply BitVec.eq_of_toNat_eq
  rw [BitVec.toNat_ofNat, BitVec.toNat_mul]

/-- The high half of a signed product. -/
theorem intLane_mulh (a b : Word) : intLane 32 (mulF 1 32) a b
    = (((a.signExtend 64 * b.signExtend 64) >>> 32).setWidth 32, noFlags) := by
  refine intLane_plain rfl ((ofNat_wrapInt _).trans ?_)
  have hp : a.signExtend 64 * b.signExtend 64 = BitVec.ofInt 64 (a.toInt * b.toInt) := by
    rw [BitVec.ofInt_mul, ← BitVec.toInt_signExtend_of_le (x := a) (v := 64) (by omega),
      ← BitVec.toInt_signExtend_of_le (x := b) (v := 64) (by omega), BitVec.ofInt_toInt, BitVec.ofInt_toInt]
  rw [hp, sextNat_toNat, sextNat_toNat]
  generalize a.toInt * b.toInt = p
  apply BitVec.eq_of_toNat_eq
  rw [BitVec.toNat_ofInt, BitVec.toNat_setWidth, BitVec.toNat_ushiftRight, BitVec.toNat_ofInt, Nat.shiftRight_eq_div_pow,
    Int.fdiv_eq_ediv_of_nonneg _ (by omega)]
  omega

/-- The high half of an unsigned product. -/
theorem intLane_mulhu (a b : Word) : intLane 32 (mulF 2 32) a b
    = (((a.setWidth 64 * b.setWidth 64) >>> 32).setWidth 32, noFlags) := by
  refine intLane_plain rfl ?_
  have hlt : a.toNat * b.toNat < 2 ^ 64 := Nat.lt_of_lt_of_eq (Nat.mul_lt_mul'' a.isLt b.isLt) (by decide : 2 ^ 32 * 2 ^ 32 = 2 ^ 64)
  have ha : a.toNat % 2 ^ 64 = a.toNat := Nat.mod_eq_of_lt (by have := a.isLt; omega)
  have hb : b.toNat % 2 ^ 64 = b.toNat := Nat.mod_eq_of_lt (by have := b.isLt; omega)
  apply BitVec.eq_of_toNat_eq
  rw [BitVec.toNat_ofNat, BitVec.toNat_setWidth, BitVec.toNat_ushiftRight, BitVec.toNat_mul, BitVec.toNat_setWidth,
    BitVec.toNat_setWidth, Nat.shiftRight_eq_div_pow, ha, hb, Nat.mod_eq_of_lt hlt]

theorem intLane_neg (a b : Word) : intLane 32 (negF 0 32) a b = (-a, noFlags) := by
  refine intLane_plain rfl ((ofNat_wrapInt _).trans ?_)
  rw [sextNat_toNat, BitVec.ofInt_neg, BitVec.ofInt_toInt]

theorem intLane_ite {f : Nat → Nat → Nat × Flags} {a b : Word} {c d : Bool} (hf : f a.toNat b.toNat = plain (if c then b.toNat else a.toNat))
    (hc : c = d) : intLane 32 f a b = (if d then b else a, noFlags) := by
  refine intLane_plain hf ?_
  rw [hc]
  cases d <;> exact ofNat_eq_of_toNat rfl

theorem intLane_min (a b : Word) : intLane 32 (minF 0 32) a b = (if b.slt a then b else a, noFlags)
    ∧ intLane 32 (minF 1 32) a b = (if b.ult a then b else a, noFlags)
    ∧ intLane 32 (maxF 0 32) a b = (if a.slt b then b else a, noFlags)
    ∧ intLane 32 (maxF 1 32) a b = (if a.ult b then b else a, noFlags) := by
  have hs (x y : Word) : decide (sextNat x.toNat 32 < sextNat y.toNat 32) = x.slt y := by
    rw [sextNat_toNat, sextNat_toNat]; rfl
  exact ⟨intLane_ite rfl (hs b a), intLane_ite rfl rfl, intLane_ite rfl (hs a b), intLane_ite rfl rfl⟩

theorem toNat_notN (b : Word) : notN 32 b.toNat = (~~~b).toNat := by
  rw [notN, BitVec.toNat_not, Nat.mod_eq_of_lt b.isLt]

theorem intLane_bits (a b : Word) : intLane 32 (andF 32) a b = (a &&& b, noFlags) ∧ intLane 32 (orF 32) a b = (a ||| b, noFlags)
    ∧ intLane 32 (xorF 32) a b = (a ^^^ b, noFlags) ∧ intLane 32 (andnF 32) a b = (a &&& ~~~b, noFlags)
    ∧ intLane 32 (ornF 32) a b = (a ||| ~~~b, noFlags) :=
  ⟨intLane_plain rfl (ofNat_eq_of_toNat (BitVec.toNat_and a b).symm), intLane_plain rfl (ofNat_eq_of_toNat (BitVec.toNat_or a b).symm),
    intLane_plain rfl (ofNat_eq_of_toNat (BitVec.toNat_xor a b).symm),
    intLane_plain rfl (ofNat_eq_of_toNat (by rw [toNat_notN, BitVec.toNat_and])),
    intLane_plain rfl (ofNat_eq_of_toNat (by rw [toNat_notN, BitVec.toNat_or]))⟩

/-! ## Shifts (R114) -/

theorem intLane_shl (a b : Word) : intLane 32 (shlF 32) a b = (a <<< b.toNat, noFlags) := by
  refine intLane_plain rfl ?_
  split
  · apply BitVec.eq_of_toNat_eq
    rw [BitVec.toNat_ofNat, BitVec.toNat_shiftLeft, Nat.shiftLeft_eq]
  · next h => exact (BitVec.shiftLeft_eq_zero (Nat.not_lt.mp h)).symm

theorem intLane_shr (a b : Word) : intLane 32 (shrF 32) a b = (a >>> b.toNat, noFlags) := by
  refine intLane_plain rfl (ofNat_eq_of_toNat ?_)
  rw [BitVec.toNat_ushiftRight, Nat.shiftRight_eq_div_pow]
  split
  · rfl
  · next h =>
    have hpow : 2 ^ 32 ≤ 2 ^ b.toNat := Nat.pow_le_pow_right (by decide) (Nat.not_lt.mp h)
    exact (Nat.div_eq_of_lt (Nat.lt_of_lt_of_le a.isLt hpow)).symm

/-- An arithmetic shift past the width gives copies of the sign. -/
theorem intLane_asr (a b : Word) : intLane 32 (asrF 32) a b = (a.sshiftRight b.toNat, noFlags) := by
  refine intLane_plain rfl ((ofNat_wrapInt _).trans ?_)
  rw [BitVec.sshiftRight, sextNat_toNat, Int.shiftRight_eq_div_pow, Int.fdiv_eq_ediv_of_nonneg _ (by positivity)]
  congr 1
  have hlo := BitVec.le_toInt a
  have hhi := BitVec.toInt_lt (x := a)
  by_cases h : b.toNat ≤ 31
  · rw [Nat.min_eq_left h]
    norm_cast
  · rw [Nat.min_eq_right (by omega)]
    have hpow : (2 : Int) ^ 31 ≤ ((2 ^ b.toNat : Nat) : Int) := by
      exact_mod_cast Nat.pow_le_pow_right (show 0 < 2 by decide) (by omega : 31 ≤ b.toNat)
    generalize ((2 ^ b.toNat : Nat) : Int) = m at hpow
    by_cases hn : 0 ≤ a.toInt
    · rw [Int.ediv_eq_zero_of_lt hn (by omega), Int.ediv_eq_zero_of_lt hn (by omega)]
    · rw [Int.ediv_eq_neg_one_of_neg_of_le (by omega) (by omega), Int.ediv_eq_neg_one_of_neg_of_le (by omega) (by omega)]

theorem intLane_rol (a b : Word) : intLane 32 (rolF 32) a b = (a.rotateLeft (b.toNat % 32), noFlags) := by
  refine intLane_plain rfl (ofNat_eq_of_toNat ?_)
  rw [BitVec.toNat_rotateLeft, Nat.mod_mod]
  have hc : b.toNat % 32 < 32 := Nat.mod_lt _ (by decide)
  generalize b.toNat % 32 = c at hc
  have hpow : 2 ^ 32 = 2 ^ (32 - c) * 2 ^ c := by rw [← Nat.pow_add]; congr 1; omega
  have hlow : a.toNat / 2 ^ (32 - c) < 2 ^ c := (Nat.div_lt_iff_lt_mul (Nat.two_pow_pos _)).mpr (by
    rw [Nat.mul_comm, ← hpow]; exact a.isLt)
  rw [Nat.shiftLeft_eq, Nat.shiftRight_eq_div_pow, hpow, Nat.mul_mod_mul_right, ← Nat.shiftLeft_eq,
    Nat.shiftLeft_add_eq_or_of_lt hlow]

/-! ## Division (R115) -/

theorem divRem_zero (signed : Bool) (n a : Nat) : divRem signed n a 0 = (2 ^ n - 1, a, fDZ) := if_pos rfl

theorem divRem_unsigned {n a b : Nat} (h : b ≠ 0) : divRem false n a b = (a / b, a % b, noFlags) := by
  rw [divRem, if_neg h]
  rfl

/-- A signed quotient truncates; the one that overflows is the dividend. -/
theorem divRem_signed (a b : Word) (h : b.toNat ≠ 0) : divRem true 32 a.toNat b.toNat = ((a.sdiv b).toNat, (a.srem b).toNat, noFlags) := by
  have hdiv : a.sdiv b = BitVec.ofInt 32 (a.toInt.tdiv b.toInt) := by
    apply BitVec.eq_of_toInt_eq
    rw [BitVec.toInt_sdiv, BitVec.toInt_ofInt]
  have hrem : a.srem b = BitVec.ofInt 32 (a.toInt.tmod b.toInt) := by
    rw [← BitVec.toInt_srem, BitVec.ofInt_toInt]
  have hword (x : Int) : wrapInt x 32 = (BitVec.ofInt 32 x).toNat := by rw [BitVec.toNat_ofInt]; rfl
  rw [divRem, if_neg h, if_pos rfl]
  dsimp only
  rw [sextNat_toNat, sextNat_toNat]
  split
  · next hov =>
    obtain ⟨ha, hb⟩ := hov
    have hq : a.sdiv b = a := by
      rw [hdiv, hb, Int.tdiv_neg, Int.tdiv_one]
      have : BitVec.ofInt 32 (-a.toInt) = BitVec.ofInt 32 a.toInt := by rw [ha]; decide
      rw [this, BitVec.ofInt_toInt]
    rw [hq, hrem, hb, Int.tmod_neg, Int.tmod_one]
    rfl
  · rw [hword, hword, hdiv, hrem]

theorem toNat_ne_zero {b : Word} (h : b ≠ 0) : b.toNat ≠ 0 := fun hz => h (BitVec.eq_of_toNat_eq (by rw [hz]; rfl))

/-- A division by zero gives its stated word and raises DZ; any other gives `q`. -/
theorem intLane_divide {f : Nat → Nat → Nat × Flags} {a b z q : Word} (hz : b = 0 → (BitVec.ofNat 32 (f a.toNat 0).1, (f a.toNat 0).2) = (z, fDZ))
    (hq : b ≠ 0 → f a.toNat b.toNat = (q.toNat, noFlags)) : intLane 32 f a b = (if b = 0 then (z, fDZ) else (q, noFlags)) := by
  rw [intLane_32]
  split
  · next h => rw [show b.toNat = 0 by rw [h]; rfl, hz h]
  · next h =>
    rw [hq h]
    exact congrArg (·, noFlags) (ofNat_eq_of_toNat rfl)

theorem intLane_div (a b : Word) :
    intLane 32 (divF 0 32) a b = (if b = 0 then (0xFFFF_FFFF#32, fDZ) else (a.sdiv b, noFlags))
    ∧ intLane 32 (divF 1 32) a b = (if b = 0 then (0xFFFF_FFFF#32, fDZ) else (a.udiv b, noFlags))
    ∧ intLane 32 (remF 0 32) a b = (if b = 0 then (a, fDZ) else (a.srem b, noFlags))
    ∧ intLane 32 (remF 1 32) a b = (if b = 0 then (a, fDZ) else (a.umod b, noFlags)) := by
  refine ⟨intLane_divide (fun _ => ?_) fun h => ?_, intLane_divide (fun _ => ?_) fun h => ?_, intLane_divide (fun _ => ?_) fun h => ?_,
    intLane_divide (fun _ => ?_) fun h => ?_⟩
  · rw [divF, divRem_zero]
    rfl
  · have hr : ((0 : BitVec 3) == 0) = true := rfl
    rw [divF, hr, divRem_signed a b (toNat_ne_zero h)]
  · rw [divF, divRem_zero]
    rfl
  · have hr : ((1 : BitVec 3) == 0) = false := rfl
    rw [divF, hr, divRem_unsigned (toNat_ne_zero h), BitVec.udiv_eq, BitVec.toNat_udiv]
  · rw [remF, divRem_zero]
    exact congrArg (·, fDZ) (ofNat_eq_of_toNat rfl)
  · have hr : ((0 : BitVec 3) == 0) = true := rfl
    rw [remF, hr, divRem_signed a b (toNat_ne_zero h)]
  · rw [remF, divRem_zero]
    exact congrArg (·, fDZ) (ofNat_eq_of_toNat rfl)
  · have hr : ((1 : BitVec 3) == 0) = false := rfl
    rw [remF, hr, divRem_unsigned (toNat_ne_zero h), BitVec.umod_eq, BitVec.toNat_umod]

/-! ## Saturation (R36) -/

/-- A clamp to a range that is not empty, and its flag. -/
theorem clampInt_eq {x lo hi : Int} (h : lo ≤ hi) :
    clampInt x lo hi = (max lo (min hi x), if max lo (min hi x) = x then noFlags else fSAT) := by
  unfold clampInt
  split
  · rw [max_eq_left (by omega), if_neg (by omega)]
  · split
    · rw [min_eq_left (by omega), max_eq_right h, if_neg (by omega)]
    · rw [min_eq_right (by omega), max_eq_right (by omega), if_pos rfl]

theorem sats_eq (x : Int) (n : Nat) : pat n (sats x n) =
    (wrapInt (max (-(2 ^ (n - 1) : Int)) (min (2 ^ (n - 1) - 1) x)) n,
      if max (-(2 ^ (n - 1) : Int)) (min (2 ^ (n - 1) - 1) x) = x then noFlags else fSAT) := by
  have hp : (0 : Int) < 2 ^ (n - 1) := by positivity
  rw [sats, clampInt_eq (by omega)]
  rfl

theorem wrapInt_natCast {c n : Nat} (h : c < 2 ^ n) : wrapInt (c : Int) n = c := by
  rw [wrapInt]
  have : ((c : Int) % (2 ^ n : Int)) = ((c % 2 ^ n : Nat) : Int) := by norm_cast
  rw [this, Nat.mod_eq_of_lt h, Int.toNat_natCast]

/-- An unsigned clamp of a number that is not negative. -/
theorem satu_natCast (x n : Nat) : pat n (satu (x : Int) n) = (min (2 ^ n - 1) x, if min (2 ^ n - 1) x = x then noFlags else fSAT) := by
  have hp : 0 < 2 ^ n := Nat.two_pow_pos n
  have hcast : ((2 : Int) ^ n - 1) = ((2 ^ n - 1 : Nat) : Int) := by push_cast [Nat.one_le_iff_ne_zero.mpr hp.ne']; rfl
  have hc : max 0 (min ((2 : Int) ^ n - 1) (x : Int)) = ((min (2 ^ n - 1) x : Nat) : Int) := by rw [hcast]; omega
  rw [satu, clampInt_eq (by omega), pat, hc]
  dsimp only
  rw [wrapInt_natCast (by omega)]
  simp only [Nat.cast_inj]

/-- An unsigned clamp of a negative number. -/
theorem satu_neg {x : Int} {n : Nat} (h : x < 0) : pat n (satu x n) = (0, fSAT) := by
  rw [satu, clampInt, if_pos h, pat]
  simp [wrapInt]

theorem subF_unsigned {n a b : Nat} (ha : a < 2 ^ n) : subF 2 n a b = (a - b, if a < b then fSAT else noFlags) := by
  change pat n (satu ((a : Int) - b) n) = _
  by_cases h : a < b
  · rw [satu_neg (by omega), if_pos h, Nat.sub_eq_zero_of_le (Nat.le_of_lt h)]
  · have hx : (a : Int) - b = ((a - b : Nat) : Int) := by omega
    have hm : min (2 ^ n - 1) (a - b) = a - b := by omega
    rw [hx, satu_natCast, hm, if_pos rfl, if_neg h]

/-! ## Elements (R37, R97) -/

/-- The elements of a lane stand side by side: none reaches into another. -/
theorem elems_toNat {n : Nat} (f : Nat → Nat × Flags) (m : Nat) (h : n * m ≤ 32) :
    (elems n f m).1.toNat < 2 ^ (n * m) ∧ ∀ k < m, elemK n (elems n f m).1 k = (f k).1 % 2 ^ n := by
  induction m with
  | zero => exact ⟨by simp [elems], fun k hk => absurd hk (Nat.not_lt_zero k)⟩
  | succ m ih =>
    have hm : n * m ≤ 32 := Nat.le_trans (Nat.mul_le_mul_left n (Nat.le_succ m)) h
    obtain ⟨hlt, hk⟩ := ih hm
    have hx : (f m).1 % 2 ^ n < 2 ^ n := Nat.mod_lt _ (Nat.two_pow_pos n)
    have hxm : (f m).1 % 2 ^ n * 2 ^ (n * m) + 2 ^ (n * m) ≤ 2 ^ (n * (m + 1)) := by
      rw [Nat.mul_succ, Nat.pow_add, Nat.mul_comm (2 ^ (n * m)), ← Nat.succ_mul]
      exact Nat.mul_le_mul_right _ hx
    have h32 : 2 ^ (n * (m + 1)) ≤ 2 ^ 32 := Nat.pow_le_pow_right (by decide) h
    have hw : (elems n f (m + 1)).1.toNat = (f m).1 % 2 ^ n * 2 ^ (n * m) + (elems n f m).1.toNat := by
      have hsmall : (f m).1 % 2 ^ n * 2 ^ (n * m) < 2 ^ 32 := by
        have := Nat.two_pow_pos (n * m)
        omega
      simp only [elems]
      rw [BitVec.toNat_or, BitVec.toNat_ofNat, Nat.mod_eq_of_lt hsmall, Nat.or_comm, ← Nat.shiftLeft_eq,
        Nat.shiftLeft_add_eq_or_of_lt hlt]
    refine ⟨by omega, fun k hk1 => ?_⟩
    rw [elemK, hw]
    rcases Nat.lt_succ_iff_lt_or_eq.mp hk1 with hlt' | rfl
    · rw [← hk k hlt', elemK]
      have hpow : 2 ^ (n * m) = 2 ^ (n * (m - 1 - k)) * 2 ^ n * 2 ^ (n * k) := by
        rw [← Nat.pow_add, ← Nat.pow_add]
        congr 1
        rw [← Nat.mul_succ, ← Nat.mul_add]
        congr 1
        omega
      rw [hpow, ← Nat.mul_assoc, Nat.add_comm, Nat.add_mul_div_right _ _ (Nat.two_pow_pos _), ← Nat.mul_assoc,
        Nat.add_mul_mod_self_right]
    · rw [Nat.add_comm, Nat.add_mul_div_right _ _ (Nat.two_pow_pos _), Nat.div_eq_of_lt hlt, Nat.zero_add, Nat.mod_mod]

/-- Settles O3: a lane of one element by words, the clamps by `clampInt_eq`, and elements by `elems_toNat`. -/
theorem integerWords : Obligations.IntegerWords := by
  unfold Obligations.IntegerWords
  refine ⟨fun a b => ?_, fun n a b hn ha hb => ⟨sats_eq _ n, satu_natCast (a + b) n, sats_eq _ n, subF_unsigned ha⟩, fun n f a b k hn hk => ?_⟩
  · obtain ⟨hmin, hminu, hmax, hmaxu⟩ := intLane_min a b
    obtain ⟨hand, hor, hxor, handn, horn⟩ := intLane_bits a b
    exact ⟨intLane_add a b, intLane_sub a b, intLane_mul a b, intLane_mulh a b, intLane_mulhu a b, intLane_neg a b, hmin, hminu, hmax, hmaxu,
      hand, hor, hxor, handn, horn, intLane_shl a b, intLane_shr a b, intLane_asr a b, intLane_rol a b, intLane_div a b⟩
  · refine (elems_toNat _ _ ?_).2 k hk
    rcases hn with rfl | rfl | rfl <;> decide

end Sys2Proof.Machine
end

section
/-! # Stream-port walks -/

namespace Sys2Proof.Machine

-- Elaborated one after another: these many short proofs at once ask for more threads than the check's memory holds.
set_option Elab.async false

/-! ## Read walks (R295) -/

/-- A walk whose next token has come presents it, once in a cycle. -/
theorem presentPlain_presents {s : State} {m : Nat} {tok : Token} (hw : (s.sport m).walking = false)
    (hg : mfind (s.sport m).got (s.sport m).pos = some tok) (hl : (s.sport m).lastShown ≠ s.mcnt + 1) :
    Plans (s.setSport m { s.sport m with
        present := (s.sport m).present ++ [tok], got := mdel (s.sport m).got (s.sport m).pos, asked := (s.sport m).asked - 1
        pos := (s.sport m).pos + 1, toks := ((s.sport m).toks + 1) % 2 ^ 24, lastShown := s.mcnt + 1
        state := if (s.sport m).pos + 1 = walkTokens (s.sport m).mapw then 2 else (s.sport m).state }) (presentPlain s m) := by
  unfold presentPlain
  simp only [hw, hg, if_neg hl, Bool.false_eq_true, if_false]
  exact Plans.ite ((Plans.refl _).planOnce _ _ _ _ _ _) (Plans.refl _)

/-- A presentation is an event of a walk that runs. -/
theorem readWalk_presents {s : State} (hw : (s.sport s.arg.a).walk = s.arg.b) (hs : (s.sport s.arg.a).state = 1)
    (hd : (s.sport s.arg.a).dir = false) (hc : s.arg.c = 2) (hb : (s.sport s.arg.a).bfp = false) :
    exec .readWalkTokenPresent s = .next (presentPlain s s.arg.a) := by
  change execReadWalkTokenPresent s = _
  simp [execReadWalkTokenPresent, hw, hs, hd, hc, hb]

/-! ## Write walks (R295) -/

theorem cutPart_cons (p : Part) : ∃ q r, cutPart p = q :: r ∧ q.pa = p.pa := by
  unfold cutPart
  dsimp only
  split
  · exact ⟨_, _, rfl, rfl⟩
  · exact ⟨_, _, rfl, rfl⟩

/-- Writes to the port's own ME are performed three cycles on. -/
theorem sendWrite_own {s : State} {m id : Nat} {ps : List Part} {poison : Bool} (h : 2 ^ 40 ≤ (ps.headD ⟨0, 0, 0, 0⟩).pa) :
    sendWrite s m id (ps.flatMap cutPart) poison = s.planN (s.mcnt + 3) rkPerform .writeWalkTokenPerform m id := by
  cases ps with
  | nil => exact absurd h (by decide)
  | cons p r =>
    obtain ⟨q, l, hq, hpa⟩ := cutPart_cons p
    have hq40 : 2 ^ 40 ≤ q.pa := by rw [hpa]; exact h
    simp only [List.flatMap_cons, hq, List.cons_append, sendWrite, if_pos hq40]

/-- Tokens that go to no UN page are accepted and sent at once. -/
theorem acceptPlain_now {s : State} {m : Nat} {w : WToken} {ps : List (Part × Nat)} (h : ∀ x ∈ ps, x.2 ≠ 2) :
    acceptPlain s m w ps = sendWrite (s.modSport m (fun p => { p with
      accepted := p.accepted ++ [{ w with parts := (plainParts ps).flatMap cutPart }] })) m w.id ((plainParts ps).flatMap cutPart) w.tok.poison := by
  have hun : ps.filter (fun p => p.2 == 2) = [] := List.filter_eq_nil_iff.mpr fun x hx => by simpa using h x hx
  have hnow : ps.filter (fun p => p.2 != 2) = ps := List.filter_eq_self.mpr fun x hx => by simpa using h x hx
  simp [acceptPlain, hun, hnow, plainParts]

/-- Room in a stream input lets tokens leave, and moves nothing else. -/
theorem wakeInput_queues (s : State) (m : Nat) : QueuesOnly s (wakeInput s m) ∧ s.agenda ⊆ (wakeInput s m).agenda := by
  constructor
  · refine QueuesOnly.foldl _ (fun a i => ?_) _ (QueuesOnly.refl s)
    split
    · exact (QueuesOnly.refl a).drainOut _ _ _
    · exact QueuesOnly.refl a
  · refine agenda_foldl _ _ fun a i => ?_
    split
    · exact agenda_drainOut _ _ _ _
    · exact fun _ h => h

theorem takeBanks_sport (s : State) (m n : Nat) (b : Mask) : (takeBanks s m b).sport n = s.sport n := rfl
theorem fresh_sport (s : State) (n : Nat) : s.fresh.2.sport n = s.sport n := rfl
theorem fresh_number (s : State) : s.fresh.1 = s.nextId := rfl

/-- The head of the stream input of a write walk is taken where it writes to the port's own ME, whose banks are free. -/
theorem takeInput_own {s : State} {m : Nat} {k : WToken} {rest : List WToken} {ps : List (Part × Nat)} (hs : (s.sport m).state = 1)
    (hd : (s.sport m).dir = true) (hw : (s.sport m).walking = false) (hb : (s.sport m).bfp = false) (hi : (s.sport m).input = k :: rest)
    (hp : writeParts s m (s.sport m).pos k.tok = .ok ps) (hun : ∀ x ∈ ps, x.2 ≠ 2) (hwait : writeWaits s m k ps = false)
    (hown : 2 ^ 40 ≤ ((plainParts ps).headD ⟨0, 0, 0, 0⟩).pa) (hbank : bankTaken s m = 0#16) :
    ∃ u : State, takeInput s m = wakeInput (u.planN (s.mcnt + 3) rkPerform .writeWalkTokenPerform m s.nextId) m
      ∧ u.mem = s.mem ∧ u.slots = s.slots ∧ (u.sport m).pos = (s.sport m).pos + 1
      ∧ (u.sport m).toks = ((s.sport m).toks + 1) % 2 ^ 24
      ∧ (u.sport m).accepted
        = (s.sport m).accepted ++ [{ k with pos := (s.sport m).pos, id := s.nextId, parts := (plainParts ps).flatMap cutPart }] := by
  have hany : ps.any (fun p => p.2 == 2) = false := List.any_eq_false.mpr fun x hx => by simpa using hun x hx
  unfold takeInput
  simp only [hi, hs, hd, hw, hb, hp, hwait, hany, hbank, hown, ne_eq, not_true_eq_false, Bool.not_true, Bool.not_false,
    Bool.false_eq_true, or_self, if_false, and_self, if_true, acceptPlain_now hun]
  refine ⟨_, congrArg (wakeInput · m) (sendWrite_own hown), rfl, rfl, ?_⟩
  simp [takeBanks_sport, fresh_sport, fresh_number]

/-- What is written to memory as one run of bytes is read back there. -/
theorem readNat_writeNat_of_lt {m : List Host.Cell} (h : Memory.wf m = true) (a n : Nat) {v : Nat} (hv : v < 2 ^ (8 * n)) :
    readNat (writeNat m a v n) a n = v := by
  rw [readNat_writeNat h, show (256 : Nat) = 2 ^ 8 from rfl, ← Nat.pow_mul, Nat.mod_eq_of_lt hv]

/-- The tokens of a number whose writes have all been performed leave the port. -/
theorem writeDone_accepted (s : State) (m id : Nat) :
    ((writeDone s m id (writesOf s m id).1).sport m).accepted = (s.sport m).accepted.filter (fun t => t.id != id) := by
  let ps := (writesOf s m id).1
  let strip (t : WToken) : WToken := if t.id = id then { t with parts := t.parts.filter (fun q => !ps.contains q) } else t
  have hid (t : WToken) : (strip t).id = t.id := by simp only [strip]; split <;> rfl
  have hempty : ((s.sport m).accepted.map strip).all (fun t => t.id != id || t.parts.isEmpty) = true := by
    rw [List.all_map, List.all_eq_true]
    intro t ht
    by_cases h : t.id = id
    · have hnone : t.parts.filter (fun q => !ps.contains q) = [] := by
        refine List.filter_eq_nil_iff.mpr fun q hq => ?_
        have hmem : q ∈ ps := List.mem_flatMap.mpr ⟨t, List.mem_filter.mpr ⟨ht, by simpa using h⟩, hq⟩
        simp [hmem]
      have hstrip : (strip t).parts = [] := (congrArg WToken.parts (if_pos h)).trans hnone
      simp [hstrip]
    · simp [strip, h]
  have hfilter : ((s.sport m).accepted.map strip).filter (fun t => t.id != id) = (s.sport m).accepted.filter (fun t => t.id != id) := by
    induction (s.sport m).accepted with
    | nil => rfl
    | cons t l ih =>
      rw [List.map_cons, List.filter_cons, List.filter_cons, hid, ih]
      split
      · next h =>
        have hne : t.id ≠ id := by simpa using h
        simp [strip, hne]
      · rfl
  rw [writeDone, State.modSport_eq, State.setSport_sport, if_pos rfl]
  exact (if_pos hempty).trans hfilter

/-! ## Merged tokens (R249) -/

/-- From `s` to `t` requests and events have been put on their way; ports, tiles, memory and slots are as they were. -/
structure OnWay (s t : State) : Prop where
  sports : t.sports = s.sports
  tiles : t.tiles = s.tiles
  mem : t.mem = s.mem
  slots : t.slots = s.slots

theorem OnWay.refl (s : State) : OnWay s s := ⟨rfl, rfl, rfl, rfl⟩
theorem OnWay.trans {s t u : State} (h : OnWay s t) (g : OnWay t u) : OnWay s u :=
  ⟨g.sports.trans h.sports, g.tiles.trans h.tiles, g.mem.trans h.mem, g.slots.trans h.slots⟩

theorem OnWay.foldl {β : Type} {f : State → β → State} (hf : ∀ a b, OnWay a (f a b)) (l : List β) (s : State) : OnWay s (l.foldl f s) :=
  List.foldlRecOn (motive := fun t => OnWay s t) l f (OnWay.refl s) fun a ha b _ => ha.trans (hf a b)

theorem onWay_sendFrom (s : State) (c : Nat) (p : Packet) (lead : Nat) : OnWay s (s.sendFrom c p lead) := by
  unfold State.sendFrom
  split <;> exact ⟨rfl, rfl, rfl, rfl⟩

theorem onWay_send (s : State) (p : Packet) (lead : Nat) : OnWay s (s.send p lead) := onWay_sendFrom s s.mcnt p lead

theorem onWay_sendReq (s : State) (r : Req) : OnWay s (sendReq s r) := by
  unfold sendReq
  dsimp only
  split
  · refine OnWay.trans ?_ (onWay_send _ _ _)
    exact ⟨rfl, rfl, rfl, rfl⟩
  · split
    · exact ⟨rfl, rfl, rfl, rfl⟩
    · refine OnWay.trans ?_ (onWay_send _ _ _)
      exact ⟨rfl, rfl, rfl, rfl⟩

theorem onWay_sendWrite (s : State) (m id : Nat) (ps : List Part) (poison : Bool) : OnWay s (sendWrite s m id ps poison) := by
  cases ps with
  | nil => exact ⟨rfl, rfl, rfl, rfl⟩
  | cons q r =>
    unfold sendWrite
    dsimp only
    split
    · exact ⟨rfl, rfl, rfl, rfl⟩
    · exact OnWay.foldl (fun a g => onWay_sendReq a _) _ _

/-- A flush sends the merged tokens: they stand among the accepted ones. -/
theorem onWay_flushPort (s : State) (m : Nat) :
    OnWay (s.modSport m (fun p => { p with accepted := p.accepted ++ p.merge, merge := [] })) (flushPort s m) := by
  refine OnWay.foldl (fun a x => ?_) _ _
  split
  · exact ⟨rfl, rfl, rfl, rfl⟩
  · exact onWay_sendWrite _ _ _ _ _

/-- Settles O31: each event by its equation in the case that the statement names. -/
theorem streamPortsWalk : Obligations.StreamPortsWalk := by
  unfold Obligations.StreamPortsWalk
  intro s m p
  refine ⟨fun tok hw hs hd hc hb hwalk hg hl => ?_, fun k rest ps hc hs hd hw hb hi hp hun hwait hown hbank => ?_, fun hwf => ?_,
    fun hb hbfp => ?_, fun hb hbank => ?_⟩
  · have h := presentPlain_presents hwalk hg hl
    rw [hs] at h
    have hsport (j : Nat) := (h.keeps (State.sport · j) fun _ => rfl).trans (State.setSport_sport s m _ j)
    exact ⟨_, readWalk_presents hw hs hd hc hb, (hsport m).trans (if_pos rfl), h.mem, h.slots, fun j hj => (hsport j).trans (if_neg hj)⟩
  · obtain ⟨u, hu, hmem, hslots, hpos, htoks, hacc⟩ := takeInput_own hs hd hw hb hi hp hun hwait hown hbank
    obtain ⟨hq, ha⟩ := wakeInput_queues (u.planN (s.mcnt + 3) rkPerform .writeWalkTokenPerform m s.nextId) m
    have hsp := hq.sport m
    refine ⟨_, congrArg Host.Outcome.next (if_neg (by rw [hc]; decide)), ?_⟩
    change ((takeInput s m).sport m).pos = _ ∧ ((takeInput s m).sport m).toks = _ ∧ ((takeInput s m).sport m).accepted = _
      ∧ _ ∈ (takeInput s m).agenda ∧ (takeInput s m).mem = _ ∧ (takeInput s m).slots = _
    rw [hu]
    exact ⟨(congrArg SPort.pos hsp :).trans hpos, (congrArg SPort.toks hsp :).trans htoks, (congrArg SPort.accepted hsp :).trans hacc,
      ha ((mem_plan _ _ _ _ _).mpr (.inl rfl)), hq.mem.trans hmem, hq.slots.trans hslots⟩
  · refine ⟨_, rfl, ?_, rfl, fun a ha => readByte_storeParts hwf _ a ha, fun q hq hval => ?_⟩
    · exact writeDone_accepted (scatter s (writesOf s m s.arg.b).2 (writesOf s m s.arg.b).1) m s.arg.b
    · change readNat (storeParts s.mem (writesOf s m s.arg.b).1) q.pa q.n = q.val
      rw [hq]
      exact readNat_writeNat_of_lt hwf _ _ hval
  · have h := onWay_flushPort s m
    have hsport : (flushPort s m).sport m = { p with accepted := p.accepted ++ p.merge, merge := [] } := by
      rw [State.sport, h.sports]
      exact (State.setSport_sport s m _ m).trans (if_pos rfl)
    refine ⟨_, congrArg Host.Outcome.next ((if_pos hb).trans (if_neg (by rw [hbfp]; decide))), ?_, ?_, h.mem⟩ <;>
      exact (congrArg _ hsport).trans rfl
  · refine ⟨_, congrArg Host.Outcome.next ((if_neg hb).trans (if_neg (not_not_intro hbank))), ?_, rfl, rfl, rfl⟩
    exact (mem_plan _ _ _ _ _).mpr (.inl rfl)

end Sys2Proof.Machine
end

section
/-! # Memory requests, table walks and fills come to their ends (O32) -/

namespace Sys2Proof.Machine

-- Elaborated one after another: these many short proofs at once ask for more threads than the check's memory holds.
set_option Elab.async false

/-! ## The Vault's banks (R283, R285) -/

/-- Between points of one die there is no link to cross. -/
theorem pathOf_sameDie (d : Nat) (t : Option Nat) : pathOf d none d t = (0, []) := by simp [pathOf, route, hopsOf]

/-- Only a write of a copy waits behind other tokens. -/
theorem behindToken_eq_false {s : State} {r : Req} (h : r.write = false ∨ ∀ id ix, r.who ≠ .copy id ix) : behindToken s r = false := by
  unfold behindToken
  split
  · next id ix hw =>
    rcases h with h | h
    · simp [h]
    · exact absurd hw (h id ix)
  · rfl

/-- A request that is first at its free bank is performed. -/
theorem vaultBankEvent_performs {s : State} {r : Req} (hr : mfind s.reqs s.arg.a = some r) (hbank : mfind s.banks (reqBank r) ≠ some s.mcnt)
    (hfirst : outranked s s.arg.a r = false) (hbehind : behindToken s r = false) :
    exec .vaultBankEvent s = .next
      (if r.write then
        replyWrite (scatter { s with banks := mset s.banks (reqBank r) s.mcnt, reqs := mdel s.reqs s.arg.a } r.poison r.parts) r
      else sendReply { s with banks := mset s.banks (reqBank r) s.mcnt } s.arg.a r (reqBank r / 32) 14 (gatherTok s r.valid r.parts)) := by
  change execVaultBankEvent s = _
  simp [execVaultBankEvent, hr, hbank, hfirst, hbehind]

/-- What the end of a write tells its master changes no memory, no bank and no request, but for a copy. -/
theorem replyWrite_keeps {s : State} {r : Req} (hp : parkedAt s r = none) (hw : ∀ id ix, r.who ≠ .copy id ix) :
    (replyWrite s r).mem = s.mem ∧ (replyWrite s r).banks = s.banks ∧ (replyWrite s r).reqs = s.reqs := by
  unfold replyWrite
  simp only [hp]
  split
  · exact ⟨rfl, rfl, rfl⟩
  · next id ix h => exact absurd h (hw id ix)
  · exact ⟨rfl, rfl, rfl⟩
  · exact ⟨rfl, rfl, rfl⟩

/-- A reply to a master of the same die crosses no link. -/
theorem sendReply_sameDie (s : State) (id : Nat) {r : Req} {d : Nat} (extra : Nat) (tok : Token) (hd : r.die = d) (h4 : r.die < 4) :
    sendReply s id r d extra tok
      = s.plan (s.mcnt + extra) rkArrive (.ev .vaultReadReply { Arg.of id 0 0 0 0 with tok := tok }) := by
  have hport : d ≠ portDie := by rw [← hd]; exact Nat.ne_of_lt h4
  simp only [sendReply, hd, pathOf_sameDie, if_neg hport]
  rfl

/-! ## Walks of the radix table (R293, R294) -/

section
variable {s : State} {w : WalkReq} {rest : List WalkReq} (hb : s.arg.b = 0) (hw : (s.tile s.arg.a).walks = w :: rest) (hid : w.id = s.arg.c)
include hb hw hid

/-- The entry that the walk at the head has read ends it. -/
theorem translationWalkComplete_ends {e : WalkEnd}
    (he : radixEntry w.va (radixBits.getD w.level (12, 4)).1 (decide (3 ≤ w.level)) (s.arg.tok.data.setWidth 64) = .inl e) :
    exec .translationWalkComplete s = .next (walkEnds s s.arg.a w rest e) := by
  change execTranslationWalkComplete s = _
  simp only [execTranslationWalkComplete, hb, hw, hid, he, ne_eq, not_true_eq_false, if_false,
    show ¬ (0 = 1) by decide, show ¬ (0 = 3) by decide, show ¬ (0 = 2) by decide]

/-- The entry that the walk at the head has read names its next table. -/
theorem translationWalkComplete_descends {table : Nat}
    (he : radixEntry w.va (radixBits.getD w.level (12, 4)).1 (decide (3 ≤ w.level)) (s.arg.tok.data.setWidth 64) = .inr table) :
    exec .translationWalkComplete s = .next
      (readEntry (s.modTile s.arg.a (fun x => { x with walks := { w with table := table, level := w.level + 1 } :: rest })) s.arg.a) := by
  change execTranslationWalkComplete s = _
  simp only [execTranslationWalkComplete, hb, hw, hid, he, ne_eq, not_true_eq_false, if_false,
    show ¬ (0 = 1) by decide, show ¬ (0 = 3) by decide, show ¬ (0 = 2) by decide]

end

theorem readEntry_nil {s : State} {t : Nat} (h : (s.tile t).walks = []) : readEntry s t = s := by
  unfold readEntry; rw [h]

/-- The walk at the head of a tile's queue asks for its next entry: memory, slots and the other state of the tile stay. -/
theorem readEntry_cons {s : State} {t : Nat} {w : WalkReq} {rest : List WalkReq} (h : (s.tile t).walks = w :: rest) :
    OnWay (s.modTile t (fun x => { x with walks := { w with busy := true } :: rest })) (readEntry s t) := by
  unfold readEntry
  simp only [h]
  split
  · exact ⟨rfl, rfl, rfl, rfl⟩
  · exact onWay_sendReq _ _

theorem OnWay.tile {s t : State} (h : OnWay s t) (n : Nat) : t.tile n = s.tile n := by simp only [State.tile, h.tiles]

theorem onWay_planOnce (s : State) (c r : Nat) (i : Instr) (a b d : Nat) : OnWay s (planOnce s c r i a b d) := by
  unfold planOnce
  dsimp only
  split <;> exact ⟨rfl, rfl, rfl, rfl⟩

/-- The last walk of a tile that finds its page puts it into the translation cache. -/
theorem walkEnds_page {s : State} {t : Nat} {w : WalkReq} {base size pa ord : Nat} {ro : Bool} :
    let u := walkEnds s t w [] (.page base size pa ord ro)
    (u.tile t).walks = [] ∧ u.mem = s.mem ∧ u.slots = s.slots
      ∧ (u.tile t).tcache = (if (s.tile t).tcache.length < 64 then (s.tile t).tcache else (s.tile t).tcache.tail)
        ++ [{ ctx := w.ctx, gen := s.genOn (dieOfTile t) w.ctx, base := base, size := size, pa := pa, ord := ord, ro := ro }] := by
  intro u
  let e : PageEntry := { ctx := w.ctx, gen := s.genOn (dieOfTile t) w.ctx, base := base, size := size, pa := pa, ord := ord, ro := ro }
  let f := fillPage (s.modTile t (fun x => { x with walks := [] })) t e
  have hwalks : (f.tile t).walks = [] := by simp [f, fillPage]
  have hcache : (f.tile t).tcache
      = (if (s.tile t).tcache.length < 64 then (s.tile t).tcache else (s.tile t).tcache.tail) ++ [e] := by simp [f, fillPage]
  by_cases hwho : w.who < 8
  · let g := planOnce (f.modSport (8 * t + w.who) (fun p => { p with walking := false })) (s.mcnt + 1) rkPort .readWalkTokenPresent
      (8 * t + w.who) (f.sport (8 * t + w.who)).walk 2
    have hg : OnWay (f.modSport (8 * t + w.who) (fun p => { p with walking := false })) g := onWay_planOnce _ _ _ _ _ _ _
    have htile : g.tile t = f.tile t := hg.tile t
    have hu : u = g := by
      have hread : u = readEntry g t := congrArg (readEntry · t) (if_pos hwho)
      exact hread.trans (readEntry_nil ((congrArg Tile.walks htile).trans hwalks))
    rw [hu, htile]
    exact ⟨hwalks, hg.mem, hg.slots, hcache⟩
  · have hu : u = f := by
      have hread : u = readEntry f t := congrArg (readEntry · t) (if_neg hwho)
      exact hread.trans (readEntry_nil hwalks)
    rw [hu]
    exact ⟨hwalks, rfl, rfl, hcache⟩

/-! ## Releases (R151) -/

/-- A release before which nothing of its slot is pending is performed. -/
theorem performAccess_release {s : State} {a : Access} (id : Nat) (hk : a.kind = .release) (hp : priorPending s a.slot a.seq = false) :
    performAccess s id a = endAccess (storeBytes s a) id := by
  simp [performAccess, hk, hp]

/-- Settles O32: each request or walk that may go on takes the branch that performs it. -/
theorem memoryRequestsEnd : Obligations.MemoryRequestsEnd := by
  unfold Obligations.MemoryRequestsEnd
  intro s
  refine ⟨fun r hr hbank hfirst => ⟨fun hw hpark hcopy hwf => ?_, fun hw hdie h4 => ?_⟩, fun r fn tag hr hwho hb => ?_, fun hb => ?_,
    fun w base size pa ord ro hb hwalks hid he => ?_, fun w rest table hb hwalks hid he => ?_, fun hpois => ?_,
    fun a ha hk hsize hprior hwf => ?_⟩
  · let u := scatter { s with banks := mset s.banks (reqBank r) s.mcnt, reqs := mdel s.reqs s.arg.a } r.poison r.parts
    obtain ⟨hmem, hbanks, hreqs⟩ := replyWrite_keeps (s := u) (r := r) hpark hcopy
    refine ⟨_, (vaultBankEvent_performs hr hbank hfirst (behindToken_eq_false (.inr hcopy))).trans (congrArg Host.Outcome.next (if_pos hw)),
      ?_, ?_, fun a ha => ?_, fun q hq hval => ?_⟩
    · exact (congrArg (mfind · s.arg.a) hreqs).trans (mfind_mdel_self _ _)
    · exact (congrArg (mfind · (reqBank r)) hbanks).trans (mfind_mset_self _ _ _)
    · exact (congrArg (readByte · a) hmem).trans (readByte_storeParts hwf _ a ha)
    · have hstore : u.mem = writeNat s.mem q.pa q.val q.n := congrArg (storeParts s.mem) hq
      exact (congrArg (readNat · q.pa q.n) (hmem.trans hstore)).trans (readNat_writeNat_of_lt hwf _ _ hval)
  · have hstep := (vaultBankEvent_performs hr hbank hfirst (behindToken_eq_false (.inl hw))).trans
      (congrArg Host.Outcome.next (if_neg (by rw [hw]; decide)))
    rw [sendReply_sameDie _ _ _ _ hdie h4] at hstep
    exact ⟨_, hstep, (mem_plan _ _ _ _ _).mpr (.inl rfl), mfind_mset_self _ _ _, rfl, rfl, rfl⟩
  · change execVaultReadReply s = _
    simp [execVaultReadReply, hr, hb, replyRead, parkedAt, hwho]
  · exact congrArg Host.Outcome.next (if_pos hb)
  · exact ⟨_, translationWalkComplete_ends hb hwalks hid he, walkEnds_page⟩
  · have h := readEntry_cons (t := s.arg.a) (w := { w with table := table, level := w.level + 1 }) (rest := rest)
      (s := s.modTile s.arg.a (fun x => { x with walks := { w with table := table, level := w.level + 1 } :: rest })) (by simp)
    refine ⟨_, translationWalkComplete_descends hb hwalks hid he, ?_, ?_, h.mem, h.slots⟩
    · exact (congrArg Tile.walks (h.tile s.arg.a)).trans (by simp)
    · exact (congrArg Tile.tcache (h.tile s.arg.a)).trans (by simp)
  · refine ⟨_, congrArg Host.Outcome.next (if_neg (by rw [hpois]; decide)), ?_, rfl, rfl, ?_⟩ <;>
      simp [fillObject]
  · have hstep : exec .strlHeldPerform s = .next (performAccess s s.arg.a a) := by
      change execStrlHeldPerform s = _
      rw [execStrlHeldPerform, ha]
    rw [performAccess_release _ hk hprior, storeBytes, if_neg hsize] at hstep
    refine ⟨_, hstep, mfind_mdel_self _ _, rfl, ?_, fun k hk => readByte_writeNat hwf _ _ _ _ hk⟩
    exact readNat_writeNat_of_lt hwf _ _ (Nat.mod_lt _ (by positivity))

end Sys2Proof.Machine
end

section
/-! # Lodestone commands begin, sweep and complete (O39) -/

namespace Sys2Proof.Machine

-- Elaborated one after another: these many short proofs at once ask for more threads than the check's memory holds.
set_option Elab.async false

theorem QueuesOnly.lnode {s t : State} (h : QueuesOnly s t) (k : Nat) : t.lnode k = s.lnode k :=
  (congrArg (fun u : State => u.lnode k) h.rest :)

/-! ## A command begins (R195) -/

/-- The command leaves the queue of its node, runs, and counts as begun. -/
def dequeueLode (s : State) (t : Nat) (c : LCmd) : State :=
  { s.setLode t { s.lnode t with
      queue := (s.lnode t).queue.filter (fun d => d.id != c.id), run := some c, sweeps := 0, next := 0, met := false
      count := if c.maj = 0xE5 ∧ c.b.getLsbD 0 then [] else (s.lnode t).count } with
    cmds := mset s.cmds c.id { slot := c.slot, offset := false, engine := 1, channel := 0, begun := true } }

/-- The first event of a command that has begun: of its first colour, its first token, or its completion. -/
def planLode (s : State) (t : Nat) (c : LCmd) (colour : Nat) : State :=
  if c.maj = 0xE4 ∨ c.maj = 0xE5 then
    if sweepsOf c = 0 then s.planN s.mcnt rkComplete .lodestoneCommandComplete t 0
    else s.planN (s.mcnt + colour - 1) rkPerform .lodestoneColourUpdate t 0
  else if usesPad c.maj then s.planEv s.mcnt rkPerform .lodestoneCommandComplete (Arg.of t 1 0 0 0)
  else s.planN s.mcnt rkComplete .lodestoneCommandComplete t 0

theorem queuesOnly_planLode (s : State) (t : Nat) (c : LCmd) (colour : Nat) : QueuesOnly s (planLode s t c colour) := by
  unfold planLode
  split
  · split <;> exact (QueuesOnly.refl s).plan _ _ _
  · split
    · exact (QueuesOnly.refl s).plan _ _ _
    · exact (QueuesOnly.refl s).plan _ _ _

theorem mcnt_drainBlock (s : State) (n : Nat) : (s.drainBlock n).mcnt = s.mcnt :=
  (congrArg State.mcnt (queuesOnly_drainBlock s n).rest :)

/-- LSWEEP and LMAG do not go through an ME. -/
theorem usesPad_lodes {maj : Nat} (h : usesPad maj = true) : ¬ (maj = 0xE4 ∨ maj = 0xE5) := by
  rintro (rfl | rfl) <;> exact absurd h (by decide)

theorem lodestoneCommandBegin_begins {s : State} {c : LCmd} {rest : List LCmd} (hlive : liveLode s s.arg.a = c :: rest)
    (hrun : (s.lnode s.arg.a).run = none) (hfrozen : (s.lnode s.arg.a).frozen = false) (hstop : (s.lnode s.arg.a).stopped = false)
    (hacc : c.acc ≤ s.mcnt) (hrec : s.recordHeld s.arg.a 1 = false) :
    exec .lodestoneCommandBegin s
      = .next (planLode ((dequeueLode s s.arg.a c).drainBlock c.slot) s.arg.a c (colourCycles (s.lnode s.arg.a) 0)) := by
  have hm : ((dequeueLode s s.arg.a c).drainBlock c.slot).mcnt = s.mcnt := mcnt_drainBlock _ _
  have hidle : ¬ ((s.lnode s.arg.a).run.isSome ∨ (s.lnode s.arg.a).frozen ∨ (s.lnode s.arg.a).stopped ∨ s.mcnt < c.acc) := by
    simp [hrun, hfrozen, hstop, hacc]
  change execLodestoneCommandBegin s = _
  simp only [execLodestoneCommandBegin, hlive, if_neg hidle, hrec, Bool.false_eq_true, if_false]
  rw [planLode, hm]
  rfl

/-! ## The updates of a colour (R192) -/

theorem getLsbD_setBit (v : BitVec 4096) {i : Nat} (hi : i < 4096) (b : Bool) (j : Nat) :
    (setBit v i b).getLsbD j = if j = i then b else v.getLsbD j := by
  change ((v &&& ~~~(BitVec.twoPow 4096 i)) ||| (if b then BitVec.twoPow 4096 i else 0)).getLsbD j = _
  by_cases hj : j = i
  · subst hj
    cases b <;> simp [hi]
  · have hbound : v.getLsbD j = true → j < 4096 := BitVec.lt_of_getLsbD
    cases b <;> simp [BitVec.getLsbD_twoPow, hj, Ne.symm hj] <;> simpa using hbound

theorem getLsbD_setBits (f : Nat → Bool) (l : List Nat) (hl : ∀ i ∈ l, i < 4096) (v : BitVec 4096) (j : Nat) :
    (l.foldl (fun v i => setBit v i (f i)) v).getLsbD j = if j ∈ l then f j else v.getLsbD j := by
  induction l generalizing v with
  | nil => simp
  | cons i l ih =>
    rw [List.foldl_cons, ih (fun k hk => hl k (List.mem_cons_of_mem i hk)), getLsbD_setBit v (hl i List.mem_cons_self)]
    by_cases hjl : j ∈ l
    · simp [hjl]
    · by_cases hji : j = i <;> simp [hjl, hji]

/-- The p-bits of colour `k` that are not clamped take their new states; the others keep theirs. -/
theorem updateColour_getLsbD (x : LNode) (k : Nat) {i : Nat} (hi : i < 4096) : (updateColour x k).m.getLsbD i
    = if mget 0 x.colour i = k ∧ x.clamp.getLsbD i = false then updateBit x k i else x.m.getLsbD i := by
  have hmem (j : Nat) : j ∈ (ofColour x k).filter (fun i => !x.clamp.getLsbD i)
      ↔ j < 4096 ∧ mget 0 x.colour j = k ∧ x.clamp.getLsbD j = false := by
    simp only [ofColour, List.mem_filter, List.mem_range, beq_iff_eq, Bool.not_eq_true', and_assoc]
  have hbits := getLsbD_setBits (updateBit x k) _ (fun j hj => ((hmem j).mp hj).1) x.m i
  rw [updateColour, hbits]
  exact if_congr ((hmem i).trans (and_iff_right hi)) rfl rfl

theorem queuesOnly_nextColour (s : State) (t k : Nat) (c : LCmd) : QueuesOnly s (nextColour s t k c) := by
  unfold nextColour
  dsimp only
  split <;> exact (QueuesOnly.refl s).plan _ _ _

/-! ## A command completes (R187, R195, R196) -/

/-- What the completion of `c` leaves: the node `y` without its run, no mark of the command, slots and memory as in `s`. -/
structure LodeEnds (s : State) (t : Nat) (c : LCmd) (y : LNode) (u : State) : Prop where
  run : (u.lnode t).run = none
  beta : (u.lnode t).beta = y.beta
  seed : (u.lnode t).seed = y.seed
  swn : (u.lnode t).swn = y.swn
  cmds : mfind u.cmds c.id = none
  slots : u.slots = s.slots
  mem : u.mem = s.mem

theorem lodeEffect_keeps (s : State) (t : Nat) (c : LCmd) : (lodeEffect s t c).slots = s.slots ∧ (lodeEffect s t c).mem = s.mem := by
  unfold lodeEffect
  split <;> exact ⟨rfl, rfl⟩

theorem lodeComplete_ends (s : State) (t : Nat) (c : LCmd) : LodeEnds s t c ((lodeEffect s t c).lnode t) (lodeComplete s t c) := by
  obtain ⟨hslots, hmem⟩ := lodeEffect_keeps s t c
  unfold lodeComplete
  extract_lets s1 x done s2 s3 s4 s5
  have h2 : s2.lnode t = { x with run := none } := by simp [s2]
  have h3 : s3.lnodes = s2.lnodes ∧ s3.slots = s2.slots ∧ s3.mem = s2.mem := by
    unfold s3
    split <;> exact ⟨rfl, rfl, rfl⟩
  have h4 : s4.lnodes = s3.lnodes ∧ s4.slots = s3.slots ∧ s4.mem = s3.mem := by
    unfold s4
    split <;> exact ⟨rfl, rfl, rfl⟩
  obtain ⟨hl3, hs3, hm3⟩ := h3
  obtain ⟨hl4, hs4, hm4⟩ := h4
  have hq : QueuesOnly { s4 with cmds := mdel s4.cmds c.id } s5 := queuesOnly_endCommand s4 c.id c.slot
  have hnode : s5.lnode t = { x with run := none } := by
    have hl : s4.lnode t = s2.lnode t := by simp only [State.lnode, hl4, hl3]
    exact (hq.lnode t).trans (hl.trans h2)
  have hcmds : mfind s5.cmds c.id = none := (congrArg (mfind · c.id) hq.cmds).trans (mfind_mdel_self _ _)
  have hslots5 : s5.slots = s.slots := hq.slots.trans (hs4.trans (hs3.trans hslots))
  have hmem5 : s5.mem = s.mem := hq.mem.trans (hm4.trans (hm3.trans hmem))
  have hend {u : State} (hu : QueuesOnly s5 u) : LodeEnds s t c x u := by
    have h := (hu.lnode t).trans hnode
    exact ⟨by rw [h], by rw [h], by rw [h], by rw [h], (congrArg (mfind · c.id) hu.cmds).trans hcmds, hu.slots.trans hslots5, hu.mem.trans hmem5⟩
  have hstop : LodeEnds s t c x (s5.modLode t (fun y => { y with stopping := false, stopped := true })) :=
    ⟨by simp [hnode], by simp [hnode], by simp [hnode], by simp [hnode], hcmds, hslots5, hmem5⟩
  split
  · split
    · exact hstop
    · exact hend ((QueuesOnly.refl s5).planOnce _ _ _ _ _ _)
  · split
    · exact hstop
    · exact hend (QueuesOnly.refl s5)

/-! ## The tokens of a command at its ME (R147, R195) -/

theorem bankTaken_takeBanks (s : State) (m : Nat) (b : Mask) : bankTaken (takeBanks s m b) m = bankTaken s m ||| b := by
  simp [bankTaken, takeBanks]

/-- Words written one after another from `a` on are read back there, and no other byte changes. -/
theorem foldl_write32 {s : State} (hwf : Memory.wf s.mem = true) (a : Nat) (f : Nat → Word) (n : Nat) :
    let u := (List.range n).foldl (fun q w => q.write32 (a + 4 * w) (f w)) s
    Memory.wf u.mem = true ∧ (∀ w < n, u.read32 (a + 4 * w) = f w) ∧ ∀ k, k < a ∨ a + 4 * n ≤ k → readByte u.mem k = readByte s.mem k := by
  induction n with
  | zero => exact ⟨hwf, fun w hw => absurd hw (Nat.not_lt_zero w), fun _ _ => rfl⟩
  | succ n ih =>
    obtain ⟨hwf', hread, hkeep⟩ := ih
    have hother (k : Nat) (hk : k < a + 4 * n ∨ a + 4 * n + 4 ≤ k) := readByte_writeNat hwf' (a + 4 * n) (f n).toNat 4 k hk
    rw [List.range_succ, List.foldl_append, List.foldl_cons, List.foldl_nil]
    refine ⟨wf_write hwf' _ _ _, fun w hw => ?_, fun k hk => (hother k (by omega)).trans (hkeep k (by omega))⟩
    by_cases hwn : w = n
    · subst hwn
      exact read32_write32 hwf' _ _
    · rw [← hread w (by omega)]
      exact congrArg (BitVec.ofNat 32) (readNat_congr fun k h1 h2 => hother k (by omega))

theorem lodestoneColourUpdate_updates {s : State} {c : LCmd} (hrun : (s.lnode s.arg.a).run = some c)
    (hk : s.arg.b < (s.lnode s.arg.a).ncol) (hsound : colourPoisoned (s.lnode s.arg.a) s.arg.b = false) :
    let s1 := s.setLode s.arg.a { updateColour (s.lnode s.arg.a) s.arg.b with next := s.arg.b + 1 }
    exec .lodestoneColourUpdate s = .next (if (s.lnode s.arg.a).stopping then
      s1.modLode s.arg.a (fun y => { y with stopping := false, stopped := true }) else nextColour s1 s.arg.a (s.arg.b + 1) c) := by
  intro s1
  change execLodestoneColourUpdate s = _
  simp only [execLodestoneColourUpdate, hrun, if_neg (Nat.not_le.mpr hk), hsound, Bool.false_eq_true, if_false]
  rfl

/-- The updates of a colour take effect and the node goes on, or stops. -/
theorem colourUpdate_updates {s : State} {c : LCmd} (hrun : (s.lnode s.arg.a).run = some c)
    (hk : s.arg.b < (s.lnode s.arg.a).ncol) (hsound : colourPoisoned (s.lnode s.arg.a) s.arg.b = false) :
    Leads .lodestoneColourUpdate s (fun u => u.mem = s.mem ∧ u.slots = s.slots ∧ (u.lnode s.arg.a).next = s.arg.b + 1
      ∧ (u.lnode s.arg.a).swn = (s.lnode s.arg.a).swn ∧ (u.lnode s.arg.a).m = (updateColour (s.lnode s.arg.a) s.arg.b).m) := by
  refine ⟨_, lodestoneColourUpdate_updates hrun hk hsound, ?_⟩
  split
  · refine ⟨rfl, rfl, ?_, ?_, ?_⟩ <;> simp [updateColour]
  · have hq := queuesOnly_nextColour
      (s.setLode s.arg.a { updateColour (s.lnode s.arg.a) s.arg.b with next := s.arg.b + 1 }) s.arg.a (s.arg.b + 1) c
    rw [hq.lnode]
    refine ⟨hq.mem, hq.slots, ?_, ?_, ?_⟩ <;> simp [updateColour]

/-- The end of a sweep counts it and leaves the p-bits. -/
theorem endSweep_counts (s : State) (t : Nat) (c : LCmd) :
    let u := endSweep s t c
    (u.lnode t).swn = (s.lnode t).swn + 1 ∧ (u.lnode t).sweeps = (s.lnode t).sweeps + 1 ∧ (u.lnode t).m = (s.lnode t).m
      ∧ u.mem = s.mem ∧ u.slots = s.slots := by
  unfold endSweep
  extract_lets x counts s1 u
  have h1 : s1.lnode t = { x with swn := x.swn + 1, sweeps := x.sweeps + 1, next := 0, count := counts } := by simp [s1]
  have hon {u : State} (hu : QueuesOnly s1 u) : (u.lnode t).swn = x.swn + 1 ∧ (u.lnode t).sweeps = x.sweeps + 1 ∧ (u.lnode t).m = x.m
      ∧ u.mem = s.mem ∧ u.slots = s.slots := by
    rw [hu.lnode, h1]
    exact ⟨rfl, rfl, rfl, hu.mem, hu.slots⟩
  unfold u
  split
  · split
    · refine ⟨?_, ?_, ?_, rfl, rfl⟩ <;> simp [h1, x]
    · exact hon (queuesOnly_nextColour _ _ _ _)
  · exact hon ((QueuesOnly.refl s1).plan _ _ _)

theorem lodestoneCommandComplete_completes {s : State} {c : LCmd} (hrun : (s.lnode s.arg.a).run = some c) (hb : s.arg.b = 0) :
    exec .lodestoneCommandComplete s = .next (lodeComplete s s.arg.a c) := by
  change execLodestoneCommandComplete s = _
  simp only [execLodestoneCommandComplete, hrun, hb]

theorem lodestoneCommandComplete_token {s : State} {c : LCmd} (hrun : (s.lnode s.arg.a).run = some c) (hb : s.arg.b = 1) :
    exec .lodestoneCommandComplete s = .next (lodeToken s s.arg.a s.arg.c c) := by
  change execLodestoneCommandComplete s = _
  simp only [execLodestoneCommandComplete, hrun, hb]

theorem lodestoneCommandComplete_bank {s : State} {c : LCmd} (hrun : (s.lnode s.arg.a).run = some c) (hb : s.arg.b = 2) :
    exec .lodestoneCommandComplete s = .next (lodeBank s s.arg.a s.arg.c c) := by
  change execLodestoneCommandComplete s = _
  simp only [execLodestoneCommandComplete, hrun, hb]

/-- A token that finds its ME free takes all its banks, its bank is planned, and the next token or the completion. -/
theorem lodeToken_free {s : State} {t k : Nat} {c : LCmd} (h : bankTaken s (meOfAddr c.addr) = 0) :
    let s1 := (takeBanks s (meOfAddr c.addr) 0xFFFF#16).planEv (s.mcnt + 3) (if c.maj = 0xE6 then rkPerform else rkComplete)
      .lodestoneCommandComplete (Arg.of t 2 k 0 0)
    lodeToken s t k c = if k + 1 < lodeTokens c then s1.planEv (s.mcnt + 1) rkPerform .lodestoneCommandComplete (Arg.of t 1 (k + 1) 0 0)
      else s1.planN (s.mcnt + lodeTail c.maj) rkComplete .lodestoneCommandComplete t 0 :=
  if_neg (not_not_intro h)

theorem lodeToken_taken {s : State} {t k : Nat} {c : LCmd} (h : bankTaken s (meOfAddr c.addr) ≠ 0) :
    lodeToken s t k c = s.planEv (s.mcnt + 1) rkPerform .lodestoneCommandComplete (Arg.of t 1 k 0 0) := if_pos h

/-- Loading of couplings or biases changes neither the p-bits nor the run. -/
theorem loadCouplings_keeps (s : State) (x : LNode) (c : LCmd) (k : Nat) :
    (loadCouplings s x c k).m = x.m ∧ (loadCouplings s x c k).run = x.run :=
  List.foldlRecOn (motive := fun y : LNode => y.m = x.m ∧ y.run = x.run) _ _ ⟨rfl, rfl⟩ fun _ h _ _ => h

theorem loadBiases_keeps (s : State) (x : LNode) (c : LCmd) (k : Nat) :
    (loadBiases s x c k).m = x.m ∧ (loadBiases s x c k).run = x.run :=
  List.foldlRecOn (motive := fun y : LNode => y.m = x.m ∧ y.run = x.run) _ _ ⟨rfl, rfl⟩ fun _ h _ _ => h

/-- LREAD.ME writes memory alone. -/
theorem storeLode_keeps (s : State) (x : LNode) (c : LCmd) (k : Nat) :
    (storeLode s x c k).lnodes = s.lnodes ∧ (storeLode s x c k).slots = s.slots :=
  List.foldlRecOn (motive := fun u : State => u.lnodes = s.lnodes ∧ u.slots = s.slots) _ _ ⟨rfl, rfl⟩ fun _ h _ _ => h

/-- The bank of a token works on the couplings, on the biases, or on memory. -/
theorem lodeBank_keeps (s : State) (t k : Nat) (c : LCmd) :
    (lodeBank s t k c).slots = s.slots ∧ ((lodeBank s t k c).lnode t).m = (s.lnode t).m
      ∧ ((lodeBank s t k c).lnode t).run = (s.lnode t).run ∧ (c.maj = 0xE0 ∨ c.maj = 0xE1 → (lodeBank s t k c).mem = s.mem) := by
  unfold lodeBank
  split
  · obtain ⟨hm, hr⟩ := loadCouplings_keeps s (s.lnode t) c k
    refine ⟨rfl, ?_, ?_, fun _ => rfl⟩ <;> simp [hm, hr]
  · split
    · obtain ⟨hm, hr⟩ := loadBiases_keeps s (s.lnode t) c k
      refine ⟨rfl, ?_, ?_, fun _ => rfl⟩ <;> simp [hm, hr]
    · next h0 h1 =>
      obtain ⟨hnodes, hslots⟩ := storeLode_keeps s (s.lnode t) c k
      have hnode : (storeLode s (s.lnode t) c k).lnode t = s.lnode t := congrArg (mget LNode.reset · t) hnodes
      rw [hnode]
      exact ⟨hslots, rfl, rfl, fun h => absurd h (not_or.mpr ⟨h0, h1⟩)⟩

/-- Settles O39: each event of a node takes the branch that its command asks for. -/
theorem lodestoneNodesRun : Obligations.LodestoneNodesRun := by
  unfold Obligations.LodestoneNodesRun
  intro s t x
  refine ⟨fun c rest hlive hrun hfrozen hstop hacc hrec => ?_, fun c hrun hk hsound => ?_, fun c hrun hk => ?_, fun c hrun hb => ?_,
    fun c hrun hb => ?_, fun c hrun hb => ?_⟩
  · have hq := (queuesOnly_drainBlock (dequeueLode s t c) c.slot).trans
      (queuesOnly_planLode ((dequeueLode s t c).drainBlock c.slot) t c (colourCycles x 0))
    have hnode : _ = (dequeueLode s t c).lnode t := hq.lnode t
    have hself : (dequeueLode s t c).lnode t = { x with
        queue := x.queue.filter (fun d => d.id != c.id), run := some c, sweeps := 0, next := 0, met := false
        count := if c.maj = 0xE5 ∧ c.b.getLsbD 0 then [] else x.count } :=
      (State.setLode_lnode s t _ t).trans (if_pos rfl)
    rw [hself] at hnode
    refine ⟨_, lodestoneCommandBegin_begins hlive hrun hfrozen hstop hacc hrec, congrArg LNode.run hnode, congrArg LNode.sweeps hnode,
      (congrArg LNode.m hnode :), (congrArg LNode.queue hnode :), (congrArg (mfind · c.id) hq.cmds).trans (mfind_mset_self _ _ _),
      fun h4 h5 hpad => ?_, fun hpad => ?_, hq.mem, hq.slots⟩
    · rw [planLode, if_neg (not_or.mpr ⟨h4, h5⟩), if_neg (by simp [hpad]), mcnt_drainBlock]
      exact (mem_plan _ _ _ _ _).mpr (.inl rfl)
    · rw [planLode, if_neg (usesPad_lodes hpad), if_pos hpad, mcnt_drainBlock]
      exact (mem_plan _ _ _ _ _).mpr (.inl rfl)
  · obtain ⟨u, hu, hmem, hslots, hnext, hswn, hm⟩ := colourUpdate_updates hrun hk hsound
    refine ⟨u, hu, hmem, hslots, hnext, hswn, fun i hi hcol hcl => ?_, fun i hi hno => ?_⟩
    · rw [hm, updateColour_getLsbD _ _ hi, if_pos ⟨hcol, hcl⟩]
    · rw [hm, updateColour_getLsbD _ _ hi, if_neg fun h => hno.elim (· h.1) (fun hcl => Bool.false_ne_true (h.2.symm.trans hcl))]
  · refine ⟨_, ?_, endSweep_counts s t c⟩
    change execLodestoneColourUpdate s = _
    simp only [execLodestoneColourUpdate, x] at hrun hk ⊢
    rw [hrun]
    exact congrArg Host.Outcome.next (if_pos hk)
  · have hends := lodeComplete_ends s t c
    refine ⟨_, lodestoneCommandComplete_completes hrun hb, hends.run, hends.cmds, hends.slots, hends.mem, fun hmaj hvar => ?_, fun hmaj hvar => ?_⟩
    · rw [hends.beta]
      simp [lodeEffect, hmaj, hvar]
    · rw [hends.seed, hends.swn]
      simp [lodeEffect, hmaj]
  · have hstep := lodestoneCommandComplete_token hrun hb
    by_cases hbank : bankTaken s (meOfAddr c.addr) = 0
    · simp only [lodeToken_free hbank] at hstep
      refine ⟨_, hstep, ?_⟩
      split
      · next hmore =>
        refine ⟨rfl, rfl, rfl, fun h => absurd hbank h, fun _ => ⟨?_, ?_, fun _ => ?_, fun hlast => ?_⟩⟩
        · exact (bankTaken_takeBanks s _ _).trans (by rw [hbank]; rfl)
        · exact (mem_plan _ _ _ _ _).mpr (.inr ((mem_plan _ _ _ _ _).mpr (.inl rfl)))
        · exact (mem_plan _ _ _ _ _).mpr (.inl rfl)
        · exact absurd hmore (Nat.not_lt.mpr hlast)
      · next hlast =>
        refine ⟨rfl, rfl, rfl, fun h => absurd hbank h, fun _ => ⟨?_, ?_, fun hmore => absurd hmore hlast, fun _ => ?_⟩⟩
        · exact (bankTaken_takeBanks s _ _).trans (by rw [hbank]; rfl)
        · exact (mem_plan _ _ _ _ _).mpr (.inr ((mem_plan _ _ _ _ _).mpr (.inl rfl)))
        · exact (mem_plan _ _ _ _ _).mpr (.inl rfl)
    · simp only [lodeToken_taken hbank] at hstep
      exact ⟨_, hstep, rfl, rfl, rfl, fun _ => (mem_plan _ _ _ _ _).mpr (.inl rfl), fun h => absurd h hbank⟩
  · have hstep := lodestoneCommandComplete_completes hrun
    rw [hb] at hstep
    obtain ⟨hslots, hm, hrun', hmem⟩ := lodeBank_keeps s t s.arg.c c
    refine ⟨_, lodestoneCommandComplete_bank hrun hb, hslots, hm, hrun'.trans hrun, hmem, fun h6 hwf => ?_⟩
    have h0 : lodeBank s t s.arg.c c = storeLode s (s.lnode t) c s.arg.c := by simp [lodeBank, h6]
    obtain ⟨-, hread, hkeep⟩ := foldl_write32 hwf (c.addr + 64 * s.arg.c)
      (fun w => if c.b.getLsbD 0 then countWord (s.lnode t) (16 * s.arg.c + w) else stateWord (s.lnode t) (16 * s.arg.c + w)) 16
    change (∀ w < 16, (lodeBank s t s.arg.c c).read32 _ = _) ∧ ∀ k, _ → readByte (lodeBank s t s.arg.c c).mem k = _
    rw [h0]
    exact ⟨hread, hkeep⟩

end Sys2Proof.Machine
end

section
/-! # What the engines do leaves slots, memory and launches (R188, R223, R319, R324) -/

namespace Sys2Proof.Machine

-- Elaborated one after another: these many short proofs at once ask for more threads than the check's memory holds.
set_option Elab.async false

/-- Slots, memory and launches: what commands, copies and nodes do not change where they stop, leave or come back. -/
def State.tasks (s : State) : Map Slot × List Host.Cell × Map Launch := (s.slots, s.mem, s.launches)

theorem slots_of_tasks {s t : State} (h : t.tasks = s.tasks) : t.slots = s.slots := congrArg Prod.fst h
theorem mem_of_tasks {s t : State} (h : t.tasks = s.tasks) : t.mem = s.mem := congrArg (fun p => p.2.1) h
theorem launches_of_tasks {s t : State} (h : t.tasks = s.tasks) : t.launches = s.launches := congrArg (fun p => p.2.2) h
theorem slot_of_slots {s t : State} (h : t.slots = s.slots) (k : Nat) : t.slot k = s.slot k := congrArg (mget Slot.reset · k) h

theorem QueuesOnly.tasks {s t : State} (h : QueuesOnly s t) : t.tasks = s.tasks := (congrArg State.tasks h.rest :)

/-! ## Engines are released -/

theorem endCommand_tasks (s : State) (id slot : Nat) : (s.endCommand id slot).tasks = s.tasks := (queuesOnly_endCommand s id slot).tasks

theorem endEngine_tasks (s : State) (t engine : Nat) (begun : Bool) : (endEngine s t engine begun).tasks = s.tasks := by
  obtain ⟨m, hm⟩ := endEngine_cmds s t engine begun
  exact hm.tasks

theorem freezeNode_tasks (s : State) (t : Nat) : (freezeNode s t).tasks = s.tasks := endEngine_tasks _ _ _ _
theorem freezeLode_tasks (s : State) (t : Nat) : (freezeLode s t).tasks = s.tasks := endEngine_tasks _ _ _ _

theorem releaseNode_tasks (s : State) (t : Nat) : (releaseNode s t).tasks = s.tasks :=
  (endEngine_tasks _ _ _ _).trans (freezeNode_tasks s t)

theorem releaseLode_tasks (s : State) (t : Nat) : (releaseLode s t).tasks = s.tasks :=
  (endEngine_tasks _ _ _ _).trans (freezeLode_tasks s t)

theorem dropCopy_tasks (s : State) (id : Nat) (c : Copy) : (dropCopy s id c).tasks = s.tasks := by
  unfold dropCopy
  extract_lets s1 s2 s3
  calc _ = s3.tasks := (queuesOnly_kickUnlessFrozen _ _ _ _).tasks
    _ = s2.tasks := (queuesOnly_acceptWaiting _ _ _).tasks
    _ = s1.tasks := endCommand_tasks _ _ _

theorem copyFault_tasks (s : State) (c : Copy) (cause detail : Nat) : (copyFault s c cause detail).tasks = s.tasks :=
  (congrArg State.tasks ((freezeChan_unrecorded _ _ _ _).trans (raiseFor_unrecorded _ _ _ _ _ _ _)) :)

theorem finishCopy_tasks (s : State) (id : Nat) (c : Copy) : (finishCopy s id c).tasks = s.tasks := by
  unfold finishCopy
  split
  next s1 tooMany hcredit =>
  extract_lets s2 s3 s4
  have h1 : s1.tasks = s.tasks := by
    refine (congrArg (fun p : State × Bool => p.1.tasks) hcredit).symm.trans ?_
    split <;> rfl
  have h2 : s2.tasks = s1.tasks := by
    unfold s2
    split <;> rfl
  have h3 : s3.tasks = s2.tasks := ite_reads State.tasks rfl rfl
  have h4 : s4.tasks = s3.tasks := (dropCopy_tasks _ _ _).trans (ite_reads State.tasks rfl rfl)
  exact (ite_reads State.tasks (copyFault_tasks _ _ _ _) rfl).trans (h4.trans (h3.trans (h2.trans h1)))

theorem discardWaiting_tasks (s : State) (t ch n : Nat) : (discardWaiting s t ch n).tasks = s.tasks := by
  induction n generalizing s with
  | zero => rfl
  | succ n ih =>
    unfold discardWaiting
    split
    · rfl
    · exact (ih _).trans (finishCopy_tasks _ _ _)

theorem releaseChan_tasks (s : State) (t ch : Nat) : (releaseChan s t ch).tasks = s.tasks := discardWaiting_tasks _ _ _ _

theorem releaseEngines_tasks (s : State) (ns : List Nat) : (releaseEngines s ns).tasks = s.tasks := by
  unfold releaseEngines
  extract_lets mine
  refine foldl_reads State.tasks (fun a t => ?_) _ s
  extract_lets x runs a1 a2 y a3 a4 u a5
  have h1 : a1.tasks = a.tasks := ite_reads State.tasks (releaseNode_tasks _ _) rfl
  have h2 : a2.tasks = a1.tasks := by
    refine foldl_reads State.tasks (fun b c => ite_reads State.tasks ?_ rfl) _ a1
    exact endCommand_tasks _ _ _
  have h3 : a3.tasks = a2.tasks := ite_reads State.tasks (releaseLode_tasks _ _) rfl
  have h4 : a4.tasks = a3.tasks := by
    refine foldl_reads State.tasks (fun b c => ite_reads State.tasks ?_ rfl) _ a3
    exact endCommand_tasks _ _ _
  have h5 : a5.tasks = a4.tasks := foldl_reads State.tasks (fun b ch => ite_reads State.tasks (releaseChan_tasks _ _ _) rfl) _ a4
  exact (foldl_reads State.tasks (fun b c => dropCopy_tasks _ _ _) _ a5).trans (h5.trans (h4.trans (h3.trans (h2.trans h1))))

/-! ## Nodes and commands are saved and come back -/

theorem resumeNode_tasks (s : State) (t : Nat) : (resumeNode s t).tasks = s.tasks := (queuesOnly_resumeNode s t).tasks

theorem resumeLode_tasks (s : State) (t : Nat) : (resumeLode s t).tasks = s.tasks := by
  unfold resumeLode
  extract_lets x s1
  split
  · exact ite_reads State.tasks (queuesOnly_nextColour _ _ _ _).tasks rfl
  · exact (queuesOnly_kickLode _ _).tasks

theorem restoreNodes_tasks (s : State) (id : Nat) (l : Launch) : (restoreNodes s id l).tasks = s.tasks := by
  unfold restoreNodes
  extract_lets ts d s1
  have h1 : s1.tasks = s.tasks := by
    refine foldl_reads State.tasks (fun a p => ?_) _ s
    exact (queuesOnly_kickFeed _ _).tasks.trans ((queuesOnly_planTable _ _ _).tasks.trans (resumeNode_tasks _ _))
  refine (foldl_reads State.tasks (fun a p => ?_) _ s1).trans h1
  exact resumeLode_tasks _ _

theorem postCommands_tasks (s : State) (l : Launch) : (postCommands s l).tasks = s.tasks := by
  unfold postCommands
  extract_lets s0 s1 s2
  have h1 : s1.tasks = s0.tasks := by
    refine foldl_reads State.tasks (fun a c => ?_) _ s0
    exact (queuesOnly_kickQueue _ _).tasks
  have h2 : s2.tasks = s1.tasks := by
    refine foldl_reads State.tasks (fun a c => ?_) _ s1
    exact (queuesOnly_kickLode _ _).tasks
  refine (foldl_reads State.tasks (fun a c => ?_) _ s2).trans (h2.trans h1)
  exact (queuesOnly_kickChan _ _ _ _).tasks

theorem takeCommands_tasks (s : State) (ts : List Nat) (l : Launch) : (takeCommands s ts l).1.tasks = s.tasks := by
  unfold takeCommands
  extract_lets mine all_ idle mc lc cp s1
  have h1 : s1.tasks = s.tasks := by
    refine foldl_reads State.tasks (fun a t => ?_) _ s
    rfl
  exact h1

theorem saveNodes_tasks (s : State) (ts : List Nat) (l : Launch) : (saveNodes s ts l).1.tasks = s.tasks := by
  unfold saveNodes
  extract_lets ms ls s1 s2
  have h1 : s1.tasks = s.tasks := by
    refine foldl_reads State.tasks (fun a t => ?_) _ s
    rfl
  have h2 : s2.tasks = s1.tasks := by
    refine foldl_reads State.tasks (fun a t => ?_) _ s1
    rfl
  exact h2.trans h1

end Sys2Proof.Machine
end

section
/-! # Launches are armed, run, retire, end and are saved (O40) -/

namespace Sys2Proof.Machine

-- Elaborated one after another: these many short proofs at once ask for more threads than the check's memory holds.
set_option Elab.async false

/-! ## Arming (R15, R311) -/

/-- A slot as an arm request leaves it, with the values of R15. -/
def Slot.armFor (x : Slot) (b : Nat) (caps : List (BitVec 128)) (launch entry : Option Nat) : Slot := { x with
  st := .armed, q0 := 0, q1 := 0, q2 := 0, q3 := 0, p := []
  c := if caps.isEmpty then x.loadedC else (List.range caps.length).zip caps
  ic := 0, dth := x.dthSeed, flg := 0, flgNow := 0, opp := 0, rtp := 0, rap := 0, ia := BitVec.ofNat 11 (x.blockAt b).1, block := b, hrw := 0
  haw := 0, cause := 0, epc := 0, shadow := none, mk0 := x.gseed.setWidth 32, mk1 := x.gseed.extractLsb' 32 32, mtid := 0, mcz := 0
  qpos := 0, launch := launch, entry := entry, arvw := none, heldSince := none, preempt := none, ended := false, abandoned := 0 }

/-- Arming writes the slot, and the scalar register of the launch's argument. -/
theorem armSlot_arms (s : State) (n b : Nat) (arg : Option Word) (caps : List (BitVec 128)) (launch entry : Option Nat) :
    let t := armSlot s n b arg caps launch entry
    t.slot n = (s.slot n).armFor b caps launch entry ∧ (∀ w, arg = some w → t.sreg n 0 = w)
      ∧ (t.elem (veOfSlot n)).pv = (s.elem (veOfSlot n)).pv ∧ t.mem = s.mem ∧ ∀ m, m ≠ n → t.slot m = s.slot m := by
  have hself : (s.modSlot n (fun x => x.armFor b caps launch entry)).slot n = (s.slot n).armFor b caps launch entry := by simp
  have hother (m : Nat) (hm : m ≠ n) : (s.modSlot n (fun x => x.armFor b caps launch entry)).slot m = s.slot m := by simp [hm]
  cases arg with
  | none => exact ⟨hself, fun w hw => absurd hw (by simp), rfl, rfl, hother⟩
  | some v =>
    refine ⟨hself, fun w hw => ?_, ?_, rfl, hother⟩
    · rw [← Option.some.inj hw]
      simp [armSlot, State.sreg, State.setSreg, State.sbase]
    · simp [armSlot, State.setSreg]

/-! ## A list of slots is gone through -/

/-- What each step brings about in its own slot, and no other step undoes, holds of every slot of the list. -/
theorem foldl_slot {P : Slot → Prop} {f : State → Nat → State} (hself : ∀ a n, P ((f a n).slot n))
    (hother : ∀ a n k, k ≠ n → (f a n).slot k = a.slot k) (l : List Nat) (s : State) : ∀ k ∈ l, P ((l.foldl f s).slot k) := by
  induction l using List.reverseRecOn with
  | nil => exact fun k hk => absurd hk List.not_mem_nil
  | append_singleton l n ih =>
    intro k hk
    rw [List.foldl_append, List.foldl_cons, List.foldl_nil]
    by_cases hkn : k = n
    · subst hkn
      exact hself _ k
    · rw [hother _ n k hkn]
      exact ih k ((List.mem_append.mp hk).resolve_right (by simp [hkn]))

/-! ## Starting (R107, R264, R278, R311) -/

theorem startSlot_starts {s : State} {n base : Nat} (harm : (s.slot n).st = .armed) (hpark : parkedHome n = none) :
    startSlot s n base = (s.modSlot n (fun x => { x with st := .running, start := base })).planIssue n s.mcnt := by
  simp [startSlot, harm, hpark]

theorem startSlot_waits {s : State} {n base h : Nat} (harm : (s.slot n).st = .armed) (hpark : parkedHome n = some h) :
    startSlot s n base = s.defer h .slotStart (Arg.of (64 * physTile (tileOfSlot n) + n % 64) 0 2 0 0) := by
  simp [startSlot, harm, hpark]

/-- A slot that starts runs from its base, and its first turn is planned. -/
theorem startSlot_runs {s : State} {n base : Nat} (harm : (s.slot n).st = .armed) (hpark : parkedHome n = none) :
    let t := startSlot s n base
    t.slot n = { s.slot n with st := .running, start := base } ∧ t.mem = s.mem
      ∧ ({ time := 16 * s.turnOf n s.mcnt + rkIssue (veOfSlot n), act := .issue n } : Item) ∈ t.agenda ∧ ∀ m, m ≠ n → t.slot m = s.slot m := by
  simp only [startSlot_starts harm hpark]
  refine ⟨?_, rfl, (mem_plan _ _ _ _ _).mpr (.inl rfl), fun m hm => ?_⟩
  · exact (State.setSlot_slot s n _ n).trans (if_pos rfl)
  · exact (State.setSlot_slot s n _ m).trans (if_neg hm)

/-- A slot of an Almanac entry starts from the cycle of its block, or at the beginning of its quantum. -/
theorem slotStart_entry {s : State} (hc : s.arg.c = 1 ∨ s.arg.c = 2) :
    exec .slotStart s = .next (startSlot s (presentName s s.arg.a) (if s.arg.c = 1 then s.arg.d else s.mcnt)) :=
  congrArg Host.Outcome.next (if_pos hc)

/-- An armed slot of a launch for which nothing was saved starts from the launch's M, or at the beginning of its quantum. -/
theorem slotStart_launch {s : State} {l : Launch} (h1 : s.arg.c ≠ 1) (h2 : s.arg.c ≠ 2) (hl : mfind s.launches s.arg.b = some l)
    (hsaves : l.saves = []) (harm : (s.slot (presentName s s.arg.a)).st = .armed) (hpark : parkedHome (presentName s s.arg.a) = none) :
    exec .slotStart s = .next (startSlot s (presentName s s.arg.a) (if s.arg.c = 3 then s.mcnt else l.start)) := by
  change execSlotStart s = _
  simp [execSlotStart, h1, h2, hl, hsaves, harm, hpark]

/-! ## Retirement (R107, R312) -/

/-- The retirement of a slot is counted by its launch; slots and memory stay. -/
theorem slotRetired_keeps (s : State) (n : Nat) : (slotRetired s n).slots = s.slots ∧ (slotRetired s n).mem = s.mem := by
  unfold slotRetired
  extract_lets x
  split
  · split
    · exact ⟨rfl, rfl⟩
    · extract_lets l1 s1
      split
      · exact ⟨rfl, rfl⟩
      · split <;> exact ⟨rfl, rfl⟩
  · exact ⟨rfl, rfl⟩

/-- A launch whose slots have retired, with its table stopped and its writes performed, and with room for its record. -/
structure MayRetire (s : State) (l : Launch) : Prop where
  all : l.done.length = l.slots.length
  up : schedDown s = false
  table : tableLeft s l = false
  released : ∀ m ∈ l.slots, releasePending s m (s.slot m).seq = false
  room : l.host = true ∨ l.w0.getLsbD 23 = false ∨ (s.logical l.parent).evq.length < 64

theorem launchRetire_retires {s : State} {l : Launch} (hl : mfind s.launches s.arg.b = some l) (h : MayRetire s l) :
    exec .launchRetire s = .next (endLaunch (creditLaunch s l) s.arg.b l l.kern (l.mark.getD (0, 0)).1 (l.mark.getD (0, 0)).2) := by
  obtain ⟨hall, hup, htable, hrel, hroom⟩ := h
  have hany : l.slots.any (fun n => releasePending s n (s.slot n).seq) = false := List.any_eq_false.mpr fun m hm => by simp [hrel m hm]
  have hgo : ¬ (tableLeft s l ∨ l.slots.any (fun n => releasePending s n (s.slot n).seq)
      ∨ (!l.host ∧ l.w0.getLsbD 23 ∧ 64 ≤ (s.logical l.parent).evq.length)) := by
    simp only [htable, hany, Bool.false_eq_true, false_or]
    rintro ⟨hhost, hrec, hfull⟩
    rcases hroom with h1 | h1 | h1
    · simp [h1] at hhost
    · exact Bool.false_ne_true (h1.symm.trans hrec)
    · omega
  change execLaunchRetire s = _
  simp only [execLaunchRetire, hl, hall, hup, ne_eq, not_true_eq_false, Bool.false_eq_true, if_false, if_neg hgo]

theorem completePacket_keeps (s : State) (c : Nat) (w0 : Word) (kern abnd status cause : Nat) :
    (completePacket s c w0 kern abnd status cause).slots = s.slots ∧ (completePacket s c w0 kern abnd status cause).launches = s.launches := by
  unfold completePacket
  extract_lets x s1 n s2
  have h2 : s2.slots = s1.slots ∧ s2.launches = s1.launches := ⟨rfl, rfl⟩
  clear_value s2
  split
  · exact h2
  · exact ⟨rfl, rfl⟩

/-- A launch that ends leaves the launches, and the slots as they are. -/
theorem endLaunch_leaves (s : State) (id : Nat) (l : Launch) (kern status cause : Nat) :
    mfind (endLaunch s id l kern status cause).launches id = none ∧ (endLaunch s id l kern status cause).slots = s.slots := by
  have hdrop : mfind (s.dropLaunch id).launches id = none := mfind_mdel_self _ _
  unfold endLaunch
  dsimp only
  split
  · obtain ⟨hslots, hlaunches⟩ := completePacket_keeps (s.dropLaunch id) l.ctx l.w0 kern l.abnd status cause
    exact ⟨(congrArg (mfind · id) hlaunches).trans hdrop, hslots⟩
  · split <;> exact ⟨hdrop, rfl⟩

theorem creditLaunch_slots (s : State) (l : Launch) : (creditLaunch s l).slots = s.slots := by
  unfold creditLaunch
  split
  · split
    next h k _ s1 tooMany hcredit =>
    have h1 : s1.slots = s.slots := (congrArg (fun p : State × Bool => p.1.slots) hcredit).symm
    exact (ite_reads State.slots (raise_keeps _ _ _ _ _ _).1 rfl).trans h1
  · rfl

/-! ## Task end (R313, R327) -/

/-- The slot neither runs nor is to run. -/
def Slot.stands (x : Slot) : Prop := x.st = .bound ∨ x.st = .unbound

theorem killSlot_stands (s : State) (n : Nat) : ((killSlot s n).slot n).stands := by
  unfold killSlot
  dsimp only
  split
  · next h => exact h.symm
  · exact .inl (discardSlot_empties s n).1

theorem killSlot_other (s : State) (n k : Nat) (hk : k ≠ n) : (killSlot s n).slot k = s.slot k := by
  unfold killSlot
  dsimp only
  split
  · rfl
  · exact (discardSlot_empties s n).2.1 k hk

/-- The slots of a launch that ends without retiring stand. -/
theorem endTask_stands (s : State) (id : Nat) (l : Launch) (status cause where_ : Nat) :
    ∀ k ∈ l.slots, ((endTask s id l status cause where_).slot k).stands := by
  intro k hk
  have hstand := foldl_slot (P := Slot.stands) killSlot_stands killSlot_other l.slots (releaseEngines s l.slots) k hk
  unfold endTask
  extract_lets s1 s2 again fresh
  have hslots : (if again then s2.setLaunch id fresh else endLaunch s2 id l (if status = 6 then where_ else l.kern) status cause).slots
      = s1.slots := ite_reads State.slots (s := s2) rfl (endLaunch_leaves _ _ _ _ _ _).2
  rw [slot_of_slots hslots]
  exact hstand

/-- A kernel that is admitted once more goes back to the pending set; any other launch leaves. -/
theorem endTask_launch (s : State) (id : Nat) (l : Launch) (status cause where_ : Nat) :
    let again : Prop := status = 5 ∧ cause / 64 = 3 ∧ l.again = false
      ∧ ((s.ctx l.ctx).image.map (fun i => i.restart.contains l.kern)).getD false = true
    (¬ again → mfind (endTask s id l status cause where_).launches id = none)
      ∧ (again → ∃ u, mfind (endTask s id l status cause where_).launches id = some u ∧ u.st = .pending ∧ u.again = true ∧ u.kern = l.kern
        ∧ u.slots = l.slots) := by
  intro again
  unfold endTask
  extract_lets s1 s2 again' fresh
  have hiff : again' ↔ again := by
    simp only [again', again, Bool.not_eq_true']
    tauto
  refine ⟨fun h => ?_, fun h => ?_⟩
  · rw [if_neg (hiff.not.mpr h)]
    exact (endLaunch_leaves _ _ _ _ _ _).1
  · rw [if_pos (hiff.mpr h)]
    exact ⟨fresh, mfind_mset_self _ _ _, rfl, rfl, rfl, rfl⟩

/-! ## Saving (R109, R153, R318, R319) -/

/-- A running slot has the request of cycle `c`; one that is held at no safe point is saved as it stands. -/
def askSave (c : Nat) (a : State) (n : Nat) : State :=
  if (a.slot n).st = .running then
    if savedHeld (a.modSlot n (fun y => { y with preempt := some c })) n then
      saveSlot ((a.modSlot n (fun y => { y with preempt := some c })).unplan (isTurnOf n)) n keepAll
    else a.modSlot n (fun y => { y with preempt := some c })
  else a

theorem preemptRequest_asks {s : State} {l : Launch} (hl : mfind s.launches s.arg.b = some l) :
    exec .preemptRequest s
      = .next ((l.slots.foldl (askSave s.mcnt) s).planN (s.mcnt + 35) rkStart .launchSaved l.ctx s.arg.b) := by
  change execPreemptRequest s = _
  simp only [execPreemptRequest, hl]
  rfl

theorem askSave_mem (c : Nat) (a : State) (n : Nat) : (askSave c a n).mem = a.mem :=
  ite_reads State.mem (ite_reads State.mem rfl rfl) rfl

theorem askSave_other (c : Nat) (a : State) (n k : Nat) (hk : k ≠ n) : (askSave c a n).slot k = a.slot k := by
  unfold askSave
  split
  · split
    · simp [saveSlot, hk]
    · simp [hk]
  · rfl

/-- A running slot that is not held only takes the request. -/
theorem askSave_self {c : Nat} {a : State} {n : Nat} (hrun : (a.slot n).st = .running) (hheld : (a.slot n).heldSince = none) :
    (askSave c a n).slot n = { a.slot n with preempt := some c } := by
  have hnot : savedHeld (a.modSlot n (fun y => { y with preempt := some c })) n = false := by simp [savedHeld, hheld]
  rw [askSave, if_pos hrun, if_neg (by rw [hnot]; decide)]
  exact (State.setSlot_slot a n _ n).trans (if_pos rfl)

theorem foldl_askSave {c : Nat} {s : State} {k : Nat} (hrun : (s.slot k).st = .running) (hheld : (s.slot k).heldSince = none) (l : List Nat) :
    (l.foldl (askSave c) s).slot k = if k ∈ l then { s.slot k with preempt := some c } else s.slot k := by
  induction l using List.reverseRecOn with
  | nil => simp
  | append_singleton l n ih =>
    rw [List.foldl_append, List.foldl_cons, List.foldl_nil]
    by_cases hkn : k = n
    · subst hkn
      by_cases hkl : k ∈ l
      · rw [if_pos hkl] at ih
        rw [askSave_self (by rw [ih]; exact hrun) (by rw [ih]; exact hheld), ih]
        simp
      · rw [if_neg hkl] at ih
        rw [askSave_self (by rw [ih]; exact hrun) (by rw [ih]; exact hheld), ih]
        simp
    · rw [askSave_other c _ n k hkn, ih]
      simp [hkn]

theorem vacate_bound (s : State) (n : Nat) : ((vacate s n).slot n).st = .bound := by simp [vacate]

theorem vacate_mem (s : State) (n : Nat) : (vacate s n).mem = s.mem := rfl

theorem vacate_other (s : State) (n k : Nat) (hk : k ≠ n) : (vacate s n).slot k = s.slot k := by
  unfold vacate
  rw [State.modSlot_eq, State.setSlot_slot, if_neg hk]
  rfl

/-- A launch whose slots have all stopped, and whose commands have completed or stand still, is saved. -/
theorem launchSaved_saves {s : State} {l : Launch} (hl : mfind s.launches s.arg.b = some l) (hst : l.st = .saving)
    (hall : l.slots.all (savedHere s l) = true) (hdone : l.done.length ≠ l.slots.length)
    (hcmds : s.cmds.any (fun c => l.slots.contains c.2.slot && c.2.begun && !parked s (ownNodes s s.arg.b l) c.1) = false) :
    ∃ (u : State) (x : Launch), u.tasks = s.tasks ∧ exec .launchSaved s
      = .next (((l.slots.filter (fun n => !l.done.contains n)).foldl vacate u).setLaunch s.arg.b
        { x with st := .pending, saves := (l.slots.filter (fun n => !l.done.contains n)).map (savedOf s) }) := by
  let ts := ownNodes s s.arg.b l
  let p := takeCommands s ts l
  refine ⟨(saveNodes p.1 ts p.2).1, (saveNodes p.1 ts p.2).2, (saveNodes_tasks _ _ _).trans (takeCommands_tasks _ _ _), ?_⟩
  have hgo : ¬ (l.st ≠ .saving ∨ !l.slots.all (savedHere s l) ∨ l.done.length = l.slots.length) := by simp [hst, hall, hdone]
  change execLaunchSaved s = _
  simp only [execLaunchSaved, hl, if_neg hgo, hcmds, Bool.false_eq_true, if_false]
  rfl

/-- Settles O40: each event of a launch takes the branch of its state. (`launchesRun` itself is a function of the model.) -/
theorem launches_run : Obligations.LaunchesRun := by
  unfold Obligations.LaunchesRun
  intro s n x
  refine ⟨fun l hl hc hst => ?_, fun l hl hc hsound harm => ?_, fun hc harm hpark => ?_, fun hc harm hpark => ?_,
    fun h hc harm hpark => ?_, fun l hc1 hc2 hl hsaves harm hpark => ?_, fun hst hdr => ?_,
    fun l hl hall hup htable hrel hhost hrec hmark hcredit => ?_, fun l hl hall hup htable hrel hroom => ?_, fun l hl => ?_, fun l hl => ?_,
    fun l hl hst hall hdone hcmds => ?_⟩
  case refine_1 =>
    obtain ⟨hself, hreg, hpv, hmem, hother⟩ :=
      armSlot_arms s n x.kernBlock (if l.saves.isEmpty then some l.arg else none) l.caps (some s.arg.b) none
    refine ⟨armSlot s n x.kernBlock (if l.saves.isEmpty then some l.arg else none) l.caps (some s.arg.b) none, ?_, ?_⟩
    · change execArmRequestArrival s = _
      simp only [execArmRequestArrival, hl, hc, if_true]
      exact congrArg Host.Outcome.next (if_pos hst)
    · simp only [hself]
      exact ⟨rfl, rfl, rfl, rfl, rfl, fun _ => rfl, rfl, rfl, rfl, rfl, rfl, rfl, rfl, rfl, rfl, rfl, rfl, rfl, rfl, rfl, rfl, rfl, rfl,
        rfl, rfl, fun hnone => hreg l.arg (by simp [hnone]), hpv, hmem, hother⟩
  case refine_2 =>
    let now : Launch := { l with st := .running, ledger := [], mcmds := [], lcmds := [], copies := [], nodes := [], lodes := [] }
    have hfind : l.slots.find? (fun n => (s.elem (veOfSlot n)).blocked) = none := List.find?_eq_none.mpr fun k hk => by simp [hsound k hk]
    have hall : l.slots.all (fun n => (s.slot n).st == .armed && (s.slot n).launch == some s.arg.b) = true :=
      List.all_eq_true.mpr fun k hk => by simp [harm k hk]
    have ht : (postCommands (restoreNodes (s.setLaunch s.arg.b now) s.arg.b l) l).tasks = (s.setLaunch s.arg.b now).tasks :=
      (postCommands_tasks _ _).trans (restoreNodes_tasks _ _ _)
    refine ⟨postCommands (restoreNodes (s.setLaunch s.arg.b now) s.arg.b l) l, ?_,
      ⟨now, (congrArg (mfind · s.arg.b) (launches_of_tasks ht)).trans (mfind_mset_self _ _ _), rfl, rfl⟩, (mem_of_tasks ht :), (slots_of_tasks ht :)⟩
    change execArmRequestArrival s = _
    simp only [execArmRequestArrival, hl, if_neg hc, hfind, hall, if_true]
    rfl
  case refine_3 =>
    exact ⟨_, (slotStart_entry (.inl hc)).trans (by rw [if_pos hc]), startSlot_runs harm hpark⟩
  case refine_4 =>
    obtain ⟨hself, hmem, -, hother⟩ := startSlot_runs (base := s.mcnt) harm hpark
    exact ⟨_, (slotStart_entry (.inr hc)).trans (by rw [if_neg (by omega)]), hself, hmem, hother⟩
  case refine_5 => exact (slotStart_entry hc).trans (congrArg Host.Outcome.next (startSlot_waits harm hpark))
  case refine_6 => exact ⟨_, slotStart_launch hc1 hc2 hl hsaves harm hpark, startSlot_runs harm hpark⟩
  case refine_7 =>
    obtain ⟨hslots, hmem⟩ := slotRetired_keeps (s.modSlot s.arg.a (fun y => { y with st := .bound, preempt := none })) s.arg.a
    refine ⟨_, congrArg Host.Outcome.next (if_pos ⟨hst, hdr⟩), ?_, hmem, fun m hm => ?_⟩
    · exact (slot_of_slots hslots _).trans ((State.setSlot_slot s _ _ _).trans (if_pos rfl))
    · exact (slot_of_slots hslots _).trans ((State.setSlot_slot s _ _ _).trans (if_neg hm))
  case refine_8 =>
    rw [launchRetire_retires hl ⟨hall, hup, htable, hrel, .inr (.inl hrec)⟩, creditLaunch, hcredit, hmark]
    exact congrArg Host.Outcome.next ((if_neg (by simp [hhost])).trans (if_neg (by rw [hrec]; decide)))
  case refine_9 =>
    obtain ⟨hgone, hslots⟩ := endLaunch_leaves (creditLaunch s l) s.arg.b l l.kern (l.mark.getD (0, 0)).1 (l.mark.getD (0, 0)).2
    exact ⟨_, launchRetire_retires hl ⟨hall, hup, htable, hrel, hroom⟩, hgone, hslots.trans (creditLaunch_slots s l)⟩
  case refine_10 =>
    intro stopped restart
    have hstep : exec .taskEnd s = .next (endTask s s.arg.b l (s.arg.c / 512) (s.arg.c % 512) s.arg.d) := by
      change execTaskEnd s = _
      simp only [execTaskEnd, hl]
    have hstands := endTask_stands s s.arg.b l (s.arg.c / 512) (s.arg.c % 512) s.arg.d
    obtain ⟨hgone, hback⟩ := endTask_launch s s.arg.b l (s.arg.c / 512) (s.arg.c % 512) s.arg.d
    exact ⟨fun h => ⟨_, hstep, hgone h, hstands⟩, fun h => ⟨_, hstep, hstands, hback h⟩⟩
  case refine_11 =>
    refine ⟨_, preemptRequest_asks hl, foldl_reads State.mem (askSave_mem s.mcnt) l.slots s, fun k hk hrun => ⟨fun hheld => ?_, fun hone hsave => ?_⟩⟩
    · exact (foldl_askSave hrun hheld l.slots).trans (if_pos hk)
    · rw [hone]
      change ((askSave s.mcnt s k).slot k).st = .saved
      rw [askSave, if_pos hrun, if_pos hsave]
      simp [saveSlot]
  case refine_12 =>
    obtain ⟨u, y, hu, hstep⟩ := launchSaved_saves hl hst hall hdone hcmds
    refine ⟨_, hstep, ?_, fun k hk hnot => ?_, _, mfind_mset_self _ _ _, rfl, rfl⟩
    · exact (foldl_reads State.mem vacate_mem _ u).trans (mem_of_tasks hu)
    · exact foldl_slot (P := fun z => z.st = .bound) vacate_bound vacate_other _ u k (List.mem_filter.mpr ⟨hk, by simpa using hnot⟩)

end Sys2Proof.Machine
end
